-- ==== Sys2Proof/Word.lean ====
section
/-!
DEFINITION. Sys2Proof/Word.lean: the word types of the model and their plainest arithmetic: two's complement
between Nat patterns and Int values, saturation, and exact halves-up division. Nothing here is about one block.
-/
namespace Sys2Proof

/-- A 32-bit spur data register (R110). -/
abbrev Word := BitVec 32

/-- A spur address register, 14 bits (R110). -/
abbrev Addr := BitVec 14

/-- A spur accumulator of 40 bits (R110). -/
abbrev Acc := BitVec 40

/-- The signed value of the low `w` bits of `n`. -/
def sx (w n : Nat) : Int :=
  let m := n % 2 ^ w
  if m < 2 ^ (w - 1) then (m : Int) else (m : Int) - 2 ^ w

/-- The `w`-bit two's complement pattern of `i`. -/
def tc (w : Nat) (i : Int) : Nat := (i % (2 ^ w : Int)).toNat

/-- `i` clamped to the interval from `lo` to `hi`. -/
def clampI (lo hi i : Int) : Int := if i < lo then lo else if hi < i then hi else i

/-- `i` saturated to a signed field of `w` bits. -/
def satI (w : Nat) (i : Int) : Int := clampI (-(2 ^ (w - 1) : Int)) (2 ^ (w - 1) - 1) i

/-- `n` saturated to an unsigned field of `w` bits. -/
def satN (w n : Nat) : Nat := min n (2 ^ w - 1)

/-- The quotient `a / b` (`b > 0`) rounded to the nearest integer, a half going up. -/
def divHalfUp (a : Int) (b : Nat) : Int := (2 * a + b) / (2 * b : Int)

/-- Bit `i` of `n`. -/
def bitN (n i : Nat) : Bool := n.testBit i

/-- Bits `hi` down to `lo` of `n`. -/
def bitsN (n hi lo : Nat) : Nat := (n / 2 ^ lo) % 2 ^ (hi + 1 - lo)

/-- The number whose bit `i` is 1 when `b` holds, for use in sums of fields. -/
def b2n (b : Bool) (i : Nat := 0) : Nat := if b then 2 ^ i else 0

/-- `n` with bit `i` set to `b`. -/
def setBitN (n i : Nat) (b : Bool) : Nat :=
  if n.testBit i = b then n else if b then n + 2 ^ i else n - 2 ^ i

/-- The number of set bits among the low `w` bits of `n`. -/
def popN : Nat → Nat → Nat
  | 0, _ => 0
  | w + 1, n => n % 2 + popN w (n / 2)

/-- The integer square root of `n`, by bits from `2 ^ k` down. -/
def isqrtBits : Nat → Nat → Nat → Nat
  | 0, r, n => if (r + 1) * (r + 1) ≤ n then r + 1 else r
  | k + 1, r, n => let r' := r + 2 ^ (k + 1)
                   if r' * r' ≤ n then isqrtBits k r' n else isqrtBits k r n

/-- The floor of the square root of `n` (`n < 2 ^ 130`). -/
def isqrt (n : Nat) : Nat := isqrtBits 64 0 n

end Sys2Proof
end

