-- ==== Sys2Proof/Syntax.lean ====
section
/-!
DEFINITION. Sys2Proof/Syntax.lean: the commands of the block, one constructor of `Instr` per row of
spec/opcode_table.json, and the operand types they use. A packet command carries the header fields of R391 and R392
that its sender chooses (`Hdr`), an event or register command carries `dt`, the CLK_RIDGE cycles that elapsed since the
command before it, and a spur instruction carries the spur that executes it.
-/
namespace Sys2Proof

/-- Where a packet comes from and where its reply goes (R406): the host port, a UDP source on an Ethernet port, or a
CAN controller. -/
inductive Link where
  | host
  | udp (port ip udpPort : Nat)
  | can (ctrl : Nat)
deriving DecidableEq, Repr

/-- The header of a command packet as its sender made it (R391, R392), with how it arrived. `flags` are the FLAGS bits
but TIMED, which is 1 exactly when `start` gives the full start stamp that leads the payload; `magicOk`, `lenOk` and
`crcOk` say whether MAGIC, the total length and the CRC are right; `deferred` says that the supervisor leaves an accepted
command in its queue for COMMAND_START (R418, R419) and does not begin it at once. -/
structure Hdr where
  dt : Nat
  link : Link
  magicOk : Bool
  lenOk : Bool
  crcOk : Bool
  version : Nat
  flags : Nat
  session : Nat
  seq : Nat
  target : Nat
  start : Option Nat
  tag : List Nat
  deferred : Bool
deriving DecidableEq, Repr

/-- What MACHINE_IDENTIFY measured (R199 to R201). Offsets are per set index of the machine (U, V); ALIGN gives the angle offset, the
fit quality and, where it was determined, the second channel's angle offset; a failure gives its code of R806. -/
inductive IdentResult where
  | offset (uv : List (Int × Int))
  | align (angle quality : Nat) (second : Option Nat)
  | failed (code : Nat)
deriving DecidableEq, Repr

/-- One segment of PATH_APPEND (R321): end position and end velocity per axis in ascending axis number. -/
structure PathSeg where
  duration : Nat
  flags : Nat
  reserved : Nat
  ends : List (Int × Int)
deriving DecidableEq, Repr

/-- One entry of COMPARE_LOAD (R279). -/
structure CompareEntry where
  position : Int
  qual : Nat
  pin : Nat
  action : Nat
  reserved : Nat
deriving DecidableEq, Repr

/-- A trigger condition (R581). -/
structure TrigCond where
  type : Nat
  probe : Nat
  op : Nat
  reserved : Nat
  value : Nat
deriving DecidableEq, Repr

/-- A sequencer state entry of CAPTURE_ARM (R580). -/
structure TrigState where
  logic : Nat
  onMatch : Nat
  count : Nat
  timeout : Nat
  onTimeout : Nat
  reserved : Nat
  a : TrigCond
  b : TrigCond
deriving DecidableEq, Repr

/-- A block's answer to the power controller (R731). -/
inductive BlockAnswer where
  | ready
  | delay (us : Nat)
  | refuse (reason : Nat)
deriving DecidableEq, Repr

/-- The payload of CAN_SEND (R667). -/
structure CanSendReq where
  buffer : Nat
  flags : Nat
  ident : Nat
  length : Nat
  ttMask : Nat
  ttMark : Nat
  timeout : Nat
  data : List Nat
deriving DecidableEq, Repr

/-- Post-modification of the dual-fetch forms (R150): none, increment, or by one of the bank's two modifiers (M0 or
M1 for X, M2 or M3 for Y). -/
inductive DMod where
  | keep
  | inc
  | by (second : Bool)
deriving DecidableEq, Repr

/-- A dual-fetch address (R117, R150): for X the register P`p`, for Y the register P`4 + p`. -/
structure DualAddr where
  p : Fin 4
  mod : DMod
deriving DecidableEq, Repr

/-- An operand of the dual-MAC class (R150): memory, or the low half of a D register. -/
inductive MacSrc where
  | mem (a : DualAddr)
  | reg (d : Fin 16)
deriving DecidableEq, Repr

/-- The operands of MPY, MAC and MSU (R150). -/
structure MacOperands where
  acc : Fin 4
  x : MacSrc
  y : MacSrc
deriving DecidableEq, Repr

/-- The operands of the complex class (R151): pair 0 or 1, an X pair and a Y pair of words. -/
structure CplxOperands where
  pair : Bool
  x : DualAddr
  y : DualAddr
deriving DecidableEq, Repr

/-- Post-modification of the load and store class (R153). -/
inductive LsMod where
  | keep
  | inc
  | by (j : Fin 4)
deriving DecidableEq, Repr

/-- The memory operand of the load and store class (R153). -/
structure MemOperand where
  bankY : Bool
  p : Fin 8
  mod : LsMod
deriving DecidableEq, Repr

/-- The operations of class 0x4 in their order (R148, R152). -/
inductive AluOp where
  | add | addc | adds | sub | subc | subs | and | or | xor | cmp | min | max | abs | neg | shl | shr | asr
deriving DecidableEq, Repr

/-- The conditions of the select class (R152). -/
inductive SelCond where
  | eq | ne | lt | ge | gt | le | lo | hs | al
deriving DecidableEq, Repr

/-- What a serial transaction brought (R259 to R263): the data line high before the first falling edge, the data line low at the
trailer check (SSI), the clock periods to the start bit, none when it never came (BiSS), the position word as received,
nE, nW and the CRC as transmitted. -/
structure SerialFrame where
  idleHigh : Bool
  trailerLow : Bool
  startClocks : Option Nat
  word : Nat
  nE : Bool
  nW : Bool
  crc : Nat
deriving DecidableEq, Repr

/-- What the monitor's copies of an estimate stage gave in a cycle (R486): the safe axis, the high-side on-time fractions of the last
full carrier period, the phase currents and the DC-link voltage, all Q15. -/
structure EstInput where
  axis : Nat
  onU : Nat
  onV : Nat
  onW : Nat
  iU : Int
  iV : Int
  vdc : Int
  ok : Bool
deriving DecidableEq, Repr

/-- What the safety monitor latches at a cycle start that no other state of the block gives (R459): its own counts of the
channels listed, the channels whose own decoder saw an illegal transition or whose alarm is active, GD_FB, the readback
of the safe outputs in 0.1 V and the copies of the estimate stages. -/
structure SafetyInputs where
  counts : List (Nat × Int)
  illegal : Nat
  gdFb : Nat
  sout : List Nat
  est : List EstInput
deriving DecidableEq, Repr

/-- A block's report to the Cairn journal (R553, R561, R544): its data, the offsets of the compact stamps among them and
the STEP_EPOCH in which they were taken. -/
structure CairnRep where
  source : Nat
  level : Nat
  code : Nat
  data : List Nat
  compacts : List Nat
  epoch : Nat
deriving DecidableEq, Repr

/-- A received Ethernet frame (R628): `payload` is what follows the EtherType, without the FCS. -/
structure EthFrame where
  port : Nat
  destMac : Nat
  srcMac : Nat
  vlan : Option Nat
  etherType : Nat
  payload : List Nat
  fcsOk : Bool
deriving DecidableEq, Repr

/-- The message types of PTP that the module processes (R633). -/
inductive PtpType where
  | sync | followUp | delayReq | delayResp | pdelayReq | pdelayResp | pdelayRespFollowUp | announce
deriving DecidableEq, Repr

/-- A received PTP message (R633). `back` is how many CLK_RIDGE cycles ago its message timestamp point passed the PHY, `stamp` its
origin or receive timestamp in ns, `correction` its correction field in ns, `requester` the identity that a response answers, and
`dataset` the announced data set: priority1, clockClass, clockAccuracy, variance, priority2, grandmaster, steps removed. -/
structure PtpMsg where
  type : PtpType
  domain : Nat
  twoStep : Bool
  source : Nat
  seq : Nat
  stamp : Nat
  correction : Int
  back : Nat
  requester : Nat
  dataset : List Nat
deriving DecidableEq, Repr

/-- A received CAN frame (R658, R659): `back` is how many CLK_RIDGE cycles ago the sample point of its start-of-frame bit lay
(R533), `recErr` the receive error counter after it (R653). -/
structure CanFrame where
  ident : Nat
  ext : Bool
  rtr : Bool
  fd : Bool
  brs : Bool
  esi : Bool
  data : List Nat
  back : Nat
  recErr : Nat
deriving DecidableEq, Repr

/-- Why a CAN controller wakes (R677): a dominant phase, a frame with the given identifier and data, or 32 frame errors. -/
inductive CanWakeCause where
  | dominant
  | frame (ident : Nat) (data : List Nat)
  | frameErrors
deriving DecidableEq, Repr

/-- What the start sequence meets (R714 to R720, R626): the straps, whether a reset cut option loading short, whether the two option
copies have a right CRC, the select of the first external flash whose image passed its checks, and whether a downloaded image was
taken. -/
structure BootInputs where
  strapBoot : Nat
  strapHost : Bool
  strapClk : Bool
  loadCut : Bool
  optionA : Bool
  optionB : Bool
  flash : Option Nat
  download : Bool
deriving DecidableEq, Repr

/-- What an ECC read gave (R755, R756). -/
inductive EccResult where
  | clean
  | corrected
  | uncorrectable
deriving DecidableEq, Repr

/-- Who read a memory word (R756). -/
inductive MemReader where
  | scrubber
  | supervisor
  | dma
  | capture
  | captureRead
  | monitor
  | spur (k : Nat)
deriving DecidableEq, Repr

/-- An instruction of the debug port (R724). -/
inductive DebugIns where
  | bypass
  | idcode
  | sample
  | extest
  | clamp
  | debugAccess
deriving DecidableEq, Repr

/-- The commands of the block (spec/opcode_table.json). -/
inductive Instr where
  /-- HELLO (R402). Opens a new session or starts a new authentication of an open one, returning a challenge. -/
  | hello (h : Hdr) (mode : Nat) (reqAuth : Nat) (maxPacket : Nat)
  /-- BYE (R405). Closes a session when none of its commands is unacknowledged. -/
  | bye (h : Hdr)
  /-- RESUME (R422). Returns the unacknowledged journal entries of the session from a named sequence. -/
  | resume (h : Hdr) (firstSeq : Nat) (count : Nat)
  /-- ACK_OUTCOMES (R421). Acknowledges and releases completed entries of the session up to a sequence. -/
  | ackOutcomes (h : Hdr) (n : Nat)
  /-- PING (R432). Echoes its payload. -/
  | ping (h : Hdr) (data : List Nat)
  /-- AUTH (R403). Checks the response to the challenge and derives the session key on a match. -/
  | auth (h : Hdr) (r : List Nat)
  /-- GET_IDENTITY (R433). Returns family, part, stepping, serial, firmware version and active image identifiers. -/
  | getIdentity (h : Hdr)
  /-- GET_STATUS (R434). Returns the status of the module or of a named target, removing queued latch captures for a latch target. -/
  | getStatus (h : Hdr)
  /-- GET_PARAM (R433). Returns the running or draft value of a parameter. -/
  | getParam (h : Hdr) (id : Nat) (source : Nat)
  /-- GET_PARAM_INFO (R433). Returns type, effect, limits, default and mnemonic of a parameter. -/
  | getParamInfo (h : Hdr) (id : Nat)
  /-- SET_PARAM_LIVE (R431). Queues a live write of a LIVE parameter for application at a frame start. -/
  | setParamLive (h : Hdr) (id : Nat) (value : Int)
  /-- STAGE_OPEN (R435). Opens a free draft. -/
  | stageOpen (h : Hdr)
  /-- STAGE_WRITE (R424). Adds parameter writes to a draft, all or nothing. -/
  | stageWrite (h : Hdr) (writes : List (Nat × Int))
  /-- STAGE_CHECK (R426). Checks the draft over the running set and binds it to the generation. -/
  | stageCheck (h : Hdr)
  /-- STAGE_COMMIT (R90). Starts the commit of a checked draft: waits for pending live writes and prepares the inactive banks. -/
  | stageCommit (h : Hdr) (mode : Nat) (stamp : List Nat)
  /-- COMMIT_BANKS_PREPARED (R91). Bank preparation and read-back complete; the flip is armed for the commit frame start, or the commit is applied at once while STOPPED. -/
  | commitBanksPrepared (dt : Nat) (readbackOk : Bool)
  /-- COMMIT_MARKER_WRITTEN (R429). The commit marker is written to both journal copies and the commit completes APPLIED. -/
  | commitMarkerWritten (dt : Nat)
  /-- STAGE_DISCARD (R435). Frees a draft. -/
  | stageDiscard (h : Hdr)
  /-- STAGE_READ (R435). Returns the state and writes of a draft. -/
  | stageRead (h : Hdr) (first : Nat) (count : Nat)
  /-- STAGE_ENABLE (R187). Checks and accepts the enable of every disabled stage of a machine. -/
  | stageEnable (h : Hdr)
  /-- STAGE_DISABLE (R192). Disables every stage of a machine at the next frame start. -/
  | stageDisable (h : Hdr)
  /-- MACHINE_IDENTIFY (R199). Starts offset calibration or rotor alignment of a machine. -/
  | machineIdentify (h : Hdr) (mode : Nat)
  /-- IDENTIFY_COMPLETE (R201). The identification finishes and applies its results as a commit, or fails. -/
  | identifyComplete (dt : Nat) (machine : Nat) (result : IdentResult)
  /-- TRIP_CLEAR (R231). Clears a stage's trip and fault latch unless a cause is still active. -/
  | tripClear (h : Hdr)
  /-- AXIS_ENABLE (R302). Enables an axis at its next sample with a torque preload. -/
  | axisEnable (h : Hdr) (preload : Int)
  /-- AXIS_ENABLE_REMOTE_TIMEOUT (R302). A remote axis enable completes with HW_FAULT when the drive has not reported enabled after 1 s. -/
  | axisEnableRemoteTimeout (dt : Nat) (axis : Nat)
  /-- AXIS_DISABLE (R303). Disables an axis at its next sample. -/
  | axisDisable (h : Hdr)
  /-- MOVE_ABS (R314). Starts a jerk-limited move to an absolute target. -/
  | moveAbs (h : Hdr) (pos : Int)
  /-- MOVE_REL (R314). Starts a jerk-limited move by a distance from the held position. -/
  | moveRel (h : Hdr) (dist : Int)
  /-- MOVE_VEL (R315). Runs the axis at a stated velocity. -/
  | moveVel (h : Hdr) (vel : Int)
  /-- RETARGET (R319). Replaces the target of a running move after the retarget test. -/
  | retarget (h : Hdr) (pos : Int)
  /-- SET_MOTION_LIMITS (R317). Replaces the active limits and replans a running move. -/
  | setMotionLimits (h : Hdr) (v : Nat) (a : Nat) (d : Nat) (j : Nat)
  /-- STOP (R316). Stops the axis with normal or quick-stop limits. -/
  | stop (h : Hdr) (mode : Nat)
  /-- HOME (R332). Runs the homing method and sets the homing offset at the reference event. -/
  | home (h : Hdr)
  /-- PATH_APPEND (R323). Checks and queues path segments. -/
  | pathAppend (h : Hdr) (segs : List PathSeg)
  /-- PATH_START (R324). Starts the path group on its queued segments. -/
  | pathStart (h : Hdr)
  /-- GEAR_ENGAGE (R327). Engages a slave to its master immediately or by velocity synchronisation. -/
  | gearEngage (h : Hdr) (mode : Nat)
  /-- GEAR_DISENGAGE (R328). Disengages a slave, continuing at velocity or stopping. -/
  | gearDisengage (h : Hdr) (mode : Nat)
  /-- LT_FREEZE (R369). LEARN_CONTROL FREEZE sets cause bit 0 and makes an active table frozen. -/
  | ltFreeze (h : Hdr) (table : Nat)
  /-- LT_RESUME (R369). LEARN_CONTROL RESUME returns a table to ACTIVE and clears its cause mask. -/
  | ltResume (h : Hdr) (table : Nat)
  /-- LT_CLEAR (R369). LEARN_CONTROL CLEAR sets every bin to 0. -/
  | ltClear (h : Hdr) (table : Nat)
  /-- LT_READ (R369). LEARN_CONTROL READ returns bins from a frame-start snapshot. -/
  | ltRead (h : Hdr) (table : Nat) (first : Nat) (count : Nat)
  /-- LT_WRITE (R369). LEARN_CONTROL WRITE replaces bins of a frozen table. -/
  | ltWrite (h : Hdr) (table : Nat) (first : Nat) (bins : List Int)
  /-- LT_SAVE (R369). LEARN_CONTROL SAVE writes a snapshot of the table to the parameter store. -/
  | ltSave (h : Hdr) (table : Nat)
  /-- LT_STATUS (R369). LEARN_CONTROL STATUS returns state, cause mask and statistics of a table. -/
  | ltStatus (h : Hdr) (table : Nat)
  /-- COMPARE_LOAD (R280). Replaces a channel's compare list, marking entries already behind as passed. -/
  | compareLoad (h : Hdr) (entries : List CompareEntry)
  /-- LATCH_ARM (R287). Arms a latch in single or continuous mode. -/
  | latchArm (h : Hdr) (edge : Nat) (mode : Nat)
  /-- SAFETY_STATUS (R516). Returns the monitor's published state for the module or a group. -/
  | safetyStatus (h : Hdr)
  /-- SAFETY_RESET (R508). Clears latched causes that are gone and releases groups that have none left. -/
  | safetyReset (h : Hdr) (groups : Nat)
  /-- SAFETY_CONFIG_BEGIN (R511). Opens the safety draft as a copy of the active configuration. -/
  | safetyConfigBegin (h : Hdr)
  /-- SAFETY_CONFIG_WRITE (R512). Writes safety parameters into the safety draft. -/
  | safetyConfigWrite (h : Hdr) (writes : List (Nat × Int))
  /-- SAFETY_CONFIG_VALIDATE (R513). Checks the safety draft and returns its CRC. -/
  | safetyConfigValidate (h : Hdr)
  /-- SAFETY_CONFIG_ACTIVATE (R514). Stores the validated configuration in two copies and restarts the monitor with it. -/
  | safetyConfigActivate (h : Hdr) (crc : Nat)
  /-- SAFETY_TEST_RUN_LATENT (R503). SAFETY_TEST_RUN kind 1 runs the latent-fault test of named groups. -/
  | safetyTestRunLatent (h : Hdr) (groups : Nat)
  /-- SAFETY_TEST_RUN_BRAKE (R505). SAFETY_TEST_RUN kind 2 starts the brake test of the outputs in the mask. -/
  | safetyTestRunBrake (h : Hdr) (axis : Nat) (outputs : Nat) (dir : Nat) (torque : Int)
  /-- BRAKE_TEST_STEP (R506). The timed step of a brake test ends and the next step or output begins, with the pass or fail decision. -/
  | brakeTestStep (dt : Nat)
  /-- JOURNAL_READ (R566). Returns Cairn records in ascending sequence. -/
  | journalRead (h : Hdr) (first : Nat) (count : Nat)
  /-- JOURNAL_MARK (R567). Writes a mark record with source 0x01. -/
  | journalMark (h : Hdr) (code : Nat) (data : List Nat)
  /-- TIME_GET (R549). Returns the time and the servo state. -/
  | timeGet (h : Hdr)
  /-- TIME_SET (R550). Steps the timebase to a given stamp. -/
  | timeSet (h : Hdr) (stamp : Nat)
  /-- CAPTURE_ARM (R600). Loads the trigger sequencer and starts a user capture. -/
  | captureArm (h : Hdr) (flags : Nat) (states : List TrigState)
  /-- CAPTURE_STOP (R600). CAPTURE_STOP action 0 stops a running user capture. -/
  | captureStop (h : Hdr)
  /-- CAPTURE_RELEASE_USER (R600). CAPTURE_STOP action 1 releases held user segments. -/
  | captureReleaseUser (h : Hdr) (first : Nat) (last : Nat)
  /-- CAPTURE_RELEASE_EVIDENCE (R600). CAPTURE_STOP action 2 releases held evidence segments. -/
  | captureReleaseEvidence (h : Hdr) (first : Nat) (last : Nat)
  /-- CAPTURE_READ (R600). Returns a segment header and its records. -/
  | captureRead (h : Hdr) (segment : Nat) (first : Nat) (count : Nat)
  /-- CAPTURE_STATUS (R600). Returns the capture engine state. -/
  | captureStatus (h : Hdr)
  /-- POWER_STATE (R729). Requests a power-state change and runs the entry handshake. -/
  | powerState (h : Hdr) (state : Nat)
  /-- POWER_BLOCK_ANSWER (R731). A block answers READY, DELAY or REFUSE to the power controller. -/
  | powerBlockAnswer (dt : Nat) (answer : BlockAnswer)
  /-- POWER_BLOCK_DELAY_EXPIRED (R731). The delay a block named ends and the controller asks it again. -/
  | powerBlockDelayExpired (dt : Nat)
  /-- POWER_BLOCK_NO_ANSWER (R731). A block has not answered within 1 ms and counts as refusing. -/
  | powerBlockNoAnswer (dt : Nat)
  /-- RESET_REQUEST_WARM (R707). RESET_REQUEST kind 1 causes a warm reset after its reply. -/
  | resetRequestWarm (h : Hdr)
  /-- RESET_REQUEST_DOMAIN (R711). RESET_REQUEST kind 2 resets a named block alone. -/
  | resetRequestDomain (h : Hdr) (block : Nat)
  /-- DOMAIN_RESET_RELEASE (R713). A domain reset ends and the block is released after clock-good. -/
  | domainResetRelease (dt : Nat) (block : Nat) (deferred : Nat)
  /-- AGEING_REPORT_SUMMARY (R749). AGEING_REPORT section 0 returns the ageing summary. -/
  | ageingReportSummary (h : Hdr)
  /-- AGEING_REPORT_WEAR (R749). AGEING_REPORT section 1 returns MRAM wear per sector. -/
  | ageingReportWear (h : Hdr) (first : Nat) (count : Nat)
  /-- AGEING_REPORT_COUNTERS (R749). AGEING_REPORT section 2 returns the output operation counters. -/
  | ageingReportCounters (h : Hdr)
  /-- IMAGE_BEGIN (R82). Sets a Traverse slot or firmware copy to WRITING. -/
  | imageBegin (h : Hdr) (length : Nat)
  /-- IMAGE_DATA (R439). Writes the next consecutive part of an image. -/
  | imageData (h : Hdr) (offset : Nat) (data : List Nat)
  /-- IMAGE_END (R83). Checks the written image and marks the slot VALID or EMPTY. -/
  | imageEnd (h : Hdr)
  /-- IMAGE_ACTIVATE (R86). Activates a valid Traverse slot or names a firmware copy in the boot record. -/
  | imageActivate (h : Hdr)
  /-- IMAGE_LIST (R438). Returns the state and identifiers of the four Traverse slots. -/
  | imageList (h : Hdr)
  /-- IO_READ (R701). Returns a snapshot of field inputs, outputs and supplies. -/
  | ioRead (h : Hdr)
  /-- IO_WRITE (R692). Sets field output levels and safe-output requests. -/
  | ioWrite (h : Hdr) (mask : Nat) (levels : Nat) (safe : Option (Nat × Nat))
  /-- IO_WRITE_APPLIED (R693). The field side reports the new output levels applied and IO_WRITE completes. -/
  | ioWriteApplied (dt : Nat) (ok : Bool)
  /-- CAN_SEND (R667). Places a frame in a transmit buffer. -/
  | canSend (h : Hdr) (req : CanSendReq)
  /-- CAN_CANCEL (R670). Withdraws a pending transmission or waits for one in transmission. -/
  | canCancel (h : Hdr) (buffer : Nat)
  /-- CAN_READ (R673). Takes frames from the receive FIFO and releases them. -/
  | canRead (h : Hdr) (count : Nat)
  /-- COMMAND_START (R419). An accepted command starts in acceptance order once every earlier one has started. -/
  | commandStart (dt : Nat)
  /-- COMPLETION_REPORT (R420). The outcome of a pending command is journaled and one completion report is sent. -/
  | completionReport (dt : Nat)
  /-- SPI_FRAME (R610). A host-port frame ends at select rising and its words are performed or the frame is aborted or refused. -/
  | spiFrame (dt : Nat) (words : List Nat) (clocks : Nat) (underrun : Bool)
  /-- HOST_MBX_RESYNC (R618). The supervisor discards mailbox words until it finds MAGIC. -/
  | hostMbxResync (dt : Nat)
  /-- MBX_PARTIAL_TIMEOUT (R618). A partial packet that has lain 100 ms in MBX_IN is discarded. -/
  | mbxPartialTimeout (dt : Nat)
  /-- HOST_REPORT_DROPPED (R619). A completion report that finds no room in MBX_OUT within 1 s is dropped. -/
  | hostReportDropped (dt : Nat)
  /-- LOW_WORD_READ_LATCH (R14). Reading bits [31:0] of a wide value latches its remaining words for that master. -/
  | lowWordReadLatch (dt : Nat) (master : Nat) (addr : Nat)
  /-- REGISTER_WRITE (R13). A write to a register that has no behaviour of its own. -/
  | registerWrite (dt : Nat) (master : Nat) (addr : Nat) (value : Nat)
  /-- UNMAPPED_ACCESS (R41). An access to a non-responding address completes with an error response. -/
  | unmappedAccess (dt : Nat) (master : Nat) (addr : Nat) (write : Option Nat)
  /-- LOAD_ALL_WRITE (R215). A write to LOAD_ALL sets the load-pending flag of every stage of the group. -/
  | loadAllWrite (dt : Nat) (group : Nat)
  /-- CW_WR_ADVANCE (R766). Commits n bytes of a circular window. -/
  | cwWrAdvance (dt : Nat) (w : Nat) (n : Nat)
  /-- CW_RD_ADVANCE (R766). Releases n bytes of a circular window. -/
  | cwRdAdvance (dt : Nat) (w : Nat) (n : Nat)
  /-- CW_PRODUCER_WRITE (R766). A producer-aperture write reaches the ring at the write offset, or sets OVF. -/
  | cwProducerWrite (dt : Nat) (w : Nat) (offset : Nat) (data : List Nat)
  /-- CW_CONSUMER_READ (R766). A consumer-aperture read reaches the ring at the read offset, or sets UNF. -/
  | cwConsumerRead (dt : Nat) (w : Nat) (offset : Nat) (n : Nat)
  /-- CW_STATUS_WRITE (R767). Setting ENABLE clears the pointers; OVF and UNF clear by W1C. -/
  | cwStatusWrite (dt : Nat) (w : Nat) (value : Nat)
  /-- CAN_BUFFER_LOCK (R661). A read of word 0 of a receive buffer locks it for that master. -/
  | canBufferLock (dt : Nat) (ctrl : Nat) (buffer : Nat) (master : Nat)
  /-- CAN_BUFFER_RELEASE (R662). A read of word 23 by the lock holder releases the buffer and writes a pending frame. -/
  | canBufferRelease (dt : Nat) (ctrl : Nat) (buffer : Nat) (master : Nat)
  /-- CAN_LOCK_TIMEOUT (R663). A lock held 100 µs is released by hardware. -/
  | canLockTimeout (dt : Nat) (ctrl : Nat) (buffer : Nat)
  /-- RM_STATUS_CLEAR (R346). W1C clears RM_STALE or RM_SAT. -/
  | rmStatusClear (dt : Nat) (rm : Nat) (value : Nat)
  /-- DEBUG_CHALLENGE_READ (R725). The tester reads a challenge from the debug unlock register. -/
  | debugChallengeRead (dt : Nat)
  /-- DEBUG_UNLOCK_ANSWER (R725). The tester writes the answer and the port unlocks on a match. -/
  | debugUnlockAnswer (dt : Nat) (answer : List Nat)
  /-- DEBUG_UNLOCK_TIMEOUT (R725). The port locks 8 h after unlock. -/
  | debugUnlockTimeout (dt : Nat)
  /-- DEBUG_HALT (R234). A debug halt of a spur acts on its stage outputs according to the service mode. -/
  | debugHalt (dt : Nat) (spur : Nat)
  /-- FRAME_START (R26). At each master-carrier valley the counter increments, feedback is snapshotted and pending frame-start actions are taken in order. -/
  | frameStart (dt : Nat)
  /-- FALLBACK_TAKES_EFFECT (R95). The fallback variant for a failed spur takes effect at frame n + 4. -/
  | fallbackTakesEffect (dt : Nat)
  /-- RIDGE_START (R57). The Ridge leaves STOPPED after built-in tests when its conditions hold. -/
  | ridgeStart (dt : Nat) (passed : List Nat)
  /-- SPUR_CHECK_FAILED (R94). A spur fails a self-check; it is halted and its stages go to high impedance at the next reload. -/
  | spurCheckFailed (dt : Nat) (spur : Nat) (check : Nat)
  /-- SPUR_RETIREMENT_EFFECT (R103). An ageing retirement takes effect at the first frame start with no hosted stage enabled, or after 24 h. -/
  | spurRetirementEffect (dt : Nat) (spur : Nat)
  /-- SPUR_ECC_CORRECTED (R93). A correctable error in a spur memory is corrected and recorded. -/
  | spurEccCorrected (dt : Nat) (spur : Nat) (addr : Nat)
  /-- TRIP_NOTICE (R143). A pending trip notice is taken at a yield point and sets TRN. -/
  | tripNotice (dt : Nat) (spur : Nat)
  /-- FRAME_ABORT (R66). A pending frame abort stops a spur at a yield point. -/
  | frameAbort (dt : Nat) (spur : Nat)
  /-- FAILOVER_HALT (R144). A failed spur halts at its next yield point. -/
  | failoverHalt (dt : Nat) (spur : Nat)
  /-- NOP (R149). No operation. -/
  | nop (k : Fin 8)
  /-- BRA (R137). Branch with two delay slots. -/
  | bra (k : Fin 8) (target : BitVec 14)
  /-- CALL (R137). Call with a return address pushed. -/
  | call (k : Fin 8) (target : BitVec 14)
  /-- RET (R137). Return from a call. -/
  | ret (k : Fin 8)
  /-- BFC (R149). Branch when the masked frame counter equals a value. -/
  | bfc (k : Fin 8) (mask : BitVec 6) (value : BitVec 6) (target : BitVec 14)
  /-- REP (R139). Starts a hardware repeat level. -/
  | rep (k : Fin 8) (n : BitVec 12) (last : BitVec 14)
  /-- END (R60). End marker of the frame program; the spur idles. -/
  | endOp (k : Fin 8)
  /-- CLRF (R148). Clears PS, AV and RV. -/
  | clrf (k : Fin 8)
  /-- MPY (R122). Fractional product into an accumulator. -/
  | mpy (k : Fin 8) (op : MacOperands)
  /-- MAC (R124). Accumulator plus fractional product. -/
  | mac (k : Fin 8) (op : MacOperands)
  /-- MSU (R124). Accumulator minus fractional product. -/
  | msu (k : Fin 8) (op : MacOperands)
  /-- CMPY (R130). Complex multiply into an accumulator pair. -/
  | cmpy (k : Fin 8) (op : CplxOperands)
  /-- CMAC (R130). Complex multiply-accumulate. -/
  | cmac (k : Fin 8) (op : CplxOperands)
  /-- CMPYJ (R130). Complex multiply by the conjugate. -/
  | cmpyj (k : Fin 8) (op : CplxOperands)
  /-- CMACJ (R130). Complex multiply-accumulate by the conjugate. -/
  | cmacj (k : Fin 8) (op : CplxOperands)
  /-- CLRA (R148). Clears an accumulator. -/
  | clra (k : Fin 8) (a : Fin 4)
  /-- ASH (R126). Shifts an accumulator, saturating left shifts. -/
  | ash (k : Fin 8) (a : Fin 4) (sh : BitVec 5)
  /-- RND (R127). Rounds an accumulator to Q15 half up into a low half. -/
  | rnd (k : Fin 8) (a : Fin 4) (d : Fin 16)
  /-- SAT32 (R128). Saturates an accumulator to 32 bits into a D register. -/
  | sat32 (k : Fin 8) (a : Fin 4) (d : Fin 16)
  /-- ADDA (R133). Adds two accumulators with saturation. -/
  | adda (k : Fin 8) (d : Fin 4) (a : Fin 4) (b : Fin 4)
  /-- SUBA (R133). Subtracts two accumulators with saturation. -/
  | suba (k : Fin 8) (d : Fin 4) (a : Fin 4) (b : Fin 4)
  /-- ACMP (R133). Compares two accumulators, setting N and Z. -/
  | acmp (k : Fin 8) (a : Fin 4) (b : Fin 4)
  /-- MOVA (R148). Moves an accumulator to another. -/
  | mova (k : Fin 8) (d : Fin 4) (a : Fin 4)
  /-- LDAD (R148). Loads a D register into an accumulator as Q31. -/
  | ldad (k : Fin 8) (d : Fin 4) (a : Fin 16)
  /-- ADD (R131). 32-bit wrapping add. -/
  | add (k : Fin 8) (d : Fin 16) (a : Fin 16) (b : Fin 16)
  /-- ADDC (R131). Add with carry. -/
  | addc (k : Fin 8) (d : Fin 16) (a : Fin 16) (b : Fin 16)
  /-- ADDS (R131). Saturating add. -/
  | adds (k : Fin 8) (d : Fin 16) (a : Fin 16) (b : Fin 16)
  /-- SUB (R131). 32-bit wrapping subtract. -/
  | sub (k : Fin 8) (d : Fin 16) (a : Fin 16) (b : Fin 16)
  /-- SUBC (R131). Subtract with borrow. -/
  | subc (k : Fin 8) (d : Fin 16) (a : Fin 16) (b : Fin 16)
  /-- SUBS (R131). Saturating subtract. -/
  | subs (k : Fin 8) (d : Fin 16) (a : Fin 16) (b : Fin 16)
  /-- AND (R148). Bitwise and. -/
  | andOp (k : Fin 8) (d : Fin 16) (a : Fin 16) (b : Fin 16)
  /-- OR (R148). Bitwise or. -/
  | orOp (k : Fin 8) (d : Fin 16) (a : Fin 16) (b : Fin 16)
  /-- XOR (R148). Bitwise exclusive or. -/
  | xorOp (k : Fin 8) (d : Fin 16) (a : Fin 16) (b : Fin 16)
  /-- CMP (R148). Compare setting flags. -/
  | cmp (k : Fin 8) (a : Fin 16) (b : Fin 16)
  /-- MIN (R148). Minimum of two registers. -/
  | minOp (k : Fin 8) (d : Fin 16) (a : Fin 16) (b : Fin 16)
  /-- MAX (R148). Maximum of two registers. -/
  | maxOp (k : Fin 8) (d : Fin 16) (a : Fin 16) (b : Fin 16)
  /-- ABS (R148). Absolute value. -/
  | absOp (k : Fin 8) (d : Fin 16) (a : Fin 16)
  /-- NEG (R148). Negation. -/
  | neg (k : Fin 8) (d : Fin 16) (a : Fin 16)
  /-- SHL (R152). Logical shift left. -/
  | shl (k : Fin 8) (d : Fin 16) (a : Fin 16) (sh : BitVec 5)
  /-- SHR (R152). Logical shift right. -/
  | shr (k : Fin 8) (d : Fin 16) (a : Fin 16) (sh : BitVec 5)
  /-- ASR (R152). Arithmetic shift right. -/
  | asr (k : Fin 8) (d : Fin 16) (a : Fin 16) (sh : BitVec 5)
  /-- ALU_IMMEDIATE (R152). A class 0x4 operation with a 12-bit signed immediate as second source. -/
  | aluImmediate (k : Fin 8) (op : AluOp) (d : Fin 16) (a : Fin 16) (imm : BitVec 12)
  /-- MULW_SS (R132). Signed 32 × 16 wide multiply into a register pair. -/
  | mulwSs (k : Fin 8) (p : Fin 8) (a : Fin 16) (b : Fin 16)
  /-- MULW_US (R132). Unsigned 32 × signed 16 wide multiply into a register pair. -/
  | mulwUs (k : Fin 8) (p : Fin 8) (a : Fin 16) (b : Fin 16)
  /-- CSEL (R152). Conditional select between two registers. -/
  | csel (k : Fin 8) (d : Fin 16) (a : Fin 16) (b : Fin 16) (cond : SelCond)
  /-- CMOV (R152). Conditional move. -/
  | cmov (k : Fin 8) (d : Fin 16) (a : Fin 16) (cond : SelCond)
  /-- ACSEL (R152). Conditional select between accumulators. -/
  | acsel (k : Fin 8) (d : Fin 4) (a : Fin 4) (b : Fin 4) (cond : SelCond)
  /-- LD_16 (R153). Loads a 16-bit word sign-extended. -/
  | ld16 (k : Fin 8) (d : Fin 16) (m : MemOperand)
  /-- LD_16H (R153). Loads a 16-bit word into the high half. -/
  | ld16h (k : Fin 8) (d : Fin 16) (m : MemOperand)
  /-- LD_32 (R153). Loads a 32-bit pair. -/
  | ld32 (k : Fin 8) (d : Fin 16) (m : MemOperand)
  /-- LDA_32 (R153). Loads a Q31 word into an accumulator. -/
  | lda32 (k : Fin 8) (a : Fin 4) (m : MemOperand)
  /-- ST_16 (R153). Stores a 16-bit word. -/
  | st16 (k : Fin 8) (d : Fin 16) (m : MemOperand)
  /-- ST_32 (R153). Stores a 32-bit pair. -/
  | st32 (k : Fin 8) (d : Fin 16) (m : MemOperand)
  /-- STR (R148). Rounds and stores. -/
  | str (k : Fin 8) (a : Fin 4) (m : MemOperand)
  /-- STS (R148). Saturates to 32 bits and stores. -/
  | sts (k : Fin 8) (a : Fin 4) (m : MemOperand)
  /-- DUAL_LOAD (R148). Loads a pair from X and a pair from Y in one cycle. -/
  | dualLoad (k : Fin 8) (dx : Fin 16) (x : DualAddr) (dy : Fin 16) (y : DualAddr)
  /-- LDP (R152). Loads an address register with an immediate. -/
  | ldp (k : Fin 8) (p : Fin 8) (addr : BitVec 14)
  /-- ADDP (R152). Adds a signed step to an address register. -/
  | addp (k : Fin 8) (p : Fin 8) (step : BitVec 16)
  /-- MOVP (R152). Moves a register into an address register. -/
  | movp (k : Fin 8) (p : Fin 8) (d : Fin 16)
  /-- LDML (R152). Loads the low half of a modifier. -/
  | ldml (k : Fin 8) (m : Fin 4) (imm : BitVec 16)
  /-- LDMH (R152). Loads the high half of a modifier. -/
  | ldmh (k : Fin 8) (m : Fin 4) (imm : BitVec 16)
  /-- MOVM (R152). Moves a register into a modifier. -/
  | movm (k : Fin 8) (m : Fin 4) (d : Fin 16)
  /-- XCH (R154). Exchange slot moving words between a spur and another block per its table entry. -/
  | xch (k : Fin 8) (index : BitVec 12) (bankY : Bool) (addr : BitVec 14)
  /-- LDI_L (R152). Loads a 16-bit immediate into the low half. -/
  | ldiL (k : Fin 8) (d : Fin 16) (imm : BitVec 16)
  /-- LDI_H (R152). Loads a 16-bit immediate into the high half. -/
  | ldiH (k : Fin 8) (d : Fin 16) (imm : BitVec 16)
  /-- MOV (R152). Register move. -/
  | mov (k : Fin 8) (d : Fin 16) (a : Fin 16)
  /-- RDSR (R148). Reads the status word. -/
  | rdsr (k : Fin 8) (d : Fin 16)
  /-- WRSR (R148). Writes flags and clears W1C bits of the status word. -/
  | wrsr (k : Fin 8) (a : Fin 16)
  /-- RDFC (R148). Reads the frame counter bits. -/
  | rdfc (k : Fin 8) (d : Fin 16)
  /-- RESERVED_ENCODING (R147). A reserved encoding halts the spur as a control-flow failure. -/
  | reservedEncoding (k : Fin 8)
  /-- STAGE_RELOAD (R216). At a stage reload the shadows are taken if load-pending, else compare values are kept. -/
  | stageReload (dt : Nat) (stage : Nat) (valley : Bool)
  /-- LOAD_ALL_PROXY (R219). The generator sets LOAD_ALL at a failed spur's slot cycle. -/
  | loadAllProxy (dt : Nat) (group : Nat)
  /-- PWM_INTERVAL_EDGE (R214). At the starting edge of a switch interval the generator fixes the interval's end, applying dead time and minimum pulse. -/
  | pwmIntervalEdge (dt : Nat) (stage : Nat) (switch : Nat) (on : Bool)
  /-- TRIP_INPUT_LATCH (R223). A trip input active for the filter count sets the stage's trip latch. -/
  | tripInputLatch (dt : Nat) (stage : Nat) (active : Bool) (samples : Nat)
  /-- SINC2_RESULT (R169). A fast filter result is produced and compared against overcurrent and overvoltage thresholds. -/
  | sinc2Result (dt : Nat) (input : Nat) (raw : Nat) (rawV : Nat)
  /-- SINC3_RESULT (R166). A main filter window closes and its result is latched and converted. -/
  | sinc3Result (dt : Nat) (input : Nat) (raw : Nat)
  /-- MODULATOR_STUCK (R173). A run of equal bits beyond the stuck count sets the fault latch. -/
  | modulatorStuck (dt : Nat) (input : Nat) (run : Nat)
  /-- CARRIER_WATCHDOG (R233). A watched stage without a loaded reload for 2 carrier periods inhibits its group. -/
  | carrierWatchdog (dt : Nat) (stage : Nat)
  /-- APWM_INTERVAL_END (R236). An auxiliary channel interval ends by time or sense condition and the next begins. -/
  | apwmIntervalEnd (dt : Nat) (ch : Nat) (sense : Bool)
  /-- APWM_TIMEOUT (R238). A sense-ended interval reaches APWM_T_MAX and a timeout is counted. -/
  | apwmTimeout (dt : Nat) (ch : Nat)
  /-- APWM_PICK_END (R236). The pick time of PICK_HOLD ends and the channel goes to CONST_OFF. -/
  | apwmPickEnd (dt : Nat) (ch : Nat)
  /-- QUAD_EDGE (R250). A filtered A or B edge changes the count by one. -/
  | quadEdge (dt : Nat) (ch : Nat) (aLeads : Bool)
  /-- ILLEGAL_TRANSITION (R251). A and B change in the same cycle; the illegal counter increments and the timing reference is invalidated. -/
  | illegalTransition (dt : Nat) (ch : Nat)
  /-- INDEX_EVENT (R253). A filtered index edge captures the count and acts per FB_INDEX_MODE. -/
  | indexEvent (dt : Nat) (ch : Nat) (gate : Bool)
  /-- HALL_CHANGE (R256). A Hall code change counts up, down or is illegal. -/
  | hallChange (dt : Nat) (ch : Nat) (code : Nat)
  /-- STEP_DIR_EDGE (R258). A step rising edge counts by the direction level. -/
  | stepDirEdge (dt : Nat) (ch : Nat) (dirHigh : Bool) (dirChanged : Bool)
  /-- CMP_PULSE_END (R283). A compare pulse ends and the pin returns to idle. -/
  | cmpPulseEnd (dt : Nat) (pin : Nat)
  /-- SERIAL_TRANSACTION_END (R263). An SSI or BiSS-C transaction completes and its frame is checked. -/
  | serialTransactionEnd (dt : Nat) (ch : Nat) (frame : SerialFrame)
  /-- SERIAL_POLL_TIMER (R259). While STOPPED or in STANDBY a serial transaction starts every 100 µs. -/
  | serialPollTimer (dt : Nat)
  /-- SERIAL_READY_TRANSFER (R265). At FB_SER_READY the serial count enters the snapshot or AGE is set. -/
  | serialReadyTransfer (dt : Nat) (ch : Nat)
  /-- FB_ALARM_INPUT (R277). The alarm input becomes active and latches ALARM. -/
  | fbAlarmInput (dt : Nat) (ch : Nat) (active : Bool)
  /-- LATCH_EDGE (R286). A qualifying edge of a latch source captures count and stamp. -/
  | latchEdge (dt : Nat) (latch : Nat) (rising : Bool)
  /-- AXIS_SAMPLE (R308). At a position-loop sample the axis takes commands and computes its profile, loops and feed-forward. -/
  | axisSample (dt : Nat) (axis : Nat)
  /-- FOLLOWING_ERROR_FAULT (R304). The following error exceeds its limit for AX_FOLLOW_TIME and the axis goes to FAULT. -/
  | followingErrorFault (dt : Nat) (axis : Nat)
  /-- TORQUE_INTERRUPT_EXPIRED (R305). A machine torque-interrupted for more than 8 frames becomes torque-unavailable. -/
  | torqueInterruptExpired (dt : Nat) (machine : Nat)
  /-- REMOTE_LOST (R304). AX_REMOTE_MISS consecutive replies are missing and the axis goes to FAULT. -/
  | remoteLost (dt : Nat) (axis : Nat)
  /-- MOVE_IN_POSITION (R310). A move whose profile has ended stays in the window for AX_INPOS_TIME and completes OK. -/
  | moveInPosition (dt : Nat) (axis : Nat)
  /-- GEAR_BROKEN (R328). The slave velocity exceeds AX_VMAX in 2 consecutive samples and the slave disengages. -/
  | gearBroken (dt : Nat) (axis : Nat)
  /-- OBS_RESIDUAL (R375). The filtered residual exceeds its limit for OBS_RES_TIME. -/
  | obsResidual (dt : Nat) (axis : Nat)
  /-- OBS_RESIDUAL_CLEARED (R375). The residual stays below half the limit for OBS_RES_TIME. -/
  | obsResidualCleared (dt : Nat) (axis : Nat)
  /-- OBS_SETTLE_END (R374). A suspension of the residual test ends and the observer reinitialises. -/
  | obsSettleEnd (dt : Nat) (axis : Nat)
  /-- RM_STEP_EMIT (R343). A pending rate-multiplier step is emitted in the selected form. -/
  | rmStepEmit (dt : Nat) (rm : Nat)
  /-- RM_STALE (R345). No write for 2 feed periods sets W to 0. -/
  | rmStale (dt : Nat) (rm : Nat)
  /-- SAFETY_CYCLE (R459). Each T_SM the monitor latches inputs, evaluates functions and prepares outputs. -/
  | safetyCycle (dt : Nat) (inp : SafetyInputs)
  /-- DISCREPANCY (R493). The second channel of a pair has not followed within SAF_PAIR_DISC. -/
  | discrepancy (dt : Nat) (pair : Nat)
  /-- HEARTBEAT_LOST (R479). The heartbeat word unchanged for SAF_HB_TIMEOUT gives cause 14. -/
  | heartbeatLost (dt : Nat)
  /-- HEARTBEAT_DOMAIN_RESET (R707). The heartbeat unchanged for 100 ms causes a supervisor domain reset. -/
  | heartbeatDomainReset (dt : Nat)
  /-- SS1_TIME_EXPIRED (R475). SAF_AX_SS1_TIME after the decision the monitor takes STO with SBC. -/
  | ss1TimeExpired (dt : Nat) (axis : Nat)
  /-- SLS_GRACE_EXPIRED (R482). A newly active SLS limit is enforced after SAF_AX_SS1_TIME. -/
  | slsGraceExpired (dt : Nat) (axis : Nat)
  /-- PLAUSIBILITY_FAULT (R487). Speed disagreement persists for SAF_AX_PLAUS_TIME. -/
  | plausibilityFault (dt : Nat) (axis : Nat)
  /-- SLIP_FAULT (R489). Second-channel speed disagreement persists for SAF_AX_SLIP_TIME. -/
  | slipFault (dt : Nat) (axis : Nat)
  /-- SLIP_ANCHOR (R488). After 1 s at standstill the slip anchor is reset. -/
  | slipAnchor (dt : Nat) (axis : Nat)
  /-- SAFE_OUTPUT_OFF_PULSE (R497). A safe output is switched off for its test pulse each interval. -/
  | safeOutputOffPulse (dt : Nat) (output : Nat) (below2V : Bool)
  /-- INPUT_TEST_PULSE (R496). A pair's test source is switched off for 400 µs and the response checked. -/
  | inputTestPulse (dt : Nat) (pair : Nat) (chB : Bool) (noVoltage : Bool)
  /-- OUTPUT_TEST_FAULT (R498). Readback disagrees in 4 consecutive cycles and cause 12 is taken. -/
  | outputTestFault (dt : Nat) (output : Nat) (readback : Nat)
  /-- GD_FB_FAULT (R472). GD_FB does not follow GD_EN within SAF_GRP_GDFB. -/
  | gdFbFault (dt : Nat) (group : Nat)
  /-- SBC_OUTPUT_OFF (R473). A safe output switches off SAF_OUT_SBC_DELAY after the decision. -/
  | sbcOutputOff (dt : Nat) (output : Nat)
  /-- LATENT_TEST_DUE (R504). The latent test starts at the first instant after SAF_TEST_TIME at which its conditions hold. -/
  | latentTestDue (dt : Nat) (group : Nat)
  /-- LATENT_TEST_END (R503). The latent test finishes, passing or taking cause 20. -/
  | latentTestEnd (dt : Nat) (group : Nat) (failedStep : Nat)
  /-- LATENT_TEST_OVERDUE (R504). The test overdue by 24 h or 48 h records a warning or arms cause 20. -/
  | latentTestOverdue (dt : Nat) (group : Nat)
  /-- SAFETY_RESET_INPUT (R510). A falling edge of the reset input after 200 ms active acts as SAFETY_RESET. -/
  | safetyResetInput (dt : Nat) (active : Bool)
  /-- SAFE_CFG_EN_FALL (R511). SAFE_CFG_EN falling discards the safety draft. -/
  | safeCfgEnFall (dt : Nat)
  /-- SAFETY_DRAFT_TIMEOUT (R511). 30 min without a configuration command discards the safety draft. -/
  | safetyDraftTimeout (dt : Nat)
  /-- MONITOR_START (R515). The monitor checks its configuration copies and self-tests, then becomes RUNNING. -/
  | monitorStart (dt : Nat) (selfTestOk : Bool)
  /-- MONITOR_FAULT (R502). An internal monitor fault takes cause 19 and FAULTED. -/
  | monitorFault (dt : Nat) (kind : Nat) (detail : Nat)
  /-- CLOCK_CROSS_CHECK_FAIL (R35). The root clock out of band raises cause 16 in all groups. -/
  | clockCrossCheckFail (dt : Nat)
  /-- PLL_LOCK_LOST (R35). Loss of PLL lock for 2 µs stops the Ridge and removes torque. -/
  | pllLockLost (dt : Nat)
  /-- TIME_MEASUREMENT (R537). An offset measurement is applied, rejected or steps the timebase. -/
  | timeMeasurement (dt : Nat) (source : Nat) (offset : Int)
  /-- PPS_EDGE (R536). A PPS edge gives an offset or is rejected by its interval. -/
  | ppsEdge (dt : Nat)
  /-- TIME_SOURCE_LOST (R539). No accepted measurement for TIM_SOURCE_TIMEOUT switches source or enters holdover. -/
  | timeSourceLost (dt : Nat)
  /-- CAIRN_REPORT (R561). A block reports an event to the front queue, queued, coalesced or discarded. -/
  | cairnReport (dt : Nat) (rep : CairnRep)
  /-- CAIRN_RECORD_WRITE (R559). The journal writes the next queued record to MRAM. -/
  | cairnRecordWrite (dt : Nat)
  /-- SCREE_RELEASE (R563). An open Scree entry enters the front queue as one record when occupancy is below 512. -/
  | screeRelease (dt : Nat)
  /-- JOURNAL_FLUSHED (R565). On a supply warning both queues and Scree are written and JOURNAL_FLUSHED closes the flush. -/
  | journalFlushed (dt : Nat)
  /-- CAPTURE_IDLE_TICK (R577). While no frames run, frame mode and evidence are paced every 100 µs. -/
  | captureIdleTick (dt : Nat)
  /-- CAPTURE_EVENT (R576). An event in event mode is queued for a sample. -/
  | captureEvent (dt : Nat) (type : Nat) (value : Nat)
  /-- CAPTURE_OVERFLOW (R589). A lost probe value, event or stream record stops the capture. -/
  | captureOverflow (dt : Nat) (cause : Nat)
  /-- CAPTURE_REARM (R587). After completion the next free user segment starts recording. -/
  | captureRearm (dt : Nat)
  /-- CAPTURE_STREAM_SEND (R595). Records in CW_15 are sent in a UDP datagram. -/
  | captureStreamSend (dt : Nat)
  /-- ETHERNET_FRAME_RX (R628). A received Ethernet frame is filtered and dispatched. -/
  | ethernetFrameRx (dt : Nat) (frame : EthFrame)
  /-- ARP_REQUEST_RX (R629). An ARP request for the port address is answered. -/
  | arpRequestRx (dt : Nat) (port : Nat) (senderMac : Nat) (senderIp : Nat) (targetIp : Nat)
  /-- ARP_RESOLVE_FAIL (R630). An address unresolved after 3 requests drops the waiting datagram. -/
  | arpResolveFail (dt : Nat) (port : Nat) (ip : Nat)
  /-- ICMP_ECHO (R629). An ICMP echo request is answered when enabled. -/
  | icmpEcho (dt : Nat) (port : Nat) (senderMac : Nat) (senderIp : Nat) (data : List Nat)
  /-- PTP_MESSAGE (R633). A PTP event or general message is stamped and processed. -/
  | ptpMessage (dt : Nat) (port : Nat) (msg : PtpMsg)
  /-- PTP_MASTER_SEND (R633). As master the port sends Sync and Announce at their intervals. -/
  | ptpMasterSend (dt : Nat) (port : Nat) (announce : Bool)
  /-- LINK_DOWN (R644). A port loses link for the timeout. -/
  | linkDown (dt : Nat) (port : Nat)
  /-- LINK_UP (R647). A port gains link. -/
  | linkUp (dt : Nat) (port : Nat) (speed : Nat) (duplex : Nat)
  /-- DX_SETPOINT_SEND (R639). At frame cycle S the MAC sends the drive-exchange setpoint frame. -/
  | dxSetpointSend (dt : Nat) (late : Bool)
  /-- DX_REPLY (R641). A drive-exchange reply is taken for its cycle or discarded. -/
  | dxReply (dt : Nat) (payload : List Nat)
  /-- WAKE_FRAME (R643). A matching Ethernet wake frame wakes the module. -/
  | wakeFrame (dt : Nat) (port : Nat) (destMac : Nat) (fcsOk : Bool) (payload : List Nat)
  /-- CAN_FRAME_RX (R658). A received CAN frame goes to the target of the first matching filter. -/
  | canFrameRx (dt : Nat) (ctrl : Nat) (frame : CanFrame)
  /-- CAN_FRAME_TX_DONE (R666). A transmitted frame ends, sent, lost or in error, completing or retrying its buffer. -/
  | canFrameTxDone (dt : Nat) (ctrl : Nat) (buffer : Nat) (result : Nat) (tec : Nat) (recErr : Nat)
  /-- CAN_SEND_TIMEOUT (R668). A pending frame not in transmission completes with HW_FAULT at its timeout. -/
  | canSendTimeout (dt : Nat) (ctrl : Nat) (buffer : Nat)
  /-- CAN_TT_TIME_MARK (R669). A TT frame enters arbitration at its time mark in a matching cycle. -/
  | canTtTimeMark (dt : Nat) (ctrl : Nat) (buffer : Nat) (busIdle : Bool)
  /-- CAN_RECOVERED (R654). After the recessive-sequence count the controller returns to ACTIVE. -/
  | canRecovered (dt : Nat) (ctrl : Nat)
  /-- CAN_CMD_SEGMENT (R674). A command segment frame is added to the packet under construction. -/
  | canCmdSegment (dt : Nat) (ctrl : Nat) (data : List Nat) (back : Nat)
  /-- CAN_CMD_PARTIAL_TIMEOUT (R674). A partial command packet is discarded after 100 ms. -/
  | canCmdPartialTimeout (dt : Nat) (ctrl : Nat)
  /-- CAN_TT_REFERENCE_SEND (R675). As time master the controller sends the reference message each cycle. -/
  | canTtReferenceSend (dt : Nat) (ctrl : Nat)
  /-- CAN_TT_REFERENCE_RX (R676). A time slave stamps a reference message and passes an offset to the servo. -/
  | canTtReferenceRx (dt : Nat) (ctrl : Nat) (data : List Nat) (back : Nat)
  /-- CAN_TT_REF_LOST (R676). No valid reference message for 2 cycles clears TT_SYNC. -/
  | canTtRefLost (dt : Nat) (ctrl : Nat)
  /-- CAN_WAKE (R677). A dominant phase, wake frame or frame-error count wakes the module. -/
  | canWake (dt : Nat) (ctrl : Nat) (cause : CanWakeCause)
  /-- CANOPEN_SYNC_SEND (R682). At frame cycle S the module sends SYNC and the RPDOs of CSP drives. -/
  | canopenSyncSend (dt : Nat) (ctrl : Nat)
  /-- CANOPEN_TPDO (R682). A drive's TPDO is taken for its sample. -/
  | canopenTpdo (dt : Nat) (ctrl : Nat) (node : Nat) (status : Nat) (pos : Int)
  /-- CANOPEN_HB_LOST (R684). A consumed heartbeat is missing for 1.5 periods. -/
  | canopenHbLost (dt : Nat) (ctrl : Nat) (node : Nat)
  /-- CANOPEN_SDO_REQUEST (R679). An SDO request to the module's server is served. -/
  | canopenSdoRequest (dt : Nat) (ctrl : Nat) (data : List Nat)
  /-- CANOPEN_EMCY (R679). An emergency message of a remote node is received. -/
  | canopenEmcy (dt : Nat) (ctrl : Nat) (node : Nat) (code : Nat) (reg : Nat)
  /-- CANOPEN_HEARTBEAT_SEND (R679). The heartbeat producer sends at its period. -/
  | canopenHeartbeatSend (dt : Nat) (ctrl : Nat)
  /-- CIA417_SETPOINT (R680). A received CiA 417 drive-unit setpoint becomes a sequenced command. -/
  | cia417Setpoint (dt : Nat) (ctrl : Nat) (opcode : Nat) (payload : List Nat)
  /-- CANOPEN_DOOR (R680). A door controller status is received and recorded. -/
  | canopenDoor (dt : Nat) (ctrl : Nat) (door : Nat) (state : Nat)
  /-- FIELD_INPUT_SAMPLE (R688). Every 100 µs all inputs are sampled and their counters updated. -/
  | fieldInputSample (dt : Nat) (raw : Nat) (cfgEn : Bool)
  /-- OUT_FAULT_SET (R694). An output in current limit for 100 µs or in thermal shutdown switches off and latches. -/
  | outFaultSet (dt : Nat) (output : Nat) (cause : Nat)
  /-- FIELD_LINK_LOST_B (R697). No refresh at field side B for the timeout sends outputs to safe states. -/
  | fieldLinkLostB (dt : Nat)
  /-- FIELD_LINK_LOST (R698). No refresh from field side A for the timeout treats every input as inactive. -/
  | fieldLinkLost (dt : Nat)
  /-- FIELD_SUPPLY_MEASURE (R699). Every 1 ms the field supplies are measured and their state updated. -/
  | fieldSupplyMeasure (dt : Nat) (va : Nat) (vb : Nat)
  /-- OPERATION_COUNTER_SAVE (R700). Every 60 s operation counters are written to MRAM. -/
  | operationCounterSave (dt : Nat)
  /-- POWER_ON (R707). Power-on causes a cold or warm reset. -/
  | powerOn (dt : Nat) (alwaysOnKept : Bool)
  /-- VIN_RESET_LEVEL (R737). VIN_12 falling below 9.0 V causes a warm reset. -/
  | vinResetLevel (dt : Nat)
  /-- SUPPLY_FAULT (R737). A regulator or bank supply out of range holds a warm reset. -/
  | supplyFault (dt : Nat) (supply : Nat) (mv : Nat)
  /-- VAON_BK_LOW (R737). VAON_BK low with VIN_12 absent loses the always-on domain. -/
  | vaonBkLow (dt : Nat) (mv : Nat)
  /-- RESET_N_LOW (R721). RESET_N low holds the module in reset. -/
  | resetNLow (dt : Nat) (ns : Nat)
  /-- STUCK_RESET (R721). RESET_N low more than 10 s sets STUCK_RESET and drives FAULT_N. -/
  | stuckReset (dt : Nat) (seconds : Nat)
  /-- START_SEQUENCE (R715). After a cold or warm reset the module runs its start steps to HOST_STATUS READY. -/
  | startSequence (dt : Nat) (boot : BootInputs)
  /-- SUPERVISOR_WATCHDOG (R708). The watchdog expires and resets the supervisor domain, or escalates to warm. -/
  | supervisorWatchdog (dt : Nat)
  /-- SUPPLY_WARNING (R738). VIN_12 below 10.2 V drives PWR_FAIL_N, flushes journals and stops acceptance. -/
  | supplyWarning (dt : Nat) (vin : Nat)
  /-- SUPPLY_DIP (R739). VIN_12 back at 10.5 V for 5 ms ends the warning. -/
  | supplyDip (dt : Nat) (lowest : Nat)
  /-- WAKE_SOURCE (R728). A wake source in DOZE, STANDBY or OFF starts the wake to RUN. -/
  | wakeSource (dt : Nat) (source : Nat)
  /-- WAKE_STEP_DONE (R734). A wake step completes and the next begins. -/
  | wakeStepDone (dt : Nat)
  /-- WAKE_STEP_TIMEOUT (R736). A wake step reaches its timeout and the wake is retried. -/
  | wakeStepTimeout (dt : Nat)
  /-- WAKE_RETRY (R736). 10 ms after a failed wake the controller tries again. -/
  | wakeRetry (dt : Nat)
  /-- WAKE_TIME_REACHED (R728). The coarse count reaches PWR_WAKE_TIME. -/
  | wakeTimeReached (dt : Nat)
  /-- SCRUB_TICK (R759). The scrubber reads and corrects the next word. -/
  | scrubTick (dt : Nat) (region : Nat) (addr : Nat) (result : EccResult) (reader : MemReader)
  /-- AGEING_SLACK_MEASURE (R743). Every 10 ms slack is measured and the core voltage adjusted. -/
  | ageingSlackMeasure (dt : Nat) (slack : List Int)
  /-- AGEING_REPLAN (R746). The daily or band-crossing re-plan computes reserves and acts on them. -/
  | ageingReplan (dt : Nat) (need : List (Nat × Nat))
  /-- TEMPERATURE_BAND_CROSSING (R745). Case temperature crosses a band and triggers a re-plan. -/
  | temperatureBandCrossing (dt : Nat) (band : Nat) (need : List (Nat × Nat))
  /-- COMMIT_STAMP_REACHED (R428). While the Ridge is STOPPED, a mode-2 commit whose bank preparation has completed is applied when the stated stamp is reached. -/
  | commitStampReached (dt : Nat)
  /-- FIELD_LINK_RESTORED (R697). Refreshes resume on a field-side isolator link after a loss, ending the inactive-input or safe-output state and recording FIELD_LINK_RESTORED. -/
  | fieldLinkRestored (dt : Nat) (sideB : Bool)
  /-- DEBUG_PORT_INSTRUCTION (R724). An IEEE 1149.1 instruction (BYPASS, IDCODE, SAMPLE/PRELOAD, EXTEST, CLAMP or debug access) is loaded on the debug port and acts, or falls back to BYPASS, according to the service mode and lock. -/
  | debugPortInstruction (dt : Nat) (ins : DebugIns)
  /-- HOLDOVER_TIMEOUT (R538). A holdover times out and the servo leaves HOLDOVER for FREE with INC set from the learned y. -/
  | holdoverTimeout (dt : Nat)
  /-- COUNTING_RECORD (R647). Once per second, each counting record (frame errors, CAN receive losses) whose counts are not zero is written with the counts of the last second. -/
  | countingRecord (dt : Nat)
  /-- ARP_CACHE_ENTRY_EXPIRED (R630). An entry of a port's ARP cache reaches its 300 s lifetime and is removed. -/
  | arpCacheEntryExpired (dt : Nat) (port : Nat) (ip : Nat)
  /-- PTP_ANNOUNCE_TIMEOUT (R633). A PTP port receives no Announce from its master within the receipt timeout, and the best master clock algorithm changes its port state. -/
  | ptpAnnounceTimeout (dt : Nat) (port : Nat)
  /-- PTP_DELAY_REQ_SEND (R633). A PTP port sends its periodic Delay_Req or Pdelay_Req to measure path delay. -/
  | ptpDelayReqSend (dt : Nat) (port : Nat)
deriving DecidableEq, Repr

end Sys2Proof
end

