-- ==== Sys2Proof/Decode.lean ====
section
/-!
DEFINITION. Sys2Proof/Decode.lean: commands spelled by the table's bits. No row of spec/opcode_table.json gives its command any
bits, so no word spells a command. How packets and frames spell commands is in Machine/Receive.lean, on the bytes of the
transports.
-/
namespace Sys2Proof

/-- The command a word of `nbits` bits spells by the bits of spec/opcode_table.json: none, since no row has bits. -/
def decodeTableWord (_nbits _w : Nat) : Option Instr := none

end Sys2Proof
end

