-- ==== Sys2Proof/Machine/Store.lean ====
section
/-!
DEFINITION. Sys2Proof/Machine/Store.lean: sparse tables. A table is a list of (key, value) pairs in one canonical form:
keys strictly rising, and no value equal to what an unlisted key reads as. The memories of the address map (R39), the
parameter sets, the journal and every numbered row of units (stages, axes, channels) are such tables.
-/
namespace Sys2Proof.Machine

/-- A sparse table from Nat keys. -/
abbrev Store (α : Type) := List (Nat × α)

/-- The value at key `k`, `d` where the table lists none. -/
def Store.read {α : Type} (d : α) : Store α → Nat → α
  | [], _ => d
  | (j, v) :: m, k => if j = k then v else Store.read d m k

/-- The table without key `k`. -/
def Store.erase {α : Type} : Store α → Nat → Store α
  | [], _ => []
  | (j, v) :: m, k => if j = k then Store.erase m k else (j, v) :: Store.erase m k

/-- `v` listed at key `k`, in key order. -/
def Store.insert {α : Type} : Store α → Nat → α → Store α
  | [], k, v => [(k, v)]
  | (j, w) :: m, k, v =>
    if j = k then (k, v) :: m else if k < j then (k, v) :: (j, w) :: m else (j, w) :: Store.insert m k v

/-- `v` written at key `k`: writing the default removes the entry, so equal tables are equal lists. -/
def Store.write {α : Type} [DecidableEq α] (d : α) (m : Store α) (k : Nat) (v : α) : Store α :=
  if v = d then Store.erase m k else Store.insert m k v

/-- Every key of `m` lies above `k`. -/
def Store.above {α : Type} (k : Nat) (m : Store α) : Bool := m.all fun e => decide (k < e.1)

/-- The canonical form: keys strictly rising, no entry equal to the default. -/
def Store.wf {α : Type} [DecidableEq α] (d : α) : Store α → Bool
  | [] => true
  | (k, v) :: m => Store.above k m && decide (v ≠ d) && Store.wf d m

/-- The entry at key `k` rewritten by `f`. -/
def Store.upd {α : Type} [DecidableEq α] (d : α) (m : Store α) (k : Nat) (f : α → α) : Store α :=
  Store.write d m k (f (Store.read d m k))

/-- Every listed value rewritten by `f`, which also sees its key. -/
def Store.mapAll {α : Type} [DecidableEq α] (d : α) (f : Nat → α → α) (m : Store α) : Store α :=
  (m.map fun e => (e.1, f e.1 e.2)).filter fun e => decide (e.2 ≠ d)

/-- The entries whose keys satisfy `p`. -/
def Store.keep {α : Type} (p : Nat → Bool) (m : Store α) : Store α := m.filter fun e => p e.1

/-- The values `vs` written from key `k` upward. -/
def Store.writeList {α : Type} [DecidableEq α] (d : α) (m : Store α) (k : Nat) : List α → Store α
  | [] => m
  | v :: vs => Store.writeList d (Store.write d m k v) (k + 1) vs

/-- `n` values read from key `k` upward. -/
def Store.readList {α : Type} (d : α) (m : Store α) (k : Nat) : Nat → List α
  | 0 => []
  | n + 1 => Store.read d m k :: Store.readList d m (k + 1) n

end Sys2Proof.Machine
end

