-- ==== Sys2Proof/Machine/St/Core.lean ====
section
/-!
DEFINITION. Sys2Proof/Machine/St/Core.lean: the supervisor's state: the timebase and its servo, the Cairn journal with
its queues and Scree, the command journal with its sessions and queues, the parameter sets and the drafts. Defaults are
the values of a COLD reset.
-/
namespace Sys2Proof.Machine

/-! ### Timebase (chapter 11) -/

/-- The servo's states, coded as in SERVO_STATUS (R538, R551). -/
inductive ServoState where
  | free | acquiring | locked | holdover
deriving DecidableEq, Repr

/-- The timebase (R529 to R551). `t` counts nanoseconds since the PTP epoch with 32 fractional bits; `now` is the model's
own clock: CLK_RIDGE cycles since the model began, of which two make a CLK_BUS cycle (R32). -/
structure TimeSt where
  /-- model clock, CLK_RIDGE cycles; the model's own; reset 0 -/
  now : Nat := 0
  /-- T, ns with 32 fractional bits; R529; reset: set at START_SEQUENCE (R547) -/
  t : Int := 0
  /-- INC, 8.32 ns; R529; reset 5.0 ns -/
  inc : Nat := 0x500000000
  /-- estimated frequency error y, ppb, exact; R537; reset 0 -/
  y : Rat := 0
  /-- servo STATE, 2 bits; R551; reset FREE -/
  servo : ServoState := .free
  /-- SOURCE in use, 3 bits; R551; reset 0 -/
  source : Nat := 0
  /-- COARSE; R551; reset 1 -/
  coarse : Bool := true
  /-- SLEW_LIMITED; R551; reset 0 -/
  slewLimited : Bool := false
  /-- LAST_OFFSET o, ns; R549; reset 0 -/
  lastOffset : Int := 0
  /-- accepted measurements since the last entry to LOCKED; R549; reset 0 -/
  accepted : Nat := 0
  /-- consecutive measurements within the lock window; R538; reset 0 -/
  inWindow : Nat := 0
  /-- consecutive measurements outside the lock window; R540; reset 0 -/
  outWindow : Nat := 0
  /-- TIME_OFFSET_ALARM already recorded; R541; reset false -/
  alarmed : Bool := false
  /-- model cycle of the last accepted measurement, none before the first; R537; reset none -/
  lastMeas : Option Nat := none
  /-- model cycle of the last accepted measurement per source code; R539; reset none -/
  lastBySource : Store (Option Nat) := []
  /-- ns stamp of the previous accepted PPS edge; R536; reset none -/
  lastPps : Option Nat := none
  /-- whether the source was lost and holdover timed out with y kept; R538; reset false -/
  freeKeepsY : Bool := false
  /-- STEP_EPOCH, 8 bits; R542; reset 0x00 -/
  stepEpoch : Nat := 0
  /-- LAST_STEP, i64 ns; R542; reset 0 -/
  lastStep : Int := 0
  /-- ns stamp of the last step; R549; reset none -/
  lastStepNs : Option Nat := none
  /-- amount of the step that began each epoch, by epoch; R544; reset empty -/
  steps : Store Int := []
  /-- the always-on coarse count in ns while it is valid; R546; reset none -/
  coarseNs : Option Nat := none
deriving DecidableEq, Repr

/-! ### Cairn journal (chapter 11) -/

/-- A Cairn record before it has a sequence (R553). `ns` is the full stamp, `epoch` the STEP_EPOCH of its report. -/
structure CairnRec where
  ns : Nat
  coarse : Bool
  scree : Bool
  source : Nat
  level : Nat
  code : Nat
  data : List Nat
deriving DecidableEq, Repr

/-- An open Scree entry (R562). -/
structure ScreeEntry where
  source : Nat
  code : Nat
  level : Nat
  count : Nat
  first : Nat
  last : Nat
  coarse : Bool
deriving DecidableEq, Repr

/-- The Cairn journal (R553 to R567). -/
structure CairnSt where
  /-- the MRAM ring, 65 536 slots of a record with its sequence; R557; reset: MRAM keeps it; a new module's is empty -/
  ring : Store (Option (Nat × CairnRec)) := []
  /-- sequence of the next record, 32 bits; R556; reset 0 on a new module -/
  nextSeq : Nat := 0
  /-- sequences of the newest and oldest valid record; R558; reset none -/
  newest : Option Nat := none
  /-- front queue, at most 1 024; R559; reset empty -/
  front : List CairnRec := []
  /-- safety monitor's queue, at most 256; R559; reset empty -/
  monQ : List CairnRec := []
  /-- records the monitor holds in its own memory; R560; reset empty -/
  monHeld : List CairnRec := []
  /-- records the monitor entered in its present cycle; R560; reset 0 -/
  monEntered : Nat := 0
  /-- open Scree entries, at most 256 with 17 catch-alls; R562; reset empty -/
  screes : List ScreeEntry := []
  /-- occupancy fell below half of JNL_QUEUE_NOTICE since the last notice; R564; reset true -/
  noticeArmed : Bool := true
  /-- marks held until an entry frees: journal slot and record; R567; reset empty -/
  heldMarks : List CairnRec := []
  /-- journal slots of JOURNAL_MARK commands whose record is queued, oldest first; R567; reset empty -/
  marks : List Nat := []
  /-- model cycle of the supply warning whose flush is not yet recorded; R565; reset none -/
  flushFrom : Option Nat := none
  /-- records written since that warning; R565; reset 0 -/
  flushed : Nat := 0
deriving DecidableEq, Repr

/-! ### Command journal (chapter 9) -/

/-- One copy of a journal slot (R413). `valid` says whether the copy's CRC holds. -/
structure JEntry where
  valid : Bool := false
  session : Nat := 0
  opcode : Nat := 0
  seq : Nat := 0
  target : Nat := 0
  state : Nat := 4
  outcome : Nat := 0
  digest : List Nat := []
  accept : Option Nat := none
  complete : Option Nat := none
  status : Nat := 0
  detail : Nat := 0
  result : Nat := 0
  writeCount : Nat := 0
deriving DecidableEq, Repr

/-- A session (R401, R403, R404, R406). -/
structure Session where
  id : Nat
  lastSeq : Nat := 0
  authed : Bool := false
  key : Option (List Nat) := none
  challenge : Option (List Nat) := none
  fails : Nat := 0
  link : Link := .host
  maxPacket : Nat := 4096
  fullTold : Bool := false
deriving DecidableEq, Repr

/-- An accepted command on its way (R418, R419): its journal slot, header fields, start stamp and arguments, the stamp of its acceptance
and the generation after it (R425). -/
structure Cmd where
  slot : Nat
  link : Link
  session : Nat
  seq : Nat
  opcode : Nat
  target : Nat
  start : Option Nat
  args : List Nat
  accept : Nat
  gen : Nat := 0
deriving DecidableEq, Repr

/-- A finished command whose outcome is to be journaled and reported (R420). -/
structure Done where
  slot : Nat
  outcome : Nat
  status : Nat
  detail : Nat
  result : Nat
  data : List Nat
  ns : Nat
deriving DecidableEq, Repr

/-- The command journal, sessions and command queues (R398 to R422). -/
structure JournalSt where
  /-- journal copy in MRAM bank 0, 8 192 slots; R412, R415; reset: MRAM keeps it; a new module's is empty -/
  bank0 : Store JEntry := []
  /-- mirror in MRAM bank 1; R412; as bank 0 -/
  bank1 : Store JEntry := []
  /-- slot allocated last; chapter 17, Wear; new module 8 191 -/
  lastSlot : Nat := 8191
  /-- bank 0 failed its checks; R417; reset false -/
  fail0 : Bool := false
  /-- bank 1 failed its checks; R417; reset false -/
  fail1 : Bool := false
  /-- open sessions, at most 8; R400, R401; reset: the parameter store keeps them; a new module has none -/
  sessions : List Session := []
  /-- accepted commands not started, in acceptance order; R418; reset empty -/
  queue : List Cmd := []
  /-- started commands not completed; R418; reset empty -/
  running : List Cmd := []
  /-- outcomes waiting for their report; R420; reset empty -/
  done : List Done := []
  /-- BAD_CRC count; R399; reset 0 -/
  badCrc : Nat := 0
deriving DecidableEq, Repr

/-! ### Parameter sets and drafts (chapters 0 and 9) -/

/-- A stored parameter set (R429, R431): its generation, whether its marker or completion is in the journal, and the
values that differ from the table defaults. -/
structure StoredSet where
  gen : Nat
  marked : Bool
  values : Store (Option Int)
deriving DecidableEq, Repr

/-- A draft's state (R423). -/
inductive DraftState where
  | free | opened | checked
deriving DecidableEq, Repr

/-- A draft (R423 to R425). -/
structure Draft where
  state : DraftState := .free
  writes : Store (Option Int) := []
  checkedGen : Nat := 0
deriving DecidableEq, Repr

/-- A pending live write (R28, R89, R425): journal slot, parameter, value and the generation of its acceptance. -/
structure LiveWrite where
  slot : Nat
  id : Nat
  value : Int
  gen : Nat
deriving DecidableEq, Repr

/-- The parameter store (R11, R423 to R431). -/
structure ParamSt where
  /-- running values that differ from the table defaults; R11; reset: from the newest valid stored set -/
  run : Store (Option Int) := []
  /-- running generation, 32 bits; R425; reset: of the loaded set -/
  gen : Nat := 0
  /-- stored sets in MRAM; R429; reset: kept; a new module holds none -/
  sets : List StoredSet := []
  /-- drafts 0 to 3; R423; reset: kept; a new module's are FREE -/
  drafts : Store Draft := []
  /-- RESTART values committed and waiting for the next warm restart; R11; reset: applied -/
  restart : Store (Option Int) := []
  /-- pending live writes in order of acceptance; R28; reset empty -/
  live : List LiveWrite := []
deriving DecidableEq, Repr

end Sys2Proof.Machine
end

