-- ==== Sys2Proof/Machine/St/Ridge.lean ====
section
/-!
DEFINITION. Sys2Proof/Machine/St/Ridge.lean: the Ridge's state: Traverse images and slots, the frame clock, failover, commit,
and the architectural state of a spur. Defaults are the values of a COLD reset.
-/
namespace Sys2Proof.Machine

/-! ### Traverse images (R67 to R79) -/

/-- An exchange-slot entry (R67). -/
structure SlotEntry where
  cycle : Nat
  spur : Nat
  kind : Nat
  divExp : Nat
  phase : Nat
  words : Nat
  target : Nat
  targetLo : Nat
deriving DecidableEq, Repr

/-- A contract row (R71). -/
structure LoopRow where
  id : Nat
  kind : Nat
  object : Nat
  divExp : Nat
  phase : Nat
  spur : Nat
  priority : Nat
  sample : Nat
  inSlot : Nat
  compute : Nat
  outSlot : Nat
  effect : Nat
  variants : Nat
  hosts : List Nat
  producer : Nat
deriving DecidableEq, Repr

/-- One schedule of an image: the exchange slots, and per spur the entry address; per spur and frame counter bits [5:0]
(key spur · 64 + position) the end marker's cycle and the expected control-flow signature (R64, R79, R92). -/
structure Schedule where
  slots : List SlotEntry
  entries : Store Nat
  ends : Store Nat
  sigs : Store (Option Nat)
deriving DecidableEq, Repr

/-- A coefficient-layout entry (R79, R88): a parameter, its conversion code and shift, and its copies (spur, X address, words). -/
structure LayoutEntry where
  id : Nat
  conv : Nat
  shift : Nat
  copies : List (Nat × Nat × Nat)
deriving DecidableEq, Repr

/-- A probe variable (R79): its number, spur, Y address, width in words and the frame cycle at which it is valid. -/
structure ProbeVar where
  num : Nat
  spur : Nat
  addr : Nat
  words : Nat
  valid : Nat
deriving DecidableEq, Repr

/-- Resource claims of one spur (R79): program, coefficient, X and Y bytes and worst frame cycles. -/
structure Claim where
  spur : Nat
  program : Nat
  coeff : Nat
  xBytes : Nat
  yBytes : Nat
  cycles : Nat
deriving DecidableEq, Repr

/-- What the sections of an image hold (R79). `scheds` is keyed 0 for the primary schedule and k + 1 for the variant for the loss
of spur k; `programs` lists (spur, address, instruction words), `dropped` per variant the LOOP_IDs, `banks` the stage-drop banks
as (machine, stage), `init` the initial value of every parameter, `commonsMax` the most commons cycles in a window of 256. -/
structure ImageSections where
  programs : List (Nat × Nat × List Nat) := []
  scheds : Store (Option Schedule) := []
  layout : List LayoutEntry := []
  probes : List ProbeVar := []
  loops : List LoopRow := []
  dropped : Store (List Nat) := []
  mirrors : List (Nat × Nat) := []
  banks : List (Nat × Nat) := []
  init : Store (Option Int) := []
  claims : List Claim := []
  commonsRun : Nat := 0
  commonsMax : Nat := 0
  sectionsOk : Bool := true
deriving DecidableEq, Repr

/-- An image as its header describes it, with its sections (R77, R79). -/
structure Image where
  magic : Nat := 0
  format : Nat := 0
  part : Nat := 0
  minStepping : Nat := 0
  spurs : Nat := 0
  stages : Nat := 0
  machines : Nat := 0
  axes : Nat := 0
  feedback : Nat := 0
  variantCount : Nat := 0
  sectionCount : Nat := 0
  length : Nat := 0
  frameLength : Nat := 0
  contractId : Nat := 0
  buildStamp : List Nat := []
  configId : Nat := 0
  variantMask : Nat := 0
  hash : List Nat := []
  sections : List (Nat × Nat) := []
  body : ImageSections := {}
deriving DecidableEq, Repr

/-- A Traverse slot's or firmware copy's state (R76). -/
inductive SlotState where
  | empty | writing | valid | active
deriving DecidableEq, Repr

/-- A Traverse slot or firmware copy (R76, R82, R439, R718): bytes written of the stated length, and the image once IMAGE_END has read
it. Its bytes lie in the MRAM of the address map (R761). -/
structure SlotSt where
  state : SlotState := .empty
  written : Nat := 0
  length : Nat := 0
  image : Option Image := none
deriving DecidableEq, Repr

/-! ### The Ridge (chapter 2) -/

/-- The Ridge's states (R56). -/
inductive RidgeState where
  | stopped | running | fallback
deriving DecidableEq, Repr

/-- The phase of a commit (R90): waiting for live writes, preparing the banks, armed. -/
inductive CommitPhase where
  | waiting | preparing | armed
deriving DecidableEq, Repr

/-- A STAGE_COMMIT or an identification commit on its way (R90, R201, R427). `draft` is none for an identification commit. -/
structure CommitSt where
  slot : Nat
  session : Nat
  seq : Nat
  draft : Option Nat
  mode : Nat
  stamp : Option Nat
  phase : CommitPhase
  /-- live writes accepted earlier that are still to be applied (R90 step 1) -/
  before : Nat := 0
  values : Store (Option Int)
  /-- identification: machine, mode, fit quality and whether the second channel's offset was determined (R201) -/
  ident : Option (Nat × Nat × Nat × Bool)
deriving DecidableEq, Repr

/-- A commit whose flip has happened and whose marker is not written yet (R429). -/
structure FlippedCommit where
  commit : CommitSt
  frame : Nat
  flipped : Bool
deriving DecidableEq, Repr

/-- The Ridge (R56 to R108). -/
structure RidgeSt where
  /-- Ridge state; R56; reset STOPPED -/
  state : RidgeState := .stopped
  /-- F, CLK_RIDGE cycles; R18; reset 10 000 until an image sets it -/
  frameLength : Nat := 10000
  /-- frame counter, 32 bits; R22; reset 0 -/
  frame : Nat := 0
  /-- the first frame after STOPPED has not begun; R22; reset true -/
  fresh : Bool := true
  /-- model cycle of the last frame start; R19; reset 0 -/
  frameStart : Nat := 0
  /-- full stamp of the last frame start, ns; R434; reset none -/
  frameNs : Option Nat := none
  /-- lost spur whose variant runs; R56; reset none -/
  variant : Option Nat := none
  /-- spur and frame of a detected failure whose sequence runs; R94, R95; reset none -/
  failure : Option (Nat × Nat) := none
  /-- excluded spurs; R101; reset none -/
  excluded : Nat := 0
  /-- self-check failures per spur in the life of the module; R102; identity partition, new module 0 -/
  failCounts : Store Nat := []
  /-- retired spurs; R102; identity partition, new module none -/
  retired : Nat := 0
  /-- retirements requested by the ageing controller: spur and model cycle of the deadline; R103; reset none -/
  retireReq : List (Nat × Nat) := []
  /-- bank pointer: false A, true B; R87; reset A -/
  bankB : Bool := false
  /-- the commit between steps 1 and 6; R90; reset none -/
  commit : Option CommitSt := none
  /-- identification commits waiting for the one in preparation; R201; reset empty -/
  waiting : List CommitSt := []
  /-- a commit applied whose marker is due; R429; reset none -/
  flipped : Option FlippedCommit := none
  /-- cause of the last RIDGE_STOPPED; R109; reset 2 -/
  stopCause : Nat := 2
  /-- Traverse slots 0 to 3, EMPTY on a new module, and firmware copies at keys 0x100 and 0x101; R76, R718; DESIGN CHOICE: copy A as
  delivered passes its checks and copy B is EMPTY, notes/assumptions/5.md -/
  slots : Store SlotSt := [(0x100, { state := .valid, written := 0x180000, length := 0x180000 })]
  /-- the commons hold the learning tables since the last Ridge start; R371; reset false -/
  tablesKept : Bool := false
deriving DecidableEq, Repr

/-! ### A spur (chapter 3) -/

/-- A repeat level (R110, R139): iterations left, start and end addresses. -/
structure Repeat where
  count : Nat
  start : Addr
  last : Addr
deriving DecidableEq, Repr

/-- A register write that the next executed instruction does not see yet (R136). -/
inductive Delayed where
  | d (n : Fin 16) (v : Word)
  | dHigh (n : Fin 16) (v : BitVec 16)
  | a (n : Fin 4) (v : Acc)
  | p (n : Fin 8) (v : Addr)
  | m (n : Fin 4) (v : Word)
  | mLow (n : Fin 4) (v : BitVec 16)
  | mHigh (n : Fin 4) (v : BitVec 16)
deriving DecidableEq, Repr

/-- What stops or marks a spur at a yield point (R66, R142). -/
inductive SpurRequest where
  | failover | abort | dbg | trip
deriving DecidableEq, Repr

/-- A spur's architectural and control state (R110 to R147). -/
structure SpurSt where
  /-- D0 to D15, 32 bits each; R110; reset 0 (R113) -/
  d : Store Word := []
  /-- A0 to A3, 40 bits each; R110; reset 0 -/
  a : Store Acc := []
  /-- P0 to P7, 14 bits each; R110; reset 0 -/
  p : Store Addr := []
  /-- M0 to M3, LEN and STEP, 32 bits each; R119; reset 0 -/
  m : Store Word := []
  /-- L0 to L2, innermost first; R110; reset empty -/
  reps : List Repeat := []
  /-- PC, 14 bits; R110; reset 0 -/
  pc : Addr := 0
  /-- return stack, at most 4; R110; reset empty -/
  stack : List Addr := []
  /-- SR.FC, 6 bits; R111; reset 0 -/
  fc : BitVec 6 := 0
  /-- SR.TRN; R111; reset 0 -/
  trn : Bool := false
  /-- SR.RV; R111; reset 0 -/
  rv : Bool := false
  /-- SR.AV; R111; reset 0 -/
  av : Bool := false
  /-- SR.PS; R111; reset 0 -/
  ps : Bool := false
  /-- SR.N; R111; reset 0 -/
  n : Bool := false
  /-- SR.Z; R111; reset 0 -/
  z : Bool := false
  /-- SR.C; R111; reset 0 -/
  c : Bool := false
  /-- SR.V; R111; reset 0 -/
  v : Bool := false
  /-- writes the next executed instruction does not see; R136; reset empty -/
  late : List Delayed := []
  /-- branch delay: slots left and target; R137; reset none -/
  branch : Option (Nat × Addr) := none
  /-- control-flow signature; R146; reset 0xFFFF_FFFF -/
  sig : Nat := 0xFFFFFFFF
  /-- frame cycle at which the next instruction is issued; R60; reset 16 -/
  cycle : Nat := 16
  /-- executing its frame program; R60; reset false -/
  live : Bool := false
  /-- halted by failover, frame abort, debug halt or a reserved encoding; R144, R147; reset false -/
  halted : Bool := false
  /-- requests pending for the next yield point; R142; reset none -/
  requests : List SpurRequest := []
deriving DecidableEq, Repr

end Sys2Proof.Machine
end

