-- ==== Sys2Proof/Config.lean ====
section
/-!
DEFINITION. Sys2Proof/Config.lean: what an implementation fixes and the spec leaves open, as opaque constants: no proof and no
evaluation can see a value. `freeNat` supplies one free value after another (the state's counter `free` counts them).
-/
namespace Sys2Proof

/-- The k-th free value: a value the spec leaves open, taken modulo the width where it is used. -/
opaque Config.freeNat : Nat → Nat

/-- A word of the host window at a model cycle, where R620 gives it no content: MBX_CTRL as read, and CAIRN_HEAD and CAIRN_TAIL while the
ring has no record. -/
opaque Config.openWord : (now address : Nat) → Nat

/-- The module's serial number (R5, R763). -/
opaque Config.serial : Nat

/-- The base MAC address in the identity partition (R628). -/
opaque Config.baseMac : Nat

/-- The manufacturing stamp in nanoseconds (R763). -/
opaque Config.madeNs : Nat

/-- The hash of the signing key in write-once MRAM (R78), 32 bytes. -/
opaque Config.keyHash : List Nat

/-- Whether an ECDSA P-256 signature (64 bytes) verifies over a message under the module's write-once key (R78, R83, R717):
the public key's place in the image is not in the spec. -/
opaque Config.signatureOk : (message signature : List Nat) → Bool

/-- What the sections of an image hold (R79): the byte layout of sections 0, 2, 3, 5 to 9 and the order of the schedules in
section 1 are not in the spec. -/
opaque Config.sections : (image : List Nat) → Option Machine.ImageSections

/-- The conversion of a parameter value to Q15 by a layout entry's conversion code and shift (R79, R88), not in the spec. -/
opaque Config.convert : (conv shift : Nat) → (value : Int) → List Nat

/-- The firmware version of a firmware copy (R5), at 2 that of the firmware which runs without one: major, minor, patch as [23:16], [15:8],
[7:0]. -/
opaque Config.firmware : (copy : Nat) → Nat

/-- Whether SHA-256, the public key and the signature of a firmware copy's bytes check (R717), whose layout is not in the spec. -/
opaque Config.firmwareSigned : List Nat → Bool

/-- The part code in a firmware copy's bytes (R717), whose header layout is not in the spec. -/
opaque Config.firmwarePart : List Nat → Nat

/-- MAGIC of a firmware copy's bytes (R717). -/
opaque Config.firmwareMagic : List Nat → Nat

/-- The drift of the 1 MHz oscillator in ppm over a span (R546), within 20 000 ppm of true time. -/
opaque Config.coarseDrift : (span : Nat) → (k : Nat) → Int

end Sys2Proof
end

