-- ==== Sys2Proof/Machine/Codec.lean ====
section
/-!
DEFINITION. Sys2Proof/Machine/Codec.lean: byte order, stamps on the wire, the cyclic redundancy checks the spec names,
SHA-256 and HMAC-SHA-256. Bytes are Nat below 256. Every function is structurally recursive.
-/
namespace Sys2Proof.Machine

/-- `n` as `k` bytes, least significant first (R391). -/
def le : Nat → Nat → List Nat
  | 0, _ => []
  | k + 1, n => n % 256 :: le k (n / 256)

/-- The signed `i` as `k` bytes, least significant first. -/
def leI (k : Nat) (i : Int) : List Nat := le k (tc (8 * k) i)

/-- The number whose little-endian bytes are `bs`. -/
def ofLe : List Nat → Nat
  | [] => 0
  | b :: bs => b % 256 + 256 * ofLe bs

/-- `n` as `k` bytes, most significant first. -/
def be (k n : Nat) : List Nat := (le k n).reverse

/-- The number whose big-endian bytes are `bs`. -/
def ofBe (bs : List Nat) : Nat := ofLe bs.reverse

/-- `n` bytes of `bs` from offset `o`, short where `bs` ends. -/
def sub (bs : List Nat) (o n : Nat) : List Nat := (bs.drop o).take n

/-- The little-endian field of `n` bytes at offset `o`. -/
def fld (bs : List Nat) (o n : Nat) : Nat := ofLe (sub bs o n)

/-- The signed little-endian field of `n` bytes at offset `o`. -/
def fldI (bs : List Nat) (o n : Nat) : Int := sx (8 * n) (fld bs o n)

/-- `bs` cut or padded with zero bytes to `n`. -/
def padTo (n : Nat) (bs : List Nat) : List Nat := bs.take n ++ List.replicate (n - bs.length) 0

/-- A list of `n` values, `f 0` first. -/
def gen {α : Type} (f : Nat → α) (n : Nat) : List α := (List.range n).map f

/-- 32-bit words, least significant byte first, of a byte list padded with zeros to whole words. -/
def toWords : Nat → List Nat → List Nat
  | 0, _ => []
  | n + 1, bs => ofLe (bs.take 4) :: toWords n (bs.drop 4)

/-! ### Stamps (R7, R531) -/

/-- Nanoseconds in a second. -/
def nsPerS : Nat := 1000000000

/-- A full stamp of 10 bytes: 6 of seconds, 4 of nanoseconds (R531). -/
def stampBytes (ns : Nat) : List Nat := le 6 (ns / nsPerS) ++ le 4 (ns % nsPerS)

/-- A stamp that is not known: every byte 0xFF (R397). -/
def stampUnknown : List Nat := List.replicate 10 255

/-- A stamp that may be unknown. -/
def stampOpt : Option Nat → List Nat
  | some n => stampBytes n
  | none => stampUnknown

/-- The stamp spelled by 10 bytes; none for the unknown stamp. -/
def ofStamp (bs : List Nat) : Option Nat :=
  if bs.take 10 = stampUnknown then none else some (fld bs 0 6 * nsPerS + fld bs 6 4)

/-- The compact stamp of a nanosecond count (R530). -/
def compact (ns : Nat) : Nat := ns % 2 ^ 32

/-- A compact stamp extended by an anchor (R534). -/
def extendStamp (c anchor : Nat) : Int :=
  let d : Nat := (c + 2 ^ 32 - anchor % 2 ^ 32) % 2 ^ 32
  if 2 ^ 31 ≤ d then (anchor : Int) + d - 2 ^ 32 else (anchor : Int) + d

/-! ### Cyclic redundancy checks -/

/-- `k` shifts of a reflected CRC register with reflected polynomial `p`. -/
def crcShiftR (p : Nat) : Nat → Nat → Nat
  | 0, r => r
  | k + 1, r => crcShiftR p k (if r % 2 = 1 then (r / 2) ^^^ p else r / 2)

/-- A reflected CRC over bytes, each entering least significant bit first. -/
def crcReflected (p : Nat) : Nat → List Nat → Nat
  | r, [] => r
  | r, b :: bs => crcReflected p (crcShiftR p 8 (r ^^^ b)) bs

/-- CRC-32C of R391: polynomial 0x1EDC_6F41, reflected, initial all ones, final complement. -/
def crc32c (bs : List Nat) : Nat := crcReflected 0x82F63B78 0xFFFFFFFF bs ^^^ 0xFFFFFFFF

/-- The CRC-32 of R800: polynomial 0x04C1_1DB7, reflected, initial all ones, final complement. -/
def crc32 (bs : List Nat) : Nat := crcReflected 0xEDB88320 0xFFFFFFFF bs ^^^ 0xFFFFFFFF

/-- `k` shifts of a CRC register of `w` bits, most significant bit first. -/
def crcShiftL (w p : Nat) : Nat → Nat → Nat
  | 0, r => r
  | k + 1, r => crcShiftL w p k (if r.testBit (w - 1) then ((2 * r) ^^^ p) % 2 ^ w else 2 * r)

/-- A CRC of `w` bits (`8 ≤ w`) over bytes, each entering most significant bit first. -/
def crcForward (w p : Nat) : Nat → List Nat → Nat
  | r, [] => r
  | r, b :: bs => crcForward w p (crcShiftL w p 8 (r ^^^ (b * 2 ^ (w - 8)))) bs

/-- CRC-16 of R555: polynomial 0x1021, initial 0xFFFF, no reflection, no complement. -/
def crc16 (bs : List Nat) : Nat := crcForward 16 0x1021 0xFFFF bs

/-- The control-flow CRC of R92 and R146: bytes most significant bit first, no final complement. -/
def crcFlow (r : Nat) (bs : List Nat) : Nat := crcForward 32 0x04C11DB7 r bs

/-- One bit into a CRC register of `w` bits with polynomial `p`. -/
def crcBit (w p r : Nat) (b : Bool) : Nat :=
  let s := (2 * r) % 2 ^ w
  if (r.testBit (w - 1)) != b then s ^^^ p else s

/-- A CRC over bits, first bit first. -/
def crcBits (w p : Nat) : Nat → List Bool → Nat
  | r, [] => r
  | r, b :: bs => crcBits w p (crcBit w p r b) bs

/-! ### SHA-256 and HMAC-SHA-256 (R403, R408) -/

/-- 32-bit rotation to the right. -/
def rotr32 (x n : Nat) : Nat := (x / 2 ^ n + x * 2 ^ (32 - n)) % 2 ^ 32

/-- The round constants of SHA-256. -/
def shaK : List Nat :=
  [0x428a2f98, 0x71374491, 0xb5c0fbcf, 0xe9b5dba5, 0x3956c25b, 0x59f111f1, 0x923f82a4, 0xab1c5ed5,
   0xd807aa98, 0x12835b01, 0x243185be, 0x550c7dc3, 0x72be5d74, 0x80deb1fe, 0x9bdc06a7, 0xc19bf174,
   0xe49b69c1, 0xefbe4786, 0x0fc19dc6, 0x240ca1cc, 0x2de92c6f, 0x4a7484aa, 0x5cb0a9dc, 0x76f988da,
   0x983e5152, 0xa831c66d, 0xb00327c8, 0xbf597fc7, 0xc6e00bf3, 0xd5a79147, 0x06ca6351, 0x14292967] ++
  [0x27b70a85, 0x2e1b2138, 0x4d2c6dfc, 0x53380d13, 0x650a7354, 0x766a0abb, 0x81c2c92e, 0x92722c85,
   0xa2bfe8a1, 0xa81a664b, 0xc24b8b70, 0xc76c51a3, 0xd192e819, 0xd6990624, 0xf40e3585, 0x106aa070,
   0x19a4c116, 0x1e376c08, 0x2748774c, 0x34b0bcb5, 0x391c0cb3, 0x4ed8aa4a, 0x5b9cca4f, 0x682e6ff3,
   0x748f82ee, 0x78a5636f, 0x84c87814, 0x8cc70208, 0x90befffa, 0xa4506ceb, 0xbef9a3f7, 0xc67178f2]

/-- The initial hash value of SHA-256. -/
def shaH0 : List Nat :=
  [0x6a09e667, 0xbb67ae85, 0x3c6ef372, 0xa54ff53a, 0x510e527f, 0x9b05688c, 0x1f83d9ab, 0x5be0cd19]

/-- The message schedule of one block: the window of the last 16 words, newest last, giving one word per round. -/
def shaNext (w : List Nat) : Nat :=
  let a := w.getD 1 0; let b := w.getD 14 0
  (w.getD 0 0 + (rotr32 a 7 ^^^ rotr32 a 18 ^^^ (a / 8)) + w.getD 9 0 +
    (rotr32 b 17 ^^^ rotr32 b 19 ^^^ (b / 1024))) % 2 ^ 32

/-- The rounds of one block. -/
def shaRounds : List Nat → List Nat → List Nat → List Nat
  | [], _, h => h
  | k :: ks, w, h =>
    let a := h.getD 0 0; let b := h.getD 1 0; let c := h.getD 2 0; let d := h.getD 3 0
    let e := h.getD 4 0; let f := h.getD 5 0; let g := h.getD 6 0; let hh := h.getD 7 0
    let t1 := (hh + (rotr32 e 6 ^^^ rotr32 e 11 ^^^ rotr32 e 25) +
      ((e &&& f) ^^^ ((2 ^ 32 - 1 - e) &&& g)) + k + w.getD 0 0) % 2 ^ 32
    let t2 := (rotr32 a 2 ^^^ rotr32 a 13 ^^^ rotr32 a 22) + ((a &&& b) ^^^ (a &&& c) ^^^ (b &&& c))
    shaRounds ks (w.drop 1 ++ [shaNext w]) [(t1 + t2) % 2 ^ 32, a, b, c, (d + t1) % 2 ^ 32, e, f, g]

/-- The compression of `n` blocks of 64 bytes. -/
def shaBlocks : Nat → List Nat → List Nat → List Nat
  | 0, _, h => h
  | n + 1, bs, h =>
    let w := (toWords 16 (bs.take 64)).map fun x => ofBe (le 4 x)
    let h' := shaRounds shaK w h
    shaBlocks n (bs.drop 64) ((h.zip h').map fun p => (p.1 + p.2) % 2 ^ 32)

/-- SHA-256 of a byte list, 32 bytes. -/
def sha256 (bs : List Nat) : List Nat :=
  let n := bs.length
  let m := bs ++ [0x80] ++ List.replicate ((119 - n % 64) % 64) 0 ++ be 8 (8 * n)
  (shaBlocks (m.length / 64) m shaH0).flatMap (be 4)

/-- HMAC-SHA-256 with a key of at most 64 bytes. -/
def hmac (key msg : List Nat) : List Nat :=
  let k := padTo 64 key
  sha256 (k.map (· ^^^ 0x5c) ++ sha256 (k.map (· ^^^ 0x36) ++ msg))

end Sys2Proof.Machine
end

