-- ==== Sys2Proof/Machine/ParamTable.lean ====
section
/-!
DEFINITION. Sys2Proof/Machine/ParamTable.lean: the parameter tables of the spec (R10, R11, R801, R802): every class, index, type,
range, default and effect, as the tables of each chapter state them. The value `dflt` is the stated default, and for a
parameter whose default is "image" the value of R801 that holds while no Traverse slot is active.
-/
namespace Sys2Proof.Machine

/-- How many instances a parameter has: by the part's variant (R1), or a fixed number. -/
inductive InstCount where
  | stages | machines | axes | channels
  | fixed (n : Nat)
deriving DecidableEq, Repr

/-- One row of a parameter table. `spans` are the allowed intervals in the parameter's own terms (R802), `even` a demand for
an even value, `maxBits` the most bits that may be set, `mask` a contiguous network mask; `type` and `effect` are the
codes of R433, `structural` the mark of R85. -/
structure ParamDef where
  base : Nat
  name : String
  count : InstCount
  type : Nat
  spans : List (Int × Int)
  even : Bool
  maxBits : Nat
  mask : Bool
  dflt : Int
  effect : Nat
  structural : Bool
deriving DecidableEq, Repr

/-- Parameters of class 0x10. -/
def paramRows10_0 : List ParamDef :=
  [⟨0x10000000, "STG_MACHINE", .stages, 0x01, [(0, 11), (255, 255)], false, 64, false, 255, 1, true⟩,
   ⟨0x10000001, "STG_SET", .stages, 0x01, [(0, 5)], false, 64, false, 0, 1, true⟩,
   ⟨0x10000002, "STG_DC_CHANNEL", .stages, 0x01, [(0, 7)], false, 64, false, 0, 1, false⟩,
   ⟨0x10000003, "STG_I_FS", .stages, 0x03, [(1000, 2000000)], false, 64, false, 100000, 1, false⟩,
   ⟨0x10000004, "STG_SINC3_DEC", .stages, 0x02, [(16, 16), (32, 32), (64, 64), (128, 128), (256, 256)], false, 64, false, 16, 1, false⟩,
   ⟨0x10000005, "STG_MOD_DELAY", .stages, 0x01, [(0, 19)], false, 64, false, 10, 1, false⟩,
   ⟨0x10000006, "STG_OFFSET_U", .stages, 0x12, [(-1638, 1638)], false, 64, false, 0, 1, false⟩,
   ⟨0x10000007, "STG_OFFSET_V", .stages, 0x12, [(-1638, 1638)], false, 64, false, 0, 1, false⟩,
   ⟨0x10000008, "STG_FAST_DEC", .stages, 0x01, [(8, 8), (16, 16), (32, 32)], false, 64, false, 16, 1, false⟩,
   ⟨0x10000009, "STG_OC_LEVEL", .stages, 0x02, [(1000, 32767)], false, 64, false, 29491, 1, false⟩,
   ⟨0x1000000A, "STG_OC_COUNT", .stages, 0x01, [(1, 4)], false, 64, false, 2, 1, false⟩,
   ⟨0x1000000B, "STG_STUCK_RUN", .stages, 0x01, [(16, 128)], false, 64, false, 32, 1, false⟩,
   ⟨0x1000000C, "STG_I_MAX", .stages, 0x02, [(0, 32767)], false, 64, false, 26214, 0, false⟩,
   ⟨0x10800100, "STG_DC_V_FS", (.fixed 8), 0x03, [(1000, 20000)], false, 64, false, 10000, 1, false⟩,
   ⟨0x10800101, "STG_DC_SINC3_DEC", (.fixed 8), 0x02, [(16, 16), (32, 32), (64, 64), (128, 128), (256, 256)], false, 64, false, 16, 1, false⟩,
   ⟨0x10800102, "STG_DC_OFFSET", (.fixed 8), 0x12, [(-1638, 1638)], false, 64, false, 0, 1, false⟩,
   ⟨0x10800103, "STG_DC_OV_LEVEL", (.fixed 8), 0x02, [(1000, 32767)], false, 64, false, 29491, 1, false⟩,
   ⟨0x10800104, "STG_DC_VMIN", (.fixed 8), 0x02, [(1000, 32767)], false, 64, false, 13107, 1, false⟩,
   ⟨0x10800105, "STG_DC_FAST_DEC", (.fixed 8), 0x01, [(8, 8), (16, 16), (32, 32)], false, 64, false, 16, 1, false⟩,
   ⟨0x10800106, "STG_DC_STUCK_RUN", (.fixed 8), 0x01, [(16, 128)], false, 64, false, 32, 1, false⟩]


/-- Parameters of class 0x20. -/
def paramRows20_0 : List ParamDef :=
  [⟨0x20000000, "MAC_FB_PRIMARY", .machines, 0x01, [(0, 31)], false, 64, false, 0, 1, true⟩,
   ⟨0x20000001, "MAC_FB_SECOND", .machines, 0x01, [(0, 31), (255, 255)], false, 64, false, 255, 1, true⟩,
   ⟨0x20000002, "MAC_POLE_PAIRS", .machines, 0x01, [(1, 64)], false, 64, false, 4, 1, false⟩,
   ⟨0x20000003, "MAC_COUNTS_REV", .machines, 0x03, [(1, 2147483647)], false, 64, false, 65536, 1, false⟩,
   ⟨0x20000004, "MAC_ANGLE_OFFSET", .machines, 0x02, [(0, 65535)], false, 64, false, 0, 1, false⟩,
   ⟨0x20000005, "MAC_ANGLE_OFFSET_2", .machines, 0x02, [(0, 65535)], false, 64, false, 0, 1, false⟩,
   ⟨0x20000006, "MAC_RS", .machines, 0x03, [(0, 100000000)], false, 64, false, 0, 1, false⟩,
   ⟨0x20000007, "MAC_LD", .machines, 0x03, [(0, 1000000000)], false, 64, false, 0, 1, false⟩,
   ⟨0x20000008, "MAC_LQ", .machines, 0x03, [(0, 1000000000)], false, 64, false, 0, 1, false⟩,
   ⟨0x20000009, "MAC_PSI_PM", .machines, 0x03, [(1, 100000000)], false, 64, false, 100000, 1, false⟩,
   ⟨0x2000000A, "MAC_KP_AB", .machines, 0x03, [(0, 100000000)], false, 64, false, 0, 0, false⟩,
   ⟨0x2000000B, "MAC_KI_AB", .machines, 0x03, [(0, 100000000)], false, 64, false, 0, 0, false⟩,
   ⟨0x2000000C, "MAC_KP_XY", .machines, 0x03, [(0, 100000000)], false, 64, false, 0, 0, false⟩,
   ⟨0x2000000D, "MAC_KI_XY", .machines, 0x03, [(0, 100000000)], false, 64, false, 0, 0, false⟩,
   ⟨0x2000000E, "MAC_XY_VLIM", .machines, 0x02, [(0, 16384)], false, 64, false, 3277, 1, false⟩,
   ⟨0x2000000F, "MAC_TORQUE_MAX", .machines, 0x03, [(0, 4000000000)], false, 64, false, 0, 0, false⟩,
   ⟨0x20000010, "MAC_ID_REF", .machines, 0x12, [(-32767, 0)], false, 64, false, 0, 0, false⟩,
   ⟨0x20000011, "MAC_OVERMOD", .machines, 0x01, [(0, 0), (1, 1)], false, 64, false, 0, 1, false⟩,
   ⟨0x20000012, "MAC_DECOUPLE", .machines, 0x01, [(0, 7)], false, 64, false, 7, 0, false⟩,
   ⟨0x20000013, "MAC_ALIGN_CURRENT", .machines, 0x02, [(0, 26214)], false, 64, false, 9830, 0, false⟩]


/-- Parameters of class 0x30, part 1. -/
def paramRows30_0 : List ParamDef :=
  [⟨0x30000000, "AX_TYPE", .axes, 0x01, [(0, 4)], false, 64, false, 2, 1, true⟩,
   ⟨0x30000001, "AX_FB_CHANNEL", .axes, 0x01, [(0, 31), (255, 255)], false, 64, false, 255, 1, true⟩,
   ⟨0x30000002, "AX_MACHINE", .axes, 0x01, [(0, 11), (255, 255)], false, 64, false, 255, 1, true⟩,
   ⟨0x30000003, "AX_SCALE_NUM", .axes, 0x03, [(1, 2147483647)], false, 64, false, 1, 1, false⟩,
   ⟨0x30000004, "AX_SCALE_DEN", .axes, 0x03, [(1, 2147483647)], false, 64, false, 1, 1, false⟩,
   ⟨0x30000005, "AX_KP_POS", .axes, 0x03, [(0, 100000000)], false, 64, false, 0, 0, false⟩,
   ⟨0x30000006, "AX_KP_VEL", .axes, 0x03, [(0, 4000000000)], false, 64, false, 0, 0, false⟩,
   ⟨0x30000007, "AX_KI_VEL", .axes, 0x03, [(0, 4000000000)], false, 64, false, 0, 0, false⟩,
   ⟨0x30000008, "AX_TMAX", .axes, 0x03, [(0, 4000000000)], false, 64, false, 0, 0, false⟩,
   ⟨0x30000009, "AX_FOLLOW_ERR", .axes, 0x03, [(1, 2147483647)], false, 64, false, 10000, 0, false⟩,
   ⟨0x3000000A, "AX_FOLLOW_TIME", .axes, 0x02, [(0, 1000)], false, 64, false, 10, 0, false⟩,
   ⟨0x3000000B, "AX_INPOS_WINDOW", .axes, 0x03, [(0, 2147483647)], false, 64, false, 100, 0, false⟩,
   ⟨0x3000000C, "AX_INPOS_TIME", .axes, 0x02, [(0, 10000)], false, 64, false, 5, 0, false⟩,
   ⟨0x3000000D, "AX_SW_LIMIT_POS", .axes, 0x14, [(-9223372036854775808, 9223372036854775807)], false, 64, false, 9223372036854775807, 0, false⟩,
   ⟨0x3000000E, "AX_SW_LIMIT_NEG", .axes, 0x14, [(-9223372036854775808, 9223372036854775807)], false, 64, false, -9223372036854775808, 0, false⟩,
   ⟨0x3000000F, "AX_LIMIT_POS_IN", .axes, 0x01, [(0, 31), (255, 255)], false, 64, false, 255, 1, false⟩,
   ⟨0x30000010, "AX_LIMIT_NEG_IN", .axes, 0x01, [(0, 31), (255, 255)], false, 64, false, 255, 1, false⟩,
   ⟨0x30000011, "AX_LIMIT_POLARITY", .axes, 0x01, [(0, 0), (1, 1)], false, 64, false, 0, 1, false⟩,
   ⟨0x30000012, "AX_REMOTE_LINK", .axes, 0x01, [(0, 0), (1, 4)], false, 64, false, 0, 1, true⟩,
   ⟨0x30000013, "AX_REMOTE_NODE", .axes, 0x01, [(0, 127)], false, 64, false, 0, 1, true⟩]

/-- Parameters of class 0x30, part 2. -/
def paramRows30_1 : List ParamDef :=
  [⟨0x30000014, "AX_REMOTE_MODE", .axes, 0x01, [(0, 0), (1, 1)], false, 64, false, 0, 1, false⟩,
   ⟨0x30000015, "AX_REMOTE_MISS", .axes, 0x01, [(1, 16)], false, 64, false, 3, 1, false⟩,
   ⟨0x30000016, "AX_RM", .axes, 0x01, [(0, 7), (255, 255)], false, 64, false, 255, 1, true⟩]


/-- Parameters of class 0x31. -/
def paramRows31_0 : List ParamDef :=
  [⟨0x31000000, "AX_VMAX", .axes, 0x03, [(1, 2147483647)], false, 64, false, 1000, 0, false⟩,
   ⟨0x31000001, "AX_AMAX", .axes, 0x03, [(1, 2147483647)], false, 64, false, 1000, 0, false⟩,
   ⟨0x31000002, "AX_DMAX", .axes, 0x03, [(1, 2147483647)], false, 64, false, 1000, 0, false⟩,
   ⟨0x31000003, "AX_JMAX", .axes, 0x03, [(1, 2147483647)], false, 64, false, 1000, 0, false⟩,
   ⟨0x31000004, "AX_DMAX_QUICK", .axes, 0x03, [(1, 2147483647)], false, 64, false, 2000, 0, false⟩,
   ⟨0x31000005, "AX_JMAX_QUICK", .axes, 0x03, [(1, 2147483647)], false, 64, false, 4000, 0, false⟩]


/-- Parameters of class 0x32. -/
def paramRows32_0 : List ParamDef :=
  [⟨0x32000000, "PTH_AXIS_MASK", (.fixed 4), 0x04, [(0, 18446744073709551615)], false, 8, false, 0, 1, false⟩,
   ⟨0x32000001, "PTH_LOW_WATER", (.fixed 4), 0x02, [(0, 255)], false, 64, false, 16, 0, false⟩]


/-- Parameters of class 0x33. -/
def paramRows33_0 : List ParamDef :=
  [⟨0x33000000, "GR_MASTER", .axes, 0x01, [(0, 63)], false, 64, false, 0, 1, false⟩,
   ⟨0x33000001, "GR_SOURCE", .axes, 0x01, [(0, 0), (1, 1)], false, 64, false, 1, 1, false⟩,
   ⟨0x33000002, "GR_NUM", .axes, 0x13, [(-2147483648, 2147483647)], false, 64, false, 1, 1, false⟩,
   ⟨0x33000003, "GR_DEN", .axes, 0x03, [(1, 4294967295)], false, 64, false, 1, 1, false⟩,
   ⟨0x33000004, "TSH_MACHINE_0", .axes, 0x01, [(0, 11), (255, 255)], false, 64, false, 255, 1, true⟩,
   ⟨0x33000005, "TSH_MACHINE_1", .axes, 0x01, [(0, 11), (255, 255)], false, 64, false, 255, 1, true⟩,
   ⟨0x33000006, "TSH_MACHINE_2", .axes, 0x01, [(0, 11), (255, 255)], false, 64, false, 255, 1, true⟩,
   ⟨0x33000007, "TSH_MACHINE_3", .axes, 0x01, [(0, 11), (255, 255)], false, 64, false, 255, 1, true⟩,
   ⟨0x33000008, "TSH_WEIGHT_0", .axes, 0x02, [(0, 32768)], false, 64, false, 0, 1, false⟩,
   ⟨0x33000009, "TSH_WEIGHT_1", .axes, 0x02, [(0, 32768)], false, 64, false, 0, 1, false⟩,
   ⟨0x3300000A, "TSH_WEIGHT_2", .axes, 0x02, [(0, 32768)], false, 64, false, 0, 1, false⟩,
   ⟨0x3300000B, "TSH_WEIGHT_3", .axes, 0x02, [(0, 32768)], false, 64, false, 0, 1, false⟩]


/-- Parameters of class 0x34. -/
def paramRows34_0 : List ParamDef :=
  [⟨0x34000000, "HOM_METHOD", .axes, 0x01, [(1, 6)], false, 64, false, 5, 0, false⟩,
   ⟨0x34000001, "HOM_DIR", .axes, 0x01, [(0, 0), (1, 1)], false, 64, false, 0, 0, false⟩,
   ⟨0x34000002, "HOM_V_FAST", .axes, 0x03, [(1, 2147483647)], false, 64, false, 100, 0, false⟩,
   ⟨0x34000003, "HOM_V_SLOW", .axes, 0x03, [(1, 2147483647)], false, 64, false, 10, 0, false⟩,
   ⟨0x34000004, "HOM_ACC", .axes, 0x03, [(1, 2147483647)], false, 64, false, 1000, 0, false⟩,
   ⟨0x34000005, "HOM_OFFSET", .axes, 0x14, [(-9223372036854775808, 9223372036854775807)], false, 64, false, 0, 0, false⟩,
   ⟨0x34000006, "HOM_SWITCH_IN", .axes, 0x01, [(0, 15), (32, 63)], false, 64, false, 32, 1, false⟩,
   ⟨0x34000007, "HOM_LATCH", .axes, 0x01, [(0, 7)], false, 64, false, 0, 1, false⟩,
   ⟨0x34000008, "HOM_MAX_TRAVEL", .axes, 0x03, [(1, 2147483647)], false, 64, false, 2147483647, 0, false⟩]


/-- Parameters of class 0x38. -/
def paramRows38_0 : List ParamDef :=
  [⟨0x38000000, "LT_MODE", (.fixed 16), 0x01, [(0, 0), (1, 1), (2, 2)], false, 64, false, 0, 1, false⟩,
   ⟨0x38000001, "LT_INDEX_AXIS", (.fixed 16), 0x01, [(0, 63)], false, 64, false, 0, 1, true⟩,
   ⟨0x38000002, "LT_TARGET_AXIS", (.fixed 16), 0x01, [(0, 63)], false, 64, false, 0, 1, true⟩,
   ⟨0x38000003, "LT_NBINS", (.fixed 16), 0x02, [(1024, 1024), (2048, 2048), (4096, 4096)], false, 64, false, 1024, 1, true⟩,
   ⟨0x38000004, "LT_PERIOD_POS", (.fixed 16), 0x14, [(65536, 9223372036854775807)], false, 64, false, 65536000, 1, false⟩,
   ⟨0x38000005, "LT_PERIOD_SAMPLES", (.fixed 16), 0x03, [(1024, 4194304)], false, 64, false, 4096, 1, false⟩,
   ⟨0x38000006, "LT_ORIGIN", (.fixed 16), 0x14, [(-9223372036854775808, 9223372036854775807)], false, 64, false, 0, 1, false⟩,
   ⟨0x38000007, "LT_SCALE", (.fixed 16), 0x03, [(1, 4000000000)], false, 64, false, 10000, 1, false⟩,
   ⟨0x38000008, "LT_ALPHA", (.fixed 16), 0x02, [(0, 16384)], false, 64, false, 1638, 0, false⟩,
   ⟨0x38000009, "LT_BETA", (.fixed 16), 0x02, [(0, 3277)], false, 64, false, 33, 0, false⟩,
   ⟨0x3800000A, "LT_Q1", (.fixed 16), 0x02, [(0, 8192)], false, 64, false, 4096, 0, false⟩,
   ⟨0x3800000B, "LT_LEAD", (.fixed 16), 0x01, [(0, 64)], false, 64, false, 4, 0, false⟩,
   ⟨0x3800000C, "LT_VMIN", (.fixed 16), 0x03, [(0, 2147483647)], false, 64, false, 0, 0, false⟩,
   ⟨0x3800000D, "LT_VMAX", (.fixed 16), 0x03, [(0, 2147483647)], false, 64, false, 0, 0, false⟩,
   ⟨0x3800000E, "LT_AMAX", (.fixed 16), 0x03, [(0, 2147483647)], false, 64, false, 0, 0, false⟩,
   ⟨0x3800000F, "LT_OUT_MAX", (.fixed 16), 0x02, [(0, 32767)], false, 64, false, 8192, 0, false⟩]


/-- Parameters of class 0x39. -/
def paramRows39_0 : List ParamDef :=
  [⟨0x39000000, "FF_ENABLE", .axes, 0x01, [(0, 7)], false, 64, false, 0, 0, false⟩,
   ⟨0x39000001, "FF_INERTIA", .axes, 0x03, [(0, 4000000000)], false, 64, false, 0, 0, false⟩,
   ⟨0x39000002, "FF_COULOMB", .axes, 0x03, [(0, 4000000000)], false, 64, false, 0, 0, false⟩,
   ⟨0x39000003, "FF_VISCOUS", .axes, 0x03, [(0, 4000000000)], false, 64, false, 0, 0, false⟩,
   ⟨0x39000004, "FF_V_BAND", .axes, 0x03, [(1, 2147483647)], false, 64, false, 100, 0, false⟩,
   ⟨0x39000005, "OBS_ENABLE", .axes, 0x01, [(0, 0), (1, 1)], false, 64, false, 0, 1, false⟩,
   ⟨0x39000006, "OBS_BW", .axes, 0x02, [(1, 2000)], false, 64, false, 100, 0, false⟩,
   ⟨0x39000007, "OBS_RES_LIMIT", .axes, 0x03, [(1, 2147483647)], false, 64, false, 10000, 0, false⟩,
   ⟨0x39000008, "OBS_RES_TIME", .axes, 0x02, [(1, 10000)], false, 64, false, 50, 0, false⟩,
   ⟨0x39000009, "OBS_SETTLE", .axes, 0x02, [(0, 10000)], false, 64, false, 200, 0, false⟩,
   ⟨0x3900000A, "OBS_ACTION", .axes, 0x01, [(0, 0), (1, 1)], false, 64, false, 0, 0, false⟩,
   ⟨0x3900000B, "LOOP_BUMPLESS", .axes, 0x01, [(0, 0), (1, 1)], false, 64, false, 0, 0, false⟩,
   ⟨0x3980000B, "LOOP_BUMPLESS", .machines, 0x01, [(0, 0), (1, 1)], false, 64, false, 0, 0, false⟩]


/-- Parameters of class 0x40. -/
def paramRows40_0 : List ParamDef :=
  [⟨0x40000000, "PWM_PHASE", .stages, 0x02, [(0, 65535)], true, 64, false, 0, 1, true⟩,
   ⟨0x40000001, "PWM_DEADTIME", .stages, 0x02, [(0, 800)], false, 64, false, 400, 1, false⟩,
   ⟨0x40000002, "PWM_TEST_DUTY_U", .stages, 0x02, [(0, 32767)], false, 64, false, 0, 0, false⟩,
   ⟨0x40000003, "PWM_TEST_DUTY_V", .stages, 0x02, [(0, 32767)], false, 64, false, 0, 0, false⟩,
   ⟨0x40000004, "PWM_TEST_DUTY_W", .stages, 0x02, [(0, 32767)], false, 64, false, 0, 0, false⟩,
   ⟨0x40800100, "PWM_ALIGN", (.fixed 4), 0x01, [(0, 3)], false, 64, false, 0, 1, true⟩,
   ⟨0x40800101, "PWM_UPDATE", (.fixed 4), 0x01, [(0, 0), (1, 1)], false, 64, false, 0, 1, true⟩,
   ⟨0x40800102, "PWM_OPEN_LOOP", (.fixed 4), 0x01, [(0, 0), (1, 1)], false, 64, false, 0, 0, false⟩]


/-- Parameters of class 0x41. -/
def paramRows41_0 : List ParamDef :=
  [⟨0x41000000, "APWM_MODE", (.fixed 8), 0x01, [(0, 4)], false, 64, false, 0, 0, false⟩,
   ⟨0x41000001, "APWM_OWNER", (.fixed 8), 0x01, [(0, 0), (1, 1)], false, 64, false, 0, 1, false⟩,
   ⟨0x41000002, "APWM_T_ON", (.fixed 8), 0x03, [(40, 4000000)], false, 64, false, 40000, 0, false⟩,
   ⟨0x41000003, "APWM_T_OFF", (.fixed 8), 0x03, [(40, 4000000)], false, 64, false, 40000, 0, false⟩,
   ⟨0x41000004, "APWM_T_MIN", (.fixed 8), 0x03, [(40, 4000000)], false, 64, false, 40, 0, false⟩,
   ⟨0x41000005, "APWM_T_MAX", (.fixed 8), 0x03, [(0, 0), (40, 40000000)], false, 64, false, 0, 0, false⟩,
   ⟨0x41000006, "APWM_T_PICK", (.fixed 8), 0x03, [(0, 10000000)], false, 64, false, 0, 0, false⟩,
   ⟨0x41000007, "APWM_SRC", (.fixed 8), 0x01, [(0, 3)], false, 64, false, 0, 1, false⟩,
   ⟨0x41000008, "APWM_MOD_INPUT", (.fixed 8), 0x01, [(0, 55)], false, 64, false, 48, 1, false⟩,
   ⟨0x41000009, "APWM_MOD_LEVEL", (.fixed 8), 0x12, [(-32767, 32767)], false, 64, false, 0, 0, false⟩,
   ⟨0x4100000A, "APWM_SNS_FILTER", (.fixed 8), 0x01, [(0, 255)], false, 64, false, 8, 1, false⟩,
   ⟨0x4100000B, "APWM_STOP_ACTION", (.fixed 8), 0x01, [(0, 0), (1, 1)], false, 64, false, 0, 1, false⟩]


/-- Parameters of class 0x48. -/
def paramRows48_0 : List ParamDef :=
  [⟨0x48000000, "TRP_POLARITY", .stages, 0x01, [(0, 0), (1, 1)], false, 64, false, 0, 1, false⟩,
   ⟨0x48000001, "TRP_FILTER", .stages, 0x01, [(0, 255)], false, 64, false, 40, 1, false⟩,
   ⟨0x48000002, "TRP_BLANK", .stages, 0x02, [(0, 2000)], false, 64, false, 0, 1, false⟩]


/-- Parameters of class 0x50. -/
def paramRows50_0 : List ParamDef :=
  [⟨0x50000000, "FB_MODE", .channels, 0x01, [(0, 5)], false, 64, false, 0, 1, false⟩,
   ⟨0x50000001, "FB_GLITCH", .channels, 0x01, [(0, 31)], false, 64, false, 8, 1, false⟩,
   ⟨0x50000002, "FB_DIR_INVERT", .channels, 0x01, [(0, 0), (1, 1)], false, 64, false, 0, 1, false⟩,
   ⟨0x50000003, "FB_INDEX_MODE", .channels, 0x01, [(0, 3)], false, 64, false, 0, 0, false⟩,
   ⟨0x50000004, "FB_INDEX_GATE", .channels, 0x01, [(0, 0), (1, 1)], false, 64, false, 0, 1, false⟩,
   ⟨0x50000005, "FB_INDEX_VALUE", .channels, 0x13, [(-2147483648, 2147483647)], false, 64, false, 0, 0, false⟩,
   ⟨0x50000006, "FB_COUNTS_REV", .channels, 0x03, [(4, 2147483647)], false, 64, false, 65536, 1, false⟩,
   ⟨0x50000007, "FB_INDEX_TOL", .channels, 0x01, [(0, 255)], false, 64, false, 2, 1, false⟩,
   ⟨0x50000008, "FB_SPEED_TMAX", .channels, 0x03, [(1000, 1000000)], false, 64, false, 20000, 1, false⟩,
   ⟨0x50000009, "FB_SPEED_FRAMES", .channels, 0x01, [(1, 64)], false, 64, false, 64, 1, false⟩,
   ⟨0x5000000A, "FB_SER_HALF", .channels, 0x02, [(20, 2000)], false, 64, false, 20, 1, false⟩,
   ⟨0x5000000B, "FB_SER_BITS", .channels, 0x01, [(8, 32)], false, 64, false, 25, 1, false⟩,
   ⟨0x5000000C, "FB_SER_CODE", .channels, 0x01, [(0, 0), (1, 1)], false, 64, false, 0, 1, false⟩,
   ⟨0x5000000D, "FB_SER_DELAY", .channels, 0x02, [(0, 400)], false, 64, false, 0, 1, false⟩,
   ⟨0x5000000E, "FB_SER_READY", .channels, 0x02, [(40, 49999)], false, 64, false, 40, 1, false⟩,
   ⟨0x5000000F, "FB_SER_JUMP", .channels, 0x03, [(1, 2147483647)], false, 64, false, 1048576, 1, false⟩,
   ⟨0x50000010, "FB_ACK_MAX", .channels, 0x01, [(2, 64)], false, 64, false, 20, 1, false⟩,
   ⟨0x50000011, "FB_ALARM", .channels, 0x01, [(0, 0), (1, 1), (2, 2)], false, 64, false, 0, 1, false⟩,
   ⟨0x50000012, "FB_FAULT_CLEAR", .channels, 0x01, [(0, 0), (1, 1)], false, 64, false, 0, 0, false⟩]


/-- Parameters of class 0x51. -/
def paramRows51_0 : List ParamDef :=
  [⟨0x51000000, "CMP_PULSE", .channels, 0x02, [(40, 40000)], false, 64, false, 400, 0, false⟩,
   ⟨0x51800100, "CMP_EVT_FUNC", (.fixed 16), 0x01, [(0, 0), (1, 1), (2, 2), (3, 3)], false, 64, false, 0, 1, false⟩,
   ⟨0x51800101, "CMP_EVT_IDLE", (.fixed 16), 0x01, [(0, 0), (1, 1)], false, 64, false, 0, 1, false⟩]


/-- Parameters of class 0x52. -/
def paramRows52_0 : List ParamDef :=
  [⟨0x52000000, "LAT_CHANNEL", (.fixed 8), 0x01, [(0, 31)], false, 64, false, 0, 1, false⟩,
   ⟨0x52000001, "LAT_SOURCE", (.fixed 8), 0x01, [(0, 15), (32, 63)], false, 64, false, 0, 1, false⟩,
   ⟨0x52000002, "LAT_FILTER", (.fixed 8), 0x01, [(0, 255)], false, 64, false, 8, 1, false⟩]


/-- Parameters of class 0x58. -/
def paramRows58_0 : List ParamDef :=
  [⟨0x58000000, "RM_MODE", (.fixed 8), 0x01, [(0, 3)], false, 64, false, 0, 1, false⟩,
   ⟨0x58000001, "RM_PULSE", (.fixed 8), 0x01, [(16, 255)], false, 64, false, 16, 1, false⟩,
   ⟨0x58000002, "RM_MIN_PERIOD", (.fixed 8), 0x02, [(40, 65535)], false, 64, false, 40, 1, false⟩,
   ⟨0x58000003, "RM_DIR_SETUP", (.fixed 8), 0x02, [(16, 4000)], false, 64, false, 40, 1, false⟩,
   ⟨0x58000004, "RM_INVERT", (.fixed 8), 0x01, [(0, 3)], false, 64, false, 0, 1, false⟩]


/-- Parameters of class 0x60. -/
def paramRows60_0 : List ParamDef :=
  [⟨0x60000000, "FIO_IN_FILTER", (.fixed 32), 0x01, [(1, 250)], false, 64, false, 30, 1, false⟩,
   ⟨0x60000001, "FIO_IN_TYPE", (.fixed 32), 0x01, [(0, 0), (1, 1)], false, 64, false, 0, 1, false⟩,
   ⟨0x60200002, "FIO_OUT_SAFE", (.fixed 16), 0x01, [(0, 0), (1, 1)], false, 64, false, 0, 1, false⟩,
   ⟨0x60800100, "FIO_PAIR_MASK", (.fixed 1), 0x01, [(0, 255)], false, 64, false, 0, 1, false⟩,
   ⟨0x60800101, "FIO_QUAD_MASK", (.fixed 1), 0x01, [(0, 15)], false, 64, false, 0, 1, false⟩,
   ⟨0x60800102, "FIO_REFRESH_TIMEOUT", (.fixed 1), 0x02, [(100, 2000)], false, 64, false, 500, 1, false⟩]


/-- Parameters of class 0x68, part 1. -/
def paramRows68_0 : List ParamDef :=
  [⟨0x68000000, "SAF_FB_MASK", (.fixed 1), 0x03, [(0, 4294967295)], false, 64, false, 0, 3, false⟩,
   ⟨0x68000001, "SAF_HB_TIMEOUT", (.fixed 1), 0x02, [(1400, 20000)], false, 64, false, 1400, 3, false⟩,
   ⟨0x68000002, "SAF_TEST_TIME", (.fixed 1), 0x02, [(0, 1439)], false, 64, false, 120, 3, false⟩,
   ⟨0x68000003, "SAF_OUT_INTERVAL", (.fixed 1), 0x02, [(100, 10000)], false, 64, false, 1000, 3, false⟩,
   ⟨0x68000004, "SAF_RESET_INPUT", (.fixed 1), 0x01, [(0, 31), (255, 255)], false, 64, false, 255, 3, false⟩,
   ⟨0x68000005, "SAF_RESET_GROUPS", (.fixed 1), 0x01, [(0, 15)], false, 64, false, 15, 3, false⟩,
   ⟨0x68100100, "SAF_PAIR_MODE", (.fixed 16), 0x01, [(0, 2)], false, 64, false, 0, 3, false⟩,
   ⟨0x68100101, "SAF_PAIR_FUNC", (.fixed 16), 0x01, [(1, 10)], false, 64, false, 1, 3, false⟩,
   ⟨0x68100102, "SAF_PAIR_TARGET", (.fixed 16), 0x01, [(0, 15)], false, 64, false, 15, 3, false⟩,
   ⟨0x68100103, "SAF_PAIR_DISC", (.fixed 16), 0x02, [(0, 1000)], false, 64, false, 100, 3, false⟩,
   ⟨0x68100104, "SAF_PAIR_FILTER", (.fixed 16), 0x01, [(1, 250)], false, 64, false, 30, 3, false⟩,
   ⟨0x68100105, "SAF_PAIR_TSRC_A", (.fixed 16), 0x01, [(0, 15), (255, 255)], false, 64, false, 255, 3, false⟩,
   ⟨0x68100106, "SAF_PAIR_TSRC_B", (.fixed 16), 0x01, [(0, 15), (255, 255)], false, 64, false, 255, 3, false⟩,
   ⟨0x68200200, "SAF_GRP_GDFB", (.fixed 4), 0x02, [(1, 100)], false, 64, false, 20, 3, false⟩,
   ⟨0x68300300, "SAF_OUT_TEST", (.fixed 4), 0x01, [(0, 0), (1, 1)], false, 64, false, 1, 3, false⟩,
   ⟨0x68300301, "SAF_OUT_PULSE", (.fixed 4), 0x02, [(100, 800)], false, 64, false, 300, 3, false⟩,
   ⟨0x68300302, "SAF_OUT_SBC_DELAY", (.fixed 4), 0x02, [(0, 1000)], false, 64, false, 0, 3, false⟩,
   ⟨0x68400400, "SAF_MAC_BRAKES", .machines, 0x01, [(0, 15)], false, 64, false, 0, 3, false⟩,
   ⟨0x68500500, "SAF_AX_CH", (.fixed 8), 0x01, [(0, 31), (255, 255)], false, 64, false, 255, 3, false⟩,
   ⟨0x68500501, "SAF_AX_GROUPS", (.fixed 8), 0x01, [(0, 15)], false, 64, false, 0, 3, false⟩]

/-- Parameters of class 0x68, part 2. -/
def paramRows68_1 : List ParamDef :=
  [⟨0x68500502, "SAF_AX_BRAKES", (.fixed 8), 0x01, [(0, 15)], false, 64, false, 0, 3, false⟩,
   ⟨0x68500503, "SAF_AX_STOP", (.fixed 8), 0x01, [(0, 2)], false, 64, false, 1, 3, false⟩,
   ⟨0x68500504, "SAF_AX_SPEED_WIN", (.fixed 8), 0x01, [(1, 40)], false, 64, false, 4, 3, false⟩,
   ⟨0x68500505, "SAF_AX_VMAX", (.fixed 8), 0x03, [(1, 2147483647)], false, 64, false, 1000, 3, false⟩,
   ⟨0x68500506, "SAF_AX_SLS_0", (.fixed 8), 0x03, [(1, 2147483647)], false, 64, false, 1000, 3, false⟩,
   ⟨0x68500507, "SAF_AX_SLS_1", (.fixed 8), 0x03, [(1, 2147483647)], false, 64, false, 1000, 3, false⟩,
   ⟨0x68500508, "SAF_AX_SLS_2", (.fixed 8), 0x03, [(1, 2147483647)], false, 64, false, 1000, 3, false⟩,
   ⟨0x68500509, "SAF_AX_SLS_3", (.fixed 8), 0x03, [(1, 2147483647)], false, 64, false, 1000, 3, false⟩,
   ⟨0x6850050A, "SAF_AX_SS1_DECEL", (.fixed 8), 0x03, [(1, 2147483647)], false, 64, false, 1000, 3, false⟩,
   ⟨0x6850050B, "SAF_AX_SS1_MARGIN", (.fixed 8), 0x03, [(1, 2147483647)], false, 64, false, 100, 3, false⟩,
   ⟨0x6850050C, "SAF_AX_SS1_TIME", (.fixed 8), 0x02, [(10, 30000)], false, 64, false, 3000, 3, false⟩,
   ⟨0x6850050D, "SAF_AX_STANDSTILL_V", (.fixed 8), 0x03, [(0, 2147483647)], false, 64, false, 10, 3, false⟩,
   ⟨0x6850050E, "SAF_AX_SDI_TOL", (.fixed 8), 0x03, [(0, 2147483647)], false, 64, false, 16, 3, false⟩,
   ⟨0x6850050F, "SAF_AX_SSM_WINDOW", (.fixed 8), 0x03, [(1, 2147483647)], false, 64, false, 16, 3, false⟩,
   ⟨0x68500510, "SAF_AX_SSM_AUTO", (.fixed 8), 0x01, [(0, 0), (1, 1)], false, 64, false, 1, 3, false⟩,
   ⟨0x68500511, "SAF_AX_EST_STAGE", (.fixed 8), 0x01, [(0, 23), (255, 255)], false, 64, false, 255, 3, false⟩,
   ⟨0x68500512, "SAF_AX_POLE_PAIRS", (.fixed 8), 0x01, [(1, 64)], false, 64, false, 4, 3, false⟩,
   ⟨0x68500513, "SAF_AX_COUNTS_REV", (.fixed 8), 0x03, [(4, 2147483647)], false, 64, false, 65536, 3, false⟩,
   ⟨0x68500514, "SAF_AX_RS", (.fixed 8), 0x03, [(0, 100000000)], false, 64, false, 0, 3, false⟩,
   ⟨0x68500515, "SAF_AX_LS", (.fixed 8), 0x03, [(0, 1000000000)], false, 64, false, 0, 3, false⟩]

/-- Parameters of class 0x68, part 3. -/
def paramRows68_2 : List ParamDef :=
  [⟨0x68500516, "SAF_AX_PSI", (.fixed 8), 0x03, [(1, 100000000)], false, 64, false, 100000, 3, false⟩,
   ⟨0x68500517, "SAF_AX_I_FS", (.fixed 8), 0x03, [(1000, 2000000)], false, 64, false, 100000, 3, false⟩,
   ⟨0x68500518, "SAF_AX_DC_FS", (.fixed 8), 0x03, [(1000, 20000)], false, 64, false, 10000, 3, false⟩,
   ⟨0x68500519, "SAF_AX_PLAUS_VMIN", (.fixed 8), 0x03, [(1, 2147483647)], false, 64, false, 1000, 3, false⟩,
   ⟨0x6850051A, "SAF_AX_PLAUS_TOL", (.fixed 8), 0x02, [(0, 32767)], false, 64, false, 6554, 3, false⟩,
   ⟨0x6850051B, "SAF_AX_PLAUS_TIME", (.fixed 8), 0x02, [(1, 100)], false, 64, false, 4, 3, false⟩,
   ⟨0x6850051C, "SAF_AX_CH2", (.fixed 8), 0x01, [(0, 31), (255, 255)], false, 64, false, 255, 3, false⟩,
   ⟨0x6850051D, "SAF_AX_RATIO_NUM", (.fixed 8), 0x13, [(-2147483648, 2147483647)], false, 64, false, 1, 3, false⟩,
   ⟨0x6850051E, "SAF_AX_RATIO_DEN", (.fixed 8), 0x03, [(1, 4294967295)], false, 64, false, 1, 3, false⟩,
   ⟨0x6850051F, "SAF_AX_SLIP_WINDOW", (.fixed 8), 0x03, [(0, 0), (1, 2147483647)], false, 64, false, 0, 3, false⟩,
   ⟨0x68500520, "SAF_AX_SLIP_TOL", (.fixed 8), 0x02, [(0, 32767)], false, 64, false, 0, 3, false⟩,
   ⟨0x68500521, "SAF_AX_SLIP_TIME", (.fixed 8), 0x03, [(1, 60000)], false, 64, false, 15000, 3, false⟩,
   ⟨0x68500522, "SAF_AX_BT_CURRENT", (.fixed 8), 0x02, [(0, 32767)], false, 64, false, 3277, 3, false⟩,
   ⟨0x68500523, "SAF_AX_BT_WINDOW", (.fixed 8), 0x03, [(1, 2147483647)], false, 64, false, 16, 3, false⟩,
   ⟨0x68500524, "SAF_AX_BT_CLOSE", (.fixed 8), 0x02, [(50, 2000)], false, 64, false, 300, 3, false⟩,
   ⟨0x68500525, "SAF_AX_BT_HOLD", (.fixed 8), 0x02, [(500, 10000)], false, 64, false, 3000, 3, false⟩]


/-- Parameters of class 0x70. -/
def paramRows70_0 : List ParamDef :=
  [⟨0x70000000, "TIM_SOURCE", (.fixed 1), 0x01, [(0, 3)], false, 64, false, 0, 1, false⟩,
   ⟨0x70000001, "TIM_SOURCE_2", (.fixed 1), 0x01, [(0, 3)], false, 64, false, 0, 1, false⟩,
   ⟨0x70000002, "TIM_CAN_CTRL", (.fixed 1), 0x01, [(0, 3)], false, 64, false, 0, 1, false⟩,
   ⟨0x70000003, "TIM_PPS_PIN", (.fixed 1), 0x01, [(0, 15)], false, 64, false, 0, 1, false⟩,
   ⟨0x70000004, "TIM_PPS_EDGE", (.fixed 1), 0x01, [(0, 0), (1, 1)], false, 64, false, 0, 1, false⟩,
   ⟨0x70000005, "TIM_PPS_DELAY", (.fixed 1), 0x13, [(-100000, 100000)], false, 64, false, 0, 0, false⟩,
   ⟨0x70000006, "TIM_KP", (.fixed 1), 0x02, [(0, 32767)], false, 64, false, 22938, 0, false⟩,
   ⟨0x70000007, "TIM_KI", (.fixed 1), 0x02, [(0, 16384)], false, 64, false, 9830, 0, false⟩,
   ⟨0x70000008, "TIM_SLEW_MAX", (.fixed 1), 0x03, [(1000, 500000)], false, 64, false, 500000, 0, false⟩,
   ⟨0x70000009, "TIM_STEP_THRESHOLD", (.fixed 1), 0x03, [(1000, 1000000000)], false, 64, false, 1000000, 0, false⟩,
   ⟨0x7000000A, "TIM_STEP_MAX", (.fixed 1), 0x03, [(1, 31536000)], false, 64, false, 86400, 0, false⟩,
   ⟨0x7000000B, "TIM_LOCK_WINDOW", (.fixed 1), 0x03, [(10, 1000000)], false, 64, false, 1000, 0, false⟩,
   ⟨0x7000000C, "TIM_SOURCE_TIMEOUT", (.fixed 1), 0x02, [(100, 60000)], false, 64, false, 3000, 0, false⟩,
   ⟨0x7000000D, "TIM_OFFSET_ALARM", (.fixed 1), 0x03, [(0, 0), (1, 1000000000)], false, 64, false, 100000, 0, false⟩]


/-- Parameters of class 0x78. -/
def paramRows78_0 : List ParamDef :=
  [⟨0x78000000, "CAP_PRB_SRC", (.fixed 64), 0x03, [(0, 4294967295)], false, 64, false, 0, 1, false⟩,
   ⟨0x78000001, "CAP_PRB_RED", (.fixed 64), 0x01, [(0, 15)], false, 3, false, 1, 1, false⟩,
   ⟨0x78800100, "CAP_MODE", (.fixed 1), 0x01, [(0, 0), (1, 1)], false, 64, false, 0, 1, false⟩,
   ⟨0x78800101, "CAP_DIV", (.fixed 1), 0x02, [(1, 65535)], false, 64, false, 1, 1, false⟩,
   ⟨0x78800102, "CAP_DECIM", (.fixed 1), 0x02, [(1, 65535)], false, 64, false, 1, 1, false⟩,
   ⟨0x78800103, "CAP_SEGMENTS", (.fixed 1), 0x02, [(1, 1024)], false, 64, false, 1, 1, false⟩,
   ⟨0x78800104, "CAP_PRE", (.fixed 1), 0x03, [(0, 4294967295)], false, 64, false, 0, 1, false⟩,
   ⟨0x78800105, "CAP_POST", (.fixed 1), 0x03, [(1, 4294967295)], false, 64, false, 1, 1, false⟩,
   ⟨0x78800106, "CAP_REARM", (.fixed 1), 0x01, [(0, 0), (1, 1)], false, 64, false, 0, 1, false⟩,
   ⟨0x78800107, "CAP_CERMER", (.fixed 1), 0x01, [(0, 0), (1, 1)], false, 64, false, 0, 1, false⟩,
   ⟨0x78800108, "CAP_EVENT_TYPE", (.fixed 1), 0x01, [(2, 2), (3, 3)], false, 64, false, 2, 1, false⟩,
   ⟨0x78800109, "CAP_EVENT_VALUE", (.fixed 1), 0x03, [(0, 4294967295)], false, 64, false, 0, 1, false⟩,
   ⟨0x7880010A, "CAP_STREAM", (.fixed 1), 0x01, [(0, 0), (1, 1)], false, 64, false, 0, 1, false⟩,
   ⟨0x7880010B, "CAP_STREAM_IP", (.fixed 1), 0x03, [(0, 4294967295)], false, 64, false, 0, 1, false⟩,
   ⟨0x7880010C, "CAP_STREAM_PORT", (.fixed 1), 0x02, [(1, 65535)], false, 64, false, 45321, 1, false⟩,
   ⟨0x7880010D, "CAP_EVID_SEGMENTS", (.fixed 1), 0x01, [(0, 64)], false, 64, false, 0, 1, false⟩,
   ⟨0x7880010E, "CAP_EVID_DIV", (.fixed 1), 0x02, [(1, 65535)], false, 64, false, 40, 1, false⟩,
   ⟨0x7880010F, "CAP_EVID_PRE", (.fixed 1), 0x03, [(0, 4294967295)], false, 64, false, 200, 1, false⟩,
   ⟨0x78800110, "CAP_EVID_BT_DIV", (.fixed 1), 0x02, [(1, 65535)], false, 64, false, 400, 1, false⟩]


/-- Parameters of class 0x80, part 1. -/
def paramRows80_0 : List ParamDef :=
  [⟨0x80000000, "CAN_ENABLE", (.fixed 4), 0x01, [(0, 0), (1, 1)], false, 64, false, 0, 1, false⟩,
   ⟨0x80000001, "CAN_MODE", (.fixed 4), 0x01, [(0, 0), (1, 1)], false, 64, false, 1, 1, false⟩,
   ⟨0x80000002, "CAN_NBRP", (.fixed 4), 0x01, [(1, 32)], false, 64, false, 1, 1, false⟩,
   ⟨0x80000003, "CAN_NTSEG1", (.fixed 4), 0x02, [(2, 256)], false, 64, false, 63, 1, false⟩,
   ⟨0x80000004, "CAN_NTSEG2", (.fixed 4), 0x01, [(1, 128)], false, 64, false, 16, 1, false⟩,
   ⟨0x80000005, "CAN_NSJW", (.fixed 4), 0x01, [(1, 128)], false, 64, false, 16, 1, false⟩,
   ⟨0x80000006, "CAN_DBRP", (.fixed 4), 0x01, [(1, 32)], false, 64, false, 1, 1, false⟩,
   ⟨0x80000007, "CAN_DTSEG1", (.fixed 4), 0x01, [(1, 32)], false, 64, false, 11, 1, false⟩,
   ⟨0x80000008, "CAN_DTSEG2", (.fixed 4), 0x01, [(1, 16)], false, 64, false, 4, 1, false⟩,
   ⟨0x80000009, "CAN_DSJW", (.fixed 4), 0x01, [(1, 16)], false, 64, false, 4, 1, false⟩,
   ⟨0x8000000A, "CAN_TDC_OFFSET", (.fixed 4), 0x01, [(0, 127)], false, 64, false, 12, 1, false⟩,
   ⟨0x8000000B, "CAN_BUSOFF_HOLD", (.fixed 4), 0x01, [(0, 255)], false, 64, false, 0, 1, false⟩,
   ⟨0x8000000C, "CAN_BUSOFF_MAX", (.fixed 4), 0x01, [(0, 0), (1, 255)], false, 64, false, 0, 1, false⟩,
   ⟨0x8000000D, "CAN_WAKE_MODE", (.fixed 4), 0x01, [(0, 0), (1, 1), (2, 2)], false, 64, false, 0, 1, false⟩,
   ⟨0x8000000E, "CAN_WAKE_ID", (.fixed 4), 0x03, [(0, 536870911)], false, 64, false, 0, 1, false⟩,
   ⟨0x8000000F, "CAN_WAKE_ID_MASK", (.fixed 4), 0x03, [(0, 536870911)], false, 64, false, 536870911, 1, false⟩,
   ⟨0x80000010, "CAN_WAKE_DLC", (.fixed 4), 0x01, [(0, 8)], false, 64, false, 8, 1, false⟩,
   ⟨0x80000011, "CAN_WAKE_DATA", (.fixed 4), 0x04, [(0, 18446744073709551615)], false, 64, false, 0, 1, false⟩,
   ⟨0x80000012, "CAN_WAKE_DATA_MASK", (.fixed 4), 0x04, [(0, 18446744073709551615)], false, 64, false, 0, 1, false⟩,
   ⟨0x80000013, "CAN_TT_ROLE", (.fixed 4), 0x01, [(0, 0), (1, 1), (2, 2)], false, 64, false, 0, 1, false⟩]

/-- Parameters of class 0x80, part 2. -/
def paramRows80_1 : List ParamDef :=
  [⟨0x80000014, "CAN_TT_REF_ID", (.fixed 4), 0x02, [(0, 2047)], false, 64, false, 16, 1, false⟩,
   ⟨0x80000015, "CAN_TT_CYCLE", (.fixed 4), 0x03, [(1000, 1000000)], false, 64, false, 10000, 1, false⟩,
   ⟨0x80000016, "CAN_TT_DELAY", (.fixed 4), 0x13, [(-10000, 10000)], false, 64, false, 0, 0, false⟩,
   ⟨0x80000017, "CAN_NODE_ID", (.fixed 4), 0x01, [(1, 127)], false, 64, false, 1, 1, false⟩,
   ⟨0x80000018, "CAN_PROFILE", (.fixed 4), 0x01, [(0, 7)], false, 64, false, 0, 1, false⟩,
   ⟨0x80000019, "CAN_HB_TIME", (.fixed 4), 0x02, [(0, 0), (10, 10000)], false, 64, false, 100, 1, false⟩,
   ⟨0x8000001A, "CAN_CMD_ID", (.fixed 4), 0x02, [(0, 0), (1, 2046)], false, 64, false, 0, 1, false⟩,
   ⟨0x8000001B, "CAN_417_AXIS", (.fixed 4), 0x01, [(0, 63), (255, 255)], false, 64, false, 255, 1, false⟩,
   ⟨0x8000001C, "CAN_417_SESSION", (.fixed 4), 0x02, [(1, 65535)], false, 64, false, 1047, 1, false⟩,
   ⟨0x80000020, "CAN_RXF_ID_0", (.fixed 4), 0x03, [(0, 4294967295)], false, 64, false, 0, 1, false⟩,
   ⟨0x80000021, "CAN_RXF_MASK_0", (.fixed 4), 0x03, [(0, 536870911)], false, 64, false, 0, 1, false⟩,
   ⟨0x80000022, "CAN_RXF_ID_1", (.fixed 4), 0x03, [(0, 4294967295)], false, 64, false, 0, 1, false⟩,
   ⟨0x80000023, "CAN_RXF_MASK_1", (.fixed 4), 0x03, [(0, 536870911)], false, 64, false, 0, 1, false⟩,
   ⟨0x80000024, "CAN_RXF_ID_2", (.fixed 4), 0x03, [(0, 4294967295)], false, 64, false, 0, 1, false⟩,
   ⟨0x80000025, "CAN_RXF_MASK_2", (.fixed 4), 0x03, [(0, 536870911)], false, 64, false, 0, 1, false⟩,
   ⟨0x80000026, "CAN_RXF_ID_3", (.fixed 4), 0x03, [(0, 4294967295)], false, 64, false, 0, 1, false⟩,
   ⟨0x80000027, "CAN_RXF_MASK_3", (.fixed 4), 0x03, [(0, 536870911)], false, 64, false, 0, 1, false⟩,
   ⟨0x80000028, "CAN_RXF_ID_4", (.fixed 4), 0x03, [(0, 4294967295)], false, 64, false, 0, 1, false⟩,
   ⟨0x80000029, "CAN_RXF_MASK_4", (.fixed 4), 0x03, [(0, 536870911)], false, 64, false, 0, 1, false⟩,
   ⟨0x8000002A, "CAN_RXF_ID_5", (.fixed 4), 0x03, [(0, 4294967295)], false, 64, false, 0, 1, false⟩]

/-- Parameters of class 0x80, part 3. -/
def paramRows80_2 : List ParamDef :=
  [⟨0x8000002B, "CAN_RXF_MASK_5", (.fixed 4), 0x03, [(0, 536870911)], false, 64, false, 0, 1, false⟩,
   ⟨0x8000002C, "CAN_RXF_ID_6", (.fixed 4), 0x03, [(0, 4294967295)], false, 64, false, 0, 1, false⟩,
   ⟨0x8000002D, "CAN_RXF_MASK_6", (.fixed 4), 0x03, [(0, 536870911)], false, 64, false, 0, 1, false⟩,
   ⟨0x8000002E, "CAN_RXF_ID_7", (.fixed 4), 0x03, [(0, 4294967295)], false, 64, false, 0, 1, false⟩,
   ⟨0x8000002F, "CAN_RXF_MASK_7", (.fixed 4), 0x03, [(0, 536870911)], false, 64, false, 0, 1, false⟩]


/-- Parameters of class 0x88, part 1. -/
def paramRows88_0 : List ParamDef :=
  [⟨0x88000000, "ETH_ENABLE", (.fixed 2), 0x01, [(0, 0), (1, 1)], false, 64, false, 1, 1, false⟩,
   ⟨0x88000001, "ETH_SPEED", (.fixed 2), 0x01, [(0, 3)], false, 64, false, 0, 1, false⟩,
   ⟨0x88000002, "ETH_IP", (.fixed 2), 0x03, [(0, 4294967295)], false, 64, false, 0, 1, false⟩,
   ⟨0x88000003, "ETH_NETMASK", (.fixed 2), 0x03, [(0, 4294967295)], false, 64, true, 4294967040, 1, false⟩,
   ⟨0x88000004, "ETH_GATEWAY", (.fixed 2), 0x03, [(0, 4294967295)], false, 64, false, 0, 1, false⟩,
   ⟨0x88000005, "ETH_VLAN", (.fixed 2), 0x02, [(0, 0), (1, 4094)], false, 64, false, 0, 1, false⟩,
   ⟨0x88000006, "ETH_PTP_MODE", (.fixed 2), 0x01, [(0, 0), (1, 1)], false, 64, false, 0, 1, false⟩,
   ⟨0x88000007, "ETH_WAKE_EN", (.fixed 2), 0x01, [(0, 0), (1, 1)], false, 64, false, 0, 1, false⟩,
   ⟨0x88800100, "ETH_PTP_CLOCK", (.fixed 1), 0x01, [(0, 0), (1, 1)], false, 64, false, 0, 1, false⟩,
   ⟨0x88800101, "ETH_PTP_STEP", (.fixed 1), 0x01, [(0, 0), (1, 1)], false, 64, false, 0, 1, false⟩,
   ⟨0x88800102, "ETH_PTP_DELAY", (.fixed 1), 0x01, [(0, 0), (1, 1)], false, 64, false, 0, 1, false⟩,
   ⟨0x88800103, "ETH_PTP_TRANSPORT", (.fixed 1), 0x01, [(0, 0), (1, 1)], false, 64, false, 0, 1, false⟩,
   ⟨0x88800104, "ETH_PTP_DOMAIN", (.fixed 1), 0x01, [(0, 127)], false, 64, false, 0, 1, false⟩,
   ⟨0x88800105, "ETH_PTP_PRIO1", (.fixed 1), 0x01, [(0, 255)], false, 64, false, 128, 1, false⟩,
   ⟨0x88800106, "ETH_PTP_PRIO2", (.fixed 1), 0x01, [(0, 255)], false, 64, false, 128, 1, false⟩,
   ⟨0x88800107, "ETH_PTP_SLAVE_ONLY", (.fixed 1), 0x01, [(0, 0), (1, 1)], false, 64, false, 1, 1, false⟩,
   ⟨0x88800108, "ETH_DX_PORT", (.fixed 1), 0x01, [(0, 0), (1, 1), (255, 255)], false, 64, false, 255, 1, false⟩,
   ⟨0x88800109, "ETH_DX_DOMAIN", (.fixed 1), 0x01, [(0, 255)], false, 64, false, 0, 1, false⟩,
   ⟨0x8880010A, "ETH_WAKE_CODE", (.fixed 1), 0x03, [(0, 4294967295)], false, 64, false, 0, 1, false⟩,
   ⟨0x8880010B, "ETH_ICMP", (.fixed 1), 0x01, [(0, 0), (1, 1)], false, 64, false, 1, 1, false⟩]

/-- Parameters of class 0x88, part 2. -/
def paramRows88_1 : List ParamDef :=
  [⟨0x8880010C, "ETH_AUTH_KEY_0", (.fixed 1), 0x04, [(0, 18446744073709551615)], false, 64, false, 0, 1, false⟩,
   ⟨0x8880010D, "ETH_AUTH_KEY_1", (.fixed 1), 0x04, [(0, 18446744073709551615)], false, 64, false, 0, 1, false⟩,
   ⟨0x8880010E, "ETH_AUTH_KEY_2", (.fixed 1), 0x04, [(0, 18446744073709551615)], false, 64, false, 0, 1, false⟩,
   ⟨0x8880010F, "ETH_AUTH_KEY_3", (.fixed 1), 0x04, [(0, 18446744073709551615)], false, 64, false, 0, 1, false⟩]


/-- Parameters of class 0x90. -/
def paramRows90_0 : List ParamDef :=
  [⟨0x90000000, "HSP_AUTH_REQUIRED", (.fixed 1), 0x01, [(0, 0), (1, 1)], false, 64, false, 0, 1, false⟩,
   ⟨0x90000001, "HSP_WAKE_ON_SEL", (.fixed 1), 0x01, [(0, 0), (1, 1)], false, 64, false, 1, 1, false⟩,
   ⟨0x90000002, "HSP_IRQ_LEVEL", (.fixed 1), 0x01, [(0, 4)], false, 64, false, 3, 0, false⟩]


/-- Parameters of class 0x98. -/
def paramRows98_0 : List ParamDef :=
  [⟨0x98000000, "PWR_SERVICE_MODE", (.fixed 1), 0x01, [(0, 0), (1, 1)], false, 64, false, 0, 2, false⟩,
   ⟨0x98000001, "PWR_DEBUG_ALLOW", (.fixed 1), 0x01, [(0, 0), (1, 1)], false, 64, false, 0, 0, false⟩,
   ⟨0x98000002, "PWR_WDT_TIMEOUT", (.fixed 1), 0x02, [(10, 1000)], false, 64, false, 50, 2, false⟩,
   ⟨0x98000003, "PWR_DOMAIN_ESCALATE", (.fixed 1), 0x01, [(1, 10)], false, 64, false, 3, 1, false⟩,
   ⟨0x98000004, "PWR_WAKE_IN_MASK", (.fixed 1), 0x03, [(0, 4294967295)], false, 64, false, 0, 1, false⟩,
   ⟨0x98000005, "PWR_WAKE_TIME", (.fixed 1), 0x02, [(0, 1439), (65535, 65535)], false, 64, false, 65535, 1, false⟩]


/-- Parameters of class 0xA0. -/
def paramRowsA0_0 : List ParamDef :=
  [⟨0xA0000000, "JNL_MIN_SEVERITY", (.fixed 1), 0x01, [(0, 3)], false, 64, false, 0, 0, false⟩,
   ⟨0xA0000001, "JNL_QUEUE_NOTICE", (.fixed 1), 0x02, [(64, 960)], false, 64, false, 768, 0, false⟩]


/-- Parameters of class 0xA8. -/
def paramRowsA8_0 : List ParamDef :=
  [⟨0xA8000000, "AGE_SLACK_TARGET", (.fixed 1), 0x02, [(20, 200)], false, 64, false, 60, 1, false⟩,
   ⟨0xA8000001, "AGE_RETIRE", (.fixed 1), 0x01, [(0, 0), (1, 1)], false, 64, false, 1, 1, false⟩,
   ⟨0xA8000002, "AGE_TREND_DAYS", (.fixed 1), 0x02, [(30, 365)], false, 64, false, 90, 1, false⟩,
   ⟨0xA8000003, "AGE_REPLAN_TIME", (.fixed 1), 0x02, [(0, 1439)], false, 64, false, 150, 0, false⟩]


/-- The parameters of one class (R10). -/
def paramClass : Nat → List ParamDef
  | 0x10 => paramRows10_0
  | 0x20 => paramRows20_0
  | 0x30 => paramRows30_0 ++ paramRows30_1
  | 0x31 => paramRows31_0
  | 0x32 => paramRows32_0
  | 0x33 => paramRows33_0
  | 0x34 => paramRows34_0
  | 0x38 => paramRows38_0
  | 0x39 => paramRows39_0
  | 0x40 => paramRows40_0
  | 0x41 => paramRows41_0
  | 0x48 => paramRows48_0
  | 0x50 => paramRows50_0
  | 0x51 => paramRows51_0
  | 0x52 => paramRows52_0
  | 0x58 => paramRows58_0
  | 0x60 => paramRows60_0
  | 0x68 => paramRows68_0 ++ paramRows68_1 ++ paramRows68_2
  | 0x70 => paramRows70_0
  | 0x78 => paramRows78_0
  | 0x80 => paramRows80_0 ++ paramRows80_1 ++ paramRows80_2
  | 0x88 => paramRows88_0 ++ paramRows88_1
  | 0x90 => paramRows90_0
  | 0x98 => paramRows98_0
  | 0xA0 => paramRowsA0_0
  | 0xA8 => paramRowsA8_0
  | _ => []

/-! ### The identifiers of instance 0 by mnemonic -/

def P.STG_MACHINE : Nat := 0x10000000
def P.STG_SET : Nat := 0x10000001
def P.STG_DC_CHANNEL : Nat := 0x10000002
def P.STG_I_FS : Nat := 0x10000003
def P.STG_SINC3_DEC : Nat := 0x10000004
def P.STG_MOD_DELAY : Nat := 0x10000005
def P.STG_OFFSET_U : Nat := 0x10000006
def P.STG_OFFSET_V : Nat := 0x10000007
def P.STG_FAST_DEC : Nat := 0x10000008
def P.STG_OC_LEVEL : Nat := 0x10000009
def P.STG_OC_COUNT : Nat := 0x1000000A
def P.STG_STUCK_RUN : Nat := 0x1000000B
def P.STG_I_MAX : Nat := 0x1000000C
def P.STG_DC_V_FS : Nat := 0x10800100
def P.STG_DC_SINC3_DEC : Nat := 0x10800101
def P.STG_DC_OFFSET : Nat := 0x10800102
def P.STG_DC_OV_LEVEL : Nat := 0x10800103
def P.STG_DC_VMIN : Nat := 0x10800104
def P.STG_DC_FAST_DEC : Nat := 0x10800105
def P.STG_DC_STUCK_RUN : Nat := 0x10800106
def P.MAC_FB_PRIMARY : Nat := 0x20000000
def P.MAC_FB_SECOND : Nat := 0x20000001
def P.MAC_POLE_PAIRS : Nat := 0x20000002
def P.MAC_COUNTS_REV : Nat := 0x20000003
def P.MAC_ANGLE_OFFSET : Nat := 0x20000004
def P.MAC_ANGLE_OFFSET_2 : Nat := 0x20000005
def P.MAC_RS : Nat := 0x20000006
def P.MAC_LD : Nat := 0x20000007
def P.MAC_LQ : Nat := 0x20000008
def P.MAC_PSI_PM : Nat := 0x20000009
def P.MAC_KP_AB : Nat := 0x2000000A
def P.MAC_KI_AB : Nat := 0x2000000B
def P.MAC_KP_XY : Nat := 0x2000000C
def P.MAC_KI_XY : Nat := 0x2000000D
def P.MAC_XY_VLIM : Nat := 0x2000000E
def P.MAC_TORQUE_MAX : Nat := 0x2000000F
def P.MAC_ID_REF : Nat := 0x20000010
def P.MAC_OVERMOD : Nat := 0x20000011
def P.MAC_DECOUPLE : Nat := 0x20000012
def P.MAC_ALIGN_CURRENT : Nat := 0x20000013
def P.AX_TYPE : Nat := 0x30000000
def P.AX_FB_CHANNEL : Nat := 0x30000001
def P.AX_MACHINE : Nat := 0x30000002
def P.AX_SCALE_NUM : Nat := 0x30000003
def P.AX_SCALE_DEN : Nat := 0x30000004
def P.AX_KP_POS : Nat := 0x30000005
def P.AX_KP_VEL : Nat := 0x30000006
def P.AX_KI_VEL : Nat := 0x30000007
def P.AX_TMAX : Nat := 0x30000008
def P.AX_FOLLOW_ERR : Nat := 0x30000009
def P.AX_FOLLOW_TIME : Nat := 0x3000000A
def P.AX_INPOS_WINDOW : Nat := 0x3000000B
def P.AX_INPOS_TIME : Nat := 0x3000000C
def P.AX_SW_LIMIT_POS : Nat := 0x3000000D
def P.AX_SW_LIMIT_NEG : Nat := 0x3000000E
def P.AX_LIMIT_POS_IN : Nat := 0x3000000F
def P.AX_LIMIT_NEG_IN : Nat := 0x30000010
def P.AX_LIMIT_POLARITY : Nat := 0x30000011
def P.AX_REMOTE_LINK : Nat := 0x30000012
def P.AX_REMOTE_NODE : Nat := 0x30000013
def P.AX_REMOTE_MODE : Nat := 0x30000014
def P.AX_REMOTE_MISS : Nat := 0x30000015
def P.AX_RM : Nat := 0x30000016
def P.AX_VMAX : Nat := 0x31000000
def P.AX_AMAX : Nat := 0x31000001
def P.AX_DMAX : Nat := 0x31000002
def P.AX_JMAX : Nat := 0x31000003
def P.AX_DMAX_QUICK : Nat := 0x31000004
def P.AX_JMAX_QUICK : Nat := 0x31000005
def P.PTH_AXIS_MASK : Nat := 0x32000000
def P.PTH_LOW_WATER : Nat := 0x32000001
def P.GR_MASTER : Nat := 0x33000000
def P.GR_SOURCE : Nat := 0x33000001
def P.GR_NUM : Nat := 0x33000002
def P.GR_DEN : Nat := 0x33000003
def P.TSH_MACHINE_0 : Nat := 0x33000004
def P.TSH_MACHINE_1 : Nat := 0x33000005
def P.TSH_MACHINE_2 : Nat := 0x33000006
def P.TSH_MACHINE_3 : Nat := 0x33000007
def P.TSH_WEIGHT_0 : Nat := 0x33000008
def P.TSH_WEIGHT_1 : Nat := 0x33000009
def P.TSH_WEIGHT_2 : Nat := 0x3300000A
def P.TSH_WEIGHT_3 : Nat := 0x3300000B
def P.HOM_METHOD : Nat := 0x34000000
def P.HOM_DIR : Nat := 0x34000001
def P.HOM_V_FAST : Nat := 0x34000002
def P.HOM_V_SLOW : Nat := 0x34000003
def P.HOM_ACC : Nat := 0x34000004
def P.HOM_OFFSET : Nat := 0x34000005
def P.HOM_SWITCH_IN : Nat := 0x34000006
def P.HOM_LATCH : Nat := 0x34000007
def P.HOM_MAX_TRAVEL : Nat := 0x34000008
def P.LT_MODE : Nat := 0x38000000
def P.LT_INDEX_AXIS : Nat := 0x38000001
def P.LT_TARGET_AXIS : Nat := 0x38000002
def P.LT_NBINS : Nat := 0x38000003
def P.LT_PERIOD_POS : Nat := 0x38000004
def P.LT_PERIOD_SAMPLES : Nat := 0x38000005
def P.LT_ORIGIN : Nat := 0x38000006
def P.LT_SCALE : Nat := 0x38000007
def P.LT_ALPHA : Nat := 0x38000008
def P.LT_BETA : Nat := 0x38000009
def P.LT_Q1 : Nat := 0x3800000A
def P.LT_LEAD : Nat := 0x3800000B
def P.LT_VMIN : Nat := 0x3800000C
def P.LT_VMAX : Nat := 0x3800000D
def P.LT_AMAX : Nat := 0x3800000E
def P.LT_OUT_MAX : Nat := 0x3800000F
def P.FF_ENABLE : Nat := 0x39000000
def P.FF_INERTIA : Nat := 0x39000001
def P.FF_COULOMB : Nat := 0x39000002
def P.FF_VISCOUS : Nat := 0x39000003
def P.FF_V_BAND : Nat := 0x39000004
def P.OBS_ENABLE : Nat := 0x39000005
def P.OBS_BW : Nat := 0x39000006
def P.OBS_RES_LIMIT : Nat := 0x39000007
def P.OBS_RES_TIME : Nat := 0x39000008
def P.OBS_SETTLE : Nat := 0x39000009
def P.OBS_ACTION : Nat := 0x3900000A
def P.LOOP_BUMPLESS : Nat := 0x3900000B
def P.PWM_PHASE : Nat := 0x40000000
def P.PWM_DEADTIME : Nat := 0x40000001
def P.PWM_TEST_DUTY_U : Nat := 0x40000002
def P.PWM_TEST_DUTY_V : Nat := 0x40000003
def P.PWM_TEST_DUTY_W : Nat := 0x40000004
def P.PWM_ALIGN : Nat := 0x40800100
def P.PWM_UPDATE : Nat := 0x40800101
def P.PWM_OPEN_LOOP : Nat := 0x40800102
def P.APWM_MODE : Nat := 0x41000000
def P.APWM_OWNER : Nat := 0x41000001
def P.APWM_T_ON : Nat := 0x41000002
def P.APWM_T_OFF : Nat := 0x41000003
def P.APWM_T_MIN : Nat := 0x41000004
def P.APWM_T_MAX : Nat := 0x41000005
def P.APWM_T_PICK : Nat := 0x41000006
def P.APWM_SRC : Nat := 0x41000007
def P.APWM_MOD_INPUT : Nat := 0x41000008
def P.APWM_MOD_LEVEL : Nat := 0x41000009
def P.APWM_SNS_FILTER : Nat := 0x4100000A
def P.APWM_STOP_ACTION : Nat := 0x4100000B
def P.TRP_POLARITY : Nat := 0x48000000
def P.TRP_FILTER : Nat := 0x48000001
def P.TRP_BLANK : Nat := 0x48000002
def P.FB_MODE : Nat := 0x50000000
def P.FB_GLITCH : Nat := 0x50000001
def P.FB_DIR_INVERT : Nat := 0x50000002
def P.FB_INDEX_MODE : Nat := 0x50000003
def P.FB_INDEX_GATE : Nat := 0x50000004
def P.FB_INDEX_VALUE : Nat := 0x50000005
def P.FB_COUNTS_REV : Nat := 0x50000006
def P.FB_INDEX_TOL : Nat := 0x50000007
def P.FB_SPEED_TMAX : Nat := 0x50000008
def P.FB_SPEED_FRAMES : Nat := 0x50000009
def P.FB_SER_HALF : Nat := 0x5000000A
def P.FB_SER_BITS : Nat := 0x5000000B
def P.FB_SER_CODE : Nat := 0x5000000C
def P.FB_SER_DELAY : Nat := 0x5000000D
def P.FB_SER_READY : Nat := 0x5000000E
def P.FB_SER_JUMP : Nat := 0x5000000F
def P.FB_ACK_MAX : Nat := 0x50000010
def P.FB_ALARM : Nat := 0x50000011
def P.FB_FAULT_CLEAR : Nat := 0x50000012
def P.CMP_PULSE : Nat := 0x51000000
def P.CMP_EVT_FUNC : Nat := 0x51800100
def P.CMP_EVT_IDLE : Nat := 0x51800101
def P.LAT_CHANNEL : Nat := 0x52000000
def P.LAT_SOURCE : Nat := 0x52000001
def P.LAT_FILTER : Nat := 0x52000002
def P.RM_MODE : Nat := 0x58000000
def P.RM_PULSE : Nat := 0x58000001
def P.RM_MIN_PERIOD : Nat := 0x58000002
def P.RM_DIR_SETUP : Nat := 0x58000003
def P.RM_INVERT : Nat := 0x58000004
def P.FIO_IN_FILTER : Nat := 0x60000000
def P.FIO_IN_TYPE : Nat := 0x60000001
def P.FIO_OUT_SAFE : Nat := 0x60200002
def P.FIO_PAIR_MASK : Nat := 0x60800100
def P.FIO_QUAD_MASK : Nat := 0x60800101
def P.FIO_REFRESH_TIMEOUT : Nat := 0x60800102
def P.SAF_FB_MASK : Nat := 0x68000000
def P.SAF_HB_TIMEOUT : Nat := 0x68000001
def P.SAF_TEST_TIME : Nat := 0x68000002
def P.SAF_OUT_INTERVAL : Nat := 0x68000003
def P.SAF_RESET_INPUT : Nat := 0x68000004
def P.SAF_RESET_GROUPS : Nat := 0x68000005
def P.SAF_PAIR_MODE : Nat := 0x68100100
def P.SAF_PAIR_FUNC : Nat := 0x68100101
def P.SAF_PAIR_TARGET : Nat := 0x68100102
def P.SAF_PAIR_DISC : Nat := 0x68100103
def P.SAF_PAIR_FILTER : Nat := 0x68100104
def P.SAF_PAIR_TSRC_A : Nat := 0x68100105
def P.SAF_PAIR_TSRC_B : Nat := 0x68100106
def P.SAF_GRP_GDFB : Nat := 0x68200200
def P.SAF_OUT_TEST : Nat := 0x68300300
def P.SAF_OUT_PULSE : Nat := 0x68300301
def P.SAF_OUT_SBC_DELAY : Nat := 0x68300302
def P.SAF_MAC_BRAKES : Nat := 0x68400400
def P.SAF_AX_CH : Nat := 0x68500500
def P.SAF_AX_GROUPS : Nat := 0x68500501
def P.SAF_AX_BRAKES : Nat := 0x68500502
def P.SAF_AX_STOP : Nat := 0x68500503
def P.SAF_AX_SPEED_WIN : Nat := 0x68500504
def P.SAF_AX_VMAX : Nat := 0x68500505
def P.SAF_AX_SLS_0 : Nat := 0x68500506
def P.SAF_AX_SLS_1 : Nat := 0x68500507
def P.SAF_AX_SLS_2 : Nat := 0x68500508
def P.SAF_AX_SLS_3 : Nat := 0x68500509
def P.SAF_AX_SS1_DECEL : Nat := 0x6850050A
def P.SAF_AX_SS1_MARGIN : Nat := 0x6850050B
def P.SAF_AX_SS1_TIME : Nat := 0x6850050C
def P.SAF_AX_STANDSTILL_V : Nat := 0x6850050D
def P.SAF_AX_SDI_TOL : Nat := 0x6850050E
def P.SAF_AX_SSM_WINDOW : Nat := 0x6850050F
def P.SAF_AX_SSM_AUTO : Nat := 0x68500510
def P.SAF_AX_EST_STAGE : Nat := 0x68500511
def P.SAF_AX_POLE_PAIRS : Nat := 0x68500512
def P.SAF_AX_COUNTS_REV : Nat := 0x68500513
def P.SAF_AX_RS : Nat := 0x68500514
def P.SAF_AX_LS : Nat := 0x68500515
def P.SAF_AX_PSI : Nat := 0x68500516
def P.SAF_AX_I_FS : Nat := 0x68500517
def P.SAF_AX_DC_FS : Nat := 0x68500518
def P.SAF_AX_PLAUS_VMIN : Nat := 0x68500519
def P.SAF_AX_PLAUS_TOL : Nat := 0x6850051A
def P.SAF_AX_PLAUS_TIME : Nat := 0x6850051B
def P.SAF_AX_CH2 : Nat := 0x6850051C
def P.SAF_AX_RATIO_NUM : Nat := 0x6850051D
def P.SAF_AX_RATIO_DEN : Nat := 0x6850051E
def P.SAF_AX_SLIP_WINDOW : Nat := 0x6850051F
def P.SAF_AX_SLIP_TOL : Nat := 0x68500520
def P.SAF_AX_SLIP_TIME : Nat := 0x68500521
def P.SAF_AX_BT_CURRENT : Nat := 0x68500522
def P.SAF_AX_BT_WINDOW : Nat := 0x68500523
def P.SAF_AX_BT_CLOSE : Nat := 0x68500524
def P.SAF_AX_BT_HOLD : Nat := 0x68500525
def P.TIM_SOURCE : Nat := 0x70000000
def P.TIM_SOURCE_2 : Nat := 0x70000001
def P.TIM_CAN_CTRL : Nat := 0x70000002
def P.TIM_PPS_PIN : Nat := 0x70000003
def P.TIM_PPS_EDGE : Nat := 0x70000004
def P.TIM_PPS_DELAY : Nat := 0x70000005
def P.TIM_KP : Nat := 0x70000006
def P.TIM_KI : Nat := 0x70000007
def P.TIM_SLEW_MAX : Nat := 0x70000008
def P.TIM_STEP_THRESHOLD : Nat := 0x70000009
def P.TIM_STEP_MAX : Nat := 0x7000000A
def P.TIM_LOCK_WINDOW : Nat := 0x7000000B
def P.TIM_SOURCE_TIMEOUT : Nat := 0x7000000C
def P.TIM_OFFSET_ALARM : Nat := 0x7000000D
def P.CAP_PRB_SRC : Nat := 0x78000000
def P.CAP_PRB_RED : Nat := 0x78000001
def P.CAP_MODE : Nat := 0x78800100
def P.CAP_DIV : Nat := 0x78800101
def P.CAP_DECIM : Nat := 0x78800102
def P.CAP_SEGMENTS : Nat := 0x78800103
def P.CAP_PRE : Nat := 0x78800104
def P.CAP_POST : Nat := 0x78800105
def P.CAP_REARM : Nat := 0x78800106
def P.CAP_CERMER : Nat := 0x78800107
def P.CAP_EVENT_TYPE : Nat := 0x78800108
def P.CAP_EVENT_VALUE : Nat := 0x78800109
def P.CAP_STREAM : Nat := 0x7880010A
def P.CAP_STREAM_IP : Nat := 0x7880010B
def P.CAP_STREAM_PORT : Nat := 0x7880010C
def P.CAP_EVID_SEGMENTS : Nat := 0x7880010D
def P.CAP_EVID_DIV : Nat := 0x7880010E
def P.CAP_EVID_PRE : Nat := 0x7880010F
def P.CAP_EVID_BT_DIV : Nat := 0x78800110
def P.CAN_ENABLE : Nat := 0x80000000
def P.CAN_MODE : Nat := 0x80000001
def P.CAN_NBRP : Nat := 0x80000002
def P.CAN_NTSEG1 : Nat := 0x80000003
def P.CAN_NTSEG2 : Nat := 0x80000004
def P.CAN_NSJW : Nat := 0x80000005
def P.CAN_DBRP : Nat := 0x80000006
def P.CAN_DTSEG1 : Nat := 0x80000007
def P.CAN_DTSEG2 : Nat := 0x80000008
def P.CAN_DSJW : Nat := 0x80000009
def P.CAN_TDC_OFFSET : Nat := 0x8000000A
def P.CAN_BUSOFF_HOLD : Nat := 0x8000000B
def P.CAN_BUSOFF_MAX : Nat := 0x8000000C
def P.CAN_WAKE_MODE : Nat := 0x8000000D
def P.CAN_WAKE_ID : Nat := 0x8000000E
def P.CAN_WAKE_ID_MASK : Nat := 0x8000000F
def P.CAN_WAKE_DLC : Nat := 0x80000010
def P.CAN_WAKE_DATA : Nat := 0x80000011
def P.CAN_WAKE_DATA_MASK : Nat := 0x80000012
def P.CAN_TT_ROLE : Nat := 0x80000013
def P.CAN_TT_REF_ID : Nat := 0x80000014
def P.CAN_TT_CYCLE : Nat := 0x80000015
def P.CAN_TT_DELAY : Nat := 0x80000016
def P.CAN_NODE_ID : Nat := 0x80000017
def P.CAN_PROFILE : Nat := 0x80000018
def P.CAN_HB_TIME : Nat := 0x80000019
def P.CAN_CMD_ID : Nat := 0x8000001A
def P.CAN_417_AXIS : Nat := 0x8000001B
def P.CAN_417_SESSION : Nat := 0x8000001C
def P.CAN_RXF_ID_0 : Nat := 0x80000020
def P.CAN_RXF_MASK_0 : Nat := 0x80000021
def P.CAN_RXF_ID_1 : Nat := 0x80000022
def P.CAN_RXF_MASK_1 : Nat := 0x80000023
def P.CAN_RXF_ID_2 : Nat := 0x80000024
def P.CAN_RXF_MASK_2 : Nat := 0x80000025
def P.CAN_RXF_ID_3 : Nat := 0x80000026
def P.CAN_RXF_MASK_3 : Nat := 0x80000027
def P.CAN_RXF_ID_4 : Nat := 0x80000028
def P.CAN_RXF_MASK_4 : Nat := 0x80000029
def P.CAN_RXF_ID_5 : Nat := 0x8000002A
def P.CAN_RXF_MASK_5 : Nat := 0x8000002B
def P.CAN_RXF_ID_6 : Nat := 0x8000002C
def P.CAN_RXF_MASK_6 : Nat := 0x8000002D
def P.CAN_RXF_ID_7 : Nat := 0x8000002E
def P.CAN_RXF_MASK_7 : Nat := 0x8000002F
def P.ETH_ENABLE : Nat := 0x88000000
def P.ETH_SPEED : Nat := 0x88000001
def P.ETH_IP : Nat := 0x88000002
def P.ETH_NETMASK : Nat := 0x88000003
def P.ETH_GATEWAY : Nat := 0x88000004
def P.ETH_VLAN : Nat := 0x88000005
def P.ETH_PTP_MODE : Nat := 0x88000006
def P.ETH_WAKE_EN : Nat := 0x88000007
def P.ETH_PTP_CLOCK : Nat := 0x88800100
def P.ETH_PTP_STEP : Nat := 0x88800101
def P.ETH_PTP_DELAY : Nat := 0x88800102
def P.ETH_PTP_TRANSPORT : Nat := 0x88800103
def P.ETH_PTP_DOMAIN : Nat := 0x88800104
def P.ETH_PTP_PRIO1 : Nat := 0x88800105
def P.ETH_PTP_PRIO2 : Nat := 0x88800106
def P.ETH_PTP_SLAVE_ONLY : Nat := 0x88800107
def P.ETH_DX_PORT : Nat := 0x88800108
def P.ETH_DX_DOMAIN : Nat := 0x88800109
def P.ETH_WAKE_CODE : Nat := 0x8880010A
def P.ETH_ICMP : Nat := 0x8880010B
def P.ETH_AUTH_KEY_0 : Nat := 0x8880010C
def P.ETH_AUTH_KEY_1 : Nat := 0x8880010D
def P.ETH_AUTH_KEY_2 : Nat := 0x8880010E
def P.ETH_AUTH_KEY_3 : Nat := 0x8880010F
def P.HSP_AUTH_REQUIRED : Nat := 0x90000000
def P.HSP_WAKE_ON_SEL : Nat := 0x90000001
def P.HSP_IRQ_LEVEL : Nat := 0x90000002
def P.PWR_SERVICE_MODE : Nat := 0x98000000
def P.PWR_DEBUG_ALLOW : Nat := 0x98000001
def P.PWR_WDT_TIMEOUT : Nat := 0x98000002
def P.PWR_DOMAIN_ESCALATE : Nat := 0x98000003
def P.PWR_WAKE_IN_MASK : Nat := 0x98000004
def P.PWR_WAKE_TIME : Nat := 0x98000005
def P.JNL_MIN_SEVERITY : Nat := 0xA0000000
def P.JNL_QUEUE_NOTICE : Nat := 0xA0000001
def P.AGE_SLACK_TARGET : Nat := 0xA8000000
def P.AGE_RETIRE : Nat := 0xA8000001
def P.AGE_TREND_DAYS : Nat := 0xA8000002
def P.AGE_REPLAN_TIME : Nat := 0xA8000003

end Sys2Proof.Machine
end

