-- ==== Sys2Proof/Machine/St/Axis.lean ====
section
/-!
DEFINITION. Sys2Proof/Machine/St/Axis.lean: the state of an axis context, of a path group (chapter 7), of a learning table and
of an axis's observer (chapter 8). Defaults are the values after reset.
-/
namespace Sys2Proof.Machine

/-- The states of an axis, in R299's order, coded as in GET_STATUS. -/
inductive AxisMode where
  | disabled | holding | moving | stopping | fault
deriving DecidableEq, Repr

/-- What moves an axis. -/
inductive Motion where
  | none | abs | rel | vel | path | gear | home | stop
deriving DecidableEq, Repr

/-- The active limits of an axis (R313). -/
structure Limits where
  v : Nat
  a : Nat
  d : Nat
  j : Nat
deriving DecidableEq, Repr

/-- A profile (R311, R312): where it began (pu, pu/s, pu/s²), its segments of constant jerk with their durations in s, and the
time it has run; `target` is the exact end position in 48.16, none where the end is a velocity. -/
structure Profile where
  p0 : Rat
  v0 : Rat
  a0 : Rat
  segs : List (Rat × Rat)
  t : Rat
  target : Option Int
deriving DecidableEq, Repr

/-- A gear engaged or synchronising (R325 to R327): REM, the master's position at the last sample, and the journal slot of
a GEAR_ENGAGE whose relation has not started. -/
structure GearSt where
  rem : Nat
  master : Int
  pending : Option Nat
deriving DecidableEq, Repr

/-- A homing in progress (R332 to R335). `phase` 0 seeks the limit or switch, 1 waits for its release, 2 waits for the reference
event, 3 stops. `travel` is the way so far and `last` the position it was reckoned to, `changes` counts the changes of the sought
level after its first activation, `level` is that level, `events` the events of the channel or latch seen before. -/
structure HomeSt where
  slot : Nat
  method : Nat
  phase : Nat
  travel : Nat
  last : Int
  changes : Nat
  level : Bool
  sought : Bool
  events : Nat
deriving DecidableEq, Repr

/-- The observer of an axis (R373 to R375). Its quantities are exact rationals: pu/s and 0.01 N·m. -/
structure ObsSt where
  /-- vh; R373; reset 0 -/
  vh : Rat := 0
  /-- d; R373; reset 0 -/
  d : Rat := 0
  /-- rf; R373; reset 0 -/
  rf : Rat := 0
  /-- the test is suspended; R374; reset true -/
  suspended : Bool := true
  /-- model cycle at which OBS_SETTLE ends; R374; reset none -/
  settleTo : Option Nat := none
  /-- model cycle since which |rf| exceeds the limit at every sample; R375; reset none -/
  overFrom : Option Nat := none
  /-- model cycle since which |rf| is below half the limit; R375; reset none -/
  underFrom : Option Nat := none
  /-- plausibility flag; R375; reset 0 -/
  flag : Bool := false
deriving DecidableEq, Repr

/-- An axis context (R296 to R339). Positions are in units of 2⁻¹⁶ pu. -/
structure AxisSt where
  /-- state; R299; reset DISABLED -/
  mode : AxisMode := .disabled
  /-- e, signed 64-bit; R298; reset 0 -/
  ext : Int := 0
  /-- count of the channel at the previous sample; R298; reset none -/
  prev : Option Int := none
  /-- homing offset o; R298; reset 0 -/
  offset : Int := 0
  /-- position p; R298; reset 0 -/
  pos : Int := 0
  /-- velocity, pu/s; R298; reset 0 -/
  vel : Int := 0
  /-- commanded position; R299; reset 0 -/
  pcmd : Int := 0
  /-- commanded velocity and acceleration, 2⁻³² pu/s and pu/s²; R312; reset 0 -/
  vcmd : Int := 0
  acmd : Int := 0
  /-- profile that runs; R311; reset none -/
  profile : Option Profile := none
  /-- what moves the axis; reset none -/
  motion : Motion := .none
  /-- velocity of a running MOVE_VEL or of a synchronising slave, 2⁻³² pu/s; R315, R327; reset 0 -/
  velSet : Int := 0
  /-- software limit a MOVE_VEL ends at: 3 positive, 4 negative, 0 none; R315; reset 0 -/
  limitCode : Nat := 0
  /-- the running stop is a quick stop; R316; reset false -/
  quick : Bool := false
  /-- commanded position of the previous sample; R325; reset 0 -/
  pcmdLast : Int := 0
  /-- journal slot of the running move, path or HOME; reset none -/
  slot : Option Nat := none
  /-- journal slots of STOP commands in progress; R316; reset empty -/
  stops : List Nat := []
  /-- limits replaced by SET_MOTION_LIMITS; R313; reset none -/
  limits : Option Limits := none
  /-- integrator i, 0.01 N·m, exact; R377; reset 0 -/
  integ : Rat := 0
  /-- torque demand, 0.01 N·m; R308; reset 0 -/
  torque : Int := 0
  /-- proportional torque, 0.01 N·m; R362; reset 0 -/
  prop : Rat := 0
  /-- the torque was limited in the last sample; R363; reset false -/
  limited : Bool := false
  /-- AX_KP_VEL of the last sample; R381; reset none -/
  kpLast : Option Nat := none
  /-- model cycle since which the following error exceeds its limit; R304; reset none -/
  followFrom : Option Nat := none
  /-- model cycle since which |e_p| lies in the window after the profile's end; R310; reset none -/
  windowFrom : Option Nat := none
  /-- fault cause 1 to 5; R304; reset 0 -/
  cause : Nat := 0
  /-- the channel has had POS_VALID while the axis ran; R304; reset false -/
  hadValid : Bool := false
  /-- accepted commands not taken yet; R301; reset empty -/
  queue : List Cmd := []
  /-- model cycle of the valley of the last sample; R301; reset none -/
  sampled : Option Nat := none
  /-- samples since the Ridge started; R359; reset 0 -/
  samples : Nat := 0
  /-- gear; R326; reset none -/
  gear : Option GearSt := none
  /-- consecutive samples above AX_VMAX while geared; R328; reset 0 -/
  fast : Nat := 0
  /-- homing; R332; reset none -/
  home : Option HomeSt := none
  /-- SAFETY_DEMAND refuses motion until SAFETY_RESET; R306; reset false -/
  demanded : Bool := false
  /-- machines in the active set A at the last sample; R331; reset all -/
  active : List Nat := []
  /-- consecutive missing replies; R304; reset 0 -/
  misses : Nat := 0
  /-- frame counter of the sample whose setpoint was sent last and not answered yet; R641, R682; reset none -/
  sentFrame : Option Nat := none
  /-- commanded less actual position of the last reply; R309; reset 0 -/
  remoteErr : Int := 0
  /-- PP: a new set-point waits to be forwarded, and the halt of a STOP; R339; reset false -/
  ppNew : Bool := false
  ppHalt : Bool := false
  /-- the remote drive reports enabled; R302; reset false -/
  remoteOn : Bool := false
  /-- AXIS_ENABLE of a remote axis in progress: journal slot and model cycle; R302; reset none -/
  enabling : Option (Nat × Nat) := none
  /-- commanded positions of the last 8 samples with their CYCLE, newest first; R309; reset empty -/
  sentPos : List (Nat × Int) := []
  /-- the drive reports its target reached; R339; reset false -/
  reached : Bool := false
  /-- the drive reports a fault; R347; reset false -/
  driveFault : Bool := false
  /-- drive's fault code of the last reply; R347; reset 0 -/
  driveCode : Nat := 0
  /-- halt set in every later setpoint; R304; reset false -/
  halt : Bool := false
  /-- hardware limits recorded as reached: bit 0 positive, bit 1 negative; R336; reset 0 -/
  limitTold : Nat := 0
  /-- a brake test has the torque: fixed torque demand; R506; reset none -/
  brake : Option Int := none
  /-- the observer; R373 -/
  obs : ObsSt := {}
deriving DecidableEq, Repr

/-- A path group (R320 to R324). -/
structure PathSt where
  /-- queued segments, at most 256, the running one first; R320; reset empty -/
  segs : List PathSeg := []
  /-- journal slot of PATH_START while the path runs; R324; reset none -/
  slot : Option Nat := none
  /-- sample k within the running segment; R322; reset 0 -/
  k : Nat := 0
  /-- (p0, v0) per member, axes ascending; R322; reset empty -/
  from_ : List (Int × Int) := []
  /-- end of the last segment queued, per member; R323; reset none -/
  tail : Option (List (Int × Int)) := none
  /-- model cycle of the valley at which the group stepped last; R322; reset none -/
  stepped : Option Nat := none
  /-- PATH_LOW recorded since the queue was above its mark; R350; reset false -/
  lowTold : Bool := false
deriving DecidableEq, Repr

/-- A learning table's states (R366). -/
inductive TableMode where
  | off | active | frozen | blanked
deriving DecidableEq, Repr

/-- A learning table (R358 to R372). -/
structure TableSt where
  /-- state; R366; reset OFF -/
  mode : TableMode := .off
  /-- cause mask, bits [5:0]; R367; reset 0 -/
  causes : Nat := 0
  /-- bins w[b], Q15; R358; reset 0 -/
  bins : Store Int := []
  /-- it learned in the last sample; R369; reset false -/
  learned : Bool := false
  /-- number of updates, 32 bits; R369; reset 0 -/
  updates : Nat := 0
  /-- output of the last sample, 0.01 N·m, exact; R361; reset 0 -/
  out : Rat := 0
  /-- target axis torque limited in the previous sample; R363; reset false -/
  wasLimited : Bool := false
  /-- conditions of cause bits 1 and 2 that held at the last sample; R367; reset both -/
  held : Nat := 6
  /-- FREEZE, RESUME, CLEAR, WRITE and READ waiting for a frame start; R369, R370; reset empty -/
  ops : List Cmd := []
  /-- saved copy: index parameters and bins; R369; parameter store, new module none -/
  saved : Option (List Int × Store Int) := none
  /-- state and cause mask last written to the parameter store; R371; new module none -/
  stored : Option (TableMode × Nat) := none
deriving DecidableEq, Repr

end Sys2Proof.Machine
end

