-- ==== Sys2Proof/Machine/St/Can.lean ====
section
/-!
DEFINITION. Sys2Proof/Machine/St/Can.lean: the state of a CAN FD controller (chapter 14): its state and counters, transmit and
receive buffers, command transport, time-triggered reference and profiles. Defaults are the values after reset.
-/
namespace Sys2Proof.Machine

/-- A controller's states (R652, R664). -/
inductive CanState where
  | off | active | busOff | sleep
deriving DecidableEq, Repr

/-- A transmit buffer's states (R666): free, pending, in transmission. -/
inductive TxState where
  | free | pending | sending
deriving DecidableEq, Repr

/-- A transmit buffer (R657, R665 to R670). -/
structure TxBuf where
  state : TxState := .free
  /-- journal slot of its CAN_SEND -/
  slot : Option Nat := none
  /-- journal slots of late CAN_CANCELs (R670) -/
  cancels : List Nat := []
  ident : Nat := 0
  ext : Bool := false
  fd : Bool := false
  brs : Bool := false
  /-- TT cycle mask and time mark (R669) -/
  tt : Option (Nat × Nat) := none
  data : List Nat := []
  /-- model cycle of its timeout (R668) -/
  deadline : Option Nat := none
  /-- stamp of its start-of-frame sample point, ns (R666) -/
  sof : Nat := 0
deriving DecidableEq, Repr

/-- A frame as a receive buffer holds it (R659). -/
structure RxFrame where
  word0 : Nat
  fd : Bool
  brs : Bool
  esi : Bool
  filter : Nat
  ns : Nat
  data : List Nat
deriving DecidableEq, Repr

/-- A receive mailbox or FIFO buffer (R659 to R663). -/
structure RxBuf where
  /-- the frame, none while not FULL -/
  frame : Option RxFrame := none
  /-- RX_SEQ, 8 bits -/
  seq : Nat := 0
  /-- LOCK_TIMEOUT -/
  lockTimeout : Bool := false
  /-- OVERWRITTEN -/
  overwritten : Bool := false
  /-- OVER_COUNT, 16 bits -/
  overCount : Nat := 0
  /-- master that holds the lock and model cycle of the lock (R661) -/
  lock : Option (Nat × Nat) := none
  /-- frame held while locked (R662) -/
  waiting : Option RxFrame := none
deriving DecidableEq, Repr

/-- A CAN FD controller (R648 to R682). -/
structure CanSt where
  /-- STATE; R652; reset OFF -/
  state : CanState := .off
  /-- PASSIVE; R653; reset 0 -/
  passive : Bool := false
  /-- transmit and receive error counters; R657; reset 0 -/
  txErrors : Nat := 0
  rxErrors : Nat := 0
  /-- model cycles of bus-off entries in the last 60 s; R656; reset empty -/
  busOffs : List Nat := []
  /-- RX_LOST, saturating; R657; reset 0 -/
  rxLost : Nat := 0
  /-- RX_LOST at the last CAN_RX_LOST record; R662; reset 0 -/
  rxLostTold : Nat := 0
  /-- head and level of the receive FIFO; R658, R664; reset 0 -/
  fifoHead : Nat := 0
  fifoLevel : Nat := 0
  /-- receive FIFO buffers 0 to 31; R657; reset empty -/
  fifo : Store RxBuf := []
  /-- receive mailboxes 0 to 47; R657; reset empty -/
  boxes : Store RxBuf := []
  /-- transmit buffers 0 to 31; R657; reset free -/
  tx : Store TxBuf := []
  /-- firmware frames waiting for their buffer: buffer and contents; R665; reset empty -/
  backlog : List (Nat × TxBuf) := []
  /-- TT_SYNC; R664; reset 0 -/
  ttSync : Bool := false
  /-- WAKE_SEEN; R664; reset 0 -/
  wakeSeen : Bool := false
  /-- command segments received: bytes, next segment, TOGGLE, model cycle of the first; R674; reset none -/
  cmdRx : Option (List Nat × Nat × Bool × Nat) := none
  /-- TOGGLE of the last packet sent; R674; reset false -/
  cmdTxToggle : Bool := false
  /-- cycle count of the next reference message sent, of the last one, and its stamp while VALID; R675; reset 0, none -/
  ttCount : Nat := 0
  ttSentNs : Option Nat := none
  /-- time slave: count and local stamp of the last reference message; R676; reset none -/
  ttLast : Option (Nat × Nat) := none
  /-- model cycle of the last valid reference message; R676; reset 0 -/
  ttFrom : Nat := 0
  /-- CANopen NMT state of the module: 0 boot, 4 stopped, 5 operational, 127 pre-operational; R679; reset 0 -/
  nmt : Nat := 0
  /-- consumed nodes: model cycle of the last heartbeat; R684; reset empty -/
  beats : Store Nat := []
  /-- nodes whose heartbeat is lost; R684; reset empty -/
  lostNodes : List Nat := []
  /-- door states by door; R680; reset 0 -/
  doors : Store Nat := []
  /-- remote drives' statuswords and positions by node; R681; reset 0 -/
  status : Store Nat := []
  position : Store Int := []
  /-- nodes whose TPDO of the present cycle is in its mailbox; R682; reset empty -/
  answered : List Nat := []
  /-- sequence of the next CiA 417 setpoint; R680; reset 0 -/
  seq417 : Nat := 0
deriving DecidableEq, Repr

end Sys2Proof.Machine
end

