-- ==== Sys2Proof/Machine/St/Capture.lean ====
section
/-!
DEFINITION. Sys2Proof/Machine/St/Capture.lean: the state of the capture engine (chapter 12): sequencer, segments with their records,
the evidence channel and the stream. Defaults are the values after reset.
-/
namespace Sys2Proof.Machine

/-- The capture states, coded as in CAPTURE_STATUS (R600). -/
inductive CapState where
  | idle | pre | wait | post | stopped | overflow
deriving DecidableEq, Repr

/-- A record (R579): ns of its last and of its first sample, FLAGS and values with their widths in bytes. -/
structure CapRecord where
  ns : Nat
  first : Nat
  flags : Nat
  values : List (Nat × Nat)
deriving DecidableEq, Repr

/-- A segment (R584 to R586): header fields and records in time order. -/
structure SegSt where
  /-- it holds a capture; R587; reset free -/
  held : Bool := false
  kind : Nat := 0
  ending : Nat := 0
  trigger : Option Nat := none
  start : Option Nat := none
  finish : Option Nat := none
  pre : Nat := 0
  size : Nat := 0
  state : Nat := 0xFF
  cond : Nat := 0
  flags : Nat := 0
  gen : Nat := 0
  offset : Nat := 0
  /-- evidence: cause bit or output -/
  detail : Nat := 0
  records : List CapRecord := []
deriving DecidableEq, Repr

/-- The valid samples of one probe in the block under way (R578): their number, the last, the least, the greatest, the sum. -/
structure ProbeAcc where
  n : Nat := 0
  last : Int := 0
  lo : Int := 0
  hi : Int := 0
  sum : Int := 0
deriving DecidableEq, Repr

/-- The block under way (R578): samples taken, the probes in use, ns of the first sample, flags. -/
structure BlockSt where
  count : Nat := 0
  accs : List ProbeAcc := []
  first : Nat := 0
  flags : Nat := 0
deriving DecidableEq, Repr

/-- What a capture was armed with (R597): probes in use (number, source, reductions), and the engine parameters. -/
structure CapConfig where
  probes : List (Nat × Nat × Nat) := []
  mode : Nat := 0
  divider : Nat := 1
  decim : Nat := 1
  pre : Nat := 0
  post : Nat := 1
  rearm : Bool := false
  cermer : Bool := false
  eventType : Nat := 2
  eventValue : Nat := 0
  stream : Bool := false
  states : List TrigState := []
deriving DecidableEq, Repr

/-- The evidence channel (R590 to R593). -/
structure EvidSt where
  /-- it runs from the first Ridge start; R590; reset false -/
  runs : Bool := false
  /-- pre-trigger ring, oldest first; R590; reset empty -/
  ring : List CapRecord := []
  /-- block under way; R578 -/
  block : BlockSt := {}
  /-- segment that records; R592; reset none -/
  segment : Option Nat := none
  /-- EVIDENCE_MISSED count, 16 bits; R600; reset 0 -/
  missed : Nat := 0
  /-- STEP_EPOCH at the previous record; R579; reset 0 -/
  stepEpoch : Nat := 0
  /-- values latched at the valley, by evidence probe in use; R575; reset empty -/
  valley : List (Option Int) := []
deriving DecidableEq, Repr

/-- The capture engine (R574 to R604). -/
structure CapSt where
  /-- state; R600; reset IDLE -/
  state : CapState := .idle
  /-- CAPTURE_ARM waiting for its first frame start: journal slot; R600; reset none -/
  arming : Option Nat := none
  /-- the armed configuration; R597 -/
  cfg : CapConfig := {}
  /-- sequencer state, match count and sample count; R582; reset 0 -/
  seqState : Nat := 0
  matches_ : Nat := 0
  samples : Nat := 0
  /-- the sequencer holds after a trigger; R583; reset false -/
  holds : Bool := false
  /-- current segment; R600; reset 0 -/
  segment : Nat := 0
  /-- segments by number; R584; reset free -/
  segs : Store SegSt := []
  /-- block under way; R578 -/
  block : BlockSt := {}
  /-- a trigger taken whose block is not complete: offset in the block, ns, state and condition; R583, R586; reset none -/
  trig : Option (Nat × Nat × Nat × Nat) := none
  /-- values of the probes in the last sample, by probe; R581; reset empty -/
  lastVals : List (Option Int) := []
  /-- counter and ns of the frame under way, none while no frames run; R575; reset none -/
  valley : Option (Nat × Nat) := none
  /-- values latched at its valley, by probe in use; R575; reset empty -/
  valleyVals : List (Option Int) := []
  /-- values of the last completed frame, by probe in use; R576; reset empty -/
  frameVals : List (Option Int) := []
  /-- events waiting in event mode: type, value, ns, at most 16; R576; reset empty -/
  events : List (Nat × Nat × Nat) := []
  /-- EVT edges since the last sample: pin, rising, ns; R581; reset empty -/
  edges : List (Nat × Bool × Nat) := []
  /-- reports and their ns since the last sample: source, code, level, ns; R581; reset empty -/
  reports : List (Nat × Nat × Nat × Nat) := []
  /-- values exported by out-slots of kind 0x08: probe number, frame and value; R575; reset empty -/
  exports : Store (Option (Nat × Nat)) := []
  /-- STEP_EPOCH at the previous record; R579; reset 0 -/
  stepEpoch : Nat := 0
  /-- a segment completed and CAPTURE_REARM is due; R587; reset false -/
  rearming : Bool := false
  /-- evidence channel; R590 -/
  evid : EvidSt := {}
  /-- what CW_15 holds for the stream, oldest first: segment, index within it, bytes; R595; reset empty -/
  stream : List (Nat × Nat × Nat) := []
  /-- segments whose header is due in the stream; R595; reset empty -/
  streamEnds : List Nat := []
  /-- stream datagrams sent; R600; reset 0 -/
  datagrams : Nat := 0
deriving DecidableEq, Repr

end Sys2Proof.Machine
end

