-- ==== Sys2Proof/Machine/St/Feedback.lean ====
section
/-!
DEFINITION. Sys2Proof/Machine/St/Feedback.lean: the state of a feedback channel with its compare list, of an EVT pin, of a
latch (chapter 6) and of a rate multiplier (chapter 7). Defaults are the values after reset.
-/
namespace Sys2Proof.Machine

/-- A counted edge: its count and the ns stamp of the raw edge (R267, R268). -/
structure Edge where
  count : Int
  ns : Nat
deriving DecidableEq, Repr

/-- Sources of SPEED, coded as CH_STATUS.SPEED_SRC (R273). -/
inductive SpeedSource where
  | none | timing | bound | count
deriving DecidableEq, Repr

/-- What became of a compare entry (R279 to R282). -/
inductive CmpState where
  | empty | armed | fired | passed
deriving DecidableEq, Repr

/-- An entry of a compare list in force (R279, R282). -/
structure CmpSt where
  position : Int := 0
  qual : Nat := 0
  pin : Nat := 0
  action : Nat := 0
  state : CmpState := .empty
  /-- fire stamp, compact -/
  stamp : Nat := 0
deriving DecidableEq, Repr

/-- A COMPARE_LOAD on its way (R280): journal slot, entries, and the model cycle of its frame cycle 16 once its frame
start has come. -/
structure CmpLoad where
  slot : Nat
  entries : List CompareEntry
  due : Option Nat
deriving DecidableEq, Repr

/-- A feedback channel (R246 to R278). -/
structure FbSt where
  /-- COUNT, signed 32-bit; R247; reset 0 -/
  count : Int := 0
  /-- last counted edge L; R268; reset none -/
  last : Option Edge := none
  /-- reference edge R while valid; R268; reset invalid -/
  ref : Option Edge := none
  /-- direction of the last counted edge, DIR: negative; R273; reset 0 -/
  dirNeg : Bool := false
  /-- a counted edge has occurred since the previous snapshot; R269; reset false -/
  edged : Bool := false
  /-- the last counted edge lies after the last timebase step; R543; reset true -/
  epochOk : Bool := true
  /-- model cycle of the raw edge of the last counted edge; R273; reset none -/
  lastAt : Option Nat := none
  /-- SPEED, 1/16 count/s; R270; reset 0 -/
  speed : Int := 0
  /-- speed before rounding, counts/s, and its source; R269; reset 0, none -/
  exact : Rat := 0
  source : SpeedSource := .none
  /-- counts of the latest snapshots taken at one pace, newest first, at most 64; R807; reset empty -/
  history : List Int := []
  /-- the history was taken at the pace of a stopped Ridge; R807; reset true -/
  slowPace : Bool := true
  /-- MOVING at the last snapshot; R273; reset 0 -/
  moving : Bool := false
  /-- INDEX_COUNT and INDEX_STAMP; R253; reset 0 -/
  indexCount : Int := 0
  indexStamp : Nat := 0
  /-- INDEX_SEEN; R273; reset 0 -/
  indexSeen : Bool := false
  /-- mode 2 waits for its first index event; R253; reset false -/
  indexSet : Bool := false
  /-- count of the previous index event while no reversal has followed it; R255; reset none -/
  indexPrev : Option Int := none
  /-- index events since reset, for homing; R332; reset 0 -/
  indexEvents : Nat := 0
  /-- illegal-transition counter, 16 bits; R251; reset 0 -/
  illegal : Nat := 0
  /-- model cycles of the last three illegal transitions, newest first; R252; reset empty -/
  illegalAt : List Nat := []
  /-- HALL; R256; reset 0 -/
  hall : Nat := 0
  /-- a Hall code has been seen since the channel began; R256; reset false -/
  hallKnown : Bool := false
  /-- the code was 0 or 7 at the previous snapshot; R257; reset false -/
  hallBad : Bool := false
  /-- POS_VALID; R274; reset 0 -/
  posValid : Bool := false
  /-- FB_FAULT bits [10:0]; R276; reset 0 -/
  fault : Nat := 0
  /-- causes 3 to 10 present as the last transaction or alarm sample left them, by bit of FB_FAULT; R276; reset 0 -/
  present : Nat := 0
  /-- AGE; R273; reset 0 -/
  age : Bool := false
  /-- WARN; R273; reset 0 -/
  warn : Bool := false
  /-- CRC_ERR; R273; reset 0 -/
  crcErr : Bool := false
  /-- previous serial position; R264; reset none -/
  serPrev : Option Nat := none
  /-- SER_RAW; reset 0 -/
  serRaw : Nat := 0
  /-- serial count of a good value waiting for FB_SER_READY; R265; reset none -/
  serGood : Option Int := none
  /-- the transaction of this frame has ended; R265; reset false -/
  serEnded : Bool := false
  /-- consecutive frames with a late transaction; R265; reset 0 -/
  serLate : Nat := 0
  /-- the transaction of this frame has been transferred; R265, R266; reset false -/
  serTaken : Bool := false
  /-- serial good values seen; R274; reset false -/
  serSeen : Bool := false
  /-- counting stopped in STANDBY; R275; reset false -/
  stopped : Bool := false
  /-- the snapshot's words: COUNT, EDGE_COUNT, EDGE_STAMP, SPEED, INDEX_COUNT, VALLEY_STAMP, CH_STATUS, FB_FAULT; R272; reset 0 -/
  snap : List Nat := [0, 0, 0, 0, 0, 0, 0, 0]
  /-- ns of the last snapshot; R269; reset 0 -/
  snapNs : Nat := 0
  /-- compare list, entries 0 to 15; R279; reset empty -/
  cmp : Store CmpSt := []
  /-- COMPARE_LOADs waiting for frame cycle 16 of their frame start; R280; reset empty -/
  loads : List CmpLoad := []
deriving DecidableEq, Repr

/-- An EVT pin as an output (R283, R284). -/
structure EvtSt where
  /-- level driven: none while the pin is an input; reset input -/
  level : Option Bool := none
  /-- model cycle at which the pulse running on it ends; R283; reset none -/
  pulseTo : Option Nat := none
deriving DecidableEq, Repr

/-- A capture of a latch (R286): count, full stamp, and whether it was interpolated, POS_VALID and FAULT. -/
structure Latched where
  count : Int
  ns : Nat
  interp : Bool
  posValid : Bool
  fault : Bool
deriving DecidableEq, Repr

/-- A latch (R285 to R290). -/
structure LatchSt where
  /-- ARMED; R290; reset 0 -/
  armed : Bool := false
  /-- edge: 1 rising, 2 falling, 3 both; R287; reset 0 -/
  edge : Nat := 0
  /-- CONTINUOUS; R287; reset false -/
  cont : Bool := false
  /-- journal slot of a SINGLE LATCH_ARM in progress; R287; reset none -/
  slot : Option Nat := none
  /-- captures queued, at most 4; R288; reset empty -/
  queue : List Latched := []
  /-- OVERFLOW; R290; reset 0 -/
  overflow : Bool := false
  /-- edges seen for homing: rising and falling with count and ns of the last; R332; reset none -/
  lastEdge : Option (Bool × Latched) := none
  /-- edges seen since reset; R332; reset 0 -/
  edges : Nat := 0
deriving DecidableEq, Repr

/-- A rate multiplier (R340 to R346). -/
structure RateSt where
  /-- W, signed 40-bit; R341; reset 0 -/
  w : Int := 0
  /-- extended accumulator at model cycle `from_`: bits [39:0] are the accumulator, its integer part the accumulated carries; R341,
  R344; reset 0 -/
  ext : Int := 0
  /-- model cycle up to which the accumulator is computed; R341; reset 0 -/
  from_ : Nat := 0
  /-- steps emitted, signed, of which RM_COUNT holds 32 bits and PENDING the difference to the carries; R343; reset 0 -/
  emitted : Int := 0
  /-- model cycle of the last emitted step; R343; reset none -/
  lastStep : Option Nat := none
  /-- direction level, 1 negative; R343; reset 0 -/
  dirNeg : Bool := false
  /-- model cycle of the last change of direction; R343; reset 0 -/
  dirFrom : Nat := 0
  /-- quadrature phase 0 to 3; R343; reset 0 -/
  phase : Nat := 0
  /-- model cycle of the last write of W; R345; reset none -/
  lastWrite : Option Nat := none
  /-- RM_STALE; R346; reset 0 -/
  stale : Bool := false
  /-- RM_SAT; R346; reset 0 -/
  sat : Bool := false
deriving DecidableEq, Repr

end Sys2Proof.Machine
end

