-- ==== Sys2Proof/Machine/St/Field.lean ====
section
/-!
DEFINITION. Sys2Proof/Machine/St/Field.lean: the state of the field inputs and outputs with their isolator links and supplies
(chapter 15). Defaults are the values after reset.
-/
namespace Sys2Proof.Machine

/-- A field supply's states, coded as in FIO_SUPPLY (R702). -/
inductive SupplyState where
  | good | low | missing
deriving DecidableEq, Repr

/-- A field supply (R699). -/
structure SupplySt where
  /-- present state; R702; reset MISSING -/
  state : SupplyState := .missing
  /-- its first state has been taken since the reset or wake; R699; reset false -/
  known : Bool := false
  /-- last measurement, 0.1 V; R699; reset 0 -/
  volts : Nat := 0
  /-- last measurements, newest first, at most 4; R699; reset empty -/
  recent : List Nat := []
deriving DecidableEq, Repr

/-- Field inputs and outputs (R687 to R702). -/
structure FieldSt where
  /-- up/down counters of IN_0 to IN_31; R688; reset 0 -/
  counts : Store Nat := []
  /-- filtered levels, 32 bits; R688; reset 0 -/
  filtered : Nat := 0
  /-- raw levels of the last sample, 32 bits; R701; reset 0 -/
  raw : Nat := 0
  /-- levels published at the last frame start; R690; reset 0 -/
  published : Nat := 0
  /-- counter of SAFE_CFG_EN, N = 30, and its filtered level; R690; reset 0 -/
  cfgCount : Nat := 0
  cfgEn : Bool := false
  /-- model cycle since which SAFE_CFG_EN is active; R511; reset none -/
  cfgFrom : Option Nat := none
  /-- the monitor's counters of inputs of pairs and of the reset input; R491, R510; reset 0 -/
  monCounts : Store Nat := []
  monFiltered : Nat := 0
  /-- model cycle of each one's last filtered change; R493; reset 0 -/
  monAt : Store Nat := []
  monResetCount : Nat := 0
  monReset : Bool := false
  /-- OUT_CMD: commanded OUT_0 to OUT_15; reset 0 -/
  cmd : Nat := 0
  /-- host's requests for SOUT_0 to SOUT_3; R692; reset 0 -/
  soutReq : Nat := 0
  /-- readback levels of OUT_0 to OUT_15; R701; reset 0 -/
  readback : Nat := 0
  /-- OUT_FAULT, 16 bits; R694; reset 0 -/
  fault : Nat := 0
  /-- outputs OUT_0 to OUT_15 and SOUT_0 to SOUT_3 (bits 16 to 19) in their safe state until a new command after the link
  returns; R697; reset all -/
  safe : Nat := 0xFFFFF
  /-- IO_READ data of the last frame start; R701; reset empty -/
  snap : List Nat := []
  /-- IO_WRITE commands executed and not yet applied: journal slot, mask, levels and safe-output request; R693; reset empty -/
  writes : List (Nat × Nat × Nat × Option (Nat × Nat)) := []
  /-- LINK_A and LINK_B; R702; reset 0 -/
  linkA : Bool := false
  linkB : Bool := false
  /-- model cycle at which each side's link was lost; R697, R698; reset none -/
  lostA : Option Nat := none
  lostB : Option Nat := none
  /-- supplies VFLD_A and VFLD_B; R699 -/
  va : SupplySt := {}
  vb : SupplySt := {}
  /-- off-to-on counts of OUT_0 to OUT_15 and SOUT_0 to SOUT_3 (keys 16 to 19); R700; kept, new module 0 -/
  switched : Store Nat := []
  /-- output fault counts by output; R700; kept, new module 0 -/
  faults : Store Nat := []
  /-- the same as saved in the identity and ageing partition; R700; new module 0 -/
  savedSwitched : Store Nat := []
  savedFaults : Store Nat := []
deriving DecidableEq, Repr

end Sys2Proof.Machine
end

