-- ==== Sys2Proof/Machine/St/Host.lean ====
section
/-!
DEFINITION. Sys2Proof/Machine/St/Host.lean: the state of the SPI host port with its mailboxes and window, of the Ethernet ports,
the PTP units and drive exchange. Defaults are the values of a COLD reset.
-/
namespace Sys2Proof.Machine

/-- What the module has put on a wire, oldest first: the part's outputs besides MBX_OUT. -/
inductive Sent where
  | udp (port ip udpPort : Nat) (bytes : List Nat)
  | stream (port ip udpPort : Nat) (bytes : List Nat)
  | eth (port destMac etherType : Nat) (bytes : List Nat)
  | arp (port : Nat) (request : Bool) (mac ip : Nat)
  | icmp (port mac ip : Nat) (data : List Nat)
  | ptp (port type : Nat) (ns : Nat)
  | can (ctrl ident : Nat) (ext fd brs : Bool) (data : List Nat)
deriving DecidableEq, Repr

/-- The SPI host port (R605 to R624). -/
structure HostSt where
  /-- FRAME_SEQ, 8 bits; R614; reset 0x00 -/
  frameSeq : Nat := 0
  /-- status bits [7:0] of frame n - 1; R614; reset 0 -/
  status : Nat := 0
  /-- read words prepared by frame n - 1, with a mark for words of MBX_OUT_DATA; R612, R613; reset empty -/
  reply : List (Nat × Bool) := []
  /-- words the last frame carried out, status word first; R612; reset empty -/
  sdo : List Nat := []
  /-- MBX_IN, at most 2 048 words; R617; reset empty -/
  mbxIn : List Nat := []
  /-- model cycle since which a partial packet lies in MBX_IN; R618; reset none -/
  partialFrom : Option Nat := none
  /-- MBX_OUT by packets, at most 2 048 words in all; R617, R619; reset empty -/
  mbxOut : List (List Nat) := []
  /-- completion reports waiting for room: model cycle due, session, sequence, bytes; R619; reset empty -/
  waiting : List (Nat × Nat × Nat × List Nat) := []
  /-- IRQ_FLAGS, 8 bits; R622; reset 0 -/
  irqFlags : Nat := 0
  /-- IRQ_MASK, 32 bits; R620; reset 0 -/
  irqMask : Nat := 0
  /-- errors since the last counting record: aborted, check, sync, underrun, overrun; R647; reset 0 -/
  errors : List Nat := [0, 0, 0, 0, 0]
  /-- model cycle of the last counting records; R647; reset none -/
  countedAt : Option Nat := none
  /-- R14 latch of SERIAL_HI for the host port; R620; reset 0 -/
  serialHi : Nat := 0
  /-- R14 latch of the seconds words for the host port; R620; reset 0 -/
  timeSec : Nat := 0
deriving DecidableEq, Repr

/-- An ARP cache entry (R630). -/
structure ArpEntry where
  ip : Nat
  mac : Nat
  expires : Nat
deriving DecidableEq, Repr

/-- A datagram waiting for address resolution (R630). -/
structure ArpWait where
  ip : Nat
  destIp : Nat
  destPort : Nat
  bytes : List Nat
  since : Nat
deriving DecidableEq, Repr

/-- An Ethernet port (R627 to R635). -/
structure EthSt where
  /-- link up; R644; reset down -/
  up : Bool := false
  /-- link speed code of LINK_UP; R627; reset 0 -/
  speed : Nat := 0
  /-- duplex code; R627; reset 0 -/
  duplex : Nat := 0
  /-- ARP cache, at most 32; R630; reset empty -/
  arp : List ArpEntry := []
  /-- datagrams waiting for ARP; R630; reset empty -/
  waits : List ArpWait := []
  /-- echo and ARP replies sent in the present second and the model cycle it began; R629; reset 0 -/
  answers : Nat := 0
  answersFrom : Nat := 0
  /-- FCS errors since the last counting record; R647; reset 0 -/
  fcsErrors : Nat := 0
  /-- frames discarded since the last counting record; R647; reset 0 -/
  discarded : Nat := 0
  /-- PTP port state per IEEE 1588: 1 INITIALIZING .. 9 SLAVE; R633; reset 1 -/
  ptpState : Nat := 1
  /-- grandmaster identity in use; R647; reset 0 -/
  grandmaster : Nat := 0
  /-- data set of the best master announced, as one number in the order of comparison, and its source; R633; reset none -/
  best : Option (Nat × Nat) := none
  /-- receipt of a two-step Sync waiting for its Follow_Up: sequence and receive ns less its correction; R633; reset none -/
  syncRx : Option (Nat × Nat) := none
  /-- transmit ns of the last Delay_Req or Pdelay_Req with its sequence; R633; reset none -/
  delayTx : Option (Nat × Nat) := none
  /-- a two-step Pdelay_Resp waiting for its follow-up: sequence and t4 − t1 + t2 less corrections, ns; R633; reset none -/
  pdelayRx : Option (Nat × Int) := none
  /-- sequence of the next delay request; R633; reset 0 -/
  delaySeq : Nat := 0
  /-- last Sync: receive minus origin, ns; R633; reset none -/
  syncDiff : Option Int := none
  /-- measured path delay, ns; R633; reset 0 -/
  pathDelay : Int := 0
  /-- sequence of the next Sync sent as master; R633; reset 0 -/
  syncSeq : Nat := 0
  /-- sequence of the next Announce sent as master; R633; reset 0 -/
  announceSeq : Nat := 0
deriving DecidableEq, Repr

/-- Drive exchange (R638 to R642). -/
structure DxSt where
  /-- CYCLE of the next setpoint frame, 16 bits; R639; reset 0 -/
  cycle : Nat := 0
  /-- nodes whose reply for the present cycle came in; R641; reset empty -/
  replied : List Nat := []
deriving DecidableEq, Repr

end Sys2Proof.Machine
end

