-- ==== Sys2Proof/Machine/St/Power.lean ====
section
/-!
DEFINITION. Sys2Proof/Machine/St/Power.lean: the state of the reset and power controllers, the debug port, the ageing
controller, the memories and the circular-buffer windows. Defaults are the values of a COLD reset.
-/
namespace Sys2Proof.Machine

/-- The power states (R727), coded as POWER_STATE codes them. -/
inductive PowerState where
  | run | doze | standby | off
deriving DecidableEq, Repr

/-- The service modes (R723). -/
inductive ServiceMode where
  | commissioning | service | recovery
deriving DecidableEq, Repr

/-- A power-state entry in its handshake (R730 to R733). `blocks` are the blocks still to be asked, `stopped` those already
stopped, newest first, `asked` the answers of the present block that were not READY. -/
structure EntrySt where
  slot : Nat
  session : Nat
  seq : Nat
  target : PowerState
  blocks : List Nat
  stopped : List Nat
  asked : Nat
  since : Nat
  retryAt : Option Nat
deriving DecidableEq, Repr

/-- A wake in progress (R734 to R736): source, state left, step 1 to 6, failed tries, model cycles of its start and of the
present step's start; `retryAt` while the module waits for its next try. -/
structure WakeSt where
  source : Nat
  left : PowerState
  step : Nat
  tries : Nat
  began : Nat
  stepFrom : Nat
  retryAt : Option Nat
  /-- journal slot of the POWER_STATE that asked for it -/
  slot : Option Nat
deriving DecidableEq, Repr

/-- The debug port (R724 to R726). -/
structure DebugSt where
  /-- model cycle of the last live write PWR_DEBUG_ALLOW = 1 with its session; R725; reset none -/
  allowed : Option (Nat × Nat) := none
  /-- challenge read from the unlock register; R725; reset none -/
  challenge : Option (List Nat) := none
  /-- wrong answers since PWR_DEBUG_ALLOW was written; R725; reset 0 -/
  wrong : Nat := 0
  /-- model cycle of the unlock; R725; reset none -/
  unlocked : Option Nat := none
  /-- instruction in force, as the port decoded it; R724; reset IDCODE -/
  instruction : Nat := 1
deriving DecidableEq, Repr

/-- Reset, power and boot (chapter 16). -/
structure PowerSt where
  /-- power state; R727; reset RUN (HOST_STATUS.POWER) -/
  state : PowerState := .run
  /-- HOST_STATUS.READY; R621; reset 0 -/
  ready : Bool := false
  /-- in reset: from a reset until its start sequence is complete; R709, R715, R721, R737; reset true -/
  held : Bool := true
  /-- supply warning in force; R738; reset false -/
  warning : Bool := false
  /-- model cycle at which it began; R739; reset none -/
  warnFrom : Option Nat := none
  /-- lowest VIN_12 since then, 0.01 V; R739; reset 0 -/
  lowest : Nat := 0
  /-- warning-to-reset time held by the always-on domain, us; R741; reset none -/
  holdup : Option Nat := none
  /-- PWR_FAIL_N driven low; R709, R738; reset true -/
  pwrFail : Bool := true
  /-- reasons that drive FAULT_N: bit 0 STUCK_RESET, 1 WAKE_FAIL, 2 PLL, others the owning blocks; R721, R736; reset 0 -/
  fault : Nat := 0
  /-- STRAP_BOOT_1..0 as sampled; R714; sampled at reset -/
  strapBoot : Nat := 0
  /-- STRAP_HOST as sampled; R714 -/
  strapHost : Bool := false
  /-- STRAP_CLK as sampled; R714 -/
  strapClk : Bool := false
  /-- service mode; R723; reset COMMISSIONING -/
  mode : ServiceMode := .commissioning
  /-- boot record: copy B named; R717; identity partition, new module A -/
  bootB : Bool := false
  /-- copy that runs: none, A (0) or B (1); R718; reset none -/
  running : Option Nat := none
  /-- incomplete option loads; R720; identity partition, new module 0 -/
  loads : Nat := 0
  /-- kind and source of the last reset; R753; reset COLD (1), power-on (1) -/
  resetKind : Nat := 1
  resetSource : Nat := 1
  /-- STUCK_RESET seconds held in the always-on domain; R721; reset none -/
  stuck : Option Nat := none
  /-- WAKE_FAIL retention register: step, tries, sets; R736; reset none -/
  wakeFail : Option (Nat × Nat × Nat) := none
  /-- sets of three tries that failed in a row; R736; reset 0 -/
  wakeSets : Nat := 0
  /-- model cycle of the last failed try of a set; R736; reset none -/
  lastTry : Option Nat := none
  /-- power-state entry in progress; R730; reset none -/
  entry : Option EntrySt := none
  /-- wake in progress; R734; reset none -/
  wake : Option WakeSt := none
  /-- wake cause of a WARM start from OFF or of lost retention; R728, R760; reset none -/
  wakeCause : Option Nat := none
  /-- model cycles of supervisor domain resets within the last 10 min; R708; reset empty -/
  domainTimes : List Nat := []
  /-- blocks in domain reset: block, source and model cycle; R711 to R713; reset empty -/
  inReset : List (Nat × Nat × Nat) := []
  /-- reset asked for by RESET_REQUEST that begins once its reply has left: kind, block, reply on the host port; R438; reset none -/
  resetDue : Option (Nat × Nat × Bool) := none
  /-- records that wait for the next start: source, level, code, data; R35, R737; reset empty -/
  owed : List (Nat × Nat × Nat × List Nat) := []
  /-- the PLL has lost its lock: warm reset only; R35; reset false -/
  pllLost : Bool := false
  /-- debug port; R724; reset locked -/
  dbg : DebugSt := {}
deriving DecidableEq, Repr

/-- The ageing controller (R742 to R749). -/
structure AgeingSt where
  /-- core voltage, mV, 750 to 900 in steps of 5; R743; no reset value stated: DESIGN CHOICE 900, notes/assumptions/6.md -/
  voltage : Nat := 900
  /-- slack of CPR_0 to CPR_7, ps; R742; reset 0 until measured -/
  slack : List Int := [0, 0, 0, 0, 0, 0, 0, 0]
  /-- model cycle since which the least slack has stayed above target + 20 ps; R743; reset none -/
  highFrom : Option Nat := none
  /-- voltage need in mV per band · 16 + element; R744; identity partition, new module none -/
  need : Store (Option Nat) := []
  /-- first recorded need per band · 16 + element; R744; identity partition, new module none -/
  first : Store (Option Nat) := []
  /-- present temperature band; R744; reset 0 -/
  band : Nat := 0
  /-- module reserve in percent; R744; reset 100 -/
  reserve : Nat := 100
  /-- weakest element; R744; reset 0 -/
  weakest : Nat := 0
  /-- module reserves of past days with their ns stamps, newest last; R745; new module empty -/
  daily : List (Nat × Nat) := []
  /-- flags: bit 0 notice, 1 warning, 2 limit; R746, R749; reset 0 -/
  flags : Nat := 0
  /-- voltage held at 0.90 V by AGEING_LIMIT; R746; reset false -/
  heldMax : Bool := false
  /-- stamp of the last re-plan, ns; R749; reset none -/
  lastPlan : Option Nat := none
  /-- operating cycles of CLK_RIDGE in RUN; R749; new module 0 -/
  runCycles : Nat := 0
  /-- crystal drift y of the last 24 h, and at first power-up, ppb; R749; new module 0, none -/
  drift : Int := 0
  firstDrift : Option Int := none
  /-- sum of y over the cycles of the present 24 h, ppb times cycles, and those cycles; R749; reset 0 -/
  driftSum : Rat := 0
  driftSpan : Nat := 0
deriving DecidableEq, Repr

/-- A circular-buffer window (R765 to R767). -/
structure CwSt where
  /-- BASE; R765; reset 0 -/
  base : Nat := 0
  /-- LEN; R765; reset 0 -/
  len : Nat := 0
  /-- WR; R765; reset 0 -/
  wr : Nat := 0
  /-- RD; R765; reset 0 -/
  rd : Nat := 0
  /-- ENABLE; R767; reset 0 -/
  enable : Bool := false
  /-- OVF; R767; reset 0 -/
  ovf : Bool := false
  /-- UNF; R767; reset 0 -/
  unf : Bool := false
  /-- LEVEL, 21 bits; R767; reset 0 -/
  level : Nat := 0
deriving DecidableEq, Repr

/-- ECC bookkeeping and register read latches (R14, R755 to R764). -/
structure MemSt where
  /-- correctable errors per region; R756; reset 0 -/
  corrected : Store Nat := []
  /-- uncorrectable errors per kept region since STANDBY entry, always-on; R760; reset 0 -/
  lost : Store Nat := []
  /-- first 16 uncorrectable addresses; R760; reset empty -/
  lostAddrs : List Nat := []
  /-- uncorrectable MRAM addresses of the last 24 h: bank, address, model cycle; R764; reset empty -/
  mramErrs : List (Nat × Nat × Nat) := []
  /-- addresses of capture SRAM at which CAPTURE_READ met an uncorrectable error; R756; reset empty -/
  capBad : List Nat := []
  /-- MRAM banks that failed: bit 0, bit 1; R764; reset 0 -/
  bankFailed : Nat := 0
  /-- writes per MRAM line (byte address / 64); R761; new module 0 -/
  wear : Store Nat := []
  /-- R14 latches: key master · 2 ^ 32 + value address, the latched upper words; R14, R15; reset empty -/
  latches : Store (List Nat) := []
  /-- last word a register read returned per master, for the reader of the model; R13; reset 0 -/
  lastRead : Store Nat := []
  /-- windows CW_0 to CW_15; R765; reset 0 -/
  cw : Store CwSt := []
deriving DecidableEq, Repr

end Sys2Proof.Machine
end

