-- ==== Sys2Proof/Machine/St/Safety.lean ====
section
/-!
DEFINITION. Sys2Proof/Machine/St/Safety.lean: the state of the safety monitor (chapter 10): its groups, safe axes, pairs, safe
outputs, tests and configuration. Defaults are the values after reset.
-/
namespace Sys2Proof.Machine

/-- The monitor's states, coded as in SAFETY_STATUS (R458). -/
inductive MonState where
  | starting | running | configuring | faulted
deriving DecidableEq, Repr

/-- A group's states, coded as in the group status word (R471, R517). -/
inductive GroupMode where
  | released | ss1Ramp | ss1Time | sto | testing
deriving DecidableEq, Repr

/-- An STO group as the monitor sees it (R471, R517). -/
structure GroupSt where
  /-- STATE; R517; reset STO -/
  mode : GroupMode := .sto
  /-- latched cause mask, bits [22:0]; R476; reset 0 but for causes 10, 11, 20, 21 kept (R465) -/
  causes : Nat := 0
  /-- causes whose condition was present in the last cycle; R508; reset 0 -/
  present : Nat := 0
  /-- GD_EN_g on; R517; reset 0 -/
  gdEn : Bool := false
  /-- readback GD_FB_g; R517; reset 0 -/
  gdFb : Bool := false
  /-- PWM inhibit set; R517; reset 1 -/
  inhibit : Bool := true
  /-- set at once by the carrier watchdog; R233; reset 0 -/
  watchdog : Bool := false
  /-- SS1: safe axis, model cycle of the decision and v0; R474, R475; reset none -/
  ss1 : Option (Nat × Nat × Rat) := none
  /-- model cycle since which GD_FB disagrees with GD_EN; R472, R525; reset none -/
  fbFrom : Option Nat := none
  /-- latent test passed in this start; R467; reset false -/
  tested : Bool := false
  /-- a latent test has failed, or is overdue, and none has passed since; R504; reset as cause 20 is kept -/
  blocked : Bool := false
  /-- ns of the last latent-test pass; R465; monitor MRAM, new module none -/
  lastPass : Option Nat := none
  /-- TEST_WARN; R517; reset 0 -/
  warn : Bool := false
  /-- overdue by 48 h: the next entry to STO takes cause 20; R504; reset false -/
  armed : Bool := false
  /-- model cycle at which TESTING began; R503; reset none -/
  testFrom : Option Nat := none
  /-- a release is under way: GD_EN goes on, then GD_FB must read on; R509; reset false -/
  releasing : Bool := false
  /-- SBC: safe outputs held off for this group; R517; reset 0 -/
  sbc : Nat := 0
deriving DecidableEq, Repr

/-- A safe axis (R469 to R489). -/
structure SafeAxisSt where
  /-- counts of the latest cycles, newest first, at most 41; R469; reset empty -/
  history : List Int := []
  /-- the same of the second channel; R489; reset empty -/
  history2 : List Int := []
  /-- extended counts of both channels; R469, R488; reset none -/
  pos : Option Int := none
  pos2 : Option Int := none
  /-- v, counts/s; R469; reset 0 -/
  v : Rat := 0
  /-- v_el, counts/s; R486; reset 0 -/
  vEl : Rat := 0
  /-- e_ab and i_ab of the previous cycle; R486; reset none -/
  elPrev : Option ((Rat × Rat) × (Rat × Rat)) := none
  /-- model cycle from which each active SLS limit 0 to 3 is enforced; R482; reset none -/
  slsFrom : Store (Option Nat) := []
  /-- SDI reference q, positive and negative; R483; reset none -/
  sdiPos : Option Int := none
  sdiNeg : Option Int := none
  /-- SOS anchor while watched; R484; reset none -/
  anchor : Option Int := none
  /-- slip anchor d0; R488; reset none -/
  slip : Option Rat := none
  /-- last d; R488; reset 0 -/
  slipD : Rat := 0
  /-- model cycle since which |v| is at or below standstill; R488; reset none -/
  stillFrom : Option Nat := none
  /-- model cycle since which the plausibility test has held in every cycle; R487; reset none -/
  plausFrom : Option Nat := none
  /-- the same of the slip speed test; R489; reset none -/
  slipFrom : Option Nat := none
  /-- current magnitude of the estimate stage, Q15; R507; reset 0 -/
  current : Nat := 0
  /-- ns and result of the last brake test (1 pass, 2 fail); R465; monitor MRAM, new module none -/
  brake : Option (Nat × Nat) := none
deriving DecidableEq, Repr

/-- A safe input pair (R490 to R496). -/
structure PairSt where
  /-- demand of channels A and B as latched; R492; reset demanding -/
  a : Bool := true
  b : Bool := true
  /-- in demand; R492; reset demand -/
  demand : Bool := true
  /-- first change waiting for the other channel: channel B, edge to demand, model cycle; R493; reset none -/
  waits : Option (Bool × Bool × Nat) := none
  /-- DISCREPANCY; R494; reset 0 -/
  disc : Bool := false
  /-- after it: both have been in demand together; both have released together since; R494; reset false -/
  both : Bool := false
  clean : Bool := false
  /-- cause 11 is present; consecutive correct pulses; R496; reset false, 0 -/
  testBad : Bool := false
  testOk : Nat := 0
  /-- the pair has been evaluated since the start; reset false -/
  seen : Bool := false
deriving DecidableEq, Repr

/-- A safe output (R473, R497 to R499). -/
structure SoutSt where
  /-- on; R497; reset off -/
  on : Bool := false
  /-- SBC holds it off; R473; reset false -/
  held : Bool := false
  /-- SBC was decided in the last cycle; R473; reset false -/
  sbcNew : Bool := false
  /-- model cycle at which SBC switches it off; R473; reset none -/
  offAt : Option Nat := none
  /-- readback, 0.1 V; R498; reset 0 -/
  volts : Nat := 0
  /-- consecutive cycles of disagreement and of agreement; R498, R499; reset 0 -/
  bad : Nat := 0
  good : Nat := 0
  /-- cause 12 is present through this output; R499; reset false -/
  faulty : Bool := false
  /-- an off-pulse has passed since the fault; R499; reset false -/
  pulsed : Bool := false
  /-- model cycle of the last off-pulse; R497; reset none -/
  lastPulse : Option Nat := none
  /-- an off-pulse is under way in this cycle; R498; reset false -/
  inPulse : Bool := false
  /-- switched off by a brake test; R506; reset false -/
  brakeTest : Bool := false
deriving DecidableEq, Repr

/-- A SAFETY_RESET whose groups are being released (R508, R509): its command, if it was one, with its session and sequence, the
groups still to be released, those released, and the status a failed one leaves. -/
structure ReleaseSt where
  slot : Option Nat
  session : Nat
  seq : Nat
  left : Nat
  done : Nat
  status : Nat
deriving DecidableEq, Repr

/-- A brake test in progress (R505 to R507): safe axis and Ridge axis, outputs to come, the present output, test torque, step 1 to
6 with the model cycle at which it began, holding torque, anchor, excursion and peak so far, and results: output, result, excursion,
peak. -/
structure BrakeTest where
  slot : Nat
  axis : Nat
  ridge : Nat
  left : List Nat
  output : Nat
  torque : Int
  step : Nat
  stepFrom : Nat
  hold : Int
  anchor : Int
  excursion : Nat
  peak : Nat
  results : List (Nat × Nat × Nat × Nat)
deriving DecidableEq, Repr

/-- The safety draft (R511 to R514). -/
structure SafetyDraft where
  values : Store (Option Int)
  crc : Option Nat
  writes : Nat
  lastCmd : Nat
deriving DecidableEq, Repr

/-- What the monitor publishes (R461). -/
structure SafetyPub where
  counts : List Int := []
  speeds : List Int := []
  status : List Nat := [0x203, 0x203, 0x203, 0x203]
  causes : List Nat := [0, 0, 0, 0]
  demand : Nat := 0
  disc : Nat := 0
  souts : Nat := 0
  /-- model cycle of the publication, none before the first -/
  at_ : Option Nat := none
deriving DecidableEq, Repr

/-- The safety monitor (R451 to R528). -/
structure SafetySt where
  /-- state; R458; reset STARTING -/
  mode : MonState := .starting
  /-- model cycle of the last cycle start; R459; reset none -/
  last : Option Nat := none
  /-- ns of the last cycle start; R463; reset 0 -/
  lastNs : Nat := 0
  /-- STO groups 0 to 3; R471 -/
  groups : Store GroupSt := []
  /-- safe axes SA_0 to SA_7; R469 -/
  axes : Store SafeAxisSt := []
  /-- own counts by designated channel; R456; reset 0 -/
  counts : Store Int := []
  /-- consecutive cycles in which own and front-end counts differ by more than 4; R501; reset 0 -/
  differs : Store Nat := []
  /-- pairs 0 to 15; R490 -/
  pairs : Store PairSt := []
  /-- safe outputs SOUT_0 to SOUT_3; R497 -/
  souts : Store SoutSt := []
  /-- requests waiting for the next cycle: cause bit, and machine or group mask; R460; reset empty -/
  requests : List (Nat × Nat) := []
  /-- the two stored configurations and whether each is valid; R514, R515; monitor MRAM, new module: defaults, valid -/
  copyA : Store (Option Int) := []
  copyB : Store (Option Int) := []
  validA : Bool := true
  validB : Bool := true
  /-- safety draft; R511; reset none -/
  draft : Option SafetyDraft := none
  /-- model cycle since which the reset input is active; R510; reset none -/
  resetFrom : Option Nat := none
  /-- releases under way; R509; reset none -/
  releases : List ReleaseSt := []
  /-- safety commands waiting for the next cycle; R462; reset empty -/
  mbox : List Cmd := []
  /-- latent test command: journal slot, groups under test and results; R503; reset none -/
  latent : Option (Nat × Nat × List (Nat × Nat)) := none
  /-- brake test; R505; reset none -/
  brake : Option BrakeTest := none
  /-- safety commands recorded: session, sequence, opcode, outcome status; R457; monitor MRAM, new module empty -/
  ledger : List (Nat × Nat × Nat × Option Nat) := []
  /-- publication; R461 -/
  pub : SafetyPub := {}
  /-- off-pulse of a test source under way per pair channel; R496; reset none -/
  pulse : Store Nat := []
  /-- both stored copies are invalid; R515; reset false -/
  cfgBad : Bool := false
  /-- the reset input has made its falling edge in time; R510; reset false -/
  resetEdge : Bool := false
deriving DecidableEq, Repr

end Sys2Proof.Machine
end

