-- ==== Sys2Proof/Machine/St/Stage.lean ====
section
/-!
DEFINITION. Sys2Proof/Machine/St/Stage.lean: the state of a stage with its PWM channel and latches, of a modulator input, of a
machine and of an auxiliary PWM channel (chapters 4 and 5). Defaults are the values of a COLD reset.
-/
namespace Sys2Proof.Machine

/-- The states of a stage (R186). -/
inductive StageMode where
  | disabled | driving | latched
deriving DecidableEq, Repr

/-- A stage, its shadow registers, STAGE_STATUS and TRIP_LATCH (R186, R215 to R228). -/
structure StageSt where
  /-- DISABLED, DRIVING or LATCHED; R186; reset DISABLED -/
  mode : StageMode := .disabled
  /-- HIZ; R221; reset 1 -/
  hiz : Bool := true
  /-- goes to high impedance at its next reload, from this model cycle on; R94, R192; reset none -/
  hizFrom : Option Nat := none
  /-- leaves high impedance at its next reload, from this model cycle on; R96, R189; reset none -/
  driveFrom : Option Nat := none
  /-- FROZEN; R221; reset 0 -/
  frozen : Bool := false
  /-- LOADED; R221; reset 0 -/
  loaded : Bool := false
  /-- PENDING, the load-pending flag; R216; reset 0 -/
  pending : Bool := false
  /-- DUTY_U, DUTY_V, DUTY_W shadows, 16 bits each; R215; reset 0 -/
  dutyU : Nat := 0
  dutyV : Nat := 0
  dutyW : Nat := 0
  /-- the shadows before the writes of the model cycle `dutyAt`, which a reload in that cycle takes; R217; reset 0 -/
  oldU : Nat := 0
  oldV : Nat := 0
  oldW : Nat := 0
  dutyAt : Nat := 0
  /-- model cycle of the last LOAD_ALL write; R217; reset 0 -/
  loadAt : Nat := 0
  /-- DUTY_IN_FORCE, 15 bits each; R221; reset 0 -/
  forceU : Nat := 0
  forceV : Nat := 0
  forceW : Nat := 0
  /-- compare values in force for U, V, W; R211; reset 0 -/
  compU : Nat := 0
  compV : Nat := 0
  compW : Nat := 0
  /-- dead time in force, cycles; R244; reset 400 -/
  deadTime : Nat := 400
  /-- output levels of the six switches, bit 2p high side and 2p + 1 low side of phase p; R211; reset 0 -/
  switches : Nat := 0
  /-- model cycle fixed as the end of each switch's present interval; R214; reset 0 -/
  until_ : Store Nat := []
  /-- model cycle of the last loaded reload; R233; reset 0 -/
  lastLoaded : Nat := 0
  /-- the trip input is active now; R223; reset false -/
  tripActive : Bool := false
  /-- model cycle of the last active sample; R221; reset none -/
  tripLast : Option Nat := none
  /-- counted active samples; R223; reset 0 -/
  tripCount : Nat := 0
  /-- model cycle at which the blanking window ends; R224; reset 0 -/
  blankTo : Nat := 0
  /-- consecutive fast results at or above the level; R170; reset 0 -/
  ocRun : Nat := 0
  /-- phase whose result reached the level first in this run; R806; reset 0 -/
  ocPhase : Nat := 0
  /-- TRIP_LATCH bits [6:1]; R222; reset 0 -/
  causes : Nat := 0
  /-- TRIP_LATCH.COUNT; R222; 0 at COLD reset, kept otherwise -/
  count : Nat := 0
  /-- model cycle in which LATCHED set; R106; reset 0 -/
  latchedAt : Nat := 0
  /-- LATCH_STAMP; R228; reset 0 -/
  stamp : Nat := 0
  /-- offsets calibrated; R187, kept in the parameter store; new module false -/
  calibrated : Bool := false
deriving DecidableEq, Repr

/-- A modulator input of the bank (R161 to R173). -/
structure ModSt where
  /-- last main result, Q15; R167; reset 0 -/
  main : Int := 0
  /-- a main result has been delivered since the Ridge start; R804; reset false -/
  measured : Bool := false
  /-- consecutive saturated main results; R173; reset 0 -/
  satRun : Nat := 0
  /-- last fast result, Q15; R169; reset 0 -/
  fast : Int := 0
  /-- consecutive fast results at or above the overvoltage level; R171; reset 0 -/
  ovRun : Nat := 0
  /-- a stuck run is present now; R173; reset false -/
  stuck : Bool := false
  /-- an overrange condition is present now; R173; reset false -/
  overrange : Bool := false
  /-- decimation of the window that is open; R204; reset 16 -/
  dec : Nat := 16
  /-- DC_LINK_LOW recorded for the present dip; R173; reset false -/
  lowTold : Bool := false
deriving DecidableEq, Repr

/-- MACHINE_IDENTIFY in progress (R199): journal slot, mode and model cycle of its start. -/
structure IdentSt where
  slot : Nat
  mode : Nat
  began : Nat
  /-- frames left to average in OFFSET -/
  frames : Nat
  /-- the second channel has stayed good since the start (R201) -/
  secondOk : Bool
deriving DecidableEq, Repr

/-- A machine (R156 to R201). -/
structure MachineSt where
  /-- its stages have been enabled and not disabled since; R106; reset false -/
  on : Bool := false
  /-- torque-unavailable, with its cause 1 to 4; R108, R205; reset none -/
  unavailable : Option Nat := none
  /-- stage whose drop bank is applied; R106; reset none -/
  dropBank : Option Nat := none
  /-- torque-interrupted, with the frames it has lasted; R98; reset none -/
  interrupted : Option Nat := none
  /-- aligned on the primary channel; R188, kept in the parameter store; new module false -/
  aligned : Bool := false
  /-- aligned on the second channel; R188; new module false -/
  aligned2 : Bool := false
  /-- uses MAC_FB_SECOND; R173; reset false -/
  second : Bool := false
  /-- journal slots of accepted STAGE_ENABLE commands; R189; reset empty -/
  enables : List Nat := []
  /-- journal slots of accepted STAGE_DISABLE commands; R192; reset empty -/
  disables : List Nat := []
  /-- identification in progress; R199; reset none -/
  ident : Option IdentSt := none
  /-- the current loop starts from measured currents in the frame with this counter; R96, R191; reset none -/
  startFrame : Option Nat := none
  /-- torque demand from its axis, 0.01 N·m; R308; reset 0 -/
  demand : Int := 0
deriving DecidableEq, Repr

/-- An auxiliary PWM channel (R236 to R240). -/
structure ApwmSt where
  /-- mode in force; R236; reset 0 -/
  mode : Nat := 0
  /-- output high; R236; reset low -/
  high : Bool := false
  /-- high impedance, in reset and boot; R240; reset true -/
  hiz : Bool := true
  /-- model cycle at which the present interval began; R236; reset 0 -/
  from_ : Nat := 0
  /-- pick phase of PICK_HOLD runs; R236; reset false -/
  picking : Bool := false
  /-- consecutive timeouts; R238; reset 0 -/
  timeouts : Nat := 0
  /-- sent to OFF by 16 timeouts; R238; reset false -/
  faulted : Bool := false
  /-- sense condition as last sampled; R237; reset false -/
  sense : Bool := false
  /-- owner and source in force; R244; reset 0 -/
  owner : Nat := 0
  src : Nat := 0
  /-- modulator input in force; R244; reset 48 -/
  input : Nat := 48
  /-- Ridge shadow set written by out-slots: on-time, off-time, level; R239; reset 0 -/
  ridgeOn : Nat := 0
  ridgeOff : Nat := 0
  ridgeLevel : Int := 0
  /-- timings in force; R239; reset the parameters' defaults -/
  tOn : Nat := 40000
  tOff : Nat := 40000
  level : Int := 0
deriving DecidableEq, Repr

/-- The PWM of an STO group: proxy of LOAD_ALL and its spur (R219). -/
structure GroupPwm where
  /-- LOAD_ALL set by R219 for this failed spur; reset none -/
  proxy : Option Nat := none
  /-- LOAD_ALL_PROXY recorded for it; reset false -/
  told : Bool := false
deriving DecidableEq, Repr

end Sys2Proof.Machine
end

