-- ==== Sys2Proof/Machine/State.lean ====
section
/-!
DEFINITION. Sys2Proof/Machine/State.lean: the state of the block, everything the spec gives the module, and the state
right after a COLD reset, before the start sequence (R706, R709, R715).
-/
namespace Sys2Proof.Machine

/-- No command of the block stops the machine with a fault: an access to an address that does not respond completes with an
error response (R41). The one constructor is raised by nothing. -/
inductive Fault where
  /-- Raised by nothing; safe. -/
  | none
deriving DecidableEq, Repr

/-- Why a command has no meaning. -/
inductive Refusal where
  /-- Raised by an arm of `exec` whose command has no meaning yet; safe. -/
  | notModelled (mnemonic : String)
deriving DecidableEq, Repr

/-- The module's state. -/
structure State where
  /-- part code, 0x6424, 0x6416 or 0x3208; R1, R5; DESIGN CHOICE 0x6424, notes/assumptions/4.md -/
  part : Nat := 0x6424
  /-- stepping; R5; 0x43 -/
  stepping : Nat := 0x43
  /-- timebase; chapter 11 -/
  tm : TimeSt := {}
  /-- Cairn journal; chapter 11 -/
  cn : CairnSt := {}
  /-- command journal and sessions; chapter 9 -/
  jn : JournalSt := {}
  /-- parameter sets and drafts; chapters 0 and 9 -/
  pm : ParamSt := {}
  /-- Ridge; chapter 2 -/
  rg : RidgeSt := {}
  /-- spurs S0 to S7; chapter 3 -/
  sp : Store SpurSt := []
  /-- stages 0 to 23; chapters 4 and 5 -/
  st : Store StageSt := []
  /-- modulator inputs: 2 s for SDM_s_U, 2 s + 1 for SDM_s_V, 48 + c for SDM_DC_c; chapter 4 -/
  md : Store ModSt := []
  /-- machines 0 to 11; chapter 4 -/
  mc : Store MachineSt := []
  /-- auxiliary PWM channels 0 to 7; chapter 5 -/
  ap : Store ApwmSt := []
  /-- the PWM of STO groups 0 to 3; chapter 5 -/
  gp : Store GroupPwm := []
  /-- feedback channels 0 to 31; chapter 6 -/
  fb : Store FbSt := []
  /-- EVT_0 to EVT_15; chapter 6 -/
  ev : Store EvtSt := []
  /-- LATCH_0 to LATCH_7; chapter 6 -/
  la : Store LatchSt := []
  /-- rate multipliers RM_0 to RM_7; chapter 7 -/
  rm : Store RateSt := []
  /-- axis contexts; chapter 7 -/
  ax : Store AxisSt := []
  /-- path groups PG_0 to PG_3; chapter 7 -/
  pg : Store PathSt := []
  /-- learning tables LT_0 to LT_15; chapter 8 -/
  lt : Store TableSt := []
  /-- safety monitor; chapter 10 -/
  sf : SafetySt := {}
  /-- capture engine; chapter 12 -/
  cp : CapSt := {}
  /-- field inputs and outputs; chapter 15 -/
  fd : FieldSt := {}
  /-- SPI host port; chapter 13 -/
  hp : HostSt := {}
  /-- Ethernet ports 0 and 1; chapter 13 -/
  eth : Store EthSt := []
  /-- drive exchange; chapter 13 -/
  dx : DxSt := {}
  /-- CAN controllers 0 to 3; chapter 14 -/
  can : Store CanSt := []
  /-- reset, power, boot and debug; chapter 16 -/
  pw : PowerSt := {}
  /-- ageing controller; chapter 16 -/
  ag : AgeingSt := {}
  /-- memories' bookkeeping and windows; chapter 17 -/
  mm : MemSt := {}
  /-- bytes of the memories of R39 that differ from what an unlisted byte reads as, 0x00; R757, R761 -/
  mem : List Host.Cell := []
  /-- what the module has put on its wires; chapters 13 and 14 -/
  sent : List Sent := []
  /-- the model's own counter of free values -/
  free : Nat := 0
  /-- the model's own queue of waiting commands, first in first out -/
  pending : List Instr := []
deriving DecidableEq, Repr

/-- The module right after a COLD reset, before START_SEQUENCE (R706, R709). A value that no rule gives is the cleared one (DESIGN CHOICE,
notes/assumptions/3.md). -/
def State.reset : State := {}

/-- What a meaning answers. -/
abbrev Out := Host.Outcome State Fault Refusal

end Sys2Proof.Machine
end

