-- ==== Sys2Proof/Machine/Ops.lean ====
section
/-!
DEFINITION. Sys2Proof/Machine/Ops.lean: the named operations the meanings share: time, free values, the byte memory of the
address map, parameters, the units of the part, and reports to the Cairn journal.
-/
namespace Sys2Proof.Machine

/-! ### Units of the part (R1) -/

/-- Spurs of the part. -/
def State.spurs (s : State) : Nat := if s.part = 0x3208 then 4 else if s.part = 0x6416 then 6 else 8

/-- Stages of the part. -/
def State.stages (s : State) : Nat := if s.part = 0x3208 then 8 else if s.part = 0x6416 then 16 else 24

/-- Machines of the part. -/
def State.machines (s : State) : Nat := if s.part = 0x3208 then 4 else if s.part = 0x6416 then 8 else 12

/-- Axis contexts of the part. -/
def State.axes (s : State) : Nat := if s.part = 0x3208 then 32 else 64

/-- Feedback channels of the part. -/
def State.channels (s : State) : Nat := if s.part = 0x3208 then 16 else if s.part = 0x6416 then 24 else 32

/-- How many instances of a parameter the part has. -/
def State.instances (s : State) : InstCount → Nat
  | .stages => s.stages
  | .machines => s.machines
  | .axes => s.axes
  | .channels => s.channels
  | .fixed n => n

/-! ### Free values -/

/-- The next free value below `m` and the state that has taken it. -/
def State.take (s : State) (m : Nat) : Nat × State := (Config.freeNat s.free % m, { s with free := s.free + 1 })

/-- `n` free bytes. -/
def State.takeBytes (s : State) (n : Nat) : List Nat × State :=
  (gen (fun i => Config.freeNat (s.free + i) % 256) n, { s with free := s.free + n })

/-! ### Time (R529 to R532, R546) -/

/-- The core clocks run: not in STANDBY or OFF, not held in reset. -/
def State.clocked (s : State) : Bool :=
  !s.pw.held && !s.pw.pllLost && decide (s.pw.state = .run ∨ s.pw.state = .doze)

/-- CLK_RIDGE cycles per microsecond. -/
def cyclesPerUs : Nat := 400
/-- CLK_RIDGE cycles per millisecond. -/
def cyclesPerMs : Nat := 400000
/-- CLK_RIDGE cycles per second. -/
def cyclesPerS : Nat := 400000000

/-- The always-on count over `dt` cycles of true time, in ns: the 1 MHz oscillator's drift is a free value within 2 % (R546). -/
def coarseSpan (dt k : Nat) : Nat :=
  let d := clampI (-20000) 20000 (Config.coarseDrift dt k)
  ((dt * 5 / 2 : Nat) + (dt * 5 / 2 : Nat) * d / 1000000 : Int).toNat

/-- The 24 h average of y (R749): the average at the end of each 24 h of running, the first one kept (DEDUCED, notes/assumptions/72.md). -/
def AgeingSt.drifted (g : AgeingSt) (dt : Nat) (y : Rat) : AgeingSt :=
  let sum := g.driftSum + y * dt
  let span := g.driftSpan + dt
  if span < 24 * 3600 * cyclesPerS then { g with driftSum := sum, driftSpan := span } else
  let avg := (sum / span + 1 / 2).floor
  { g with drift := avg, firstDrift := some (g.firstDrift.getD avg), driftSum := 0, driftSpan := 0 }

/-- Time passes: T advances by INC at every CLK_BUS cycle while the clock tree runs (R529, R532), the always-on count by its own
oscillator. -/
def State.elapse (s : State) (dt : Nat) : State :=
  if dt = 0 then s else
  let now := s.tm.now + dt
  let t := if s.clocked then s.tm.t + (s.tm.inc * (now / 2 - s.tm.now / 2) : Nat) else s.tm.t
  let run := if s.clocked && s.pw.state = .run then s.ag.runCycles + dt else s.ag.runCycles
  let ag := s.ag.drifted (if s.clocked then dt else 0) s.tm.y
  match s.tm.coarseNs with
  | none => { s with tm := { s.tm with now := now, t := t }, ag := { ag with runCycles := run } }
  | some c => { s with tm := { s.tm with now := now, t := t, coarseNs := some (c + coarseSpan dt s.free) },
                       ag := { ag with runCycles := run }, free := s.free + 1 }

/-- The integer part of T as a CLK_BUS unit stamps it, in ns (R530). -/
def State.busNs (s : State) : Nat := (s.tm.t / 2 ^ 32).toNat

/-- The stamp of the present CLK_RIDGE cycle (R532). -/
def State.ns (s : State) : Nat :=
  ((s.tm.t + (if s.tm.now % 2 = 1 then (s.tm.inc / 2 : Nat) else 0)) / 2 ^ 32).toNat

/-- The stamp of the CLK_RIDGE cycle `back` cycles before the present one, at the present increment. -/
def State.nsBack (s : State) (back : Nat) : Nat :=
  ((s.tm.t + (if s.tm.now % 2 = 1 then (s.tm.inc / 2 : Nat) else 0) - (back * s.tm.inc / 2 : Nat)) / 2 ^ 32).toNat

/-- The stamp a report takes: T, or the always-on count, marked COARSE, while the timebase is stopped (R533). -/
def State.reportNs (s : State) : Nat × Bool :=
  if s.clocked then (s.busNs, false) else
  match s.tm.coarseNs with
  | some c => (c, true)
  | none => (s.busNs, true)

/-! ### Memory (R39 to R42, R761) -/

/-- A byte of the memories of R39 as stored. -/
def State.rd8 (s : State) (a : Nat) : Nat := (Store.read (0 : BitVec 8) s.mem a).toNat

/-- `n` bytes from address `a`, lowest first. -/
def State.rdN (s : State) (a n : Nat) : List Nat := (Store.readList (0 : BitVec 8) s.mem a n).map BitVec.toNat

/-- Bytes stored from address `a` upward. -/
def State.wrN (s : State) (a : Nat) (bs : List Nat) : State :=
  { s with mem := Store.writeList 0 s.mem a (bs.map (BitVec.ofNat 8)) }

/-- The base addresses of R39 and R761. -/
def commonsBase : Nat := 0x10000000
def captureBase : Nat := 0x30000000
def mramBase : Nat := 0x40000000
def traverseBase (k : Nat) : Nat := 0x40300000 + k * 0x40000
/-- The base of a firmware copy: 0 is A, 1 is B. -/
def firmwareBase (k : Nat) : Nat := 0x40000000 + k * 0x180000
/-- The base of spur `k`'s program memory, of its bank X and of its bank Y. -/
def progBase (k : Nat) : Nat := 0x20000000 + k * 0x100000
def bankBase (k : Nat) (bankY : Bool) : Nat := 0x20080000 + k * 0x100000 + (if bankY then 0x8000 else 0)

/-- Where an address of the map lies (R39): a memory, a peripheral block, or nothing that responds. -/
inductive Region where
  | tcm | commons | spur (k : Nat) | capture | mram | identity | peripheral (block : Nat) | none
deriving DecidableEq, Repr

/-- The region of an address (R39, R40). -/
def State.region (s : State) (a : Nat) : Region :=
  if a < 0x80000 then .tcm
  else if 0x10000000 ≤ a ∧ a < 0x10200000 then .commons
  else if 0x20000000 ≤ a ∧ a < 0x20800000 then
    let k := (a - 0x20000000) / 0x100000
    let o := a % 0x100000
    if k < s.spurs ∧ (o < 0x10000 ∨ (0x80000 ≤ o ∧ o < 0x90000)) then .spur k else .none
  else if 0x30000000 ≤ a ∧ a < 0x30200000 then .capture
  else if 0x40000000 ≤ a ∧ a < 0x40780000 then .mram
  else if 0x407C0000 ≤ a ∧ a < 0x40800000 then .identity
  else if 0x50000000 ≤ a ∧ a < 0x500D0000 then .peripheral ((a - 0x50000000) / 0x10000)
  else .none

/-- Every byte outside MRAM dropped: the SRAM regions written to zero (R757). -/
def State.clearSram (s : State) : State := { s with mem := Store.keep (fun a => decide (mramBase ≤ a)) s.mem }

/-- The bytes from `lo` up to `hi` set to zero. -/
def State.clearRange (s : State) (lo hi : Nat) : State :=
  { s with mem := Store.keep (fun a => decide (a < lo ∨ hi ≤ a)) s.mem }

/-- `n` bytes from `src` copied to `dst`: what `dst` held is gone. -/
def State.copyRange (s : State) (src dst n : Nat) : State :=
  let es := s.mem.filter fun e => decide (src ≤ e.1 ∧ e.1 < src + n)
  let s := s.clearRange dst (dst + n)
  { s with mem := es.foldl (fun m e => Store.write 0 m (e.1 - src + dst) e.2) s.mem }

/-! ### Parameters (R9 to R12, R801, R802) -/

/-- The table row of a parameter ID, if the part has that parameter (R801). -/
def State.paramDef (s : State) (id : Nat) : Option ParamDef :=
  (paramClass (id / 2 ^ 24)).find? fun d =>
    decide (d.base % 2 ^ 16 = id % 2 ^ 16 ∧ d.base ≤ id ∧ (id - d.base) / 2 ^ 16 < s.instances d.count)

/-- The value a parameter takes without an entry in a set. -/
def State.paramDefault (s : State) (id : Nat) : Int :=
  match s.paramDef id with
  | some d => d.dflt
  | none => 0

/-- The running value of parameter `id`. -/
def State.parId (s : State) (id : Nat) : Int :=
  match Store.read none s.pm.run id with
  | some v => v
  | none => s.paramDefault id

/-- The running value of instance `i` of the parameter with base ID `b`. -/
def State.par (s : State) (b i : Nat) : Int := s.parId (b + i * 2 ^ 16)

/-- The same as a natural number. -/
def State.parN (s : State) (b i : Nat) : Nat := (s.par b i).toNat

/-- A contiguous network mask: ones above zeros. -/
def contiguousMask (n : Nat) : Bool := (List.range 33).any fun k => decide (n = 2 ^ 32 - 2 ^ k)

/-- The part of a range that a write checks (R802). -/
def ParamDef.inRange (d : ParamDef) (v : Int) : Bool :=
  d.spans.any (fun p => decide (p.1 ≤ v ∧ v ≤ p.2)) && (!d.even || decide (v % 2 = 0)) &&
    decide (popN 64 v.toNat ≤ d.maxBits) && (!d.mask || contiguousMask v.toNat)

/-! ### Stores of units -/

/-- Spur `k`. -/
def State.spur (s : State) (k : Nat) : SpurSt := Store.read {} s.sp k
/-- Spur `k` rewritten. -/
def State.updSpur (s : State) (k : Nat) (f : SpurSt → SpurSt) : State := { s with sp := Store.upd {} s.sp k f }
/-- Ethernet port `k`. -/
def State.port (s : State) (k : Nat) : EthSt := Store.read {} s.eth k
/-- Ethernet port `k` rewritten. -/
def State.updPort (s : State) (k : Nat) (f : EthSt → EthSt) : State := { s with eth := Store.upd {} s.eth k f }
/-- CAN controller `k`. -/
def State.ctl (s : State) (k : Nat) : CanSt := Store.read {} s.can k
/-- CAN controller `k` rewritten. -/
def State.updCtl (s : State) (k : Nat) (f : CanSt → CanSt) : State := { s with can := Store.upd {} s.can k f }
/-- Slot or firmware copy `k`. -/
def State.slot (s : State) (k : Nat) : SlotSt := Store.read {} s.rg.slots k
/-- Slot or firmware copy `k` rewritten. -/
def State.updSlot (s : State) (k : Nat) (f : SlotSt → SlotSt) : State :=
  { s with rg := { s.rg with slots := Store.upd {} s.rg.slots k f } }
/-- Draft `k`. -/
def State.draft (s : State) (k : Nat) : Draft := Store.read {} s.pm.drafts k
/-- Draft `k` rewritten. -/
def State.updDraft (s : State) (k : Nat) (f : Draft → Draft) : State :=
  { s with pm := { s.pm with drafts := Store.upd {} s.pm.drafts k f } }
/-- Stage `k`. -/
def State.stage (s : State) (k : Nat) : StageSt := Store.read {} s.st k
/-- Stage `k` rewritten. -/
def State.updStage (s : State) (k : Nat) (f : StageSt → StageSt) : State := { s with st := Store.upd {} s.st k f }
/-- Modulator input `k`. -/
def State.mod (s : State) (k : Nat) : ModSt := Store.read {} s.md k
/-- Modulator input `k` rewritten. -/
def State.updMod (s : State) (k : Nat) (f : ModSt → ModSt) : State := { s with md := Store.upd {} s.md k f }
/-- Machine `k`. -/
def State.machine (s : State) (k : Nat) : MachineSt := Store.read {} s.mc k
/-- Machine `k` rewritten. -/
def State.updMachine (s : State) (k : Nat) (f : MachineSt → MachineSt) : State := { s with mc := Store.upd {} s.mc k f }
/-- Auxiliary PWM channel `k`. -/
def State.apwm (s : State) (k : Nat) : ApwmSt := Store.read {} s.ap k
/-- Auxiliary PWM channel `k` rewritten. -/
def State.updApwm (s : State) (k : Nat) (f : ApwmSt → ApwmSt) : State := { s with ap := Store.upd {} s.ap k f }
/-- The PWM of group `k` rewritten. -/
def State.updGroupPwm (s : State) (k : Nat) (f : GroupPwm → GroupPwm) : State := { s with gp := Store.upd {} s.gp k f }
/-- Feedback channel `k`. -/
def State.chan (s : State) (k : Nat) : FbSt := Store.read {} s.fb k
/-- Feedback channel `k` rewritten. -/
def State.updChan (s : State) (k : Nat) (f : FbSt → FbSt) : State := { s with fb := Store.upd {} s.fb k f }
/-- Pin EVT_k. -/
def State.evt (s : State) (k : Nat) : EvtSt := Store.read {} s.ev k
/-- Pin EVT_k rewritten. -/
def State.updEvt (s : State) (k : Nat) (f : EvtSt → EvtSt) : State := { s with ev := Store.upd {} s.ev k f }
/-- LATCH_k. -/
def State.latch (s : State) (k : Nat) : LatchSt := Store.read {} s.la k
/-- LATCH_k rewritten. -/
def State.updLatch (s : State) (k : Nat) (f : LatchSt → LatchSt) : State := { s with la := Store.upd {} s.la k f }
/-- RM_k. -/
def State.rate (s : State) (k : Nat) : RateSt := Store.read {} s.rm k
/-- RM_k rewritten. -/
def State.updRate (s : State) (k : Nat) (f : RateSt → RateSt) : State := { s with rm := Store.upd {} s.rm k f }
/-- Axis `k`. -/
def State.axis (s : State) (k : Nat) : AxisSt := Store.read {} s.ax k
/-- Axis `k` rewritten. -/
def State.updAxis (s : State) (k : Nat) (f : AxisSt → AxisSt) : State := { s with ax := Store.upd {} s.ax k f }
/-- Path group `k`. -/
def State.path (s : State) (k : Nat) : PathSt := Store.read {} s.pg k
/-- Path group `k` rewritten. -/
def State.updPath (s : State) (k : Nat) (f : PathSt → PathSt) : State := { s with pg := Store.upd {} s.pg k f }
/-- Learning table `k`. -/
def State.table (s : State) (k : Nat) : TableSt := Store.read {} s.lt k
/-- Learning table `k` rewritten. -/
def State.updTable (s : State) (k : Nat) (f : TableSt → TableSt) : State := { s with lt := Store.upd {} s.lt k f }
/-- STO group `k` of the monitor. -/
def State.group (s : State) (k : Nat) : GroupSt := Store.read {} s.sf.groups k
/-- STO group `k` rewritten. -/
def State.updGroup (s : State) (k : Nat) (f : GroupSt → GroupSt) : State :=
  { s with sf := { s.sf with groups := Store.upd {} s.sf.groups k f } }
/-- Safe axis `k`. -/
def State.safeAxis (s : State) (k : Nat) : SafeAxisSt := Store.read {} s.sf.axes k
/-- Safe axis `k` rewritten. -/
def State.updSafeAxis (s : State) (k : Nat) (f : SafeAxisSt → SafeAxisSt) : State :=
  { s with sf := { s.sf with axes := Store.upd {} s.sf.axes k f } }
/-- Pair `k`. -/
def State.pair (s : State) (k : Nat) : PairSt := Store.read {} s.sf.pairs k
/-- Pair `k` rewritten. -/
def State.updPair (s : State) (k : Nat) (f : PairSt → PairSt) : State :=
  { s with sf := { s.sf with pairs := Store.upd {} s.sf.pairs k f } }
/-- SOUT_k. -/
def State.sout (s : State) (k : Nat) : SoutSt := Store.read {} s.sf.souts k
/-- SOUT_k rewritten. -/
def State.updSout (s : State) (k : Nat) (f : SoutSt → SoutSt) : State :=
  { s with sf := { s.sf with souts := Store.upd {} s.sf.souts k f } }
/-- Capture segment `k`. -/
def State.seg (s : State) (k : Nat) : SegSt := Store.read {} s.cp.segs k
/-- Capture segment `k` rewritten. -/
def State.updSeg (s : State) (k : Nat) (f : SegSt → SegSt) : State :=
  { s with cp := { s.cp with segs := Store.upd {} s.cp.segs k f } }
/-- Something put on a wire. -/
def State.send (s : State) (x : Sent) : State := { s with sent := s.sent ++ [x] }
/-- Interrupt flags raised (R622). -/
def State.irq (s : State) (bit : Nat) : State := { s with hp := { s.hp with irqFlags := setBitN s.hp.irqFlags bit true } }
/-- A reason to drive FAULT_N; the FAULT flag rises when it becomes driven (R622). -/
def State.driveFault (s : State) (bit : Nat) : State :=
  let s' := { s with pw := { s.pw with fault := setBitN s.pw.fault bit true } }
  if s.pw.fault = 0 then s'.irq 7 else s'
/-- A reason to drive FAULT_N withdrawn. -/
def State.releaseFault (s : State) (bit : Nat) : State :=
  { s with pw := { s.pw with fault := setBitN s.pw.fault bit false } }

/-! ### The active image -/

/-- The ACTIVE Traverse slot, if any (R76). -/
def State.activeSlot (s : State) : Option Nat := (List.range 4).find? fun k => decide ((s.slot k).state = .active)

/-- The active image. -/
def State.image (s : State) : Option Image := (s.activeSlot).bind fun k => (s.slot k).image

/-- The key of the schedule that runs: the primary one or the variant's (R56). -/
def State.schedKey (s : State) : Nat := match s.rg.variant with | none => 0 | some k => k + 1

/-- The schedule that runs. -/
def State.sched (s : State) : Option Schedule :=
  (s.image).bind fun im => Store.read none im.body.scheds s.schedKey

/-- The loops of the active image. -/
def State.loops (s : State) : List LoopRow := match s.image with | some im => im.body.loops | none => []

/-- Frames run: the Ridge is RUNNING or in FALLBACK (R21). -/
def State.framesRun (s : State) : Bool := decide (s.rg.state ≠ .stopped)

/-- The frame cycle of the present instant (R60). -/
def State.frameCycle (s : State) : Nat := s.tm.now - s.rg.frameStart

/-- A loop runs in the running schedule (R99). -/
def State.loopRuns (s : State) (l : LoopRow) : Bool :=
  match s.rg.variant with
  | none => true
  | some k => l.variants.testBit k

/-- The spur that hosts a loop in the running schedule (R71). -/
def State.loopSpur (s : State) (l : LoopRow) : Nat :=
  match s.rg.variant with
  | none => l.spur
  | some k => l.hosts.getD k 0xFF

/-- A spur that the image uses in its primary schedule. -/
def Image.usesSpur (im : Image) (k : Nat) : Bool :=
  im.body.loops.any (fun l => decide (l.spur = k)) ||
    (match Store.read none im.body.scheds 0 with
     | some sc => sc.entries.any (fun e => decide (e.1 = k)) | none => false)

/-! ### The machine map (R71, R156, R157) -/

/-- The STO group of a stage (R156). -/
def groupOf (k : Nat) : Nat := k / 6

/-- The machine of a stage, if any (R157). -/
def State.machineOf (s : State) (k : Nat) : Option Nat :=
  let m := s.parN P.STG_MACHINE k
  if m = 255 then none else some m

/-- The stages of a machine. -/
def State.machineStages (s : State) (m : Nat) : List Nat :=
  (List.range s.stages).filter fun k => decide (s.machineOf k = some m)

/-- The STO group of a machine: that of its stages. -/
def State.machineGroup (s : State) (m : Nat) : Nat :=
  match s.machineStages m with
  | k :: _ => groupOf k
  | [] => 0

/-- The current loop of a machine in the active image (R71). -/
def State.machineLoop (s : State) (m : Nat) : Option LoopRow :=
  s.loops.find? fun l => decide (l.kind = 1 ∧ l.object = m)

/-- The spur that hosts a machine in the running schedule. -/
def State.machineSpur (s : State) (m : Nat) : Option Nat := (s.machineLoop m).map s.loopSpur

/-! ### Reports to the Cairn journal (R559 to R567) -/

/-- One byte of record data. -/
def b1 (n : Nat) : List Nat := le 1 n
/-- Two bytes of record data. -/
def b2 (n : Nat) : List Nat := le 2 n
/-- Four bytes of record data. -/
def b4 (n : Nat) : List Nat := le 4 n

/-- A report joins the open Scree entry of source and code (R562). -/
def screeJoin (es : List ScreeEntry) (r : CairnRec) (code : Nat) : List ScreeEntry :=
  es.map fun e => if e.source = r.source ∧ e.code = code then
    { e with count := satN 32 (e.count + 1), level := max e.level r.level, last := r.ns } else e

/-- A report goes to Scree: joins, opens an entry, or joins its source's catch-all (R562). -/
def State.toScree (s : State) (r : CairnRec) : State :=
  let es := s.cn.screes
  let opened (code : Nat) : ScreeEntry :=
    { source := r.source, code := code, level := r.level, count := 1, first := r.ns, last := r.ns, coarse := r.coarse }
  let has (code : Nat) := es.any fun e => decide (e.source = r.source ∧ e.code = code)
  let general := (es.filter fun e => decide (e.code ≠ 0xFFFF)).length
  let es' := if has r.code then screeJoin es r r.code
    else if general < 239 then es ++ [opened r.code]
    else if has 0xFFFF then screeJoin es r 0xFFFF
    else es ++ [opened 0xFFFF]
  { s with cn := { s.cn with screes := es' } }

/-- A record put in the front queue; JOURNAL_QUEUE_HIGH, itself a report of level 1 (R561), when the occupancy reaches its
notice (R564). -/
def State.enqueue (s : State) (r : CairnRec) : State :=
  let q := s.cn.front ++ [r]
  let n := s.parN P.JNL_QUEUE_NOTICE 0
  if s.cn.noticeArmed && q.length = n then
    let h : CairnRec := { ns := r.ns, coarse := r.coarse, scree := false, source := 8, level := 1, code := 0x10,
                          data := padTo 12 (b2 q.length ++ b2 s.cn.screes.length) }
    let s' : State := { s with cn := { s.cn with front := q, noticeArmed := false } }
    if 1 < s.parN P.JNL_MIN_SEVERITY 0 then s'
    else if n < 960 then { s' with cn := { s'.cn with front := q ++ [h] } }
    else s'.toScree h
  else { s with cn := { s.cn with front := q } }


/-- The ring slot of a sequence (R557, R764). -/
def State.ringSlot (s : State) (q : Nat) : Nat :=
  if s.mm.bankFailed % 2 = 1 then 32768 + q % 32768
  else if s.mm.bankFailed = 2 then q % 32768
  else q % 65536

/-- The capacity of the ring (R557, R764). -/
def State.ringSize (s : State) : Nat := if s.mm.bankFailed = 0 then 65536 else 32768

/-- A write of `n` bytes of MRAM from address `a`, counted in each 64-byte line that it touches (chapter 17, Wear). -/
def State.worn (s : State) (a n : Nat) : State :=
  if n = 0 then s else
  let first := (a - mramBase) / 64
  let last := (a + n - 1 - mramBase) / 64
  { s with mm := { s.mm with wear := (List.range (last + 1 - first)).foldl (fun m i => Store.upd 0 m (first + i) fun c => c + 1) s.mm.wear } }

/-- A record written to the MRAM ring with the next sequence (R556, R557). -/
def State.writeRecord (s : State) (r : CairnRec) : State :=
  let q := s.cn.nextSeq
  let s := s.worn (0x40580000 + s.ringSlot q * 32) 32
  let s := { s with cn := { s.cn with
    ring := Store.write none s.cn.ring (s.ringSlot q) (some (q, r))
    nextSeq := (q + 1) % 2 ^ 32, newest := some q, flushed := s.cn.flushed + 1 } }
  if s.parN P.HSP_IRQ_LEVEL 0 ≤ r.level then s.irq 2 else s

/-- A report handled by its severity and the queue's occupancy (R561, R565). -/
def State.file (s : State) (r : CairnRec) : State :=
  let n := s.cn.front.length
  if r.level < s.parN P.JNL_MIN_SEVERITY 0 then s
  else if s.pw.warning && s.cn.flushFrom.isNone then
    if 3 ≤ r.level then s.writeRecord r else s.toScree r
  else if n < 960 then s.enqueue r
  else if n < 1024 && 3 ≤ r.level then s.enqueue r
  else s.toScree r

/-- A block's report: the capture engine's trigger sees it before the front queue (R581), then the journal takes it. -/
def State.report (s : State) (source level code : Nat) (data : List Nat) : State :=
  let (ns, c) := s.reportNs
  { s with cp := { s.cp with reports := s.cp.reports ++ [(source, code, level, ns)] } }.file
    { ns := ns, coarse := c, scree := false, source := source, level := level, code := code, data := padTo 12 data }

end Sys2Proof.Machine
end

