-- ==== Sys2Proof/Machine/Links.lean ====
section
/-!
DEFINITION. Sys2Proof/Machine/Links.lean: how a packet leaves the module: into MBX_OUT (R617, R619), as a UDP datagram with address
resolution (R630, R631), or cut into CAN FD frames (R665, R674).
-/
namespace Sys2Proof.Machine

/-! ### CAN transmission (R665, R666, R674) -/

/-- The order of arbitration: the identifier as the bus sees it, standard before extended (R665). -/
def TxBuf.rank (t : TxBuf) : Nat :=
  if t.ext then (t.ident / 2 ^ 18) * 2 ^ 19 + 2 ^ 18 + t.ident % 2 ^ 18 else (t.ident % 2 ^ 11) * 2 ^ 19

/-- The pending buffer that enters arbitration next, of those that `p` allows. -/
def CanSt.next (c : CanSt) (p : TxBuf → Bool) : Option Nat :=
  (c.tx.filter fun e => decide (e.2.state = .pending) && p e.2).foldl
    (fun best e => match best with
      | none => some e.1
      | some b => if e.2.rank < (Store.read {} c.tx b).rank then some e.1 else some b) none

/-- No buffer is in transmission. -/
def CanSt.idle (c : CanSt) : Bool := c.tx.all fun e => decide (e.2.state ≠ .sending)

/-- Transmit buffer `b` rewritten. -/
def CanSt.updTx (c : CanSt) (b : Nat) (f : TxBuf → TxBuf) : CanSt := { c with tx := Store.upd {} c.tx b f }

/-- Buffer `b` in transmission from now, with the stamp of its start of frame (R666). -/
def State.begin (s : State) (n b : Nat) : State :=
  s.updCtl n fun c => c.updTx b fun t => { t with state := .sending, sof := s.ns }

/-- An ACTIVE controller with no frame in transmission enters arbitration with its best pending frame; TT frames wait for their
mark (R665, R669). -/
def State.arbitrate (s : State) (n : Nat) : State :=
  let c := s.ctl n
  if c.state ≠ .active || !c.idle then s else
  match c.next (·.tt.isNone) with
  | some b => s.begin n b
  | none => s

/-- A firmware frame for buffer `b`: pending there, or behind the frames that wait for it. -/
def State.canPost (s : State) (n b : Nat) (t : TxBuf) : State :=
  let c := s.ctl n
  if (Store.read {} c.tx b).state = .free then (s.updCtl n fun c => c.updTx b fun _ => { t with state := .pending }).arbitrate n
  else s.updCtl n fun c => { c with backlog := c.backlog ++ [(b, t)] }

/-- Bytes cut into pieces of 63. -/
def cut63 : Nat → List Nat → List (List Nat)
  | 0, _ => []
  | n + 1, bs => if bs = [] then [] else padTo 63 (bs.take 63) :: cut63 n (bs.drop 63)

/-- A packet on CAN: segments of 64 bytes on CAN_CMD_ID + 1, from transmit buffer 0 (R674). -/
def State.canPacket (s : State) (n : Nat) (bs : List Nat) : State :=
  let pieces := cut63 17 bs
  let tg := !(s.ctl n).cmdTxToggle
  let s := s.updCtl n fun c => { c with cmdTxToggle := tg }
  (pieces.zip (List.range pieces.length)).foldl (fun s x =>
    s.canPost n 0 { ident := s.parN P.CAN_CMD_ID n + 1, fd := true, brs := true,
                    data := (x.2 % 64 + b2n (x.2 + 1 = pieces.length) 6 + b2n tg 7) :: x.1 }) s

/-! ### UDP (R629 to R631) -/

/-- The address to resolve for a destination: itself, or the gateway outside the subnet (R630). -/
def State.nextHop (s : State) (port ip : Nat) : Nat :=
  let m := s.parN P.ETH_NETMASK port
  if ip &&& m = s.parN P.ETH_IP port &&& m then ip else s.parN P.ETH_GATEWAY port

/-- The cached MAC address of `ip`, while its entry lives (R630). -/
def EthSt.resolve (e : EthSt) (now ip : Nat) : Option Nat :=
  (e.arp.find? fun a => decide (a.ip = ip ∧ now < a.expires)).map (·.mac)

/-- A datagram: sent, or waiting behind an ARP request (R630). -/
def State.udp (s : State) (port ip udpPort : Nat) (bs : List Nat) : State :=
  if s.parN P.ETH_IP port = 0 || !(s.port port).up then s else
  let hop := s.nextHop port ip
  match (s.port port).resolve s.tm.now hop with
  | some _ => s.send (.udp port ip udpPort bs)
  | none =>
    (s.updPort port fun e => { e with waits := e.waits ++
      [{ ip := hop, destIp := ip, destPort := udpPort, bytes := bs, since := s.tm.now }] }).send (.arp port true 0 hop)

/-! ### The host port's mailbox (R617, R619) -/

/-- Words queued in MBX_OUT. -/
def HostSt.outLevel (h : HostSt) : Nat := h.mbxOut.foldl (fun n p => n + p.length) 0

/-- The words of a packet (R617). -/
def packetWords (bs : List Nat) : List Nat := toWords ((bs.length + 3) / 4) bs

/-- A packet enters MBX_OUT whole, in order, or waits for room (R619). -/
def State.mailbox (s : State) (sess seq : Nat) (bs : List Nat) : State :=
  if s.hp.waiting = [] ∧ s.hp.outLevel + (packetWords bs).length ≤ 2048 then
    { s with hp := { s.hp with mbxOut := s.hp.mbxOut ++ [packetWords bs] } }.irq 0
  else { s with hp := { s.hp with waiting := s.hp.waiting ++ [(s.tm.now, sess, seq, bs)] } }

/-- Waiting packets enter MBX_OUT while they find room, `n` at most. -/
def State.refill : Nat → State → State
  | 0, s => s
  | n + 1, s =>
    match s.hp.waiting with
    | [] => s
    | (_, _, _, bs) :: ws =>
      if s.hp.outLevel + (packetWords bs).length ≤ 2048 then
        State.refill n ({ s with hp := { s.hp with mbxOut := s.hp.mbxOut ++ [packetWords bs], waiting := ws } }.irq 0)
      else s

/-! ### Any link -/

/-- The largest packet of a link (R394, R631, R674). -/
def linkLargest : Link → Nat
  | .host => 4096
  | .udp _ _ _ => 1472
  | .can _ => 1008

/-- The link's number in SESSION_OPENED and AUTH_FAILED: 0 host port, 1 UDP, 2 CAN. -/
def linkCode : Link → Nat
  | .host => 0
  | .udp _ _ _ => 1
  | .can _ => 2

/-- A reply leaves on the link of its request (R406). -/
def State.deliver (s : State) (l : Link) (sess seq : Nat) (bs : List Nat) : State :=
  match l with
  | .host => s.mailbox sess seq bs
  | .udp p ip up => s.udp p ip up bs
  | .can n => s.canPacket n bs

end Sys2Proof.Machine
end

