-- ==== Sys2Proof/Machine/Journal.lean ====
section
/-!
DEFINITION. Sys2Proof/Machine/Journal.lean: the command journal and the replies (R391 to R422): packets, reply blocks, journal
slots and their two copies, sequence arithmetic, sessions, and how a command's outcome is kept and reported.
-/
namespace Sys2Proof.Machine

/-- A command packet as a transport delivers it (R391, R392), with how it arrived. -/
structure Packet where
  link : Link
  magicOk : Bool
  lenOk : Bool
  crcOk : Bool
  version : Nat
  flags : Nat
  session : Nat
  seq : Nat
  opcode : Nat
  target : Nat
  payload : List Nat
  tag : List Nat
  deferred : Bool
deriving DecidableEq, Repr

/-- The outcome of executing a command: final, or still to come. For a query or a session-control packet the OUTCOME of
the reply is NONE whatever `outcome` says (R396). -/
inductive Res where
  | pending
  | done (outcome status detail result : Nat) (data : List Nat)
deriving DecidableEq, Repr

/-- Completed OK with reply data. -/
def Res.ok (data : List Nat := []) : Res := .done 2 0 0 0 data
/-- Completed with another status. -/
def Res.fail (status : Nat) (detail : Nat := 0) (data : List Nat := []) : Res := .done 2 status detail 0 data
/-- A STAGE_COMMIT that changed nothing (R396, R430). -/
def Res.notApplied (status : Nat) (detail : Nat := 0) : Res := .done 4 status detail 0 []

/-! ### Status codes (R411, R799) -/

def stOk : Nat := 0
def stAccepted : Nat := 1
def stInProgress : Nat := 2
def stDuplicate : Nat := 3
def stInterrupted : Nat := 0x10
def stCancelled : Nat := 0x11
def stBadCrc : Nat := 0x100
def stBadLength : Nat := 0x101
def stBadOpcode : Nat := 0x102
def stBadSession : Nat := 0x103
def stSeqGap : Nat := 0x104
def stNotAuth : Nat := 0x105
def stSeqConflict : Nat := 0x106
def stParamUnknown : Nat := 0x200
def stParamRange : Nat := 0x201
def stParamEffect : Nat := 0x202
def stInconsistent : Nat := 0x203
def stNotChecked : Nat := 0x204
def stCommitLate : Nat := 0x205
def stWrongState : Nat := 0x300
def stBusy : Nat := 0x301
def stJournalFull : Nat := 0x302
def stTripActive : Nat := 0x303
def stSafetyDemand : Nat := 0x304
def stLimitExceeded : Nat := 0x400
def stTargetBehind : Nat := 0x401
def stUnreachable : Nat := 0x402
def stPathFull : Nat := 0x403
def stHomeUnexpected : Nat := 0x404
def stHomeChatter : Nat := 0x405
def stComparePassed : Nat := 0x406
def stSafetyLocked : Nat := 0x500
def stSafetyCrc : Nat := 0x501
def stImageSignature : Nat := 0x600
def stImageTarget : Nat := 0x601
def stImageContract : Nat := 0x602
def stHwFault : Nat := 0x700
def stRefused : Nat := 0x701
def stCanStarted : Nat := 0x702

/-! ### The key and sessions (R400 to R404, R636) -/

/-- K_dev (R636). -/
def State.kDev (s : State) : List Nat :=
  le 8 (s.parN P.ETH_AUTH_KEY_0 0) ++ le 8 (s.parN P.ETH_AUTH_KEY_1 0) ++ le 8 (s.parN P.ETH_AUTH_KEY_2 0) ++
    le 8 (s.parN P.ETH_AUTH_KEY_3 0)

/-- The key is set: not all four parameters are 0 (R636). -/
def State.keySet (s : State) : Bool := s.kDev.any fun b => decide (b ≠ 0)

/-- The key check value (R636): "KCV". -/
def State.keyCheck (s : State) : Nat := ofLe ((hmac s.kDev [0x4B, 0x43, 0x56]).take 4)

/-- The open session with an identifier. -/
def State.session (s : State) (id : Nat) : Option Session := s.jn.sessions.find? fun x => decide (x.id = id)

/-- A session's record rewritten. -/
def State.updSession (s : State) (id : Nat) (f : Session → Session) : State :=
  { s with jn := { s.jn with sessions := s.jn.sessions.map fun x => if x.id = id then f x else x } }

/-! ### Sequence arithmetic (R407) -/

/-- d of R407: how far sequence `q` lies beyond `a`. -/
def seqDelta (a q : Nat) : Nat :=
  let a' := if a = 0 then 0xFFFFFFFF else a
  (q % (2 ^ 32 - 1) + (2 ^ 32 - 1) - a' % (2 ^ 32 - 1)) % (2 ^ 32 - 1)

/-- `q` lies at or behind `a`. -/
def seqBehind (a q : Nat) : Bool := decide (seqDelta a q = 0 ∨ 2 ^ 31 ≤ seqDelta a q)

/-! ### Journal slots (R412 to R417) -/

/-- The copy of the journal that serves. -/
def State.bank (s : State) : Store JEntry := if s.jn.fail0 then s.jn.bank1 else s.jn.bank0

/-- The entry of a slot. -/
def State.entry (s : State) (slot : Nat) : JEntry := Store.read {} s.bank slot

/-- An entry is held: valid and not acknowledged. -/
def JEntry.held (e : JEntry) : Bool := e.valid && decide (e.state ≠ 4)

/-- A slot rewritten: bank 0 first and bank 1 second, each unless it has failed; WRITE_COUNT increases (R413, R414, R417). -/
def State.putEntry (s : State) (slot : Nat) (e : JEntry) : State :=
  let e := { e with valid := true, writeCount := ((s.entry slot).writeCount + 1) % 2 ^ 32 }
  let s := if s.jn.fail0 then s else s.worn (0x40480000 + slot * 64) 64
  let s := if s.jn.fail1 then s else s.worn (0x40500000 + slot * 64) 64
  { s with jn := { s.jn with
    bank0 := if s.jn.fail0 then s.jn.bank0 else Store.write {} s.jn.bank0 slot e
    bank1 := if s.jn.fail1 then s.jn.bank1 else Store.write {} s.jn.bank1 slot e } }

/-- The held entries with their slots. -/
def State.heldEntries (s : State) : List (Nat × JEntry) := s.bank.filter fun e => e.2.held

/-- The number of unacknowledged entries. -/
def State.unacked (s : State) : Nat := s.heldEntries.length

/-- The held entry of a session's sequence, with its slot. -/
def State.findEntry (s : State) (sess seq : Nat) : Option (Nat × JEntry) :=
  s.heldEntries.find? fun e => decide (e.2.session = sess ∧ e.2.seq = seq)

/-- The next free slot after the last allocated, in cyclic order (chapter 17, Wear), looking at `n` slots. -/
def State.freeSlotFrom (s : State) : Nat → Nat → Option Nat
  | 0, _ => none
  | n + 1, k => if (s.entry (k % 8192)).held then State.freeSlotFrom s n (k + 1) else some (k % 8192)

/-- The slot a new entry takes, if one is free (R415). -/
def State.freeSlot (s : State) : Option Nat := s.freeSlotFrom 8192 (s.jn.lastSlot + 1)

/-- The digest of a packet (R408). -/
def Packet.digest (p : Packet) : List Nat :=
  (sha256 ((p.flags / 4 * 4) % 256 :: (le 2 p.opcode ++ le 2 p.payload.length ++ le 2 p.target ++ p.payload))).take 16

/-! ### Replies (R395 to R397) -/

/-- The reply block (R395). -/
def replyBlock (status outcome detail : Nat) (acc comp : Option Nat) : List Nat :=
  le 2 status ++ [outcome, 0] ++ le 2 detail ++ [0, 0] ++ stampOpt acc ++ stampOpt comp

/-- A packet from the module: header, payload, tag if its session is authenticated and has a key, CRC (R391, R395, R403). -/
def State.modulePacket (s : State) (session seq opcode target more : Nat) (payload : List Nat) : List Nat :=
  let key := (s.session session).bind fun x => if x.authed then x.key else none
  let flags := 0x20 + more + b2n key.isSome
  let body := le 2 0x5A57 ++ [1, flags] ++ le 2 session ++ le 4 seq ++ le 2 opcode ++ le 2 payload.length ++ le 2 target ++
    payload
  let body := match key with
    | some k => body ++ (hmac k body).take 16
    | none => body
  body ++ le 4 (crc32c body)

/-- A reply to packet `p` (R395). `more` adds the MORE flag. -/
def State.reply (s : State) (p : Packet) (status outcome detail : Nat) (acc comp : Option Nat) (data : List Nat)
    (more : Bool := false) : State :=
  s.deliver p.link p.session p.seq
    (s.modulePacket p.session p.seq p.opcode p.target (b2n more 3) (replyBlock status outcome detail acc comp ++ data))

/-- A reply to a packet that was not accepted. -/
def State.refuse (s : State) (p : Packet) (status : Nat) (detail : Nat := 0) : State :=
  s.reply p status 0 detail none none []

/-! ### Starting, finishing, reporting (R412 to R420) -/

/-- The command in progress at a journal slot. -/
def State.runningCmd (s : State) (slot : Nat) : Option Cmd := s.jn.running.find? fun c => decide (c.slot = slot)

/-- A started command finishes: its outcome waits for COMPLETION_REPORT (R420); one that is not in progress is left alone. -/
def State.finish (s : State) (slot : Nat) (r : Res) : State :=
  match r, s.runningCmd slot with
  | .done o st d res data, some _ =>
    { s with jn := { s.jn with
      running := s.jn.running.filter fun c => decide (c.slot ≠ slot)
      done := s.jn.done ++ [{ slot := slot, outcome := o, status := st, detail := d, result := res, data := data,
                              ns := s.ns }] } }
  | _, _ => s

/-- The same with the stamp of another instant. -/
def State.finishAt (s : State) (slot ns : Nat) (r : Res) : State :=
  let s' := s.finish slot r
  { s' with jn := { s'.jn with done := s'.jn.done.map fun d => if d.slot = slot then { d with ns := ns } else d } }

/-- The entry of a slot rewritten with an outcome (R414). -/
def State.complete (s : State) (slot outcome status detail result : Nat) (ns : Option Nat) : State :=
  s.putEntry slot { s.entry slot with
    state := 3, outcome := outcome, status := status, detail := detail, result := result, complete := ns }

/-- An outcome is journaled, unless its marker has been (R429), and its one report sent to where its session last spoke from (R406,
R420); a port without link drops it (R632). -/
def State.reportOne (s : State) (d : Done) : State :=
  let e := s.entry d.slot
  let s := if 3 ≤ e.state then s else s.complete d.slot d.outcome d.status d.detail d.result (some d.ns)
  match s.session e.session with
  | none => s
  | some x =>
    let bs := s.modulePacket e.session e.seq e.opcode e.target 0x10
      (replyBlock d.status d.outcome d.detail e.accept (some d.ns) ++ d.data)
    match x.link with
    | .udp p _ _ =>
      if (s.port p).up then s.deliver x.link e.session e.seq bs
      else s.report 0x0B 2 5 (b2 e.session ++ b4 e.seq ++ b1 p)
    | l => s.deliver l e.session e.seq bs

/-- The first waiting outcome is journaled and reported. -/
def State.reportNext (s : State) : State :=
  match s.jn.done with
  | [] => s
  | d :: ds => { s with jn := { s.jn with done := ds } }.reportOne d

/-- Every waiting outcome journaled without a report: what a flush to the journal leaves. -/
def State.reportAll : Nat → State → State
  | 0, s => s
  | n + 1, s => if s.jn.done = [] then s else State.reportAll n s.reportNext

/-- A command moves from the queue to execution: its entry becomes started (R414, R418). -/
def State.markStarted (s : State) (c : Cmd) : State :=
  let s := s.putEntry c.slot { s.entry c.slot with state := 2, outcome := 1, status := stInProgress }
  { s with jn := { s.jn with running := s.jn.running ++ [c] } }

end Sys2Proof.Machine
end

