-- ==== Sys2Proof/Machine/Timebase.lean ====
section
/-!
DEFINITION. Sys2Proof/Machine/Timebase.lean: the timebase and its servo (R529 to R552), and the Cairn journal's writing,
Scree, flush, reading and marking (R559 to R567).
-/
namespace Sys2Proof.Machine

/-- An exact quotient rounded to the nearest integer, halves up. -/
def roundRat (q : Rat) : Int := (q + 1 / 2).floor

/-- A magnitude rounded half up, the sign then applied (R270). -/
def roundAway (q : Rat) : Int := if q < 0 then -roundRat (-q) else roundRat q

/-- A rational clamped to an interval. -/
def clampR (lo hi q : Rat) : Rat := if q < lo then lo else if hi < q then hi else q

/-! ### Steps and rate (R529, R537, R542, R543) -/

/-- INC for a correction of `a` ppb, rounded half up to 32 fractional bits (R537). -/
def incFor (a : Rat) : Nat := (roundRat (5 * 2 ^ 32 * (1 + a / 1000000000))).toNat

/-- The nominal increment, 5.0 ns (R529). -/
def incNominal : Nat := 0x500000000

/-- A step of T by `d` ns with its cause (R542): STEP_EPOCH advances, edge timing is invalidated (R543) and TIME_STEPPED
recorded with the new time; the host's flag TIME_STEP rises (R622). -/
def stepBy (d : Int) (cause : Nat) (s : State) : State :=
  let ep := (s.tm.stepEpoch + 1) % 256
  let t := s.tm.t + d * 2 ^ 32
  let s : State := { s with
    fb := Store.mapAll {} (fun _ (f : FbSt) => { f with ref := none, epochOk := false }) s.fb
    tm := { s.tm with
      t := t, stepEpoch := ep, lastStep := d, steps := Store.write 0 s.tm.steps ep d
      lastStepNs := some (t / 2 ^ 32).toNat
      lastPps := s.tm.lastPps.map fun p => ((p : Int) + d).toNat
      servo := if s.tm.servo = ServoState.locked then .acquiring else s.tm.servo, inWindow := 0, outWindow := 0 } }
  (s.irq 5).report 8 2 1 (leI 8 d ++ b1 ep ++ b1 cause)

/-- T loaded with a stamp, as a step (R546, R547, R550). -/
def stepTo (ns cause : Nat) (s : State) : State :=
  stepBy ((ns : Int) - s.busNs) cause { s with tm := { s.tm with t := (s.busNs : Int) * 2 ^ 32 } }

/-- The servo back in FREE for the primary source, with no correction (R538). -/
def servoFree (s : State) : State :=
  { s with tm := { s.tm with
    servo := .free, inc := incNominal, source := s.parN P.TIM_SOURCE 0, slewLimited := false, inWindow := 0, outWindow := 0
    lastMeas := none, alarmed := false } }

/-! ### Measurements (R535 to R541) -/

/-- `src` delivered an accepted measurement within TIM_SOURCE_TIMEOUT (R539). -/
def sourceAlive (s : State) (src : Nat) : Bool :=
  match Store.read none s.tm.lastBySource src with
  | some c => decide (s.tm.now < c + s.parN P.TIM_SOURCE_TIMEOUT 0 * cyclesPerMs)
  | none => false

/-- An offset above TIM_STEP_MAX while LOCKED or HOLDOVER (R537). -/
def measurementRejected (s : State) (o : Int) : Bool :=
  decide (s.tm.servo = .locked ∨ s.tm.servo = .holdover) && decide (s.parN P.TIM_STEP_MAX 0 * nsPerS < o.natAbs)

/-- The source a measurement of `src` leaves in use: the primary at its first accepted measurement, the alternate while the
primary is lost (R539); none where the measurement is not applied. -/
def sourceTaken (s : State) (src : Nat) : Bool :=
  decide (src = s.tm.source) || decide (src = s.parN P.TIM_SOURCE 0) ||
    (decide (src = s.parN P.TIM_SOURCE_2 0) && !sourceAlive s (s.parN P.TIM_SOURCE 0) &&
      decide (s.tm.servo = .free ∨ s.tm.servo = .holdover))

/-- The servo's law on an accepted offset that causes no step (R537). `tau` in seconds. -/
def servoLaw (s : State) (o : Int) (tau : Rat) : State :=
  let m : Rat := s.parN P.TIM_SLEW_MAX 0
  let y := clampR (-m) m (s.tm.y + (s.parN P.TIM_KI 0 : Rat) / 32768 * o / tau)
  let a := -((s.parN P.TIM_KP 0 : Rat) / 32768 * o / tau + y)
  let a' := clampR (-m) m a
  { s with tm := { s.tm with y := y, inc := incFor a', slewLimited := decide (a' ≠ a) } }

/-- TIME_OFFSET_ALARM for an accepted measurement taken while LOCKED (R541). -/
def offsetAlarm (o : Int) (s : State) : State :=
  let al := s.parN P.TIM_OFFSET_ALARM 0
  if s.tm.servo = .locked ∧ al ≠ 0 ∧ al < o.natAbs ∧ !s.tm.alarmed then
    { s with tm := { s.tm with alarmed := true } }.report 8 2 5 (b1 s.tm.source ++ leI 4 (satI 32 o))
  else s

/-- The lock state after an accepted measurement without a step (R538, R540, R541). -/
def servoLock (s : State) (o : Int) : State :=
  let inside := decide (o.natAbs ≤ s.parN P.TIM_LOCK_WINDOW 0)
  let nIn := if inside then s.tm.inWindow + 1 else 0
  let nOut := if inside then 0 else s.tm.outWindow + 1
  let alarmed := s.tm.alarmed && decide (nIn < 8)
  let s := { s with tm := { s.tm with inWindow := nIn, outWindow := nOut, alarmed := alarmed } }
  match s.tm.servo with
  | .locked =>
    let s := offsetAlarm o s
    if 8 ≤ nOut then { s with tm := { s.tm with servo := .acquiring, outWindow := 0 } } else s
  | .acquiring =>
    if 8 ≤ nIn then
      { s with tm := { s.tm with servo := .locked, coarse := false, accepted := 0, outWindow := 0 } }.report 8 1 2
        (b1 s.tm.source ++ leI 4 (satI 32 o) ++ leI 4 (roundRat s.tm.y))
    else s
  | _ => s

/-- A measurement of source `src` with offset `o` (R537): rejected, a step, or the servo's law; `true` when accepted. -/
def measure (src : Nat) (o : Int) (s : State) : State × Bool :=
  if src = 0 || !s.clocked || (src ≠ s.parN P.TIM_SOURCE 0 && src ≠ s.parN P.TIM_SOURCE_2 0) then (s, false) else
  if measurementRejected s o then
    (s.report 8 2 6 (b1 src ++ b1 1 ++ leI 4 (satI 32 (o.tdiv nsPerS))), false)
  else
  let taken := sourceTaken s src
  let s := { s with tm := { s.tm with lastBySource := Store.write none s.tm.lastBySource src (some s.tm.now) } }
  if !taken then (s, true) else
  let old := s.tm.source
  let switched := decide (src ≠ old)
  let s := if switched then
      { s with tm := { s.tm with
        source := src, servo := .acquiring, inWindow := 0, outWindow := 0
        lastMeas := if s.tm.servo = ServoState.free then none else s.tm.lastMeas } }.report 8 1 4 (b1 old ++ b1 src)
    else s
  let tau : Rat := match s.tm.servo, s.tm.lastMeas with
    | .free, _ => 1
    | _, none => 1
    | _, some c => ((s.tm.now - c : Nat) : Rat) / cyclesPerS
  let s := { s with tm := { s.tm with
    servo := if s.tm.servo = .free ∨ s.tm.servo = .holdover then .acquiring else s.tm.servo
    lastOffset := o, lastMeas := some s.tm.now, accepted := s.tm.accepted + 1 } }
  if s.parN P.TIM_STEP_THRESHOLD 0 < o.natAbs then
    let m : Rat := s.parN P.TIM_SLEW_MAX 0
    let s := stepBy (-o) 1 (offsetAlarm o s)
    ({ s with tm := { s.tm with inc := incFor (clampR (-m) m (-s.tm.y)), slewLimited := decide (m < s.tm.y ∨ s.tm.y < -m) } }, true)
  else (servoLock (servoLaw s o tau) o, true)

/-- A PPS edge (R536): the raw edge lies 8 + 3 cycles before its detection. -/
def ppsEdge (s : State) : State :=
  if s.parN P.CMP_EVT_FUNC (s.parN P.TIM_PPS_PIN 0) ≠ 3 || !s.clocked then s else
  let e := s.nsBack 11
  let v : Int := (e % nsPerS : Nat) - s.par P.TIM_PPS_DELAY 0
  let o := if v < 500000000 then v else v - 1000000000
  let bad := match s.tm.lastPps with
    | some p => decide (1000000 < ((e : Int) - p - 1000000000).natAbs)
    | none => false
  if bad then s.report 8 2 6 (b1 3 ++ b1 2 ++ leI 4 (satI 32 (o.tdiv nsPerS))) else
  let (s', ok) := measure 3 o { s with tm := { s.tm with lastPps := some e } }
  if ok then s' else { s' with tm := { s'.tm with lastPps := s.tm.lastPps } }

/-- The source in use is lost (R539): no accepted measurement for TIM_SOURCE_TIMEOUT. -/
def sourceLost (s : State) : State :=
  let src := s.tm.source
  if src = 0 || sourceAlive s src || s.tm.servo = .free || s.tm.servo = .holdover then s else
  let alt := if src = s.parN P.TIM_SOURCE 0 then s.parN P.TIM_SOURCE_2 0 else s.parN P.TIM_SOURCE 0
  let s := { s with tm := { s.tm with lastPps := none, inWindow := 0, outWindow := 0, alarmed := false } }
  let y4 := leI 4 (roundRat s.tm.y)
  if alt ≠ 0 && alt ≠ src && sourceAlive s alt then
    ({ s with tm := { s.tm with source := alt, servo := .acquiring } }.report 8 2 3 (b1 src ++ b1 1 ++ y4)).report 8 1 4
      (b1 src ++ b1 alt)
  else if s.tm.servo = .locked then
    { s with tm := { s.tm with servo := .holdover, inc := incFor (-s.tm.y) } }.report 8 2 3 (b1 src ++ b1 3 ++ y4)
  else
    { s with tm := { s.tm with servo := .free, inc := incNominal } }.report 8 2 3 (b1 src ++ b1 0 ++ y4)

/-- A holdover times out (R538): FREE, with INC from the learned y. -/
def holdoverTimeout (s : State) : State :=
  if s.tm.servo ≠ .holdover then s else
  { s with tm := { s.tm with servo := .free, inc := incFor (-s.tm.y), freeKeepsY := true } }.report 8 2 3
    (b1 s.tm.source ++ b1 0 ++ leI 4 (roundRat s.tm.y))

/-- TIME_MEASUREMENT (R537). -/
def execTimeMeasurement (dt source : Nat) (offset : Int) (s : State) : Out := .next (measure source offset (s.elapse dt)).1
/-- PPS_EDGE (R536). -/
def execPpsEdge (dt : Nat) (s : State) : Out := .next (ppsEdge (s.elapse dt))
/-- TIME_SOURCE_LOST (R539). -/
def execTimeSourceLost (dt : Nat) (s : State) : Out := .next (sourceLost (s.elapse dt))
/-- HOLDOVER_TIMEOUT (R538). -/
def execHoldoverTimeout (dt : Nat) (s : State) : Out := .next (holdoverTimeout (s.elapse dt))

/-! ### TIME_GET and TIME_SET (R549, R550) -/

/-- The servo state's code (R551). -/
def servoCode : ServoState → Nat
  | .free => 0
  | .acquiring => 1
  | .locked => 2
  | .holdover => 3

/-- TIME_GET (R549). -/
def cmdTimeGet (_c : Cmd) (s : State) : Res × State :=
  (.ok (stampBytes s.busNs ++ [servoCode s.tm.servo, s.tm.source] ++ leI 4 (satI 32 s.tm.lastOffset) ++
    leI 4 (roundRat s.tm.y) ++ [s.tm.stepEpoch, 0] ++ leI 8 s.tm.lastStep ++ stampOpt s.tm.lastStepNs ++ le 4 s.tm.accepted), s)

/-- TIME_SET (R550). A stamp of all 0xFF names no time and is out of range. -/
def cmdTimeSet (c : Cmd) (s : State) : Res × State :=
  match ofStamp c.args with
  | none => (.fail stParamRange, s)
  | some ns =>
    if fld c.args 6 4 ≥ nsPerS then (.fail stParamRange, s) else
    if (s.tm.source = 1 ∨ s.tm.source = 2) ∧ (s.tm.servo = .acquiring ∨ s.tm.servo = .locked) then (.fail stWrongState, s)
    else (.ok (stampBytes s.busNs ++ stampBytes ns), stepTo ns 2 s)

/-! ### The Cairn journal's writing (R559, R563, R565) -/

/-- The record of a Scree entry (R563). -/
def screeRecord (e : ScreeEntry) : CairnRec :=
  { ns := e.first, coarse := e.coarse, scree := true, source := e.source, level := e.level, code := e.code,
    data := le 4 e.count ++ le 8 (e.last - e.first) }

/-- A record is a JOURNAL_MARK's (R567). -/
def isMark (r : CairnRec) : Bool := decide (r.source = 1 ∧ 0x8000 ≤ r.code) && !r.scree

/-- A mark waiting for the queue enters it once an entry is free (R567). -/
def enterMarks (s : State) : State :=
  match s.cn.heldMarks with
  | m :: ms => if s.cn.front.length < 1024 then { s with cn := { s.cn with heldMarks := ms } }.enqueue m else s
  | [] => s

/-- A record written, and the JOURNAL_MARK it belongs to completed with its sequence (R567). -/
def writeOne (s : State) (r : CairnRec) : State :=
  let q := s.cn.nextSeq
  let s := s.writeRecord r
  if isMark r then
    match s.cn.marks with
    | k :: ks => { s with cn := { s.cn with marks := ks } }.finish k (.ok (le 4 q))
    | [] => s
  else s

/-- The front queue has fallen below half of JNL_QUEUE_NOTICE (R564). -/
def armNotice (s : State) : State :=
  if s.cn.front.length < s.parN P.JNL_QUEUE_NOTICE 0 / 2 then { s with cn := { s.cn with noticeArmed := true } } else s

/-- The next record goes to MRAM: the monitor's queue first (R559). -/
def recordWrite (s : State) : State :=
  if !s.clocked then s else
  match s.cn.monQ, s.cn.front with
  | r :: rs, _ => writeOne { s with cn := { s.cn with monQ := rs } } r
  | [], r :: rs => armNotice (enterMarks (writeOne { s with cn := { s.cn with front := rs } } r))
  | [], [] => s

/-- The open entry with the earliest first stamp. -/
def firstScree : List ScreeEntry → Option ScreeEntry
  | [] => none
  | e :: es => match firstScree es with
    | none => some e
    | some f => if f.first < e.first then some f else some e

/-- An open Scree entry enters the front queue (R563). -/
def screeRelease (s : State) : State :=
  if 512 ≤ s.cn.front.length || s.pw.warning then s else
  match firstScree s.cn.screes with
  | none => s
  | some e => { s with cn := { s.cn with screes := s.cn.screes.filter fun x => !decide (x.source = e.source ∧ x.code = e.code) } }.enqueue
      (screeRecord e)

/-- The open entries in order of their first stamps. -/
def screeOrder : Nat → List ScreeEntry → List ScreeEntry
  | 0, _ => []
  | n + 1, es => match firstScree es with
    | none => []
    | some e => e :: screeOrder n (es.filter fun x => !decide (x.source = e.source ∧ x.code = e.code))

/-- The flush of a supply warning closes with JOURNAL_FLUSHED, written directly (R565). -/
def journalFlushed (s : State) : State :=
  match s.cn.flushFrom with
  | none => s
  | some from_ =>
    let rs := s.cn.monQ ++ s.cn.monHeld ++ s.cn.front ++ s.cn.heldMarks ++ (screeOrder 256 s.cn.screes).map screeRecord
    let s := rs.foldl writeOne { s with cn := { s.cn with
      monQ := [], monHeld := [], front := [], heldMarks := [], screes := [], noticeArmed := true } }
    let us := (s.tm.now - from_) / cyclesPerUs
    let (ns, c) := s.reportNs
    { s with cn := { s.cn with flushFrom := none } }.writeRecord
      { ns := ns, coarse := c, scree := false, source := 8, level := 1, code := 0x11,
        data := padTo 12 (b4 s.cn.flushed ++ b4 us) }

/-- The sum of the steps from epoch `e` (exclusive) to the present one (R544), over `n` epochs at most. -/
def stepsSince (s : State) : Nat → Nat → Int
  | 0, _ => 0
  | n + 1, e => if e = s.tm.stepEpoch then 0
    else Store.read 0 s.tm.steps ((e + 1) % 256) + stepsSince s n ((e + 1) % 256)

/-- The compact stamps at the given offsets of record data moved by `d` ns (R544). -/
def moveCompacts (d : Int) (offs : List Nat) (data : List Nat) : List Nat :=
  offs.foldl (fun bs o => bs.take o ++ le 4 (((fld bs o 4 : Int) + d) % 2 ^ 32).toNat ++ bs.drop (o + 4)) data

/-! ### JOURNAL_READ and JOURNAL_MARK (R566, R567) -/

/-- A record as its 32 bytes (R553 to R555). -/
def recordBytes (q : Nat) (r : CairnRec) : List Nat :=
  let b := stampBytes r.ns ++ [r.source, r.level + b2n r.coarse 6 + b2n r.scree 7] ++ le 2 r.code ++ le 4 q ++ padTo 12 r.data
  b ++ le 2 (crc16 b)

/-- The age of the oldest record kept, counted from the newest (R566). -/
def oldestAge (s : State) (newest : Nat) : Nat :=
  s.cn.ring.foldl (fun a e => match e.2 with
    | some (q, _) => max a ((newest + 2 ^ 32 - q) % 2 ^ 32)
    | none => a) 0

/-- The records of the next `fuel` sequences from `q` to the newest, at most `n`, empty slots skipped (R558, R566). -/
def readFrom (s : State) (newest : Nat) : Nat → Nat → Nat → List Nat
  | 0, _, _ => []
  | _, 0, _ => []
  | fuel + 1, n + 1, q =>
    let more (k : Nat) := if q = newest then [] else readFrom s newest fuel k ((q + 1) % 2 ^ 32)
    match Store.read none s.cn.ring (s.ringSlot q) with
    | some (q', r) => if q' = q then recordBytes q r ++ more n else more (n + 1)
    | none => more (n + 1)

/-- Bytes of reply data that fit a packet of the link after the reply block and any tag (R394, R566, R631, R674). -/
def replyRoom (l : Link) (x : Option Session) : Nat :=
  match x with
  | some x => min (linkLargest l) x.maxPacket - 48 - (if x.authed && x.key.isSome then 16 else 0)
  | none => linkLargest l - 48

/-- JOURNAL_READ (R566). -/
def cmdJournalRead (c : Cmd) (s : State) : Res × State :=
  let n := fld c.args 4 1
  if n = 0 ∨ 100 < n then (.fail stParamRange, s) else
  match s.cn.newest with
  | none => (.ok, s)
  | some newest =>
    let first := fld c.args 0 4
    let age := (newest + 2 ^ 32 - first) % 2 ^ 32
    if 2 ^ 31 ≤ age then (.ok, s) else
    let old := oldestAge s newest
    let q := if old < age then (newest + 2 ^ 32 - old) % 2 ^ 32 else first
    let n := min n (replyRoom c.link (s.session c.session) / 32)
    (.done 2 0 (if old < age then 1 else 0) 0 (readFrom s newest 65536 n q), s)

/-- JOURNAL_MARK (R567). -/
def cmdJournalMark (c : Cmd) (s : State) : Res × State :=
  let code := fld c.args 0 2
  if 0x8000 ≤ code then (.fail stParamRange, s) else
  let r : CairnRec := { ns := c.accept, coarse := false, scree := false, source := 1, level := 1, code := 0x8000 + code,
                        data := padTo 12 (c.args.drop 2) }
  let s := { s with cn := { s.cn with marks := s.cn.marks ++ [c.slot] } }
  if s.cn.front.length < 1024 ∧ s.cn.heldMarks = [] then (.pending, s.enqueue r)
  else (.pending, { s with cn := { s.cn with heldMarks := s.cn.heldMarks ++ [r] } })

/-- CAIRN_RECORD_WRITE (R559). -/
def execCairnRecordWrite (dt : Nat) (s : State) : Out := .next (recordWrite (s.elapse dt))
/-- SCREE_RELEASE (R563). -/
def execScreeRelease (dt : Nat) (s : State) : Out := .next (screeRelease (s.elapse dt))
/-- JOURNAL_FLUSHED (R565). -/
def execJournalFlushed (dt : Nat) (s : State) : Out := .next (journalFlushed (s.elapse dt))

end Sys2Proof.Machine
end

