-- ==== Sys2Proof/Machine/Motion.lean ====
section
/-!
DEFINITION. Sys2Proof/Machine/Motion.lean: the profile unit and the retarget test (R311 to R319), in exact rationals. A square
root is taken downward to 2⁻³² (R312 leaves 1 pu), and a position found by halving is completed by a stretch at constant velocity, so
that every profile ends exactly where it should.
-/
namespace Sys2Proof.Machine

/-- A motion state: position, velocity, acceleration in pu, pu/s, pu/s². -/
abbrev Kin := Rat × Rat × Rat

/-- The square root of a nonnegative rational, rounded down to 2⁻³². -/
def sqrtR (q : Rat) : Rat := (isqrt (q * 2 ^ 64).floor.toNat : Rat) / 2 ^ 32

/-- The sign of a rational. -/
def sgnR (q : Rat) : Int := if q < 0 then -1 else if 0 < q then 1 else 0

/-- The magnitude of a rational. -/
def absR (q : Rat) : Rat := if q < 0 then -q else q

/-- R319: `advance`. -/
def advance (k : Kin) (j t : Rat) : Kin :=
  let (p, v, a) := k
  (p + v * t + a * t * t / 2 + j * t * t * t / 6, v + a * t + j * t * t / 2, a + j * t)

/-- A state after all segments of constant jerk (jerk, duration). -/
def runAll : List (Rat × Rat) → Kin → Kin
  | [], k => k
  | (j, d) :: segs, k => runAll segs (advance k j d)

/-- A state `t` after the first of the segments begins; beyond the last one the velocity stays. -/
def runFor : List (Rat × Rat) → Rat → Kin → Kin
  | [], t, (p, v, _) => (p + v * t, v, 0)
  | (j, d) :: segs, t, k => if t < d then advance k j t else runFor segs (t - d) (advance k j d)

/-- The time that segments take. -/
def spanOf (segs : List (Rat × Rat)) : Rat := segs.foldl (fun t e => t + e.2) 0

/-- The way that segments lead from rest position 0 with this velocity and acceleration. -/
def wayOf (segs : List (Rat × Rat)) (v a : Rat) : Rat := (runAll segs (0, v, a)).1

/-- Mirrored segments. -/
def mirror (segs : List (Rat × Rat)) : List (Rat × Rat) := segs.map fun e => (-e.1, e.2)

/-- Segments upward from (v, a) with `a` at most `lim` to (w, 0), where w lies above what braking `a` alone gives. -/
def rise (v a w lim j : Rat) : List (Rat × Rat) :=
  let top := sqrtR (j * (w - v) + a * a / 2)
  let top := if lim < top then lim else top
  let top := if top < a then a else if top < 0 then 0 else top
  let flat := if top = 0 then 0 else (w - v - (top * top - a * a) / (2 * j) - top * top / (2 * j)) / top
  [(j, (top - a) / j), (0, if flat < 0 then 0 else flat), (-j, top / j)]

/-- The jerk-limited transition from (v, a) to (w, 0): an acceleration beyond its limit is brought within it first (R317). `up` limits
positive accelerations, `dn` the magnitude of negative ones. -/
def transit (v a w up dn j : Rat) : List (Rat × Rat) :=
  let pre : List (Rat × Rat) := if up < a then [(-j, (a - up) / j)] else if a < -dn then [(j, (-dn - a) / j)] else []
  let (_, v, a) := runAll pre (0, v, a)
  let free := v + a * absR a / (2 * j)
  let rest := if w = free then [(-(sgnR a : Rat) * j, absR a / j)]
    else if free < w then rise v a w up j
    else mirror (rise (-v) (-a) (-w) dn j)
  pre ++ rest

/-- R319: `stop_point` as segments, for a state with v > 0, or v = 0 and a > 0. -/
def stopSegs (v a dmax jmax : Rat) : List (Rat × Rat) :=
  let d := if dmax < -a then -a else dmax
  let d := if v + (a * a - 2 * d * d) / (2 * jmax) < 0 then sqrtR ((2 * jmax * v + a * a) / 2) else d
  let t1 := (a + d) / jmax
  let t2 := if d = 0 then 0 else (v + (a * a - 2 * d * d) / (2 * jmax)) / d
  [(-jmax, if t1 < 0 then 0 else t1), (0, if t2 < 0 then 0 else t2), (jmax, d / jmax)]

/-- The direction of a motion: of the velocity, or of the acceleration at standstill (R319). -/
def direction (v a : Rat) : Int := if v = 0 then sgnR a else sgnR v

/-- R319: where a motion can stop at the earliest. -/
def stopPoint (k : Kin) (dmax jmax : Rat) : Rat :=
  let (p, v, a) := k
  if direction v a < 0 then p - wayOf (stopSegs (-v) (-a) dmax jmax) (-v) (-a) else p + wayOf (stopSegs v a dmax jmax) v a

/-- The outcome of the retarget test (R319). -/
inductive Retarget where
  | accept
  | behind
  | unreachable (nearest : Int)
deriving DecidableEq, Repr

/-- A position in units of 2⁻¹⁶ pu, rounded away from the position `p` (R319). -/
def roundFrom (p q : Rat) : Int := if p ≤ q then (q * 65536).ceil else (q * 65536).floor

/-- R319: `retarget_test`. -/
def retargetTest (target : Rat) (k : Kin) (dmax jmax : Rat) : Retarget :=
  let (p, v, a) := k
  if v = 0 ∧ a = 0 then .accept else
  let s : Rat := direction v a
  if s * (target - p) ≤ 0 then .behind else
  let q := stopPoint k dmax jmax
  if s * (target - q) < 0 then .unreachable (roundFrom p q) else .accept

/-- Up to the velocity `vp` and down to standstill. -/
def hump (v a vp : Rat) (l : Limits) : List (Rat × Rat) × List (Rat × Rat) :=
  (transit v a vp l.a l.d l.j, transit vp 0 0 l.a l.d l.j)

/-- The way of a hump. -/
def humpWay (v a vp : Rat) (l : Limits) : Rat :=
  let h := hump v a vp l
  wayOf (h.1 ++ h.2) v a

/-- The largest peak velocity, to 1 part in 2 ^ n of `hi - lo`, whose hump leads at most `way`. -/
def bisectPeak (v a way : Rat) (l : Limits) : Nat → Rat → Rat → Rat
  | 0, lo, _ => lo
  | n + 1, lo, hi =>
    let m := (lo + hi) / 2
    if humpWay v a m l ≤ way then bisectPeak v a way l n m hi else bisectPeak v a way l n lo m

/-- A stop whose deceleration, beyond the limit at first, is brought to `am` before R319's stop. -/
def easedStop (v a am dmax jmax : Rat) : List (Rat × Rat) :=
  let pre : List (Rat × Rat) := [(jmax, (am - a) / jmax)]
  let (_, v', a') := runAll pre (0, v, a)
  pre ++ stopSegs v' a' dmax jmax

/-- The largest `am` whose eased stop leads at most `way`. -/
def bisectEase (v a way dmax jmax : Rat) : Nat → Rat → Rat → Rat
  | 0, lo, _ => lo
  | n + 1, lo, hi =>
    let m := (lo + hi) / 2
    if wayOf (easedStop v a m dmax jmax) v a ≤ way then bisectEase v a way dmax jmax n m hi
    else bisectEase v a way dmax jmax n lo m

/-- The segments of a positioning move over `way` ≥ 0 in the positive direction at velocity `vm` at most (R311, R317). -/
def planSegs (v a way vm : Rat) (l : Limits) : List (Rat × Rat) :=
  let full := hump v a vm l
  let fullWay := wayOf (full.1 ++ full.2) v a
  if fullWay ≤ way then full.1 ++ [(0, if vm = 0 then 0 else (way - fullWay) / vm)] ++ full.2
  else if humpWay v a 0 l ≤ way then
    let vp := bisectPeak v a way l 48 0 vm
    let h := hump v a vp l
    h.1 ++ [(0, if vp = 0 then 0 else (way - wayOf (h.1 ++ h.2) v a) / vp)] ++ h.2
  else if a < -(l.d : Rat) then easedStop v a (bisectEase v a way l.d l.j 48 a (-(l.d : Rat))) l.d l.j
  else stopSegs v a l.d l.j

/-- A profile from a state to a target that the state can reach (R311). -/
def planTo (k : Kin) (target : Int) (l : Limits) (vm : Rat := l.v) : Profile :=
  let (p, v, a) := k
  let q : Rat := (target : Rat) / 65536
  let s : Int := if v = 0 ∧ a = 0 then sgnR (q - p) else direction v a
  let segs := if s < 0 then mirror (planSegs (-v) (-a) (p - q) vm l)
    else if s = 0 then [] else planSegs v a (q - p) vm l
  { p0 := p, v0 := v, a0 := a, segs := segs, t := 0, target := some target }

/-- A profile to a velocity (R315, R327). -/
def planVel (k : Kin) (w : Rat) (l : Limits) : Profile :=
  let (p, v, a) := k
  let s := if v = 0 ∧ a = 0 then sgnR w else direction v a
  let segs := if s < 0 then transit v a w l.d l.a l.j else transit v a w l.a l.d l.j
  { p0 := p, v0 := v, a0 := a, segs := segs, t := 0, target := none }

/-- A profile to standstill with deceleration `d` and jerk `j` (R316). -/
def planStop (k : Kin) (d j : Rat) : Profile :=
  let (p, v, a) := k
  { p0 := p, v0 := v, a0 := a, segs := transit v a 0 d d j, t := 0, target := none }

/-- A profile has ended. -/
def Profile.ended (f : Profile) : Bool := decide (spanOf f.segs ≤ f.t)

/-- The position in units of 2⁻¹⁶ pu, the velocity and the acceleration in units of 2⁻³² of a profile now (R312). -/
def Profile.now (f : Profile) : Int × Int × Int :=
  match f.target with
  | some q => if f.ended then (q, 0, 0) else
    let (p, v, a) := runFor f.segs f.t (f.p0, f.v0, f.a0)
    (roundRat (p * 65536), roundRat (v * 2 ^ 32), roundRat (a * 2 ^ 32))
  | none =>
    let (p, v, a) := runFor f.segs f.t (f.p0, f.v0, f.a0)
    (roundRat (p * 65536), roundRat (v * 2 ^ 32), roundRat (a * 2 ^ 32))

/-- Where a profile ends, in units of 2⁻¹⁶ pu. -/
def Profile.endPos (f : Profile) : Int :=
  match f.target with
  | some q => q
  | none => roundRat ((runAll f.segs (f.p0, f.v0, f.a0)).1 * 65536)

end Sys2Proof.Machine
end

