-- ==== Sys2Proof/Machine/Stages.lean ====
section
/-!
DEFINITION. Sys2Proof/Machine/Stages.lean: stages, machines, modulator inputs and the PWM generator (chapters 4 and 5): reloads,
intervals, trips, enables, drop banks, identification and the auxiliary channels.
-/
namespace Sys2Proof.Machine

/-! ### Who belongs to whom (R156, R157, R158) -/

/-- The machine is held by the running schedule (R187). -/
def State.machineHeld (s : State) (m : Nat) : Bool :=
  match s.machineLoop m with
  | some l => s.loopRuns l
  | none => false

/-- The machines an axis commands: its own, or those it shares (R329). -/
def State.axisMachines (s : State) (a : Nat) : List Nat :=
  let one := s.parN P.AX_MACHINE a
  let shared := [s.parN P.TSH_MACHINE_0 a, s.parN P.TSH_MACHINE_1 a, s.parN P.TSH_MACHINE_2 a, s.parN P.TSH_MACHINE_3 a]
  if s.parN P.AX_TYPE a ≠ 0 then [] else
  (if one = 255 then [] else [one]) ++ shared.filter fun m => decide (m ≠ 255)

/-- An axis context that the active image uses: it has a loop (R297). -/
def State.axisUsed (s : State) (a : Nat) : Bool :=
  decide (a < s.axes) && s.loops.any fun l => decide (1 < l.kind ∧ l.object = a)

/-- The axis that commands a machine. -/
def State.axisOf (s : State) (m : Nat) : Option Nat :=
  (List.range s.axes).find? fun a => s.axisUsed a && (s.axisMachines a).contains m

/-- The axis that commands a machine is disabled, or there is none. -/
def State.axisIdle (s : State) (m : Nat) : Bool :=
  match s.axisOf m with
  | some a => decide ((s.axis a).mode = .disabled)
  | none => true

/-- A group in safety demand: in every state but RELEASED. -/
def State.inDemand (s : State) (g : Nat) : Bool := decide ((s.group g).mode ≠ .released)

/-- LATCHED of a stage. -/
def State.latched (s : State) (k : Nat) : Bool := decide ((s.stage k).causes ≠ 0)

/-- The latched stages of a machine. -/
def State.latchedOf (s : State) (m : Nat) : List Nat := (s.machineStages m).filter s.latched

/-- The DRIVING stages of a machine. -/
def State.drivingOf (s : State) (m : Nat) : List Nat :=
  (s.machineStages m).filter fun k => decide ((s.stage k).mode = .driving)

/-- Bits of set indices for stages (R434, R806). -/
def State.setMask (s : State) (ks : List Nat) : Nat := ks.foldl (fun n k => setBitN n (s.parN P.STG_SET k) true) 0

/-- The carrier period of a stage's group (R207). -/
def State.period (s : State) (k : Nat) : Nat :=
  if s.parN P.PWM_ALIGN (groupOf k) < 2 then s.rg.frameLength else 2 * s.rg.frameLength

/-- Centre-aligned carriers of a stage's group (R207). -/
def State.centred (s : State) (k : Nat) : Bool := decide (s.parN P.PWM_ALIGN (groupOf k) % 2 = 0)

/-- The position of a stage's carrier in its period, from its valley (R208, R209). -/
def State.carrier (s : State) (k : Nat) : Nat :=
  let p := s.period k
  let base := if p = s.rg.frameLength then 0 else (s.rg.frame % 2) * s.rg.frameLength
  (base + s.frameCycle + p - s.parN P.PWM_PHASE k % p) % p

/-- The open-loop test is in force for a group (R220). -/
def State.openLoop (s : State) (g : Nat) : Bool :=
  decide (s.parN P.PWM_OPEN_LOOP g = 1 ∧ s.pw.mode = .commissioning)

/-- Q15 level of a DC-link channel's fast result at or above its overvoltage level (R171). -/
def State.overVoltage (s : State) (c : Nat) : Bool := decide (s.par P.STG_DC_OV_LEVEL c ≤ (s.mod (48 + c)).fast)

/-- The magnitudes of the last fast results of U, V and W (R170). -/
def State.fastMags (s : State) (k : Nat) : List Nat :=
  let u := (s.mod (2 * k)).fast
  let v := (s.mod (2 * k + 1)).fast
  [u.natAbs, v.natAbs, (u + v).natAbs]

/-- STAGE_STATUS (R221). -/
def State.stageStatus (s : State) (k : Nat) : Nat :=
  let t := s.stage k
  let c := s.parN P.STG_DC_CHANNEL k
  let bad (i : Nat) := (s.mod i).stuck || (s.mod i).overrange
  let trip := t.tripActive || (match t.tripLast with | some n => decide (s.tm.now < n + cyclesPerUs) | none => false)
  b2n t.hiz 15 + b2n t.frozen 14 + b2n t.loaded 13 + b2n t.pending 12 +
    b2n (Store.read {} s.gp (groupOf k)).proxy.isSome 11 + b2n (s.openLoop (groupOf k)) 10 + b2n trip 7 +
    b2n ((s.fastMags k).any fun m => decide (s.parN P.STG_OC_LEVEL k ≤ m)) 6 + b2n (s.overVoltage c) 5 +
    b2n (bad (2 * k) || bad (2 * k + 1) || bad (48 + c)) 4

/-- TRIP_LATCH (R222). -/
def State.tripLatch (s : State) (k : Nat) : Nat :=
  let t := s.stage k
  t.count * 65536 + t.causes + b2n (decide (t.causes ≠ 0)) 0

/-- A channel counts from an absolute reference (R188, R274). -/
def State.channelAbsolute (s : State) (c : Nat) : Bool :=
  let m := s.parN P.FB_MODE c
  decide (m = 3 ∨ m = 4 ∨ (m = 1 ∧ s.parN P.FB_INDEX_MODE c = 2))

/-- A machine is aligned: its flag, and POS_VALID of a channel that counts from an absolute reference (R188). -/
def State.isAligned (s : State) (m : Nat) : Bool :=
  let c := s.parN P.MAC_FB_PRIMARY m
  (s.machine m).aligned && (!s.channelAbsolute c || (s.chan c).posValid)

/-- The same on its second channel (R188). -/
def State.isAligned2 (s : State) (m : Nat) : Bool :=
  let c := s.parN P.MAC_FB_SECOND m
  decide (c ≠ 255) && (s.machine m).aligned2 && (!s.channelAbsolute c || (s.chan c).posValid)

/-- The torque limit of a machine, 0.01 N·m (R181, R188, R195). -/
def State.torqueLimit (s : State) (m : Nat) : Rat :=
  let ks := s.machineStages m
  let k := ks.length
  let ka := k - (if (s.machine m).dropBank.isSome then 1 else 0)
  if k = 0 then 0
  else if !s.isAligned m && !(s.drivingOf m).isEmpty then 0
  else (s.parN P.MAC_TORQUE_MAX m : Rat) * ka / k

/-! ### Losing torque (R98, R108, R200) -/

/-- A machine becomes torque-unavailable: recorded, and the safety monitor asked for cause 18 (R108, R205, R478). -/
def makeUnavailable (m cause : Nat) (s : State) : State :=
  if (s.machine m).unavailable.isSome then s else
  let s := s.updMachine m fun x => { x with unavailable := some cause, interrupted := none }
  let s := { s with sf := { s.sf with requests := s.sf.requests ++ [(18, m)] } }
  s.report 3 3 4 (b1 m ++ b1 cause ++ b4 s.rg.frame)

/-- An identification fails (R200). -/
def identFail (m status code : Nat) (s : State) : State :=
  match (s.machine m).ident with
  | none => s
  | some i =>
    let s := (s.updMachine m fun x => { x with ident := none }).finish i.slot (.fail status)
    s.report 3 2 8 (b1 m ++ b1 i.mode ++ b1 code)

/-- Identifications of the machines of a group in safety demand fail (R200, R806). -/
def identDemand (g : Nat) (s : State) : State :=
  (List.range s.machines).foldl (fun s m => if s.machineGroup m = g then identFail m stSafetyDemand 7 s else s) s

/-- Every identification fails with a failover (R200, R806). -/
def identFailover (s : State) : State := (List.range s.machines).foldl (fun s m => identFail m stHwFault 8 s) s

/-- The stages of a group leave DRIVING for DISABLED with their outputs in high impedance (R228, R233). -/
def disableGroup (g : Nat) (s : State) : State :=
  let s := { s with st := Store.mapAll {} (fun k (t : StageSt) => if groupOf k = g then
      { t with mode := if t.mode = StageMode.driving then StageMode.disabled else t.mode, hiz := true, switches := 0, driveFrom := none } else t) s.st }
  { s with mc := Store.mapAll {} (fun m (x : MachineSt) => if (s.machineGroup m) = g then { x with on := false } else x) s.mc }

/-- A latch sets (R222, R227, R228): the first cause stamps and counts, the outputs go to high impedance, every spur has a trip
notice, and an identification of the machine fails. -/
def latchStage (k cause input : Nat) (s : State) : State :=
  let t := s.stage k
  if t.causes.testBit cause || !s.clocked then s else
  let first := decide (t.causes = 0)
  let s := s.updStage k fun t => { t with
    causes := setBitN t.causes cause true, mode := .latched, hiz := true, switches := 0, driveFrom := none
    count := if first then satN 16 (t.count + 1) else t.count
    stamp := if first then compact s.ns else t.stamp
    latchedAt := if first then s.tm.now else t.latchedAt }
  let s := { s with sp := Store.mapAll {} (fun _ (p : SpurSt) => if p.live && !p.requests.contains SpurRequest.trip then
      { p with requests := p.requests ++ [SpurRequest.trip] } else p) s.sp }
  let s := s.report 3 3 3 (b1 k ++ b1 cause ++ b1 input ++ b4 s.rg.frame ++ b4 (compact s.ns))
  match s.machineOf k with
  | some m => identFail m stTripActive 6 s
  | none => s

/-- Every stage assigned to a DC-link channel latches (R171, R173). -/
def latchChannel (c cause : Nat) (s : State) : State :=
  ((List.range s.stages).filter fun k => decide (s.parN P.STG_DC_CHANNEL k = c)).foldl
    (fun s k => latchStage k cause (48 + c) s) s

/-! ### Shadows and reloads (R211, R215 to R219) -/

/-- A duty register written; a reload of the same cycle takes what it held before (R217). -/
def writeDuty (k phase v : Nat) (s : State) : State :=
  s.updStage k fun t =>
    let t := if t.dutyAt = s.tm.now then t else { t with oldU := t.dutyU, oldV := t.dutyV, oldW := t.dutyW, dutyAt := s.tm.now }
    match phase with
    | 0 => { t with dutyU := v % 65536 }
    | 1 => { t with dutyV := v % 65536 }
    | _ => { t with dutyW := v % 65536 }

/-- LOAD_ALL of a group: the load-pending flag of its stages (R215). -/
def loadAll (g : Nat) (s : State) : State :=
  (List.range 6).foldl (fun s i => if 6 * g + i < s.stages then
    s.updStage (6 * g + i) fun t => { t with pending := true, loadAt := if t.pending then t.loadAt else s.tm.now } else s) s

/-- The compare value of a duty (R211). -/
def compareOf (centred : Bool) (p u : Nat) : Nat :=
  let u := if 32768 ≤ u then 0 else u
  let h := (2 * u * p + 32767) / 65534
  if centred then (p - h) / 2 else h

/-- A duty as DUTY_IN_FORCE holds it. -/
def inForce (u : Nat) : Nat := if 32768 ≤ u then 0 else u

/-- A reload takes the shadows: the load-pending flag was set before this cycle (R216, R217). -/
def StageSt.takes (t : StageSt) (now : Nat) : Bool := t.pending && decide (t.loadAt ≠ now)

/-- The shadows as they stood at the end of the previous cycle. -/
def StageSt.shadows (t : StageSt) (now : Nat) : Nat × Nat × Nat :=
  if t.dutyAt = now then (t.oldU, t.oldV, t.oldW) else (t.dutyU, t.dutyV, t.dutyW)

/-- A reload at this kind of instant exists (R210). -/
def State.reloads (s : State) (k : Nat) (valley : Bool) : Bool :=
  let g := groupOf k
  !valley || decide (2 ≤ s.parN P.PWM_ALIGN g ∨ s.parN P.PWM_UPDATE g = 1)

/-- A stage's reload (R216, R212): shadows taken if load-pending, the dead time in force, and the outputs entering or
leaving high impedance where that is due (R94, R96, R189, R192), which ends a torque interruption (R98). -/
def stageReload (k : Nat) (valley : Bool) (s : State) : State :=
  let t := s.stage k
  if s.stages ≤ k || !s.framesRun || t.frozen || !s.reloads k valley then s else
  let now := s.tm.now
  let t := if t.takes now then
      let (u, v, w) := t.shadows now
      let c := compareOf (s.centred k) (s.period k)
      { t with forceU := inForce u, forceV := inForce v, forceW := inForce w, compU := c u, compV := c v, compW := c w,
               pending := false, loaded := true, lastLoaded := now }
    else { t with loaded := false }
  let t := { t with deadTime := s.parN P.PWM_DEADTIME k }
  let t := match t.hizFrom with
    | some f => if f ≤ now then { t with hiz := true, switches := 0, hizFrom := none } else t
    | none => t
  let t := match t.driveFrom with
    | some f => if f ≤ now ∧ t.mode = .driving then { t with hiz := false, driveFrom := none, lastLoaded := now } else t
    | none => t
  let leaves := (s.stage k).hiz && !t.hiz
  let s := s.updStage k fun _ => t
  match s.machineOf k with
  | some m => if leaves && (s.drivingOf m).all fun j => !(s.stage j).hiz then
      s.updMachine m fun x => { x with interrupted := none } else s
  | none => s

/-- LOAD_ALL_PROXY (R219): the generator sets LOAD_ALL in the place of a failed spur that holds the group's slot. -/
def loadAllProxy (g : Nat) (s : State) : State :=
  match s.rg.failure, s.sched with
  | some (k, _), some sc =>
    if sc.slots.any fun e => decide (e.kind = 6 ∧ e.spur = k ∧ e.target = g) then
      let told := (Store.read {} s.gp g).told
      let s := loadAll g (s.updGroupPwm g fun x => { x with proxy := some k, told := true })
      if told then s else s.report 4 2 4 (b1 g ++ b1 k ++ b4 s.rg.frame)
    else s
  | _, _ => s

/-! ### Intervals (R208, R211 to R214, R224) -/

/-- The compare value that governs from the next reload of the given kind on, as decided at this edge (R214). -/
def StageSt.nextCompare (t : StageSt) (s : State) (k ph : Nat) (valley : Bool) : Nat :=
  let now := match ph with | 0 => t.compU | 1 => t.compV | _ => t.compW
  if s.reloads k valley && t.pending then
    compareOf (s.centred k) (s.period k) (match ph with | 0 => t.dutyU | 1 => t.dutyV | _ => t.dutyW)
  else now

/-- The carrier position at which an interval that starts now ends: of the high or low switch, on or off (R211, R212). -/
def State.edgeEnd (s : State) (k ph : Nat) (low on : Bool) : Nat :=
  let t := s.stage k
  let p := s.period k
  let beforePeak := decide (s.carrier k < p / 2)
  let dt := t.deadTime
  let now := match ph with | 0 => t.compU | 1 => t.compV | _ => t.compW
  let cDown := if beforePeak then t.nextCompare s k ph false else now
  let cUp := t.nextCompare s k ph true
  if s.centred k then
    match low, on with
    | false, true => p - cDown
    | false, false => p + cUp + dt
    | true, true => p + cUp
    | true, false => p - cDown + dt
  else
    match low, on with
    | false, true => cDown
    | false, false => p + dt
    | true, true => p
    | true, false => cDown + dt

/-- A switch's interval starts (R212 to R214). The edge is taken only where the running interval has reached its fixed end, the
other switch of the leg lets it, and the interval that would start lasts at least 40 cycles. `sw` is 2 p for the high side
of phase p and 2 p + 1 for its low side. -/
def intervalEdge (k sw : Nat) (on : Bool) (s : State) : State :=
  let t := s.stage k
  if s.stages ≤ k || 6 ≤ sw || t.hiz || t.frozen || decide (t.mode ≠ .driving) || !s.framesRun then s else
  if s.tm.now < Store.read 0 t.until_ sw || t.switches.testBit sw = on then s else
  let other := if sw % 2 = 0 then sw + 1 else sw - 1
  if on && t.switches.testBit other && t.deadTime ≠ 0 then s else
  let p := s.period k
  let len := (s.edgeEnd k (sw / 2) (decide (sw % 2 = 1)) on + 2 * p - s.carrier k) % p
  let len := if len = 0 then p else len
  if len < 40 then s else
  s.updStage k fun t => { t with
    switches := if on && t.deadTime = 0 then setBitN (setBitN t.switches other false) sw true else setBitN t.switches sw on
    until_ := Store.write 0 t.until_ sw (s.tm.now + len)
    blankTo := s.tm.now + s.parN P.TRP_BLANK k }

/-! ### Trips (R223, R224) -/

/-- The trip input has shown `active` for the last `samples` samples (R223): those after the blanking window count. -/
def tripInput (k : Nat) (active : Bool) (samples : Nat) (s : State) : State :=
  if s.stages ≤ k || !s.clocked then s else
  let t := s.stage k
  let n := min samples (s.tm.now - t.blankTo)
  let count := if n = 0 then t.tripCount else if active then t.tripCount + n else 0
  let s := s.updStage k fun t => { t with
    tripActive := active, tripLast := if active && samples ≠ 0 then some s.tm.now else if t.tripActive then some s.tm.now else t.tripLast
    tripCount := count }
  if active && decide (s.parN P.TRP_FILTER k + 1 ≤ count) then latchStage k 1 k s else s

/-! ### Modulator results (R167 to R173) -/

/-- A filter result converted to Q15, with `bits` = 3 q or 2 r and no offset (R167, R169). -/
def toQ15 (raw bits : Nat) : Int :=
  let x : Int := 2 * (raw : Int) - 2 ^ bits
  let y := if bits ≤ 15 then x * 2 ^ (15 - bits) else x / 2 ^ (bits - 15)
  clampI (-32767) 32767 y

/-- The binary logarithm of a decimation. -/
def log2Dec (d : Nat) : Nat :=
  if d ≤ 8 then 3 else if d ≤ 16 then 4 else if d ≤ 32 then 5 else if d ≤ 64 then 6 else if d ≤ 128 then 7 else 8

/-- A fast result of a stage's phases U and V (R169, R170). -/
def fastPhase (k raw rawV : Nat) (s : State) : State :=
  let b := 2 * log2Dec (s.parN P.STG_FAST_DEC k)
  let s := (s.updMod (2 * k) fun m => { m with fast := toQ15 raw b }).updMod (2 * k + 1) fun m => { m with fast := toQ15 rawV b }
  let lvl := s.parN P.STG_OC_LEVEL k
  match (s.fastMags k).findIdx? fun m => decide (lvl ≤ m) with
  | none => s.updStage k fun t => { t with ocRun := 0 }
  | some ph =>
    let s := s.updStage k fun t => { t with ocRun := t.ocRun + 1, ocPhase := if t.ocRun = 0 then ph else t.ocPhase }
    if s.parN P.STG_OC_COUNT k ≤ (s.stage k).ocRun then latchStage k 2 (s.stage k).ocPhase s else s

/-- A fast result of a DC-link channel (R169, R171). -/
def fastDc (c raw : Nat) (s : State) : State :=
  let s := s.updMod (48 + c) fun m => { m with fast := toQ15 raw (2 * log2Dec (s.parN P.STG_DC_FAST_DEC c)) }
  if !s.overVoltage c then s.updMod (48 + c) fun m => { m with ovRun := 0 } else
  let s := s.updMod (48 + c) fun m => { m with ovRun := m.ovRun + 1 }
  if 2 ≤ (s.mod (48 + c)).ovRun then latchChannel c 3 s else s

/-- SINC2_RESULT for modulator input 2 s (with the V result of the same clock) or 48 + c. -/
def sinc2Result (i raw rawV : Nat) (s : State) : State :=
  if !s.clocked then s else
  if 48 ≤ i then (if i < 56 then fastDc (i - 48) raw s else s)
  else if i / 2 < s.stages then fastPhase (i / 2) raw rawV s else s

/-- A main result of a phase input (R166, R167, R173). -/
def mainPhase (i raw : Nat) (s : State) : State :=
  let k := i / 2
  let off := if i % 2 = 0 then s.par P.STG_OFFSET_U k else s.par P.STG_OFFSET_V k
  let r := clampI (-32767) 32767 (toQ15 raw (3 * log2Dec (s.mod i).dec) - off)
  let sat := decide (32766 < r.natAbs)
  let s := s.updMod i fun m => { m with
    main := r, measured := true, satRun := if sat then m.satRun + 1 else 0, overrange := sat, dec := s.parN P.STG_SINC3_DEC k }
  if 2 ≤ (s.mod i).satRun then latchStage k 5 i s else s

/-- A main result of a DC-link channel (R166, R167, R173, R804). -/
def mainDc (c raw : Nat) (s : State) : State :=
  let r := clampI (-32767) 32767 (toQ15 raw (3 * log2Dec (s.mod (48 + c)).dec) - s.par P.STG_DC_OFFSET c)
  let low := decide (r < s.par P.STG_DC_VMIN c)
  let told := (s.mod (48 + c)).lowTold
  let s := s.updMod (48 + c) fun m => { m with main := r, measured := true, lowTold := low, dec := s.parN P.STG_DC_SINC3_DEC c }
  if low && !told then s.report 3 2 9 (b1 c ++ leI 2 r ++ b4 s.rg.frame) else s

/-- SINC3_RESULT. -/
def sinc3Result (i raw : Nat) (s : State) : State :=
  if !s.framesRun || !s.clocked then s else
  if 48 ≤ i then (if i < 56 then mainDc (i - 48) raw s else s)
  else if i / 2 < s.stages then mainPhase i raw s else s

/-- A run of equal bits on a modulator input (R173). -/
def modulatorRun (i run : Nat) (s : State) : State :=
  if !s.clocked then s else
  if 48 ≤ i then
    if 56 ≤ i then s else
    let bad := decide (s.parN P.STG_DC_STUCK_RUN (i - 48) < run)
    let s := s.updMod i fun m => { m with stuck := bad }
    if bad then latchChannel (i - 48) 6 s else s
  else
    if s.stages ≤ i / 2 then s else
    let bad := decide (s.parN P.STG_STUCK_RUN (i / 2) < run)
    let s := s.updMod i fun m => { m with stuck := bad }
    if bad then latchStage (i / 2) 4 i s else s

/-! ### The carrier watchdog (R233) -/

/-- A watched stage without a loaded reload for 2 carrier periods: its group is inhibited and its gate supply driven off. -/
def carrierWatchdog (k : Nat) (s : State) : State :=
  let t := s.stage k
  if s.stages ≤ k || t.hiz || s.tm.now < t.lastLoaded + 2 * s.period k then s else
  let g := groupOf k
  let s := s.report 4 3 3 (b1 g ++ b1 k ++ b4 s.rg.frame ++ b4 (compact s.ns))
  let s := disableGroup g (s.updGroup g fun x => { x with inhibit := true, gdEn := false, watchdog := true })
  { s with sf := { s.sf with requests := s.sf.requests ++ [(15, 2 ^ g)] } }

/-! ### Enabling and disabling (R187 to R193, R198, R805) -/

/-- The cause of torque-unavailable is gone (R805). -/
def State.causeGone (s : State) (m : Nat) : Bool :=
  let k := (s.machineStages m).length
  match (s.machine m).unavailable with
  | none => true
  | some 3 => decide ((s.chan (s.parN P.MAC_FB_PRIMARY m)).fault = 0) ||
      (s.isAligned2 m && decide ((s.chan (s.parN P.MAC_FB_SECOND m)).fault = 0))
  | some 4 => false
  | some _ => decide ((s.latchedOf m).length ≤ (if 2 ≤ k then 1 else 0))

/-- The first failing check of STAGE_ENABLE (R187). -/
def State.enableRefusal (s : State) (m : Nat) : Option Nat :=
  let ks := s.machineStages m
  if !s.framesRun || !s.machineHeld m then some stWrongState
  else if !s.causeGone m then some stWrongState
  else if s.inDemand (s.machineGroup m) then some stSafetyDemand
  else if ks.any fun k => !(s.stage k).calibrated then some stWrongState
  else if ks.any fun k =>
      let c := s.parN P.STG_DC_CHANNEL k
      !(s.mod (48 + c)).measured || decide ((s.mod (48 + c)).main < s.par P.STG_DC_VMIN c) then some stWrongState
  else if (s.latchedOf m).length > 1 || (decide (ks.length = 1) && !(s.latchedOf m).isEmpty) then some stTripActive
  else if (s.machine m).dropBank.isSome && (s.machine m).on && !s.axisIdle m then some stWrongState
  else none

/-- STAGE_ENABLE (R187, R189). -/
def cmdStageEnable (c : Cmd) (s : State) : Res × State :=
  match s.machineOf (c.target % 4096) with
  | none => (.fail stWrongState, s)
  | some m =>
    match s.enableRefusal m with
    | some st => (.fail st, s)
    | none => (.pending, s.updMachine m fun x => { x with enables := x.enables ++ [c.slot] })

/-- STAGE_DISABLE (R192). -/
def cmdStageDisable (c : Cmd) (s : State) : Res × State :=
  match s.machineOf (c.target % 4096) with
  | none => (.ok, s)
  | some m =>
    if !s.framesRun then (.ok, s)
    else if !s.axisIdle m then (.fail stWrongState, s)
    else (.pending, s.updMachine m fun x => { x with disables := x.disables ++ [c.slot] })

/-- Several commands finish alike, with the stamp of this frame start. -/
def finishAll (slots : List Nat) (ns : Nat) (r : Res) (s : State) : State :=
  slots.foldl (fun s k => s.finishAt k ns r) s

/-- The enable of a machine as the frame start takes it (R189 to R191, R198, R805). -/
def takeEnable (m : Nat) (s : State) : State :=
  let x := s.machine m
  let ns := s.rg.frameNs.getD s.ns
  let done (r : Res) (s : State) := finishAll x.enables ns r (s.updMachine m fun x => { x with enables := [] })
  let ks := s.machineStages m
  let lost := s.latchedOf m
  if s.inDemand (s.machineGroup m) then done (.fail stSafetyDemand) s
  else if !s.causeGone m then done (.fail stWrongState) s
  else if 1 < lost.length || (decide (ks.length = 1) && !lost.isEmpty) then done (.fail stTripActive) s
  else
    let fresh := ks.filter fun k => decide ((s.stage k).mode = .disabled)
    let s := fresh.foldl (fun s k => s.updStage k fun t => { t with
      mode := .driving, driveFrom := some s.tm.now, hizFrom := none }) s
    let old := x.dropBank
    let s := s.updMachine m fun x => { x with
      on := true, unavailable := none, interrupted := none, dropBank := lost.head?, startFrame := some s.rg.frame }
    let s := match lost.head?, old with
      | some k, _ => if old = some k then s else s.report 2 1 0xC (b1 m ++ b1 k ++ b4 s.rg.frame)
      | none, some k => s.report 3 1 5 (b1 m ++ b1 k ++ b4 s.rg.frame)
      | none, none => s
    let s := if fresh = [] then s else s.report 3 0 1 (b1 m ++ b1 (s.setMask fresh) ++ b4 s.rg.frame)
    done .ok s

/-- The disable of a machine as the frame start takes it (R192). -/
def takeDisable (m : Nat) (s : State) : State :=
  let x := s.machine m
  let ks := s.drivingOf m
  let s := ks.foldl (fun s k => s.updStage k fun t => { t with mode := .disabled, hizFrom := some s.tm.now, driveFrom := none }) s
  let s := if ks = [] then s else s.report 3 0 2 (b1 m ++ b1 (s.setMask ks) ++ b4 s.rg.frame)
  finishAll x.disables (s.rg.frameNs.getD s.ns) .ok (s.updMachine m fun x => { x with disables := [], on := false, dropBank := none })

/-- Enables and disables of all machines at a frame start; enables wait where a fallback switch takes the frame (R189). -/
def takeEnables (switched : Bool) (s : State) : State :=
  (List.range s.machines).foldl (fun s m =>
    let s := if (s.machine m).disables = [] then s else takeDisable m s
    if switched || (s.machine m).enables = [] then s else takeEnable m s) s

/-- Stage-drop selection at a frame start, on the latches as they stood at the end of the previous cycle (R106, R108, R196). -/
def dropBanks (s : State) : State :=
  (List.range s.machines).foldl (fun s m =>
    let x := s.machine m
    let ks := s.machineStages m
    if !x.on || x.unavailable.isSome then s else
    let lost := ks.filter fun k => (s.latched k && decide ((s.stage k).latchedAt < s.tm.now)) || decide (x.dropBank = some k)
    match lost with
    | [] => s
    | [k] =>
      if ks.length = 1 then makeUnavailable m 1 s
      else if x.dropBank.isSome then s
      else (s.updMachine m fun x => { x with dropBank := some k }).report 2 1 0xC (b1 m ++ b1 k ++ b4 s.rg.frame)
    | _ => makeUnavailable m 2 s) s

/-- The switch to the second channel at a frame start, or torque-unavailable (R173). -/
def feedbackSwitch (s : State) : State :=
  (List.range s.machines).foldl (fun s m =>
    let x := s.machine m
    let c := if x.second then s.parN P.MAC_FB_SECOND m else s.parN P.MAC_FB_PRIMARY m
    if !x.on || x.unavailable.isSome || (s.chan c).fault = 0 then s else
    let c2 := s.parN P.MAC_FB_SECOND m
    if !x.second && s.isAligned2 m && (s.chan c2).fault = 0 then
      (s.updMachine m fun x => { x with second := true }).report 3 2 0xA (b1 m ++ b1 c2 ++ b4 s.rg.frame)
    else makeUnavailable m 3 s) s

/-- A channel loses the continuity of its count (R188): alignment on it ends, unless it counts from an absolute reference. -/
def loseContinuity (c : Nat) (s : State) : State :=
  if s.channelAbsolute c then s else
  { s with mc := Store.mapAll {} (fun m (x : MachineSt) => { x with
      aligned := x.aligned && decide (s.parN P.MAC_FB_PRIMARY m ≠ c)
      aligned2 := x.aligned2 && decide (s.parN P.MAC_FB_SECOND m ≠ c) }) s.mc }

/-- A machine torque-interrupted for more than 8 frames becomes torque-unavailable (R305). -/
def interruptExpired (m : Nat) (s : State) : State :=
  match (s.machine m).interrupted with
  | some n => if 8 < n then makeUnavailable m 4 s else s
  | none => s

/-! ### TRIP_CLEAR and MACHINE_IDENTIFY (R199, R231, R232) -/

/-- TRIP_CLEAR (R231, R232). -/
def cmdTripClear (c : Cmd) (s : State) : Res × State :=
  let k := c.target % 4096
  let act := (s.stageStatus k / 16) % 16
  let inh := (s.group (groupOf k)).inhibit
  if act ≠ 0 ∨ inh then (.fail stTripActive, s.report 4 1 2 (b1 k ++ b1 act ++ b1 (b2n inh)))
  else if (s.stage k).causes = 0 then (.ok, s)
  else
    let old := (s.stage k).causes
    (.ok, (s.updStage k fun t => { t with causes := 0, mode := .disabled }).report 4 1 1 (b1 k ++ b1 (old / 2)))

/-- MACHINE_IDENTIFY (R199, R201). -/
def cmdMachineIdentify (c : Cmd) (s : State) : Res × State :=
  let m := c.target % 4096
  let mode := fld c.args 0 1
  let ks := s.machineStages m
  let c2 := s.parN P.MAC_FB_SECOND m
  let second := decide (c2 ≠ 255) && (s.chan c2).posValid && decide ((s.chan c2).fault = 0)
  let start : Res × State := (.pending, s.updMachine m fun x => { x with
    ident := some { slot := c.slot, mode := mode, began := s.tm.now, frames := 4096, secondOk := second } })
  if mode < 1 ∨ 3 < mode then (.fail stParamRange, s)
  else if (s.machine m).ident.isSome then (.fail stBusy, s)
  else if !s.framesRun || ks = [] then (.fail stWrongState, s)
  else if mode = 1 then
    if (ks.all fun k => decide ((s.stage k).mode = .disabled)) && (s.group (s.machineGroup m)).gdEn then start
    else (.fail stWrongState, s)
  else if (s.drivingOf m).isEmpty || !s.axisIdle m then (.fail stWrongState, s) else start

/-- The commit of an identification's results (R201). -/
def identCommit (m : Nat) (i : IdentSt) (quality : Nat) (second : Bool) (vals : List (Nat × Int)) (s : State) : State :=
  let cm : CommitSt := { slot := i.slot, session := 0, seq := 0, draft := none, mode := 0, stamp := none, phase := .preparing,
                         values := vals.foldl (fun st p => Store.write none st p.1 (some p.2)) []
                         ident := some (m, i.mode, quality, second) }
  let s := s.updMachine m fun x => { x with ident := none }
  if s.rg.commit.isNone && s.rg.flipped.isNone then { s with rg := { s.rg with commit := some cm } }
  else { s with rg := { s.rg with waiting := s.rg.waiting ++ [cm] } }

/-- IDENTIFY_COMPLETE (R199 to R201): once its duration has passed, the results become a commit or the identification fails. -/
def identifyComplete (m : Nat) (r : IdentResult) (s : State) : State :=
  match (s.machine m).ident with
  | none => s
  | some i =>
    let spent := s.tm.now - i.began
    match i.mode, r with
    | 1, .offset uv =>
      if i.frames ≠ 0 then s else
      if uv.any fun p => decide (1638 < p.1.natAbs ∨ 1638 < p.2.natAbs) then identFail m stHwFault 1 s else
      let vals := (s.machineStages m).flatMap fun k =>
        let p := uv.getD (s.parN P.STG_SET k) (0, 0)
        [(P.STG_OFFSET_U + k * 65536, p.1), (P.STG_OFFSET_V + k * 65536, p.2)]
      identCommit m i 0 false vals s
    | _, .failed code => identFail m stHwFault code s
    | 1, _ => s
    | mode, .align angle quality second =>
      if spent < (if mode = 2 then 1400 else 120) * cyclesPerMs then s else
      let sec := if i.secondOk then second else none
      identCommit m i (quality % 65536) sec.isSome
        ((P.MAC_ANGLE_OFFSET + m * 65536, (angle % 65536 : Nat)) ::
          (match sec with | some a => [(P.MAC_ANGLE_OFFSET_2 + m * 65536, ((a % 65536 : Nat) : Int))] | none => [])) s
    | _, .offset _ => s

/-! ### Auxiliary channels (R236 to R240) -/

/-- A channel's output is governed by its mode now (R240). -/
def State.apwmRuns (s : State) (n : Nat) : Bool :=
  !(s.apwm n).hiz && (s.framesRun || decide (s.parN P.APWM_STOP_ACTION n = 1))

/-- The timings a channel takes at an interval start (R239, R244). -/
def apwmTake (s : State) (n : Nat) (a : ApwmSt) : ApwmSt :=
  let own := s.parN P.APWM_OWNER n
  let a := { a with owner := own, src := s.parN P.APWM_SRC n, input := s.parN P.APWM_MOD_INPUT n, from_ := s.tm.now }
  if own = 1 then { a with tOn := a.ridgeOn, tOff := a.ridgeOff, level := a.ridgeLevel }
  else { a with tOn := s.parN P.APWM_T_ON n, tOff := s.parN P.APWM_T_OFF n, level := s.par P.APWM_MOD_LEVEL n }

/-- A mode set on a channel (R236); OFF while the Ridge is STOPPED where APWM_STOP_ACTION says so (R240). -/
def apwmSetMode (n mode : Nat) (s : State) : State :=
  let runs := s.framesRun || decide (s.parN P.APWM_STOP_ACTION n = 1)
  s.updApwm n fun a =>
    let a := apwmTake s n { a with mode := mode, timeouts := 0, faulted := false, picking := runs && decide (mode = 4) }
    { a with high := runs && decide (mode = 1 ∨ mode = 2 ∨ mode = 4) }

/-- The Ridge starts: the channels that were OFF with it take their modes anew (R240; DEDUCED, notes/assumptions/15.md). -/
def apwmRidgeStart (s : State) : State :=
  (List.range 8).foldl (fun s n => if s.parN P.APWM_STOP_ACTION n = 0 then apwmSetMode n (s.apwm n).mode s else s) s

/-- The sense condition (R237). -/
def State.senseTrue (s : State) (n : Nat) (ahigh : Bool) : Bool :=
  let a := s.apwm n
  let f := (s.mod a.input).fast
  match a.src with
  | 0 => ahigh
  | 1 => !ahigh
  | 2 => decide (a.level ≤ f)
  | _ => decide (f < a.level)

/-- The next interval of a channel starts. -/
def apwmFlip (n : Nat) (s : State) : State := s.updApwm n fun a => apwmTake s n { a with high := !a.high }

/-- The present interval of a channel is one that the sense condition ends (R236, R238). -/
def ApwmSt.sensed (a : ApwmSt) : Bool :=
  (decide (a.mode = 2) && !a.high) || ((decide (a.mode = 3) || (decide (a.mode = 4) && !a.picking)) && a.high)

/-- The channel alternates: CONST_ON, or CONST_OFF after any pick time. -/
def ApwmSt.alternates (a : ApwmSt) : Bool := decide (a.mode = 2 ∨ a.mode = 3) || (decide (a.mode = 4) && !a.picking)

/-- APWM_INTERVAL_END (R236): by time, or by the sense condition after APWM_T_MIN. -/
def apwmIntervalEnd (n : Nat) (sense : Bool) (s : State) : State :=
  let s := s.updApwm n fun a => { a with sense := sense }
  let a := s.apwm n
  let spent := s.tm.now - a.from_
  if 8 ≤ n || !s.apwmRuns n || !a.alternates then s else
  if a.sensed then
    if s.senseTrue n sense && decide (s.parN P.APWM_T_MIN n ≤ spent) then apwmFlip n (s.updApwm n fun a => { a with timeouts := 0 })
    else s
  else if max 40 (if a.high then a.tOn else a.tOff) ≤ spent then apwmFlip n s else s

/-- APWM_TIMEOUT (R238). -/
def apwmTimeout (n : Nat) (s : State) : State :=
  let a := s.apwm n
  let tmax := s.parN P.APWM_T_MAX n
  if 8 ≤ n || !s.apwmRuns n || !a.sensed || tmax = 0 || s.tm.now - a.from_ < tmax then s else
  let k := a.timeouts + 1
  let s := (apwmFlip n (s.updApwm n fun a => { a with timeouts := k })).report 4 1 6 (b1 n ++ b1 k)
  if k < 16 then s else
  (s.updApwm n fun a => { a with mode := 0, high := false, faulted := true }).report 4 3 7 (b1 n ++ b1 a.mode ++ b4 (compact s.ns))

/-- APWM_PICK_END (R236). -/
def apwmPickEnd (n : Nat) (s : State) : State :=
  let a := s.apwm n
  if 8 ≤ n || !s.apwmRuns n || !a.picking || decide (a.mode ≠ 4) ||
      decide (s.tm.now - a.from_ < s.parN P.APWM_T_PICK n * cyclesPerUs) then s else
  s.updApwm n fun a => apwmTake s n { a with picking := false, high := false }

/-! ### The Ridge stops (R186, R240) -/

/-- Every stage leaves DRIVING and goes to high impedance; channels with stop action 0 go OFF; waiting disables complete. -/
def stagesStop (s : State) : State :=
  let s := { s with st := Store.mapAll {} (fun _ (t : StageSt) => { t with
      mode := if t.mode = StageMode.driving then StageMode.disabled else t.mode, hiz := true, switches := 0, hizFrom := none, driveFrom := none }) s.st }
  let s := (List.range s.machines).foldl (fun s m =>
    let x := s.machine m
    finishAll x.disables s.ns .ok (identFail m stHwFault 8 (s.updMachine m fun x => { x with
      on := false, dropBank := none, interrupted := none, disables := [], startFrame := none, second := false }))) s
  (List.range 8).foldl (fun s n => if s.parN P.APWM_STOP_ACTION n = 0 then
    s.updApwm n fun a => { a with high := false, picking := false } else s) s

/-! ### Commands -/

/-- STAGE_RELOAD (R216). -/
def execStageReload (dt stage : Nat) (valley : Bool) (s : State) : Out := .next (stageReload stage valley (s.elapse dt))
/-- LOAD_ALL_PROXY (R219). -/
def execLoadAllProxy (dt group : Nat) (s : State) : Out := .next (loadAllProxy group (s.elapse dt))
/-- LOAD_ALL_WRITE (R215). -/
def execLoadAllWrite (dt group : Nat) (s : State) : Out :=
  .next (if group < 4 then loadAll group (s.elapse dt) else s.elapse dt)
/-- PWM_INTERVAL_EDGE (R214). -/
def execPwmIntervalEdge (dt stage switch : Nat) (on : Bool) (s : State) : Out :=
  .next (intervalEdge stage switch on (s.elapse dt))
/-- TRIP_INPUT_LATCH (R223). -/
def execTripInputLatch (dt stage : Nat) (active : Bool) (samples : Nat) (s : State) : Out :=
  .next (tripInput stage active samples (s.elapse dt))
/-- SINC2_RESULT (R169). -/
def execSinc2Result (dt input raw rawV : Nat) (s : State) : Out := .next (sinc2Result input raw rawV (s.elapse dt))
/-- SINC3_RESULT (R166). -/
def execSinc3Result (dt input raw : Nat) (s : State) : Out := .next (sinc3Result input raw (s.elapse dt))
/-- MODULATOR_STUCK (R173). -/
def execModulatorStuck (dt input run : Nat) (s : State) : Out := .next (modulatorRun input run (s.elapse dt))
/-- CARRIER_WATCHDOG (R233). -/
def execCarrierWatchdog (dt stage : Nat) (s : State) : Out := .next (carrierWatchdog stage (s.elapse dt))
/-- APWM_INTERVAL_END (R236). -/
def execApwmIntervalEnd (dt ch : Nat) (sense : Bool) (s : State) : Out := .next (apwmIntervalEnd ch sense (s.elapse dt))
/-- APWM_TIMEOUT (R238). -/
def execApwmTimeout (dt ch : Nat) (s : State) : Out := .next (apwmTimeout ch (s.elapse dt))
/-- APWM_PICK_END (R236). -/
def execApwmPickEnd (dt ch : Nat) (s : State) : Out := .next (apwmPickEnd ch (s.elapse dt))
/-- IDENTIFY_COMPLETE (R201). -/
def execIdentifyComplete (dt machine : Nat) (result : IdentResult) (s : State) : Out :=
  .next (identifyComplete machine result (s.elapse dt))
/-- TORQUE_INTERRUPT_EXPIRED (R305). -/
def execTorqueInterruptExpired (dt machine : Nat) (s : State) : Out := .next (interruptExpired machine (s.elapse dt))

end Sys2Proof.Machine
end

