-- ==== Sys2Proof/Machine/Learning.lean ====
section
/-!
DEFINITION. Sys2Proof/Machine/Learning.lean: learning tables and LEARN_CONTROL (R358 to R372), the rigid-body observer (R373 to R375)
and what an axis context is attached to.
-/
namespace Sys2Proof.Machine

/-! ### An axis and its surroundings -/

/-- The contract row of an axis: of its position loop, else of its velocity loop, motion, observation or feed (R71). -/
def State.axisLoop (s : State) (a : Nat) : Option LoopRow :=
  [3, 2, 4, 5, 6].findSome? fun k => s.loops.find? fun l => decide (l.kind = k ∧ l.object = a)

/-- The sample period of an axis in CLK_RIDGE cycles (R61). -/
def State.axisCycles (s : State) (a : Nat) : Nat :=
  match s.axisLoop a with
  | some l => 2 ^ l.divExp * s.rg.frameLength
  | none => s.rg.frameLength

/-- The sample period of an axis in s. -/
def State.axisT (s : State) (a : Nat) : Rat := (s.axisCycles a : Rat) / 400000000

/-- The feedback channel that gives an axis its position (R296). -/
def State.axisChan (s : State) (a : Nat) : Option Nat :=
  let c := s.parN P.AX_FB_CHANNEL a
  if (s.parN P.AX_TYPE a = 0 ∨ s.parN P.AX_TYPE a = 3) ∧ c < s.channels then some c else none

/-- The axis commands a torque-sharing group (R329). -/
def State.axisShares (s : State) (a : Nat) : Bool := decide (s.parN P.AX_MACHINE a = 255)

/-- The weight of a machine in an axis's group (R329); of the single machine, the whole. -/
def State.shareWeight (s : State) (a m : Nat) : Nat :=
  if !s.axisShares a then 32768
  else if s.parN P.TSH_MACHINE_0 a = m then s.parN P.TSH_WEIGHT_0 a
  else if s.parN P.TSH_MACHINE_1 a = m then s.parN P.TSH_WEIGHT_1 a
  else if s.parN P.TSH_MACHINE_2 a = m then s.parN P.TSH_WEIGHT_2 a
  else s.parN P.TSH_WEIGHT_3 a

/-- A group stopped for cause 18 alone (R306). -/
def State.stopped18 (s : State) (g : Nat) : Bool := s.inDemand g && decide ((s.group g).causes = 2 ^ 18)

/-- The exception of R306 holds for a group of an axis: it is stopped for cause 18 alone, and a torque-sharing axis has a machine
outside it that is not torque-unavailable. -/
def State.excepted (s : State) (a g : Nat) : Bool :=
  s.axisShares a && s.stopped18 g &&
    (s.axisMachines a).any fun m => decide (s.machineGroup m ≠ g) && (s.machine m).unavailable.isNone

/-- A stop demand holds for an axis (R306). -/
def State.axisDemand (s : State) (a : Nat) : Bool :=
  (s.axisMachines a).any fun m => s.inDemand (s.machineGroup m) && !s.excepted a (s.machineGroup m)

/-- POS_VALID of the channel of an axis; an axis without channel has its position always. -/
def State.axisPosValid (s : State) (a : Nat) : Bool :=
  match s.axisChan a with
  | some c => (s.chan c).posValid
  | none => true

/-! ### Indexing (R358, R359, R361) -/

/-- Position mode: the present bin and the 16-bit fraction at a position in units of 2⁻¹⁶ pu. -/
def State.ltIndex (s : State) (l : Nat) (p : Rat) : Nat × Nat :=
  let per : Rat := s.par P.LT_PERIOD_POS l
  let y := p - (s.par P.LT_ORIGIN l : Rat)
  let x := (y - per * ((y / per).floor : Rat)) * (s.parN P.LT_NBINS l : Rat) / per
  (x.floor.toNat, ((x - (x.floor : Rat)) * 65536).floor.toNat)

/-- Time mode: the same at a sample number. -/
def State.ltIndexTime (s : State) (l k : Nat) : Nat × Nat :=
  let per := s.parN P.LT_PERIOD_SAMPLES l
  let x := k % per * s.parN P.LT_NBINS l
  (x / per, x % per * 65536 / per)

/-- The bin of a table. -/
def TableSt.bin (t : TableSt) (n b : Nat) : Int := Store.read 0 t.bins (b % n)

/-- The output of a table at the predicted index (R361). -/
def State.ltOutput (s : State) (l : Nat) : Rat :=
  let t := s.table l
  let n := s.parN P.LT_NBINS l
  let tgt := s.parN P.LT_TARGET_AXIS l
  let eff := match s.axisLoop tgt with | some r => r.effect | none => 0
  let ix := s.axis (s.parN P.LT_INDEX_AXIS l)
  let (b, f) := if s.parN P.LT_MODE l = 2 then
      s.ltIndexTime l ((s.axis tgt).samples + (roundRat ((eff : Rat) / s.axisCycles tgt)).toNat)
    else s.ltIndex l ((ix.pos : Rat) + (ix.vel : Rat) * 65536 * eff / 400000000)
  let w : Rat := ((t.bin n b : Rat) * (65536 - f) + (t.bin n (b + 1) : Rat) * f) / 65536
  let m : Rat := s.parN P.LT_OUT_MAX l
  clampR (-m) m w * s.parN P.LT_SCALE l / 32767

/-! ### States and causes (R366 to R368) -/

/-- The code of a table's state (R366). -/
def tableCode : TableMode → Nat
  | .off => 0 | .active => 1 | .frozen => 2 | .blanked => 3

/-- A table's state and cause mask set; a change of state is recorded and kept in the parameter store (R371, R390). -/
def ltSet (l : Nat) (mode : TableMode) (causes : Nat) (s : State) : State :=
  let old := (s.table l).mode
  let s := s.updTable l fun t => { t with mode := mode, causes := causes }
  if old = mode then s else
  (s.updTable l fun t => { t with stored := some (mode, causes) }).report 6 1 0x20
    (b1 l ++ b1 (tableCode old) ++ b1 (tableCode mode) ++ b1 causes ++ b4 s.rg.frame)

/-- A cause arises at a table (R367, R368). -/
def ltCause (bit l : Nat) (s : State) : State :=
  let t := s.table l
  let m := setBitN t.causes bit true
  match t.mode with
  | .off => s
  | .blanked => ltSet l .blanked m s
  | _ => ltSet l (if bit = 3 ∨ bit = 4 then .blanked else .frozen) m s

/-- A cause arises at every table of which `p` holds. -/
def ltCauseAll (bit : Nat) (p : Nat → Bool) (s : State) : State :=
  (List.range 16).foldl (fun s l => if p l then ltCause bit l s else s) s

/-- The conditions of cause bits 1 and 2 for a target axis, as a mask. -/
def State.ltConditions (s : State) (tgt : Nat) : Nat :=
  let ms := s.axisMachines tgt
  b2n (ms.any fun m => s.inDemand (s.machineGroup m)) 1 +
    b2n (ms.any fun m => (s.machine m).dropBank.isSome || (s.machine m).unavailable.isSome) 2

/-- The tables that act on an axis. -/
def State.ltOf (s : State) (tgt : Nat) : List Nat :=
  (List.range 16).filter fun l => decide (s.parN P.LT_TARGET_AXIS l = tgt ∧ (s.table l).mode ≠ .off)

/-- A table at a sample of its target axis: causes, then its output. -/
def ltSample (tgt l : Nat) (s : State) : State :=
  let now := s.ltConditions tgt
  let held := (s.table l).held
  let s := if now.testBit 1 && !held.testBit 1 then ltCause 1 l s else s
  let s := if now.testBit 2 && !held.testBit 2 then ltCause 2 l s else s
  let s := if s.axisPosValid (s.parN P.LT_INDEX_AXIS l) || (s.table l).causes.testBit 3 then s else ltCause 3 l s
  let on := decide ((s.table l).mode = .active ∨ (s.table l).mode = .frozen)
  let out := if on then s.ltOutput l else 0
  s.updTable l fun t => { t with held := now, out := out }

/-- The tables of a target axis at its sample. -/
def ltSamples (tgt : Nat) (s : State) : State := (s.ltOf tgt).foldl (fun s l => ltSample tgt l s) s

/-- The sum of the outputs for a target axis (R355). -/
def State.ltSum (s : State) (tgt : Nat) : Rat := (s.ltOf tgt).foldl (fun x l => x + (s.table l).out) 0

/-- The conditions of R363 but for the torque limit. -/
def State.ltLearns (s : State) (tgt l : Nat) : Bool :=
  let ix := s.axis (s.parN P.LT_INDEX_AXIS l)
  let ax := s.axis tgt
  decide ((s.table l).mode = .active) && decide (ax.mode = .holding ∨ ax.mode = .moving ∨ ax.mode = .stopping) &&
    (decide (s.parN P.LT_MODE l ≠ 1) ||
      decide (s.parN P.LT_VMIN l ≤ ix.vel.natAbs ∧ ix.vel.natAbs ≤ s.parN P.LT_VMAX l ∧
        ax.acmd.natAbs ≤ s.parN P.LT_AMAX l * 2 ^ 32))

/-- A product of Q15 values rounded half up and saturated (R127). -/
def q15Round (x : Int) : Int := satI 16 (divHalfUp x 32768)

/-- One update of a table (R362). -/
def ltUpdate (tgt l : Nat) (s : State) : State :=
  let t := s.table l
  let n := s.parN P.LT_NBINS l
  let ix := s.axis (s.parN P.LT_INDEX_AXIS l)
  let time := decide (s.parN P.LT_MODE l = 2)
  let b := if time then (s.ltIndexTime l (s.axis tgt).samples).1 else (s.ltIndex l ix.pos).1
  let sg : Int := if time then 1 else if ix.vel < 0 then -1 else if ix.vel = 0 then 0 else 1
  let u := (((b : Int) - sg * s.parN P.LT_LEAD l) % (n : Int)).toNat
  let e := satI 16 (roundRat ((s.axis tgt).prop * 32767 / s.parN P.LT_SCALE l))
  let w := t.bin n u
  let wn := q15Round (w * 32768 - s.par P.LT_BETA l * w + s.par P.LT_ALPHA l * e)
  let q1 := s.par P.LT_Q1 l
  let v := q15Round ((32768 - 2 * q1) * wn + q1 * (t.bin n (u + n - 1) + t.bin n (u + 1)))
  let m : Int := s.parN P.LT_OUT_MAX l
  s.updTable l fun t => { t with
    bins := Store.write 0 t.bins u (clampI (-m) m v), learned := true, updates := (t.updates + 1) % 2 ^ 32 }

/-- The tables of a target axis learn after its loops (R363). -/
def ltLearn (tgt : Nat) (limited : Bool) (s : State) : State :=
  (s.ltOf tgt).foldl (fun s l =>
    let was := (s.table l).wasLimited
    let s := s.updTable l fun t => { t with learned := false, wasLimited := limited }
    if s.ltLearns tgt l && !limited && !was then ltUpdate tgt l s else s) s

/-! ### LEARN_CONTROL (R369, R370) -/

/-- The largest magnitude of a bin. -/
def TableSt.peak (t : TableSt) : Nat := t.bins.foldl (fun (n : Nat) e => max n e.2.natAbs) 0

/-- A table's index parameters: mode, index axis, bins, period and origin (R371). -/
def State.ltParams (s : State) (l : Nat) : List Int :=
  let m := s.par P.LT_MODE l
  [m, s.par P.LT_INDEX_AXIS l, s.par P.LT_NBINS l,
   if m = 2 then s.par P.LT_PERIOD_SAMPLES l else s.par P.LT_PERIOD_POS l, s.par P.LT_ORIGIN l]

/-- Every bin of a table set to 0 and recorded (R390). -/
def ltClear (l cause : Nat) (s : State) : State :=
  (s.updTable l fun t => { t with bins := [] }).report 6 1 0x21 (b1 l ++ b1 cause ++ b4 s.rg.frame)

/-- FREEZE, RESUME, CLEAR, READ or WRITE takes effect (R369). -/
def ltApply (l : Nat) (c : Cmd) (s : State) : Res × State :=
  let t := s.table l
  let n := s.parN P.LT_NBINS l
  let first := fld c.args 2 2
  let count := fld c.args 4 2
  match fld c.args 1 1 with
  | 0 => if t.mode = .off then (.fail stWrongState, s) else (.ok, ltCause 0 l s)
  | 1 =>
    let holds := s.ltConditions (s.parN P.LT_TARGET_AXIS l)
    if t.mode = .off ∨ holds ≠ 0 ∨ s.axisPosValid (s.parN P.LT_INDEX_AXIS l) = false then (.fail stWrongState, s)
    else (.ok, ltSet l .active 0 s)
  | 2 =>
    if t.mode = .off then (.fail stWrongState, s) else
    let s := ltClear l 1 s
    (.ok, if t.mode = .blanked then ltSet l .frozen (setBitN t.causes 0 true) s else s)
  | 3 => (.ok ((gen (fun i => leI 2 (t.bin n (first + i))) count).flatten), s)
  | _ =>
    if t.mode ≠ .frozen then (.fail stWrongState, s) else
    let vals := gen (fun i => ((first + i) % n, fldI c.args (6 + 2 * i) 2)) count
    let s := s.updTable l fun t => { t with bins := vals.foldl (fun st p => Store.write 0 st p.1 p.2) t.bins }
    (.ok, s.report 6 1 0x22 (b1 l ++ b2 first ++ b2 count ++ b4 s.rg.frame))

/-- LEARN_CONTROL (R369): STATUS and SAVE are answered at once, the others at a frame start; while no frames run, at once. -/
def cmdLearn (c : Cmd) (s : State) : Res × State :=
  let l := fld c.args 0 1
  let op := fld c.args 1 1
  let t := s.table l
  if 16 ≤ l ∨ 6 < op then (.fail stParamRange, s)
  else if (op = 3 ∨ op = 4) ∧ (256 < fld c.args 4 2 ∨ s.parN P.LT_NBINS l ≤ fld c.args 2 2) then (.fail stParamRange, s)
  else if op = 6 then
    (.ok ([tableCode t.mode, t.causes, b2n t.learned] ++ le 4 t.updates ++ le 2 t.peak), s)
  else if op = 5 then
    if t.mode = .off then (.fail stWrongState, s)
    else (.ok, (s.updTable l fun t => { t with saved := some (s.ltParams l, t.bins) }).report 6 0 0x23
      (b1 l ++ b4 t.updates ++ b2 t.peak))
  else if s.framesRun then (.pending, s.updTable l fun t => { t with ops := t.ops ++ [c] })
  else ltApply l c s

/-- The waiting operations of every table take effect at a frame start that no fallback switch takes (R370). -/
def ltFrame (s : State) : State :=
  (List.range 16).foldl (fun s l =>
    let ops := (s.table l).ops
    if ops = [] then s else
    ops.foldl (fun s c => let (r, s) := ltApply l c s; s.finishAt c.slot (s.rg.frameNs.getD s.ns) r) (s.updTable l fun t => { t with ops := [] })) s

/-! ### Ridge start and commits (R371, R372) -/

/-- The first index parameter in which a saved copy differs, as its number in class 0x38. -/
def ltDiffers (mode : Int) (old new : List Int) : Option Nat :=
  ([0, 1, 3, if mode = 2 then 5 else 4, 6].zip (old.zip new)).findSome? fun e => if e.2.1 = e.2.2 then none else some e.1

/-- The tables at a Ridge start (R371): `kept` where the commons still holds them. -/
def ltStart (kept : Bool) (s : State) : State :=
  (List.range 16).foldl (fun s l =>
    let t := s.table l
    let mode := s.parN P.LT_MODE l
    if kept then s.updTable l fun t => { t with learned := false, wasLimited := false, held := 6 } else
    let fresh : TableSt := { ops := t.ops, saved := t.saved, stored := t.stored, mode := if mode = 0 then .off else .active }
    if mode = 0 then s.updTable l fun _ => fresh else
    match t.saved with
    | none => s.updTable l fun _ => fresh
    | some (ps, bins) =>
      match ltDiffers mode ps (s.ltParams l) with
      | some i => (s.updTable l fun _ => fresh).report 6 1 0x24 (b1 l ++ b1 i)
      | none =>
        let (m, c) := match t.stored with
          | some (.frozen, c) => (TableMode.frozen, c)
          | some (.blanked, c) => (TableMode.blanked, c)
          | some (_, c) => (TableMode.active, c)
          | none => (TableMode.active, 0)
        s.updTable l fun _ => { fresh with bins := bins, mode := m, causes := c }) s

/-- A commit changed a parameter of class 0x38 (R372). -/
def ltCommit (id : Nat) (old new : Int) (s : State) : State :=
  let l := id / 65536 % 256
  let item := id % 65536
  if id / 2 ^ 24 ≠ 0x38 ∨ old = new ∨ 16 ≤ l then s else
  if item = 0 then
    if new = 0 then ltSet l .off 0 s
    else if old = 0 then ltSet l .active 0 (ltClear l 2 s)
    else ltClear l 2 s
  else if item = 1 ∨ item = 3 ∨ item = 4 ∨ item = 5 ∨ item = 6 then ltClear l 2 s else s

/-! ### The observer (R373 to R375) -/

/-- A value kept to 2⁻³². -/
def grid32 (q : Rat) : Rat := (roundRat (q * 2 ^ 32) : Rat) / 2 ^ 32

/-- The torque delivered by the axis's machines that are not torque-unavailable, 0.01 N·m (R373). -/
def State.delivered (s : State) (a : Nat) : Int :=
  (s.axisMachines a).foldl (fun (t : Int) m => if (s.machine m).unavailable.isNone then t + (s.machine m).demand else t) 0

/-- The test of an axis is suspended from now for OBS_SETTLE (R374). -/
def obsSuspend (a : Nat) (s : State) : State :=
  s.updAxis a fun x => { x with obs := { x.obs with
    suspended := true, settleTo := some (s.tm.now + s.parN P.OBS_SETTLE a * cyclesPerMs), overFrom := none, underFrom := none } }

/-- A reason for suspension holds now: DISABLED, or FAULT on the channel (R374). -/
def State.obsBlocked (s : State) (a : Nat) : Bool :=
  decide ((s.axis a).mode = .disabled) ||
    (match s.axisChan a with | some c => decide ((s.chan c).fault ≠ 0) | none => false)

/-- The end of a suspension (R374): vh takes v, rf 0, and d stays. -/
def obsSettle (a : Nat) (s : State) : State :=
  let x := s.axis a
  if !x.obs.suspended || s.obsBlocked a then s else
  match x.obs.settleTo with
  | some n => if s.tm.now < n then s else
    s.updAxis a fun x => { x with obs := { x.obs with suspended := false, settleTo := none, vh := x.vel, rf := 0 } }
  | none => s.updAxis a fun x => { x with obs := { x.obs with suspended := false, vh := x.vel, rf := 0 } }

/-- One sample of the observer's law (R373). FF_INERTIA is in nN·m·s²/pu and the torques in 0.01 N·m. -/
def obsLaw (a : Nat) (s : State) : State :=
  let x := s.axis a
  let j : Rat := (s.parN P.FF_INERTIA a : Rat) / 10000000
  if j = 0 then s else
  let t := s.axisT a
  let bw : Rat := s.parN P.OBS_BW a
  let o := x.obs
  let r := (x.vel : Rat) - o.vh
  let ta : Rat := s.delivered a
  s.updAxis a fun x => { x with obs := { o with
    vh := grid32 (o.vh + t * ((ta - o.d) / j + 2 * bw * r)), d := grid32 (o.d - t * j * bw * bw * r),
    rf := grid32 (o.rf + t * bw * (r - o.rf)) } }

/-- The persistence of the residual above its limit and below half of it, while the test runs (R375). -/
def obsWatch (a : Nat) (s : State) : State :=
  s.updAxis a fun x =>
    let o := x.obs
    let lim : Rat := s.parN P.OBS_RES_LIMIT a
    let excess := !o.suspended && decide (lim < absR o.rf)
    let under := !o.suspended && decide (absR o.rf < lim / 2)
    { x with obs := { o with overFrom := if excess then o.overFrom <|> some s.tm.now else none,
                             underFrom := if under then o.underFrom <|> some s.tm.now else none } }

/-- The flag clears after OBS_RES_TIME below half the limit (R375). -/
def obsCleared (a : Nat) (s : State) : State :=
  match (s.axis a).obs.underFrom with
  | some n =>
    if !(s.axis a).obs.flag || s.tm.now < n + s.parN P.OBS_RES_TIME a * cyclesPerMs then s else
    (s.updAxis a fun x => { x with obs := { x.obs with flag := false } }).report 6 1 0x26 (b1 a ++ b4 s.rg.frame)
  | none => s

/-- OBS_RESIDUAL is due (R375). -/
def State.obsDue (s : State) (a : Nat) : Bool :=
  match (s.axis a).obs.overFrom with
  | some n => !(s.axis a).obs.flag && decide (n + s.parN P.OBS_RES_TIME a * cyclesPerMs ≤ s.tm.now)
  | none => false

/-- The residual is recorded and flagged (R375); the quick stop of OBS_ACTION is the axis's. -/
def obsFlag (a : Nat) (s : State) : State :=
  let o := (s.axis a).obs
  (s.updAxis a fun x => { x with obs := { x.obs with flag := true } }).report 6 2 0x25
    (b1 a ++ leI 4 (roundRat o.rf) ++ leI 4 (roundRat o.d) ++ b1 (s.parN P.OBS_ACTION a))

/-! ### Commands -/

/-- OBS_SETTLE_END (R374). -/
def execObsSettleEnd (dt axis : Nat) (s : State) : Out := .next (obsSettle axis (s.elapse dt))
/-- OBS_RESIDUAL_CLEARED (R375). -/
def execObsResidualCleared (dt axis : Nat) (s : State) : Out := .next (obsCleared axis (s.elapse dt))

end Sys2Proof.Machine
end

