-- ==== Sys2Proof/Machine/Axes.lean ====
section
/-!
DEFINITION. Sys2Proof/Machine/Axes.lean: what an axis context can be told and what ends its motion (R296 to R337): limits, stops,
faults, path groups, gearing, homing, rate multipliers, and the commands of group 0x05 as a sample takes them.
-/
namespace Sys2Proof.Machine

/-! ### Helpers -/

/-- The stamp of the present valley, or of now while no frames run (R301). -/
def State.valley (s : State) : Nat := if s.framesRun then s.rg.frameNs.getD s.ns else s.ns

/-- The type of an axis (R296). -/
def State.axisType (s : State) (a : Nat) : Nat := s.parN P.AX_TYPE a

/-- A REMOTE axis in profile position (R337, R339). -/
def State.inPP (s : State) (a : Nat) : Bool := decide (s.axisType a = 1 ∧ s.parN P.AX_REMOTE_MODE a = 1)

/-- An axis whose loops the running schedule holds (R99, R297). -/
def State.axisRuns (s : State) (a : Nat) : Bool :=
  s.axisUsed a && (match s.axisLoop a with | some l => s.loopRuns l | none => false)

/-- The active limits (R313): those of SET_MOTION_LIMITS, under the ceilings. -/
def State.activeLimits (s : State) (a : Nat) : Limits :=
  let c : Limits := { v := s.parN P.AX_VMAX a, a := s.parN P.AX_AMAX a, d := s.parN P.AX_DMAX a, j := s.parN P.AX_JMAX a }
  match (s.axis a).limits with
  | none => c
  | some l => { v := min l.v c.v, a := min l.a c.a, d := min l.d c.d, j := min l.j c.j }

/-- The commanded motion state of an axis. -/
def State.kin (s : State) (a : Nat) : Kin :=
  let x := s.axis a
  ((x.pcmd : Rat) / 65536, (x.vcmd : Rat) / 2 ^ 32, (x.acmd : Rat) / 2 ^ 32)

/-- The time a profile planned now has run: a member that has not taken the present sample yet begins at it. -/
def State.planTime (s : State) (a : Nat) : Rat :=
  if (s.axis a).sampled = some s.rg.frameStart || !s.framesRun then 0 else -(s.axisT a)

/-- A profile set on an axis with what moves it. -/
def setProfile (a : Nat) (f : Profile) (m : Motion) (mode : AxisMode) (s : State) : State :=
  let t := s.planTime a
  s.updAxis a fun x => { x with
    profile := some { f with t := t }, motion := m, mode := mode, windowFrom := none, quick := false, limitCode := 0 }

/-- Sign of an integer. -/
def sgnI (i : Int) : Int := if i < 0 then -1 else if i = 0 then 0 else 1

/-- The hardware limit in a direction is active (R336, R347): 1 positive, -1 negative. -/
def State.hwLimit (s : State) (a : Nat) (dir : Int) : Bool :=
  let m := if 0 < dir then s.parN P.AX_LIMIT_POS_IN a else s.parN P.AX_LIMIT_NEG_IN a
  decide (dir ≠ 0 ∧ m < 32) && decide (s.fd.published.testBit m = decide (s.parN P.AX_LIMIT_POLARITY a = 1))

/-- A position lies within the software limits (R314). -/
def State.inSoftLimits (s : State) (a : Nat) (p : Int) : Bool :=
  decide (s.par P.AX_SW_LIMIT_NEG a ≤ p ∧ p ≤ s.par P.AX_SW_LIMIT_POS a)

/-- Bits [63:16] of a position, as 6 bytes (R354). -/
def posHigh (p : Int) : List Nat := leI 6 (p / 65536)

/-! ### The end of a motion -/

/-- The running move, synchronisation or homing of an axis completes (R304, R306, R316). -/
def endMove (a status : Nat) (s : State) : State :=
  let x := s.axis a
  let fin (k : Option Nat) (s : State) : State :=
    match k with | some k => s.finishAt k s.valley (.done 2 status 0 0 []) | none => s
  let s := fin x.slot s
  let s := fin (x.gear.bind GearSt.pending) s
  let s := fin (x.home.map HomeSt.slot) s
  let s := if x.home.isSome && status ≠ 0 then s.report 6 2 7 (b1 a ++ b2 status ++ posHigh x.pos) else s
  s.updAxis a fun x => { x with slot := none, home := none, limitCode := 0,
                                gear := x.gear.bind fun g => if g.pending.isSome then none else some g }

/-- STOP commands in progress complete. -/
def endStops (a : Nat) (r : Res) (s : State) : State :=
  let ks := (s.axis a).stops
  finishAll ks s.valley r (s.updAxis a fun x => { x with stops := [] })

/-- A stop profile begins (R316); a PP drive is halted (R339). -/
def stopWith (a : Nat) (d j : Nat) (quick : Bool) (s : State) : State :=
  let mode : AxisMode := if (s.axis a).mode = .fault then .fault else .stopping
  let s := s.updAxis a fun x => { x with gear := none }
  if s.inPP a then s.updAxis a fun x => { x with
    motion := .stop, mode := mode, profile := none, ppHalt := true, ppNew := false, quick := quick, limitCode := 0 }
  else (setProfile a (planStop (s.kin a) d j) .stop mode s).updAxis a fun x => { x with quick := quick }

/-- A stop of mode 0 or 1 of R316. -/
def stopMode (a : Nat) (quick : Bool) (s : State) : State :=
  if quick then stopWith a (s.parN P.AX_DMAX_QUICK a) (s.parN P.AX_JMAX_QUICK a) true s
  else stopWith a (s.activeLimits a).d (s.activeLimits a).j false s

/-! ### Path groups (R320 to R324) -/

/-- The members of a path group, ascending. -/
def State.members (s : State) (g : Nat) : List Nat :=
  (List.range s.axes).filter fun a => (s.parN P.PTH_AXIS_MASK g).testBit a

/-- The path group of an axis whose path runs. -/
def State.pathOf (s : State) (a : Nat) : Option Nat :=
  (List.range 4).find? fun g => (s.path g).slot.isSome && (s.members g).contains a

/-- A path ends for another reason than its own: every other member stops with its own limits (R324). -/
def pathAbort (a status : Nat) (s : State) : State :=
  match s.pathOf a with
  | none => s
  | some g =>
    let s := match (s.path g).slot with | some k => s.finishAt k s.valley (.fail status) | none => s
    let s := s.updPath g fun p => { p with slot := none, segs := [], k := 0, tail := none, lowTold := false }
    (s.members g).foldl (fun s m => if m = a ∨ (s.axis m).motion ≠ .path then s else stopMode m false s) s

/-- Position, velocity and acceleration at s of a segment of T seconds (R322), in units of 2⁻¹⁶ pu and their derivatives. -/
def cubic (p0 v0 p1 v1 s t : Rat) : Rat × Rat × Rat :=
  let a := v0 * t * 65536
  let b := v1 * t * 65536
  ((2 * s * s * s - 3 * s * s + 1) * p0 + (s * s * s - 2 * s * s + s) * a + (-2 * s * s * s + 3 * s * s) * p1 +
      (s * s * s - s * s) * b,
   ((6 * s * s - 6 * s) * p0 + (3 * s * s - 4 * s + 1) * a + (-6 * s * s + 6 * s) * p1 + (3 * s * s - 2 * s) * b) / (t * 65536),
   ((12 * s - 6) * p0 + (6 * s - 4) * a + (-12 * s + 6) * p1 + (6 * s - 2) * b) / (t * t * 65536))

/-- One axis of a segment passes the checks of R323. -/
def State.segmentOk (s : State) (a : Nat) (p0 v0 p1 v1 : Int) (t : Rat) : Bool :=
  let at_ (x : Rat) := cubic p0 v0 p1 v1 x t
  let slope := (at_ 1).2.2 - (at_ 0).2.2
  let x := if slope = 0 then 0 else -(at_ 0).2.2 / slope
  let vm : Rat := s.parN P.AX_VMAX a
  let am : Rat := s.parN P.AX_AMAX a
  let fast (x : Rat) := vm < absR (at_ x).2.1
  decide (¬ (fast 0) ∧ ¬ (fast 1)) && (decide (x ≤ 0 ∨ 1 ≤ x) || decide (¬ (fast x))) &&
    decide (absR (at_ 0).2.2 ≤ am ∧ absR (at_ 1).2.2 ≤ am) && s.inSoftLimits a p1

/-- Segments pass the checks of R323 against the state before them, member by member. -/
def State.segmentsOk (s : State) (ms : List Nat) : List PathSeg → Option (List (Int × Int)) → Bool
  | [], _ => true
  | g :: gs, from_ =>
    (match from_ with
     | none => true
     | some f => (ms.zip (f.zip g.ends)).all fun e =>
        s.segmentOk e.1 e.2.1.1 e.2.1.2 e.2.2.1 e.2.2.2 ((g.duration : Rat) * s.axisT e.1)) &&
      s.segmentsOk ms gs (some g.ends)

/-- The bytes of PATH_APPEND as segments of `n` members (R321). -/
def parsePath (n : Nat) : Nat → List Nat → List PathSeg
  | 0, _ => []
  | fuel + 1, bs =>
    if bs = [] then [] else
    { duration := fld bs 0 2, flags := fld bs 2 1, reserved := fld bs 3 1
      ends := gen (fun i => (fldI bs (4 + 12 * i) 8, fldI bs (12 + 12 * i) 4)) n } :: parsePath n fuel (bs.drop (4 + 12 * n))

/-- PATH_APPEND (R323). -/
def takePathAppend (g : Nat) (c : Cmd) (s : State) : Res × State :=
  let ms := s.members g
  let size := 4 + 12 * ms.length
  let segs := parsePath ms.length 400 c.args
  let p := s.path g
  if c.args = [] ∨ c.args.length % size ≠ 0 ∨ (segs.any fun x => decide (x.duration = 0 ∨ x.flags ≠ 0 ∨ x.reserved ≠ 0)) then
    (.fail stParamRange, s)
  else if 256 < p.segs.length + segs.length then (.fail stPathFull, s)
  else if !s.segmentsOk ms segs (if p.segs = [] then none else p.tail) then (.fail stLimitExceeded, s)
  else
    let s := s.updPath g fun p => { p with
      segs := p.segs ++ segs, tail := (segs.getLast?).map PathSeg.ends
      lowTold := p.lowTold && decide (p.segs.length + segs.length ≤ s.parN P.PTH_LOW_WATER g) }
    (.ok (le 2 (s.path g).segs.length), s)

/-- PATH_START (R324). -/
def takePathStart (g : Nat) (c : Cmd) (s : State) : Res × State :=
  let ms := s.members g
  let p := s.path g
  let from_ := ms.map fun a => ((s.axis a).pcmd, (0 : Int))
  if p.slot.isSome ∨ p.segs = [] ∨ (ms.any fun a => !s.axisRuns a || decide ((s.axis a).mode ≠ .holding) || s.inPP a ||
      decide (s.axisType a = 3)) then (.fail stWrongState, s)
  else if ms.any s.axisDemand then (.fail stSafetyDemand, s)
  else if !s.segmentsOk ms (p.segs.take 1) (some from_) then (.fail stLimitExceeded, s)
  else
    let s := s.updPath g fun p => { p with slot := some c.slot, k := 0, from_ := from_, stepped := some s.rg.frameStart }
    (.pending, ms.foldl (fun s a => s.updAxis a fun x => { x with motion := .path, mode := .moving, profile := none }) s)

/-- One sample of a path (R322, R324), taken once for all members. -/
def pathStep (g : Nat) (s : State) : State :=
  let p := s.path g
  let ms := s.members g
  if p.stepped = some s.rg.frameStart then s else
  match p.segs with
  | [] => s
  | seg :: rest =>
    let k := p.k + 1
    let s := (ms.zip (p.from_.zip seg.ends)).foldl (fun s e =>
      let a := e.1
      let t := (seg.duration : Rat) * s.axisT a
      let (x, v, acc) := cubic e.2.1.1 e.2.1.2 e.2.2.1 e.2.2.2 ((k : Rat) / seg.duration) t
      s.updAxis a fun y => { y with pcmdLast := y.pcmd, pcmd := roundRat x, vcmd := roundRat (v * 2 ^ 32),
                                    acmd := roundRat (acc * 2 ^ 32) }) s
    if k < seg.duration then s.updPath g fun p => { p with k := k, stepped := some s.rg.frameStart } else
    let s := s.updPath g fun p => { p with k := 0, from_ := seg.ends, segs := rest, stepped := some s.rg.frameStart }
    let s := if rest.length ≤ s.parN P.PTH_LOW_WATER g && !p.lowTold then
        (s.updPath g fun p => { p with lowTold := true }).report 6 0 9 (b1 g ++ b2 rest.length) else s
    if rest ≠ [] then s else
    let still := seg.ends.all fun e => decide (e.2 = 0)
    let fin (r : Res) (s : State) : State := match p.slot with | some k => s.finishAt k s.valley r | none => s
    let s := s.updPath g fun p => { p with slot := none, tail := none, lowTold := false }
    if still then
      fin .ok (ms.foldl (fun s a => s.updAxis a fun x => { x with motion := .none, mode := .holding, vcmd := 0, acmd := 0 }) s)
    else
      let s := (fin (.fail stCancelled) s).report 6 2 8 (b1 g ++ b4 s.rg.frame)
      ms.foldl (fun s a => stopMode a false s) s

/-! ### Faults (R304) and gearing (R325 to R328) -/

/-- A slave disengages by mode 1 of R328 and GEAR_BROKEN is recorded. -/
def gearBreak (a cause : Nat) (s : State) : State :=
  stopMode a false (s.report 6 2 0xB (b1 a ++ b1 (s.parN P.GR_MASTER a) ++ b1 cause))

/-- An axis goes to FAULT (R304). -/
def axisFault (a cause : Nat) (s : State) : State :=
  let x := s.axis a
  if x.mode = .fault ∨ x.mode = .disabled then s else
  let st := if cause = 1 then stLimitExceeded else stHwFault
  let s := pathAbort a st (endMove a st s)
  let s := (s.updAxis a fun x => { x with mode := .fault, cause := cause }).report 6 3 3
    (b1 a ++ b1 cause ++ posHigh x.pos ++ b4 s.rg.frame)
  match cause with
  | 1 => stopMode a true s
  | 4 => (endStops a (.fail stHwFault) s).updAxis a fun x => { x with halt := true, profile := none, motion := .none, gear := none }
  | 5 => gearBreak a 2 s
  | _ =>
    let s := (endStops a (.fail stHwFault) s).updAxis a fun x => { x with
      profile := none, motion := .none, gear := none, torque := 0, integ := 0, prop := 0, vcmd := 0, acmd := 0 }
    (s.axisMachines a).foldl (fun s m => s.updMachine m fun y => { y with demand := 0 }) { s with sf := { s.sf with
        requests := s.sf.requests ++ (s.axisMachines a).map fun m => (18, m) } }

/-- The torque of an axis is taken away at once (R304, causes 2 and 3). -/
def AxisSt.zeroed (x : AxisSt) : Bool := decide (x.mode = .fault ∧ (x.cause = 2 ∨ x.cause = 3))

/-- The extended count and position of a channel-fed axis at a count (R298). -/
def State.posOf (s : State) (a : Nat) (e : Int) : Int :=
  (e * s.parN P.AX_SCALE_NUM a * 65536) / (s.parN P.AX_SCALE_DEN a : Int) + (s.axis a).offset

/-- The extended count at the channel's last snapshot (R298). -/
def State.extNow (s : State) (a c : Nat) : Int :=
  let x := s.axis a
  let n := sx 32 ((s.chan c).snap.getD 0 0)
  match x.prev with
  | none => n
  | some p => x.ext + sx 32 (tc 32 (n - p))

/-- The velocity of a channel-fed axis at the last snapshot (R298). -/
def State.velNow (s : State) (a c : Nat) : Int :=
  satI 32 (divHalfUp (sx 32 ((s.chan c).snap.getD 3 0) * s.parN P.AX_SCALE_NUM a) (16 * s.parN P.AX_SCALE_DEN a))

/-- The master value of a slave and its velocity, pu/s (R325). -/
def State.masterValue (s : State) (a : Nat) : Int × Rat :=
  let m := s.parN P.GR_MASTER a
  let y := s.axis m
  let taken := decide (y.sampled = some s.rg.frameStart)
  if s.parN P.GR_SOURCE a = 1 then
    match s.axisChan m with
    | some c => if taken then (y.pos, y.vel) else (s.posOf m (s.extNow m c), s.velNow m c)
    | none => (y.pos, y.vel)
  else (if taken then y.pcmdLast else y.pcmd, (y.vcmd : Rat) / 2 ^ 32)

/-- The velocity of a slave at its ratio, pu/s (R327). -/
def State.gearVel (s : State) (a : Nat) : Rat := (s.masterValue a).2 * s.par P.GR_NUM a / s.parN P.GR_DEN a

/-- The master of a slave is lost (R304, R347). -/
def State.masterLost (s : State) (a : Nat) : Bool :=
  let m := s.parN P.GR_MASTER a
  !s.axisUsed m || decide ((s.axis m).mode = .fault) ||
    (decide (s.parN P.GR_SOURCE a = 1) &&
      (match s.axisChan m with | some c => decide ((s.chan c).fault ≠ 0) || !(s.chan c).posValid | none => false))

/-- The relation of a slave starts (R326, R327). -/
def gearOn (a mode : Nat) (s : State) : State :=
  let mp := (s.masterValue a).1
  (s.updAxis a fun x => { x with gear := some { rem := 0, master := mp, pending := none }, motion := .gear, mode := .moving,
                                 profile := none, fast := 0 }).report 6 0 0xA (b1 a ++ b1 (s.parN P.GR_MASTER a) ++ b1 mode)

/-- One sample of a gear (R326). -/
def gearStep (a : Nat) (g : GearSt) (s : State) : State :=
  let (mp, _) := s.masterValue a
  let den := s.parN P.GR_DEN a
  let acc := (g.rem : Int) + (mp - g.master) * s.par P.GR_NUM a
  let ds := acc / (den : Int)
  let v := roundRat (s.gearVel a * 2 ^ 32)
  s.updAxis a fun x => { x with
    gear := some { g with rem := (acc - ds * den).toNat, master := mp }, pcmd := x.pcmd + ds
    acmd := roundRat (((v - x.vcmd : Int) : Rat) / s.axisT a), vcmd := v }

/-! ### Commands taken at a sample (R300 to R328) -/

/-- A cause of R304 is present for an axis (R302). -/
def State.causePresent (s : State) (a : Nat) : Bool :=
  let ms := s.axisMachines a
  (match s.axisChan a with | some c => decide (s.axisType a = 0 ∧ (s.chan c).fault ≠ 0) | none => false) ||
    (!ms.isEmpty && ms.all fun m => (s.machine m).unavailable.isSome)

/-- The torque limit l of an axis (R308, R330), 0.01 N·m. -/
def State.axisLimit (s : State) (a : Nat) : Rat :=
  let ms := (s.axis a).active
  let wa := ms.foldl (fun (n : Nat) m => n + s.shareWeight a m) 0
  ms.foldl (fun (l : Rat) m =>
    let w := s.shareWeight a m
    let x : Rat := if w = 0 then 0 else s.torqueLimit m * wa / w
    if x < l then x else l) (s.parN P.AX_TMAX a)

/-- The axis starts to hold (R302, R374). -/
def axisOn (a : Nat) (preload : Int) (s : State) : State :=
  let ms := (s.axisMachines a).filter fun m => (s.machine m).unavailable.isNone
  let own := decide (s.axisType a = 2 ∨ s.axisType a = 4)
  let s := s.updAxis a fun x => { x with
    mode := .holding, cause := 0, motion := .none, profile := none, gear := none, limits := none, followFrom := none
    windowFrom := none, vcmd := 0, acmd := 0, fast := 0, halt := false, misses := 0, enabling := none, active := ms, limitTold := 0
    pcmd := if own then x.pcmd else x.pos, kpLast := some (s.parN P.AX_KP_VEL a), demanded := false
    hadValid := (match s.axisChan a with | some c => (s.chan c).posValid | none => false) }
  let l := s.axisLimit a
  let s := s.updAxis a fun x => { x with integ := clampR (-l) l preload, torque := 0
                                         obs := { x.obs with vh := x.vel, d := preload, rf := 0 } }
  (obsSuspend a s).report 6 0 1 (b1 a ++ leI 4 preload ++ b4 s.rg.frame)

/-- AXIS_ENABLE (R302). -/
def takeEnableAxis (a : Nat) (c : Cmd) (s : State) : Res × State :=
  let x := s.axis a
  let ms := s.axisMachines a
  if x.mode ≠ .disabled ∨ x.enabling.isSome ∨ s.causePresent a ∨
      (ms.any fun m => (s.drivingOf m).isEmpty || !s.isAligned m) then (.fail stWrongState, s)
  else if ms.any fun m => s.inDemand (s.machineGroup m) then (.fail stSafetyDemand, s)
  else if s.axisType a = 1 then
    (.pending, s.updAxis a fun x => { x with enabling := some (c.slot, s.tm.now), halt := false, misses := 0, ppHalt := false })
  else (.ok, axisOn a (fldI c.args 0 4) s)

/-- The axis is disabled: torque demand 0 (R303). -/
def axisOff (a : Nat) (s : State) : State :=
  let s := endStops a (.fail stCancelled) s
  let s := match (s.axis a).enabling with | some (k, _) => s.finishAt k s.valley (.fail stCancelled) | none => s
  let s := (s.axisMachines a).foldl (fun s m => s.updMachine m fun y => { y with demand := 0 }) s
  s.updAxis a fun x => { x with
    mode := .disabled, cause := 0, motion := .none, profile := none, gear := none, torque := 0, integ := 0, prop := 0, vcmd := 0
    acmd := 0, enabling := none, limited := false, obs := { x.obs with suspended := true, settleTo := none } }

/-- AXIS_DISABLE (R303). -/
def takeDisableAxis (a : Nat) (s : State) : Res × State :=
  let m := (s.axis a).mode
  if m = .moving ∨ m = .stopping then (.fail stWrongState, s)
  else (.ok, (axisOff a s).report 6 0 2 (b1 a ++ b4 s.rg.frame))

/-- MOVE_ABS and MOVE_REL (R314, R336, R339). -/
def takeMove (a : Nat) (c : Cmd) (s : State) : Res × State :=
  let x := s.axis a
  let rel := decide (c.opcode = 0x0503)
  let target := if rel then x.pcmd + fldI c.args 0 8 else fldI c.args 0 8
  if x.mode ≠ .holding ∨ (rel = false ∧ s.axisPosValid a = false) then (.fail stWrongState, s)
  else if !s.inSoftLimits a target || s.hwLimit a (sgnI (target - x.pcmd)) then (.fail stLimitExceeded, s)
  else
    let m : Motion := if rel then .rel else .abs
    if s.inPP a then (.pending, s.updAxis a fun x => { x with
      slot := some c.slot, motion := m, mode := .moving, pcmdLast := x.pcmd, pcmd := target, ppNew := true, ppHalt := false, reached := false })
    else (.pending, (setProfile a (planTo (s.kin a) target (s.activeLimits a)) m .moving s).updAxis a fun x => { x with
      slot := some c.slot })

/-- The motion of a MOVE_VEL planned: at velocity `w` to the software limit ahead, or to standstill (R315). -/
def planMoveVel (a : Nat) (w : Int) (s : State) : State :=
  let k := s.kin a
  let l := s.activeLimits a
  let s := s.updAxis a fun x => { x with velSet := w }
  if w = 0 then setProfile a (planVel k 0 l) .vel .moving s else
  let lim := if 0 < w then s.par P.AX_SW_LIMIT_POS a else s.par P.AX_SW_LIMIT_NEG a
  let far := sgnI w * (lim - roundRat (stopPoint k l.d l.j * 65536))
  let vw : Rat := absR ((w : Rat) / 2 ^ 32)
  let code := if 0 < w then 3 else 4
  let f : Profile := if 0 < far ∧ 0 < sgnI w * (lim - (s.axis a).pcmd) then
      planTo k lim l vw
    else { planStop k l.d l.j with target := none }
  (setProfile a f .vel .moving s).updAxis a fun x => { x with limitCode := code }

/-- MOVE_VEL (R315, R336, R411). -/
def takeMoveVel (a : Nat) (c : Cmd) (s : State) : Res × State :=
  let x := s.axis a
  let w := fldI c.args 0 4
  let running := decide (x.mode = .moving ∧ x.motion = .vel)
  if s.inPP a ∨ ¬ (x.mode = .holding ∨ running) then (.fail stWrongState, s)
  else if ((s.activeLimits a).v : Int) < w.natAbs then (.fail stLimitExceeded, s)
  else if running ∧ w * x.vcmd < 0 then (.fail stTargetBehind, s)
  else if s.hwLimit a (sgnI w) then (.fail stLimitExceeded, s)
  else (.pending, (planMoveVel a (w * 2 ^ 32) (endMove a stCancelled s)).updAxis a fun x => { x with slot := some c.slot })

/-- The answer TARGET_UNREACHABLE with the nearest reachable position (R319). -/
def unreachable (q : Int) : Res := .fail stUnreachable 0 (leI 8 q)

/-- RETARGET (R319). -/
def takeRetarget (a : Nat) (c : Cmd) (s : State) : Res × State :=
  let x := s.axis a
  let target := fldI c.args 0 8
  let l := s.activeLimits a
  if s.inPP a ∨ x.mode ≠ .moving ∨ ¬ (x.motion = .abs ∨ x.motion = .rel) then (.fail stWrongState, s)
  else if !s.inSoftLimits a target || s.hwLimit a (sgnI (target - x.pcmd)) then (.fail stLimitExceeded, s)
  else match retargetTest ((target : Rat) / 65536) (s.kin a) l.d l.j with
    | .behind => (.fail stTargetBehind, s)
    | .unreachable q => (unreachable q, s)
    | .accept => (.ok, setProfile a (planTo (s.kin a) target l) x.motion .moving s)

/-- SET_MOTION_LIMITS (R313, R317, R318). -/
def takeLimits (a : Nat) (c : Cmd) (s : State) : Res × State :=
  let x := s.axis a
  let n : Limits := { v := fld c.args 0 4, a := fld c.args 4 4, d := fld c.args 8 4, j := fld c.args 12 4 }
  let bad := n.v = 0 ∨ n.a = 0 ∨ n.d = 0 ∨ n.j = 0 ∨ s.parN P.AX_VMAX a < n.v ∨ s.parN P.AX_AMAX a < n.a ∨
    s.parN P.AX_DMAX a < n.d ∨ s.parN P.AX_JMAX a < n.j
  let set := s.updAxis a fun x => { x with limits := some n }
  if bad then (.fail stLimitExceeded, s)
  else if s.inPP a then (.ok, set)
  else if x.mode = .moving ∧ (x.motion = .abs ∨ x.motion = .rel) then
    match x.profile.bind Profile.target with
    | none => (.ok, set)
    | some q =>
      match retargetTest ((q : Rat) / 65536) (s.kin a) n.d n.j with
      | .unreachable near => (unreachable near, s)
      | _ => (.ok, setProfile a (planTo (s.kin a) q n) x.motion .moving set)
  else if x.mode = .moving ∧ x.motion = .vel then
    let w : Int := sgnI x.velSet * min x.velSet.natAbs (n.v * 2 ^ 32 : Nat)
    (.ok, planMoveVel a w set)
  else (.ok, set)

/-- STOP (R316, R324). -/
def takeStop (a : Nat) (c : Cmd) (s : State) : Res × State :=
  let x := s.axis a
  let mode := fld c.args 0 1
  if 1 < mode then (.fail stParamRange, s)
  else if x.mode = .disabled ∨ x.mode = .fault then (.fail stWrongState, s)
  else if x.mode = .holding then (.ok, s)
  else
    let s := pathAbort a stCancelled (endMove a stCancelled s)
    (.pending, (stopMode a (decide (mode = 1)) s).updAxis a fun x => { x with stops := x.stops ++ [c.slot] })

/-- GEAR_ENGAGE (R327). -/
def takeEngage (a : Nat) (c : Cmd) (s : State) : Res × State :=
  let x := s.axis a
  let mode := fld c.args 0 1
  let m := s.parN P.GR_MASTER a
  let (mp, mv) := s.masterValue a
  if 1 < mode then (.fail stParamRange, s)
  else if s.inPP a ∨ ¬ (x.mode = .holding ∨ (x.mode = .moving ∧ x.motion = .vel)) ∨ m = a ∨ s.masterLost a ∨ ¬ s.axisRuns m then
    (.fail stWrongState, s)
  else if mode = 0 then
    if x.vcmd ≠ 0 ∨ mv ≠ 0 then (.fail stWrongState, s) else (.ok, gearOn a 0 (endMove a stCancelled s))
  else
    let s := endMove a stCancelled s
    let v := s.gearVel a
    (.pending, (setProfile a (planVel (s.kin a) v (s.activeLimits a)) .gear .moving s).updAxis a fun x => { x with
      velSet := roundRat (v * 2 ^ 32), gear := some { rem := 0, master := mp, pending := some c.slot } })

/-- GEAR_DISENGAGE (R328). -/
def takeDisengage (a : Nat) (c : Cmd) (s : State) : Res × State :=
  let mode := fld c.args 0 1
  if (s.axis a).motion ≠ .gear ∨ (s.axis a).mode ≠ .moving then (.fail stWrongState, s)
  else if 1 < mode then (.fail stParamRange, s)
  else
    let s := (endMove a stCancelled s).updAxis a fun x => { x with gear := none }
    if mode = 1 then (.ok, stopMode a false s)
    else (.ok, planMoveVel a (s.axis a).vcmd (s.updAxis a fun x => { x with acmd := 0 }))

/-! ### Homing (R332 to R335) -/

/-- The direction in which HOME seeks. -/
def State.homeDir (s : State) (a : Nat) : Int := if s.parN P.HOM_DIR a = 0 then 1 else -1

/-- The level of the limit or switch a homing seeks (R332, R347): a home switch on an EVT pin is known by its latch's last edge. -/
def State.homeLevel (s : State) (a method : Nat) : Bool :=
  if method = 3 then
    let src := s.parN P.HOM_SWITCH_IN a
    if 0x20 ≤ src then s.fd.published.testBit (src - 0x20)
    else match (s.latch (s.parN P.HOM_LATCH a)).lastEdge with | some (r, _) => r | none => false
  else s.hwLimit a (s.homeDir a)

/-- A limit other than the one a homing seeks is active (R335). -/
def State.homeForeign (s : State) (a method : Nat) : Bool :=
  let d := s.homeDir a
  s.hwLimit a (-d) || (decide (method ≠ 1 ∧ method ≠ 2) && s.hwLimit a d)

/-- The axis runs at a velocity with the acceleration of homing (R332). -/
def homeRun (a : Nat) (w : Int) (s : State) : State :=
  let l := s.activeLimits a
  let acc := s.parN P.HOM_ACC a
  setProfile a (planVel (s.kin a) w { l with a := acc, d := acc }) .home .moving s

/-- The homing offset moved by `d`, and the commanded position with it (R333). -/
def homeShift (a : Nat) (d : Int) (s : State) : State :=
  s.updAxis a fun x => { x with
    offset := x.offset + d, pos := x.pos + d, pcmd := x.pcmd + d, pcmdLast := x.pcmdLast + d
    profile := x.profile.map fun f => { f with p0 := f.p0 + (d : Rat) / 65536, target := f.target.map fun t => t + d } }

/-- HOME completes OK (R333): POS_VALID sets, and tables indexed by the axis go BLANKED (R367). -/
def homeDone (a : Nat) (h : HomeSt) (s : State) : State :=
  let o := (s.axis a).offset
  let s := match s.axisChan a with | some c => s.updChan c fun f => { f with posValid := true } | none => s
  let s := (s.finishAt h.slot s.valley (.ok (leI 8 o))).report 6 1 6 (b1 a ++ b1 h.method ++ posHigh o)
  let s := s.updAxis a fun x => { x with home := none, motion := .none, mode := .holding, profile := none }
  ltCauseAll 4 (fun l => decide (s.parN P.LT_INDEX_AXIS l = a)) s

/-- The reference event at the count or position of the event (R333, R334). -/
def homeEvent (a : Nat) (h : HomeSt) (at_ : Int) (s : State) : State :=
  let s := homeShift a (s.par P.HOM_OFFSET a - at_) s
  if s.axisType a = 3 then homeDone a h s
  else if h.method = 5 ∨ h.method = 6 then homeDone a h s
  else
    let s := setProfile a (planStop (s.kin a) (s.parN P.HOM_ACC a) (s.activeLimits a).j) .home .stopping s
    s.updAxis a fun x => { x with home := some { h with phase := 3 } }

/-- The position of a captured count (R298, R333). -/
def State.posAt (s : State) (a c : Nat) (count : Int) : Int :=
  let e := s.extNow a c
  s.posOf a (e + sx 32 (tc 32 (count - sx 32 ((s.chan c).snap.getD 0 0))))

/-- HOME (R300, R332). -/
def takeHome (a : Nat) (c : Cmd) (s : State) : Res × State :=
  let x := s.axis a
  let m := s.parN P.HOM_METHOD a
  let ok := match s.axisType a with
    | 0 => true
    | 1 => decide (m = 5 ∨ m = 6 ∨ ((m = 2 ∨ m = 3) ∧ s.inPP a = false))
    | 3 => true
    | _ => decide (m = 5)
  let chanOk := match s.axisChan a with
    | some ch => decide (m ≠ 6) || (decide (s.parN P.FB_MODE ch = 3 ∨ s.parN P.FB_MODE ch = 4) && (s.chan ch).posValid)
    | none => decide (m ≠ 1 ∧ m ≠ 4 ∧ m ≠ 6)
  if x.mode ≠ .holding ∨ !ok ∨ !chanOk then (.fail stWrongState, s)
  else
    let ev := match s.axisChan a with | some ch => (s.chan ch).indexEvents | none => 0
    let h : HomeSt := { slot := c.slot, method := m, phase := if m = 4 then 2 else 0, travel := 0, changes := 0
                        last := if s.axisType a = 3 then x.pos else x.pcmd, level := false, sought := false
                        events := if m = 2 ∨ m = 3 then (s.latch (s.parN P.HOM_LATCH a)).edges else ev }
    if m = 5 ∨ m = 6 then (.pending, homeEvent a h x.pos (s.updAxis a fun x => { x with home := some h, motion := .home }))
    else
      let dir := s.homeDir a
      let s := s.updAxis a fun x => { x with home := some h, motion := .home }
      if s.axisType a = 3 then (.pending, s)
      else (.pending, homeRun a (dir * (if m = 4 then s.parN P.HOM_V_SLOW a else s.parN P.HOM_V_FAST a)) s)

/-- A homing aborts with a quick stop (R335). -/
def homeAbort (a status : Nat) (s : State) : State :=
  let s := endMove a status s
  if s.axisType a = 3 then s.updAxis a fun x => { x with motion := .none } else stopMode a true s

/-- A homing at a sample (R332 to R335): the sought level, the reference event and the aborts. -/
def homeStep (a : Nat) (s : State) : State :=
  let x := s.axis a
  match x.home with
  | none => s
  | some h =>
    if h.phase = 3 then s else
    let seen := if s.axisType a = 3 then x.pos else x.pcmd
    let lvl := s.homeLevel a h.method
    let seeks := decide (h.method = 1 ∨ h.method = 2 ∨ h.method = 3)
    let change := seeks && h.sought && decide (lvl ≠ h.level)
    let h := { h with travel := h.travel + (seen - h.last).natAbs, last := seen, level := lvl, sought := h.sought || (seeks && lvl)
                      changes := h.changes + b2n change }
    let s := s.updAxis a fun x => { x with home := some h }
    let l := s.latch (s.parN P.HOM_LATCH a)
    let evs := match s.axisChan a with | some ch => (s.chan ch).indexEvents | none => 0
    if s.homeForeign a h.method then homeAbort a stHomeUnexpected s
    else if (h.method = 1 ∨ h.method = 2) ∧ 4 < h.changes then homeAbort a stHomeChatter s
    else if h.phase = 0 then
      if !h.sought then (if s.parN P.HOM_MAX_TRAVEL a * 65536 ≤ h.travel then homeAbort a stLimitExceeded s else s) else
      let s := s.updAxis a fun x => { x with home := some { h with phase := 1, events := if h.method = 1 then evs else l.edges } }
      if s.axisType a = 3 then s else homeRun a (-(s.homeDir a) * s.parN P.HOM_V_SLOW a) s
    else if s.parN P.HOM_MAX_TRAVEL a * 65536 ≤ h.travel then homeAbort a stLimitExceeded s
    else if h.method = 1 ∧ h.phase = 1 then
      if lvl then s else s.updAxis a fun x => { x with home := some { h with phase := 2, events := evs } }
    else if h.method = 1 ∨ h.method = 4 then
      match s.axisChan a with
      | some ch => if evs = h.events then s else homeEvent a h (s.posAt a ch (s.chan ch).indexCount) s
      | none => s
    else if l.edges = h.events then s
    else
      let releaseRising := decide (h.method = 2 ∧ s.parN P.AX_LIMIT_POLARITY a = 0)
      match l.lastEdge with
      | some (r, cap) =>
        if r ≠ releaseRising then s.updAxis a fun x => { x with home := some { h with events := l.edges } }
        else match s.axisChan a with
          | some ch => homeEvent a h (if s.parN P.LAT_CHANNEL (s.parN P.HOM_LATCH a) = ch then s.posAt a ch cap.count else x.pos) s
          | none => homeEvent a h x.pos s
      | none => s

/-! ### Taking the commands of a sample (R301) -/

/-- What a command in an axis's queue does at the sample that takes it (R300 to R335). -/
def takeOne (a : Nat) (c : Cmd) (s : State) : Res × State :=
  let inPath := (s.pathOf a).isSome
  if s.axisDemand a ∧ (c.opcode = 0x0502 ∨ c.opcode = 0x0503 ∨ c.opcode = 0x0504 ∨ c.opcode = 0x0505 ∨ c.opcode = 0x0508 ∨
      c.opcode = 0x050B) then (.fail stSafetyDemand, s)
  else if inPath ∧ (c.opcode = 0x0502 ∨ c.opcode = 0x0503 ∨ c.opcode = 0x0504 ∨ c.opcode = 0x0505 ∨ c.opcode = 0x050B ∨
      c.opcode = 0x050C) then (.fail stWrongState, s)
  else match c.opcode with
    | 0x0500 => takeEnableAxis a c s
    | 0x0501 => takeDisableAxis a s
    | 0x0502 => takeMove a c s
    | 0x0503 => takeMove a c s
    | 0x0504 => takeMoveVel a c s
    | 0x0505 => takeRetarget a c s
    | 0x0506 => takeLimits a c s
    | 0x0507 => takeStop a c s
    | 0x0508 => takeHome a c s
    | 0x0509 => takePathAppend (c.target % 4096) c s
    | 0x050A => takePathStart (c.target % 4096) c s
    | 0x050B => takeEngage a c s
    | _ => takeDisengage a c s

/-- The commands due at a sample, in sequence order; one not due yet holds those behind it (R301). -/
def takeDue (a : Nat) : Nat → State → State
  | 0, s => s
  | n + 1, s =>
    match (s.axis a).queue with
    | [] => s
    | c :: cs =>
      if (match c.start with | some t => decide (s.valley < t) | none => false) then s else
      let s := s.updAxis a fun x => { x with queue := cs }
      let (r, s) := takeOne a c s
      takeDue a n (match r with | .pending => s | r => s.finishAt c.slot s.valley r)

/-- An accepted start stamp lies more than a day ahead (R446). -/
def farAhead (c : Cmd) : Bool := match c.start with | some t => decide (c.accept + 86400 * nsPerS < t) | none => false

/-- A command type that an axis of this type has (R300). -/
def State.axisHas (s : State) (a op : Nat) : Bool :=
  decide (s.axisType a ≠ 3) || decide (op = 0x0500 ∨ op = 0x0501 ∨ op = 0x0508)

/-- An axis or homing command starts: it joins its axis's queue (R297, R419, R446). -/
def cmdAxis (c : Cmd) (s : State) : Res × State :=
  let a := c.target % 4096
  if !s.axisRuns a || !s.axisHas a c.opcode then (.fail stWrongState, s)
  else if farAhead c then (.fail stParamRange, s)
  else (.pending, s.updAxis a fun x => { x with queue := x.queue ++ [c] })

/-- A path command starts: it joins the queue of its group's first member. -/
def cmdPath (c : Cmd) (s : State) : Res × State :=
  let g := c.target % 4096
  match (s.members g).filter s.axisRuns with
  | [] => (.fail stWrongState, s)
  | a :: _ =>
    if 4 ≤ g then (.fail stWrongState, s)
    else if farAhead c then (.fail stParamRange, s)
    else (.pending, s.updAxis a fun x => { x with queue := x.queue ++ [c] })

/-! ### Rate multipliers (R340 to R346) -/

/-- The extended accumulator brought up to now (R341). -/
def rmAdvance (n : Nat) (s : State) : State :=
  s.updRate n fun r => { r with ext := r.ext + r.w * (s.tm.now - r.from_ : Nat), from_ := s.tm.now }

/-- Pending steps: accumulated carries less emitted steps (R343). -/
def RateSt.pending (r : RateSt) : Int := r.ext / 2 ^ 40 - r.emitted

/-- W written, saturated to what RM_MIN_PERIOD allows (R342). -/
def rmWrite (n : Nat) (w : Int) (s : State) : State :=
  let lim : Int := 2 ^ 40 / s.parN P.RM_MIN_PERIOD n
  let s := rmAdvance n s
  s.updRate n fun r => { r with w := clampI (-lim) lim w, sat := r.sat || decide (lim < w.natAbs), lastWrite := some s.tm.now }

/-- The feed of a STEP axis writes W so that the accumulator reaches the commanded position in one sample period (R344). -/
def stepFeed (a : Nat) (s : State) : State :=
  let n := s.parN P.AX_RM a
  let x := s.axis a
  if s.axisType a ≠ 4 ∨ 8 ≤ n then s else
  let s := rmAdvance n s
  let want := ((x.pcmd - x.offset) * s.parN P.AX_SCALE_DEN a * 2 ^ 24) / (s.parN P.AX_SCALE_NUM a : Int)
  rmWrite n ((want - (s.rate n).ext) / (s.axisCycles a : Int)) s

/-- A step of one sign is emitted (R343). -/
def emitStep (n : Nat) (neg : Bool) (s : State) : State :=
  s.updRate n fun r => { r with
    emitted := if neg then r.emitted - 1 else r.emitted + 1, lastStep := some s.tm.now, dirNeg := neg
    phase := (r.phase + (if neg then 3 else 1)) % 4 }

/-- RM_STEP_EMIT (R343): at least RM_MIN_PERIOD after the step before, and in step/direction form RM_DIR_SETUP after a change of
direction, which is made first where it is due. -/
def stepEmit (n : Nat) (s : State) : State :=
  if 8 ≤ n || !s.clocked then s else
  let s := rmAdvance n s
  let r := s.rate n
  let neg := decide (r.pending < 0)
  let soon := match r.lastStep with | some t => decide (s.tm.now < t + s.parN P.RM_MIN_PERIOD n) | none => false
  if r.pending = 0 ∨ soon = true then s
  else if s.parN P.RM_MODE n = 1 ∧ r.dirNeg ≠ neg then
    s.updRate n fun r => { r with dirNeg := neg, dirFrom := s.tm.now }
  else if s.parN P.RM_MODE n = 1 ∧ s.tm.now < r.dirFrom + s.parN P.RM_DIR_SETUP n then s
  else emitStep n neg s

/-- The sample period of the axis that feeds a multiplier, in cycles (R345). -/
def State.feedCycles (s : State) (n : Nat) : Nat :=
  match (List.range s.axes).find? fun a => s.axisUsed a && decide (s.axisType a = 4 ∧ s.parN P.AX_RM a = n) with
  | some a => s.axisCycles a
  | none => s.rg.frameLength

/-- RM_STALE (R345): no write for 2 periods of the feed. -/
def rmStale (n : Nat) (s : State) : State :=
  if 8 ≤ n then s else
  let s := rmAdvance n s
  match (s.rate n).lastWrite with
  | none => s
  | some t =>
    if s.tm.now < t + 2 * s.feedCycles n then s else
    (s.updRate n fun r => { r with w := 0, stale := true, lastWrite := none }).report 6 2 0xE (b1 n ++ b4 s.rg.frame)

/-- While the Ridge is STOPPED, W is 0 (R345). -/
def rmStop (s : State) : State :=
  (List.range 8).foldl (fun s n => (rmAdvance n s).updRate n fun r => { r with w := 0, lastWrite := none }) s

/-- A pin of a multiplier lacks CMP_EVT_FUNC 2 (R346). -/
def State.rmPinOff (s : State) (n : Nat) : Bool :=
  decide (s.parN P.CMP_EVT_FUNC (2 * n) ≠ 2 ∨ s.parN P.CMP_EVT_FUNC (2 * n + 1) ≠ 2)

/-- RM_STATUS (R346). -/
def State.rmStatus (s : State) (n : Nat) : Nat :=
  let r := ((rmAdvance n s).rate n)
  tc 4 r.pending * 16 + b2n (s.rmPinOff n) 3 + b2n r.stale 2 + b2n r.sat 1 + b2n (decide (r.w ≠ 0))

/-- A write to RM_STATUS clears what it names (R346). -/
def rmClear (n value : Nat) (s : State) : State :=
  if 8 ≤ n then s else s.updRate n fun r => { r with stale := r.stale && !value.testBit 2, sat := r.sat && !value.testBit 1 }

/-- The level of a multiplier's pin (R343, R353): `b` is the second one. -/
def State.rmLevel (s : State) (n : Nat) (b : Bool) : Bool :=
  let r := s.rate n
  let pulse := match r.lastStep with | some t => decide (s.tm.now < t + s.parN P.RM_PULSE n) | none => false
  let raw := match s.parN P.RM_MODE n with
    | 1 => if b then r.dirNeg else pulse
    | 2 => pulse && decide (b = r.dirNeg)
    | 3 => if b then decide (r.phase = 2 ∨ r.phase = 3) else decide (r.phase = 1 ∨ r.phase = 2)
    | _ => false
  raw != (s.parN P.RM_INVERT n).testBit (b2n b)

end Sys2Proof.Machine
end

