-- ==== Sys2Proof/Machine/AxisSample.lean ====
section
/-!
DEFINITION. Sys2Proof/Machine/AxisSample.lean: a sample of an axis (R298 to R310, R329 to R339, R355 to R382): position, motion,
commands, supervision, loops, shares, learning and observer; and what happens to axes when loops or the Ridge stop.
-/
namespace Sys2Proof.Machine

/-! ### Position and motion -/

/-- The position of a channel-fed axis at its sample (R298). -/
def axisPosition (a : Nat) (s : State) : State :=
  match s.axisChan a with
  | none => s
  | some c =>
    let e := s.extNow a c
    let n := sx 32 ((s.chan c).snap.getD 0 0)
    let v := s.velNow a c
    let p := s.posOf a e
    s.updAxis a fun x => { x with ext := e, prev := some n, pos := p, vel := v }

/-- A VIRTUAL or STEP axis is where it is commanded to be (R296). -/
def ownPosition (a : Nat) (s : State) : State :=
  if s.axisType a = 2 ∨ s.axisType a = 4 then
    s.updAxis a fun x => { x with pos := x.pcmd, vel := satI 32 (roundRat ((x.vcmd : Rat) / 2 ^ 32)) }
  else s

/-- A motion has ended at standstill (R315, R316, R333). -/
def motionEnd (a : Nat) (s : State) : State :=
  let x := s.axis a
  let rest : AxisMode := if x.mode = .fault then .fault else .holding
  match x.motion with
  | .stop =>
    endStops a .ok (s.updAxis a fun x => { x with motion := .none, profile := none, mode := rest, quick := false })
  | .home => match x.home with
    | some h => if h.phase = 3 then homeDone a h s else s
    | none => s
  | .vel =>
    if x.limitCode = 0 then s else
    let s := s.report 6 2 5 (b1 a ++ b1 x.limitCode ++ posHigh x.pos)
    (endMove a stLimitExceeded s).updAxis a fun x => { x with motion := .none, profile := none, mode := rest }
  | _ => s

/-- A synchronising slave (R327): the relation starts where the velocities agree, and a changed velocity is planned for anew. -/
def syncStep (a : Nat) (g : GearSt) (s : State) : State :=
  let v := s.gearVel a
  let x := s.axis a
  if absR ((x.vcmd : Rat) / 2 ^ 32 - v) ≤ 1 then
    let s := match g.pending with | some k => s.finishAt k s.valley .ok | none => s
    gearOn a 1 s
  else if 1 < absR (v - (x.velSet : Rat) / 2 ^ 32) then
    (setProfile a (planVel (s.kin a) v (s.activeLimits a)) .gear .moving s).updAxis a fun x => { x with
      velSet := roundRat (v * 2 ^ 32) }
  else s

/-- The commanded motion of a sample (R299, R312, R322, R326). -/
def axisMotion (a : Nat) (s : State) : State :=
  let x := s.axis a
  let s := if x.motion = .path then s else s.updAxis a fun x => { x with pcmdLast := x.pcmd }
  if x.mode = .disabled || x.zeroed || s.axisType a = 3 then
    s.updAxis a fun x => { x with
      pcmd := if s.axisType a = 2 ∨ s.axisType a = 4 then x.pcmd else x.pos, vcmd := 0, acmd := 0 }
  else if x.motion = .path then (match s.pathOf a with | some g => pathStep g s | none => s)
  else match x.gear, x.profile with
  | some g, none => gearStep a g s
  | og, some f =>
    let f := { f with t := f.t + s.axisT a }
    let (p, v, acc) := f.now
    let s := s.updAxis a fun x => { x with profile := some f, pcmd := p, vcmd := v, acmd := acc }
    match og with
    | some g => syncStep a g s
    | none => if f.ended then motionEnd a s else s
  | none, none => s.updAxis a fun x => { x with vcmd := 0, acmd := 0 }

/-! ### Supervision (R304 to R310, R328, R331, R336, R375) -/

/-- The active machines of an axis formed anew (R331): who leaves and who rejoins is recorded for a group. -/
def shareUpdate (a : Nat) (s : State) : State :=
  (s.axisMachines a).foldl (fun s m =>
    let act := (s.axis a).active
    let ok := (s.machine m).unavailable.isNone && !(s.axisShares a && s.stopped18 (s.machineGroup m))
    let mask (l : List Nat) : Nat := l.foldl (fun (n : Nat) k => setBitN n k true) 0
    let told (code lvl : Nat) (l : List Nat) (s : State) : State :=
      let s := obsSuspend a (s.updAxis a fun x => { x with active := l })
      if s.axisShares a then s.report 6 lvl code (b1 a ++ b1 m ++ b2 (mask l) ++ b4 s.rg.frame) else s
    if act.contains m && !ok then told 0xC 2 (act.filter fun k => decide (k ≠ m)) s
    else if !act.contains m && ok && !(s.drivingOf m).isEmpty then told 0xD 1 (act ++ [m]) s
    else s) s

/-- A stop demand reaches the axis (R306). -/
def demandStep (a : Nat) (s : State) : State :=
  let x := s.axis a
  let d := s.axisDemand a
  let s := s.updAxis a fun x => { x with demanded := d }
  if !d || x.demanded || x.mode = .disabled || x.mode = .fault then s else
  let s := pathAbort a stSafetyDemand (endMove a stSafetyDemand s)
  if x.mode = .moving ∨ x.mode = .stopping then stopMode a true s else s

/-- Commanded less actual position (R304, R308, R309). -/
def State.axisError (s : State) (a : Nat) : Int :=
  let x := s.axis a
  if s.axisType a = 1 then (if s.inPP a then 0 else x.remoteErr) else x.pcmd - x.pos

/-- The following error persists over its time (R304): checked at a sample and when its time is up. -/
def followDue (a : Nat) (s : State) : State :=
  match (s.axis a).followFrom with
  | some n => if n + s.parN P.AX_FOLLOW_TIME a * cyclesPerMs ≤ s.tm.now then axisFault a 1 s else s
  | none => s

/-- The following error at a sample (R304). -/
def followStep (a : Nat) (s : State) : State :=
  if s.parN P.AX_FOLLOW_ERR a * 65536 < (s.axisError a).natAbs then
    followDue a (s.updAxis a fun x => { x with followFrom := x.followFrom <|> some s.tm.now })
  else s.updAxis a fun x => { x with followFrom := none }

/-- A remote axis has lost its drive (R304, R347). -/
def remoteDue (a : Nat) (s : State) : State :=
  let x := s.axis a
  if s.axisType a = 1 && (decide (s.parN P.AX_REMOTE_MISS a ≤ x.misses) || x.driveFault) then axisFault a 4 s else s

/-- A slave above AX_VMAX in 2 consecutive samples disengages (R328). -/
def gearDue (a : Nat) (s : State) : State :=
  let x := s.axis a
  if x.motion = .gear ∧ x.mode = .moving ∧ 2 ≤ x.fast then gearBreak a 1 s else s

/-- Gearing at a sample (R304, R328). -/
def gearWatch (a : Nat) (s : State) : State :=
  let x := s.axis a
  if x.motion ≠ .gear ∨ x.mode ≠ .moving then s
  else if s.masterLost a then axisFault a 5 s
  else
    let excess := decide (x.profile.isNone ∧ s.parN P.AX_VMAX a * 2 ^ 32 < x.vcmd.natAbs)
    gearDue a (s.updAxis a fun x => { x with fast := if excess then x.fast + 1 else 0 })

/-- The hardware limits outside homing (R336). -/
def limitStep (a : Nat) (s : State) : State :=
  let x := s.axis a
  let dir := if s.inPP a then sgnI (x.pcmd - x.pos) else sgnI x.vcmd
  if x.home.isSome || decide (x.mode ≠ .moving ∧ x.mode ≠ .stopping) || x.quick || !s.hwLimit a dir then s else
  let s := s.report 6 2 5 (b1 a ++ b1 (if 0 < dir then 1 else 2) ++ posHigh x.pos)
  stopMode a true (pathAbort a stLimitExceeded (endMove a stLimitExceeded s))

/-- A positioning move whose profile has ended (R310). -/
def State.moveEnded (s : State) (a : Nat) : Bool :=
  let x := s.axis a
  decide (x.mode = .moving ∧ (x.motion = .abs ∨ x.motion = .rel)) &&
    (match x.profile with | some f => f.ended | none => false)

/-- A move has stayed in its window for AX_INPOS_TIME and completes OK (R310). -/
def inPositionDue (a : Nat) (s : State) : State :=
  match (s.axis a).windowFrom with
  | some n =>
    if !s.moveEnded a || s.tm.now < n + s.parN P.AX_INPOS_TIME a * cyclesPerMs then s else
    (endMove a 0 s).updAxis a fun x => { x with motion := .none, profile := none, mode := .holding, windowFrom := none }
  | none => s

/-- The window of a move at a sample (R310). -/
def inPositionStep (a : Nat) (s : State) : State :=
  if !s.moveEnded a then s
  else if (s.axisError a).natAbs ≤ s.parN P.AX_INPOS_WINDOW a * 65536 then
    inPositionDue a (s.updAxis a fun x => { x with windowFrom := x.windowFrom <|> some s.tm.now })
  else s.updAxis a fun x => { x with windowFrom := none }

/-- The observer's residual has persisted (R375): recorded, flagged, and with OBS_ACTION 1 a quick stop. -/
def obsDue (a : Nat) (s : State) : State :=
  if !s.obsDue a then s else
  let s := obsFlag a s
  let m := (s.axis a).mode
  if s.parN P.OBS_ACTION a = 1 ∧ (m = .moving ∨ m = .stopping) then
    stopMode a true (pathAbort a stHwFault (endMove a stHwFault s))
  else s

/-- The supervision of a sample, in the order demand, channel, shares, error, drive, gear, limits, homing, position. -/
def axisSupervise (a : Nat) (s : State) : State :=
  let m := (s.axis a).mode
  let s := demandStep a s
  if m = .disabled then s
  else if s.axisType a = 3 then homeStep a s
  else if m = .fault then s
  else
    let s := match s.axisChan a with
      | none => s
      | some c =>
        let f := s.chan c
        if decide (f.fault ≠ 0) || ((s.axis a).hadValid && !f.posValid) then axisFault a 2 s
        else s.updAxis a fun x => { x with hadValid := x.hadValid || f.posValid }
    let s := if s.axisType a = 0 then shareUpdate a s else s
    let s := if s.axisType a = 0 && (s.axis a).active.isEmpty then axisFault a 3 s else s
    let s := remoteDue a (followStep a s)
    if (s.axis a).mode = .fault then s else
    inPositionStep a (homeStep a (limitStep a (gearWatch a s)))

/-! ### Loops (R308, R330, R355, R377 to R382) -/

/-- A torque in units of 0.01 N·m rounded half up. -/
def roundTorque (q : Rat) : Rat := (roundRat q : Rat)

/-- The feed-forward torque (R355, R356), 0.01 N·m. -/
def State.feedForward (s : State) (a : Nat) : Rat :=
  let x := s.axis a
  let en := s.parN P.FF_ENABLE a
  let v : Rat := (x.vcmd : Rat) / 2 ^ 32
  let acc : Rat := (x.acmd : Rat) / 2 ^ 32
  (if en.testBit 0 then roundTorque (s.parN P.FF_INERTIA a * acc / 10000000) else 0) +
    (if en.testBit 1 then roundTorque (s.parN P.FF_COULOMB a * clampR (-1) 1 (v / s.parN P.FF_V_BAND a) +
      s.parN P.FF_VISCOUS a * v / 10000) else 0) +
    (if en.testBit 2 then roundTorque (s.ltSum a) else 0)

/-- The torque of an axis shared over its active machines (R330). -/
def shareTorque (a : Nat) (t : Rat) (s : State) : State :=
  let act := (s.axis a).active
  let wa := act.foldl (fun (n : Nat) m => n + s.shareWeight a m) 0
  (s.axisMachines a).foldl (fun s m => s.updMachine m fun y => { y with
    demand := if act.contains m && wa ≠ 0 then roundRat (t * s.shareWeight a m / wa) else 0 }) s

/-- The position and velocity loops of a LOCAL axis (R308, R378, R380, R381, R305). Torques in 0.01 N·m. -/
def axisLoops (a : Nat) (s : State) : State :=
  let x := s.axis a
  if s.axisType a ≠ 0 then s
  else if x.mode = .disabled || x.zeroed then
    shareTorque a 0 (s.updAxis a fun x => { x with torque := 0, prop := 0, limited := false })
  else
    let ep : Rat := ((x.pcmd - x.pos : Int) : Rat) / 65536
    let vref := clampR (-2147483648) 2147483647 ((x.vcmd : Rat) / 2 ^ 32 + s.parN P.AX_KP_POS a * ep / 1000)
    let e := vref - (x.vel : Rat)
    let kp := s.parN P.AX_KP_VEL a
    let hi := s.axisLimit a
    let bump : Rat := match x.kpLast with
      | some k => if s.parN P.LOOP_BUMPLESS a = 1 then ((kp : Rat) - k) * e / 10000 else 0
      | none => 0
    let i := clampR (-hi) hi (x.integ - bump)
    let up : Rat := kp * e / 10000
    let tff := s.feedForward a
    let sum := up + i + tff
    let held := x.brake.isSome || x.active.any fun m => (s.machine m).interrupted.isSome
    let inc : Rat := if held then 0 else s.parN P.AX_KI_VEL a * s.axisT a * e / 10000
    let inc : Rat := if (hi ≤ sum ∧ 0 < inc) ∨ (sum ≤ -hi ∧ inc < 0) then 0 else inc
    let i := clampR (-hi) hi (i + inc)
    let t0 := match x.brake with | some b => (b : Rat) | none => up + i + tff
    let t := clampR (-hi) hi t0
    shareTorque a t (s.updAxis a fun x => { x with
      integ := i, prop := up, kpLast := some kp, torque := roundRat t, limited := decide (t ≠ t0) })

/-- The observer at a sample (R373 to R375). -/
def obsStep (a : Nat) (s : State) : State :=
  if s.parN P.OBS_ENABLE a ≠ 1 then s else
  let s := if s.obsBlocked a then s.updAxis a fun x => { x with obs := { x.obs with
      suspended := true, overFrom := none, underFrom := none } } else obsSettle a s
  obsCleared a (obsDue a (obsWatch a (obsLaw a s)))

/-! ### AXIS_SAMPLE -/

/-- A reply is missing for a setpoint that was sent (R304, R641, R682). -/
def remoteMiss (a : Nat) (s : State) : State :=
  if s.axisType a ≠ 1 then s else
  match (s.axis a).sentFrame with
  | some _ => s.updAxis a fun x => { x with misses := x.misses + 1, sentFrame := none }
  | none => s

/-- A sample of an axis is due: the image uses the axis, its loop runs and samples in this frame, and it has not sampled yet. -/
def State.sampleDue (s : State) (a : Nat) : Bool :=
  s.framesRun && s.axisRuns a && decide ((s.axis a).sampled ≠ some s.rg.frameStart) &&
    (match s.axisLoop a with | some l => decide (s.rg.frame % 2 ^ l.divExp = l.phase) | none => false)

/-- AXIS_SAMPLE (R301, R308). -/
def axisSample (a : Nat) (s : State) : State :=
  if !s.sampleDue a then s else
  let s := remoteMiss a (axisPosition a s)
  let s := axisMotion a (s.updAxis a fun x => { x with sampled := some s.rg.frameStart, samples := x.samples + 1 })
  let s := ownPosition a (takeDue a ((s.axis a).queue.length) s)
  let s := axisSupervise a s
  let s := axisLoops a (ltSamples a s)
  stepFeed a (obsStep a (ltLearn a (s.axis a).limited s))

/-! ### Remote drives (R309, R337 to R339, R640, R641) -/

/-- What the setpoint of a remote axis says: control bits (enable, halt, fault reset), position in the drive's frame, velocity. -/
def State.setpoint (s : State) (a : Nat) : Nat × Int × Int :=
  let x := s.axis a
  let on := decide (x.mode ≠ .disabled) || x.enabling.isSome
  (b2n on + b2n (x.halt || x.ppHalt) 1 + b2n (x.enabling.isSome && x.driveFault) 2, x.pcmd - x.offset,
   satI 32 (roundRat ((x.vcmd : Rat) / 2 ^ 32)))

/-- A setpoint has left with its CYCLE (R309). -/
def setpointSent (a cycle : Nat) (s : State) : State :=
  s.updAxis a fun x => { x with
    sentPos := ((cycle, x.pcmd - x.offset) :: x.sentPos).take 8, sentFrame := some s.rg.frame, ppNew := false }

/-- A reply in time for the sample that its setpoint belongs to (R641, R682): before the frame of the next sample. -/
def State.replyInTime (s : State) (a : Nat) : Bool :=
  match (s.axis a).sentFrame with
  | some f => decide ((s.rg.frame + 2 ^ 32 - f) % 2 ^ 32 * s.rg.frameLength < s.axisCycles a)
  | none => false

/-- A drive's reply (R302, R309, R339, R641): `cycle` names the setpoint its actual position is compared with. -/
def remoteReply (a cycle : Nat) (actual vel : Int) (on bad : Bool) (code : Nat) (reached : Bool) (s : State) : State :=
  let x := s.axis a
  let err := match x.sentPos.find? fun e => decide (e.1 = cycle) with | some e => e.2 - actual | none => x.remoteErr
  let s := s.updAxis a fun x => { x with
    pos := actual + x.offset, vel := vel, misses := 0, sentFrame := none, remoteErr := err, remoteOn := on, driveFault := bad
    driveCode := code, reached := reached }
  let s := match (s.axis a).enabling with
    | some (k, _) => if on then
        let c := s.runningCmd k
        let p : Int := match c with | some c => fldI c.args 0 4 | none => 0
        axisOn a p (s.finish k .ok)
      else s
    | none => s
  if !s.inPP a || !reached || x.ppNew then s else
  let x := s.axis a
  if x.motion = .abs ∨ x.motion = .rel then (endMove a 0 s).updAxis a fun x => { x with motion := .none, mode := .holding }
  else if x.motion = .stop then endStops a .ok (s.updAxis a fun x => { x with
    motion := .none, ppHalt := false, quick := false, mode := if x.mode = .fault then .fault else .holding, pcmd := x.pos })
  else s

/-- AXIS_ENABLE of a remote axis is not answered within 1 s (R302). -/
def remoteTimeout (a : Nat) (s : State) : State :=
  match (s.axis a).enabling with
  | some (k, n) =>
    if s.tm.now < n + cyclesPerS then s else
    (s.finish k (.fail stHwFault)).updAxis a fun x => { x with enabling := none }
  | none => s

/-! ### Loops dropped, Ridge stopped, reset (R100, R306, R307) -/

/-- MOVE_INTERRUPTED for the commands that move an axis (R307, R354). -/
def moveInterrupted (a : Nat) (s : State) : State :=
  let x := s.axis a
  let ks := [x.slot, x.gear.bind GearSt.pending, x.home.map HomeSt.slot].filterMap id
  ks.foldl (fun s k => match s.runningCmd k with
    | some c => s.report 6 2 4 (b1 a ++ b2 c.opcode ++ b4 c.seq)
    | none => s) s

/-- Every command of an axis ends INTERRUPTED, and the axis is DISABLED (R307). -/
def axisInterrupt (a : Nat) (s : State) : State :=
  let s := pathAbort a stInterrupted (endMove a stInterrupted (moveInterrupted a s))
  let s := endStops a (.fail stInterrupted) s
  let s := match (s.axis a).enabling with | some (k, _) => s.finish k (.fail stInterrupted) | none => s
  let s := ((s.axis a).queue).foldl (fun s c => s.finish c.slot (.fail stInterrupted)) s
  axisOff a (s.updAxis a fun x => { x with queue := [], enabling := none })

/-- The axes whose loops a fallback variant drops (R99, R307): queued commands complete WRONG_STATE as for an axis not used. -/
def axesDropped (s : State) : State :=
  (List.range s.axes).foldl (fun s a =>
    if !s.axisUsed a || s.axisRuns a then s else
    let s := ((s.axis a).queue).foldl (fun s c => s.finish c.slot (.fail stWrongState)) s
    axisInterrupt a (s.updAxis a fun x => { x with queue := [] })) s

/-- The Ridge stops (R100, R306): moves of axes with machines complete SAFETY_DEMAND, others INTERRUPTED; the axes hold, without
torque, and multipliers stop. -/
def axesStop (s : State) : State :=
  let s := (List.range s.axes).foldl (fun s a =>
    let x := s.axis a
    if x.mode = .disabled then s else
    let st := if (s.axisMachines a).isEmpty then stInterrupted else stSafetyDemand
    let s := if st = stInterrupted then moveInterrupted a s else s
    let s := endStops a (.fail st) (pathAbort a st (endMove a st s))
    let s := (s.axisMachines a).foldl (fun s m => s.updMachine m fun y => { y with demand := 0 }) s
    s.updAxis a fun x => { x with
      profile := none, gear := none, motion := .none, vcmd := 0, acmd := 0, torque := 0, prop := 0
      mode := if x.mode = .fault then .fault else .holding }) s
  rmStop s

/-! ### Commands -/

/-- AXIS_SAMPLE (R308). -/
def execAxisSample (dt axis : Nat) (s : State) : Out := .next (axisSample axis (s.elapse dt))
/-- FOLLOWING_ERROR_FAULT (R304). -/
def execFollowingErrorFault (dt axis : Nat) (s : State) : Out := .next (followDue axis (s.elapse dt))
/-- REMOTE_LOST (R304). -/
def execRemoteLost (dt axis : Nat) (s : State) : Out := .next (remoteDue axis (s.elapse dt))
/-- MOVE_IN_POSITION (R310). -/
def execMoveInPosition (dt axis : Nat) (s : State) : Out := .next (inPositionDue axis (s.elapse dt))
/-- GEAR_BROKEN (R328). -/
def execGearBroken (dt axis : Nat) (s : State) : Out := .next (gearDue axis (s.elapse dt))
/-- OBS_RESIDUAL (R375). -/
def execObsResidual (dt axis : Nat) (s : State) : Out := .next (obsDue axis (s.elapse dt))
/-- AXIS_ENABLE_REMOTE_TIMEOUT (R302). -/
def execAxisEnableRemoteTimeout (dt axis : Nat) (s : State) : Out := .next (remoteTimeout axis (s.elapse dt))
/-- RM_STEP_EMIT (R343). -/
def execRmStepEmit (dt rm : Nat) (s : State) : Out := .next (stepEmit rm (s.elapse dt))
/-- RM_STALE (R345). -/
def execRmStale (dt rm : Nat) (s : State) : Out := .next (rmStale rm (s.elapse dt))
/-- RM_STATUS_CLEAR (R346). -/
def execRmStatusClear (dt rm value : Nat) (s : State) : Out := .next (rmClear rm value (s.elapse dt))

end Sys2Proof.Machine
end

