-- ==== Sys2Proof/Machine/Can.lean ====
section
/-!
DEFINITION. Sys2Proof/Machine/Can.lean: the CAN FD controllers (R648 to R686): error states, receive buffers and their locks, transmission
and its ends, CAN_SEND, CAN_CANCEL and CAN_READ, the time-triggered reference, command segments, and the CANopen profiles.
-/
namespace Sys2Proof.Machine

/-! ### States and counters (R652 to R656) -/

/-- The codes of CAN_STATUS.STATE (R664). -/
def canCode : CanState → Nat
  | .off => 0
  | .active => 1
  | .busOff => 2
  | .sleep => 3

/-- Frames in a controller's pending or sending transmit buffers, with those that wait behind them, each with its buffer. -/
def CanSt.unsent (c : CanSt) : List (Nat × TxBuf) := (c.tx.filter fun e => decide (e.2.state ≠ .free)) ++ c.backlog

/-- The late CAN_CANCELs of a buffer complete (R670). -/
def cancelDone (t : TxBuf) (sent : Bool) (s : State) : State :=
  t.cancels.foldl (fun s k => s.finish k (.fail stCanStarted 0 ((if sent then 1 else 2) :: stampBytes t.sof))) s

/-- The outcome of a CAN_SEND whose frame was in buffer `b`, which its reply data name (R667). -/
def Res.ofBuffer (r : Res) (b : Nat) : Res :=
  match r with
  | .done o st d res _ => .done o st d res [b]
  | .pending => .pending

/-- Every transmission withdrawn, its CAN_SEND completed with `r` (R656, R672). -/
def canDrop (n : Nat) (r : Res) (s : State) : State :=
  let s := (s.ctl n).unsent.foldl (fun s e =>
    let s := match e.2.slot with | some k => s.finish k (r.ofBuffer e.1) | none => s
    cancelDone e.2 false s) s
  s.updCtl n fun c => { c with tx := [], backlog := [] }

/-- A controller becomes ACTIVE: counters at 0, the first reference message without VALID (R652, R675). -/
def canStart (n : Nat) (s : State) : State :=
  (s.updCtl n fun c => { c with
    state := .active, passive := false, txErrors := 0, rxErrors := 0, ttSentNs := none, ttLast := none, nmt := 0 }).arbitrate n

/-- A commit wrote CAN_ENABLE (R652, R656). Turning off withdraws what is pending with CANCELLED (DEDUCED,
notes/assumptions/50.md). -/
def canCommit (n : Nat) (s : State) : State :=
  if s.parN P.CAN_ENABLE n = 0 then
    (canDrop n (.fail stCancelled) s).updCtl n fun c => { c with state := .off, passive := false, cmdRx := none, ttSync := false }
  else if (s.ctl n).state = .off then canStart n (s.updCtl n fun c => { c with busOffs := [] })
  else s

/-- STANDBY or OFF is entered (R672, R677): what is pending completes CANCELLED; a controller that may wake the module sleeps. -/
def canStandby (standby : Bool) (s : State) : State :=
  (List.range 4).foldl (fun s n =>
    let s := canDrop n (.fail stCancelled) s
    let sleeps := standby && decide (s.parN P.CAN_WAKE_MODE n ≠ 0)
    s.updCtl n fun c => { c with state := if sleeps then .sleep else .off, passive := false, cmdRx := none, ttSync := false }) s

/-- A wake or a start (R678): controllers with CAN_ENABLE 1 are ACTIVE. -/
def canWakeAll (s : State) : State :=
  (List.range 4).foldl (fun s n => if s.parN P.CAN_ENABLE n = 1 then canStart n s else s.updCtl n fun c => { c with state := .off }) s

/-- The error counters after a frame (R653): CAN_STATE at a change between error active and error passive. -/
def canCounters (n tec rec : Nat) (s : State) : State :=
  let c := s.ctl n
  let p := decide (128 ≤ tec ∨ 128 ≤ rec)
  let s := s.updCtl n fun c => { c with txErrors := tec, rxErrors := rec, passive := p }
  if p = c.passive then s else s.report 0xC 1 1 (b1 n ++ b1 (b2n p) ++ b1 (satN 8 tec) ++ b1 (satN 8 rec))

/-- The bus-off entries of the last 60 s (R656). -/
def CanSt.recent (c : CanSt) (now : Nat) : List Nat := c.busOffs.filter fun t => decide (now < t + 60 * cyclesPerS)

/-- BUS_OFF is entered (R652, R655, R656): transmissions stay pending, unless the CAN_BUSOFF_MAX-th entry disables the controller. -/
def canBusOff (n : Nat) (s : State) : State :=
  let ts := (s.ctl n).recent s.tm.now ++ [s.tm.now]
  let m := s.parN P.CAN_BUSOFF_MAX n
  let s := (s.updCtl n fun c => { c with state := .busOff, busOffs := ts, passive := false }).report 0xC 2 2
    (b1 n ++ b1 (satN 8 ts.length))
  if m ≠ 0 ∧ m ≤ ts.length then
    let k := (s.ctl n).unsent.length
    ((canDrop n (.fail stHwFault 2) s).updCtl n fun c => { c with state := .off }).report 0xC 3 4 (b1 n ++ b1 k)
  else s

/-- CAN_RECOVERED (R654): the duration runs from the last entry. -/
def canRecovered (n : Nat) (s : State) : State :=
  let c := s.ctl n
  if c.state ≠ .busOff then s else
  let from_ := c.busOffs.getLastD s.tm.now
  (s.updCtl n fun c => { c with state := .active, txErrors := 0, rxErrors := 0, passive := false }).report 0xC 1 3
      (b1 n ++ b4 ((s.tm.now - from_) / cyclesPerUs)) |>.arbitrate n

/-! ### Receive buffers (R657 to R663) -/

/-- Word 0 of a frame without FULL (R659). -/
def rxWord0 (ident : Nat) (ext rtr : Bool) : Nat := ident % 2 ^ 29 + b2n rtr 29 + b2n ext 30

/-- A frame written to a mailbox (R659, R662): to a locked one it waits, and a second replaces it. -/
def boxWrite (n m : Nat) (f : RxFrame) (s : State) : State :=
  s.updCtl n fun c => { c with boxes := Store.upd {} c.boxes m fun b =>
    if b.lock.isNone then { b with frame := some f, seq := (b.seq + 1) % 256 }
    else { b with waiting := some f, overwritten := b.overwritten || b.waiting.isSome
                  overCount := if b.waiting.isSome then satN 16 (b.overCount + 1) else b.overCount } }

/-- A frame put in the receive FIFO, or counted as lost (R657, R662). The FIFO does not write a locked buffer: while its next one is locked
it is treated as full (DESIGN CHOICE, notes/assumptions/50.md). -/
def fifoWrite (n : Nat) (f : RxFrame) (s : State) : State :=
  s.updCtl n fun c =>
    let k := (c.fifoHead + c.fifoLevel) % 32
    if 32 ≤ c.fifoLevel || (Store.read {} c.fifo k).lock.isSome then { c with rxLost := satN 32 (c.rxLost + 1) } else
    { c with fifoLevel := c.fifoLevel + 1
             fifo := Store.upd {} c.fifo k fun b => { b with frame := some f, seq := (b.seq + 1) % 256 } }

/-- The FIFO filter of CAN_RXF that a frame matches (R658, R685), 0 to 7. -/
def State.fifoFilter (s : State) (n ident : Nat) (ext : Bool) : Option Nat :=
  (List.range 8).find? fun f =>
    let i := s.parN (P.CAN_RXF_ID_0 + 2 * f) n
    let m := s.parN (P.CAN_RXF_MASK_0 + 2 * f) n
    i.testBit 30 && decide (i.testBit 31 = ext) && decide (ident &&& m = i % 2 ^ 29 &&& m)

/-- The filter a frame matches (R658): 0 takes command frames to mailbox 0 (R674), 1 the reference message to mailbox 1; the other
filters of the firmware are not in the spec (DESIGN CHOICE, notes/assumptions/50.md). -/
def State.rxFilter (s : State) (n ident : Nat) (ext : Bool) : Option Nat :=
  if s.parN P.CAN_CMD_ID n ≠ 0 && !ext && decide (ident = s.parN P.CAN_CMD_ID n) then some 0
  else if s.parN P.CAN_TT_ROLE n ≠ 0 && !ext && decide (ident = s.parN P.CAN_TT_REF_ID n) then some 1
  else (s.fifoFilter n ident ext).map (· + 32)

/-- A REMOTE axis on controller `n` at a node (R681). -/
def State.canAxis (s : State) (n node : Nat) : Option Nat :=
  (List.range s.axes).find? fun a => decide (s.axisType a = 1 ∧ s.parN P.AX_REMOTE_LINK a = n + 1 ∧ s.parN P.AX_REMOTE_NODE a = node)

/-- An NMT command to the module's node or to all (R679). -/
def nmtCommand (n : Nat) (data : List Nat) (s : State) : State :=
  let node := data.getD 1 0
  if !(s.parN P.CAN_PROFILE n).testBit 0 || (node ≠ 0 && node ≠ s.parN P.CAN_NODE_ID n) then s else
  s.updCtl n fun c => match data.getD 0 0 with
    | 1 => { c with nmt := 5 }
    | 2 => { c with nmt := 4 }
    | 128 => { c with nmt := 127 }
    | 129 => { c with nmt := 0 }
    | 130 => { c with nmt := 0 }
    | _ => c

/-- A heartbeat of a consumed node in state operational (R684). -/
def heartbeat (n node st : Nat) (s : State) : State :=
  if st % 128 ≠ 5 || (s.canAxis n node).isNone then s else
  s.updCtl n fun c => { c with beats := Store.write 0 c.beats node (s.tm.now + 1), lostNodes := c.lostNodes.filter (· ≠ node) }

/-- A received frame (R648, R653, R658): to the target of its first filter; NMT commands and heartbeats go to the firmware too. -/
def canReceive (n : Nat) (f : CanFrame) (s : State) : State :=
  if (s.ctl n).state ≠ .active || (f.fd && s.parN P.CAN_MODE n = 0) then s else
  let s := canCounters n (s.ctl n).txErrors f.recErr s
  let data := if f.rtr then [] else f.data
  let x (flt : Nat) : RxFrame :=
    { word0 := rxWord0 f.ident f.ext f.rtr, fd := f.fd, brs := f.brs, esi := f.esi, filter := flt, ns := s.nsBack f.back, data := data }
  let s := match s.rxFilter n f.ident f.ext with
    | some 0 => boxWrite n 0 (x 0) s
    | some 1 => boxWrite n 1 (x 1) s
    | some k => fifoWrite n (x k) s
    | none => s
  if f.ext then s
  else if f.ident = 0 then nmtCommand n data s
  else if 0x700 < f.ident ∧ f.ident < 0x780 then heartbeat n (f.ident - 0x700) (data.getD 0 0) s
  else s

/-- A receive buffer of the controller: mailboxes 0 to 47, then FIFO buffers 0 to 31 (R657). -/
def CanSt.rx (c : CanSt) (b : Nat) : RxBuf := if b < 48 then Store.read {} c.boxes b else Store.read {} c.fifo (b - 48)

/-- The same rewritten. -/
def CanSt.updRx (c : CanSt) (b : Nat) (f : RxBuf → RxBuf) : CanSt :=
  if b < 48 then { c with boxes := Store.upd {} c.boxes b f } else { c with fifo := Store.upd {} c.fifo (b - 48) f }

/-- A read of word 0 by a master (R661): it locks the buffer, unless a lock is held. -/
def canLock (n b master : Nat) (s : State) : State :=
  if n < 4 ∧ b < 80 ∧ ((s.ctl n).rx b).lock.isNone then
    s.updCtl n fun c => c.updRx b fun x => { x with lock := some (master, s.tm.now), lockTimeout := false }
  else s

/-- The frame held for a mailbox is written (R662). -/
def RxBuf.settle (x : RxBuf) : RxBuf :=
  match x.waiting with
  | some f => { x with frame := some f, waiting := none, seq := (x.seq + 1) % 256 }
  | none => x

/-- A FIFO buffer freed: the head advances past it (R662). -/
def CanSt.freeFifo (c : CanSt) (k : Nat) : CanSt :=
  if k = c.fifoHead ∧ 0 < c.fifoLevel then { c with fifoHead := (k + 1) % 32, fifoLevel := c.fifoLevel - 1 } else c

/-- A read of word 23 by the master that holds the lock releases the buffer (R661, R662). -/
def canRelease (n b master : Nat) (s : State) : State :=
  match ((s.ctl n).rx b).lock with
  | some (m, _) =>
    if m ≠ master then s else
    s.updCtl n fun c =>
      let c := c.updRx b fun x => { x with lock := none, frame := none, overwritten := false }.settle
      if b < 48 then c else c.freeFifo (b - 48)
  | none => s

/-- A lock held for 100 µs is released by hardware (R663). -/
def canLockTimeout (n b : Nat) (s : State) : State :=
  match ((s.ctl n).rx b).lock with
  | some (m, t) =>
    if s.tm.now < t + 100 * cyclesPerUs then s else
    (s.updCtl n fun c => c.updRx b fun x => { x with lock := none, lockTimeout := true }.settle).report 0xC 2 6
      (b1 n ++ b1 b ++ b1 m)
  | none => s

/-! ### Transmission (R665 to R672) -/

/-- A buffer is free again; a firmware frame that waits for it moves in, and the controller looks for the next (R665). -/
def txFree (n b : Nat) (s : State) : State :=
  let s := s.updCtl n fun c =>
    match c.backlog.find? fun e => decide (e.1 = b) with
    | some e => { c.updTx b (fun _ => { e.2 with state := .pending }) with backlog := c.backlog.erase e }
    | none => c.updTx b fun _ => {}
  s.arbitrate n

/-- A transmission ends (R666, R668, R670): sent (0), arbitration lost (1) or error (2), with the error counters after it. -/
def txDone (n b result tec rec : Nat) (s : State) : State :=
  let t := Store.read {} (s.ctl n).tx b
  if (s.ctl n).state ≠ .active || t.state ≠ .sending then s else
  let s := canCounters n tec rec s
  let s := if result = 0 then
      let s := s.send (.can n t.ident t.ext t.fd t.brs t.data)
      let s := match t.slot with | some k => s.finishAt k t.sof (.ok [b]) | none => s
      let s := if b = 1 then s.updCtl n fun c => { c with ttSentNs := some t.sof } else s
      txFree n b (cancelDone t true s)
    else if t.cancels ≠ [] then
      let s := match t.slot with | some k => s.finish k (.fail stCancelled 0 [b]) | none => s
      txFree n b (cancelDone t false s)
    else
      let s := s.updCtl n fun c => c.updTx b fun t => { t with state := .pending }
      if tec > 255 then s else s.arbitrate n
  if tec > 255 ∧ result = 2 then
    canBusOff n (s.updCtl n fun c => { c with tx := Store.mapAll {} (fun _ (t : TxBuf) =>
      if t.state = TxState.sending then { t with state := TxState.pending } else t) c.tx })
  else s

/-- A pending frame's timeout passes (R668). -/
def sendTimeout (n b : Nat) (s : State) : State :=
  let t := Store.read {} (s.ctl n).tx b
  match t.state, t.deadline, t.slot with
  | .pending, some d, some k => if s.tm.now < d then s else txFree n b (s.finish k (.fail stHwFault 1 [b]))
  | _, _, _ => s

/-- The cycle count of the bus's present cycle (R669, R675, R676). -/
def CanSt.ttNow (c : CanSt) (role : Nat) : Nat :=
  if role = 1 then (c.ttCount + 63) % 64 else match c.ttLast with | some x => x.1 | none => 0

/-- A TT frame's time mark (R669): it enters arbitration in a matching cycle while the bus is idle. -/
def ttMark (n b : Nat) (busIdle : Bool) (s : State) : State :=
  let c := s.ctl n
  let t := Store.read {} c.tx b
  match t.state, t.tt with
  | .pending, some (mask, _) =>
    if busIdle && c.state = .active && c.idle && c.ttNow (s.parN P.CAN_TT_ROLE n) &&& mask = 0 then s.begin n b else s
  | _, _ => s

/-- The data lengths of classical CAN and CAN FD (R667). -/
def canLengths : List Nat := [0, 1, 2, 3, 4, 5, 6, 7, 8, 12, 16, 20, 24, 32, 48, 64]

/-- CAN_SEND (R667). A length above 8 without FD, a buffer outside 8 to 31 and 0xFF, and data of another length are PARAM_RANGE
(DEDUCED, notes/assumptions/50.md). -/
def cmdCanSend (c : Cmd) (s : State) : Res × State :=
  let n := c.target % 4096
  let x := s.ctl n
  let want := fld c.args 0 1
  let fl := fld c.args 1 1
  let len := fld c.args 6 1
  let fd := fl.testBit 0
  if x.state = .off ∨ x.state = .sleep then (.fail stWrongState, s) else
  let free := (List.range 24).map (· + 8) |>.filter fun b => decide ((Store.read {} x.tx b).state = .free)
  let pick := if want = 0xFF then free.head? else free.find? fun b => decide (b = want)
  let bad := !canLengths.contains len || ((fd || fl.testBit 1) && s.parN P.CAN_MODE n = 0) || (!fd && decide (8 < len)) ||
    (fl.testBit 3 && s.parN P.CAN_TT_ROLE n = 0) || (want ≠ 0xFF && !(decide (8 ≤ want ∧ want < 32))) ||
    decide (c.args.length ≠ 12 + len)
  match pick with
  | none => (.fail (if want = 0xFF ∨ (8 ≤ want ∧ want < 32) then stBusy else stParamRange), s)
  | some b =>
    if bad then (.fail stParamRange, s) else
    let ms := fld c.args 10 2
    let t : TxBuf :=
      { state := .pending, slot := some c.slot, ident := fld c.args 2 4 % (if fl.testBit 2 then 2 ^ 29 else 2 ^ 11)
        ext := fl.testBit 2, fd := fd, brs := fl.testBit 1
        tt := if fl.testBit 3 then some (fld c.args 7 1, fld c.args 8 2) else none
        data := c.args.drop 12, deadline := if ms = 0 then none else some (s.tm.now + ms * cyclesPerMs) }
    (.pending, (s.updCtl n fun x => x.updTx b fun _ => t).arbitrate n)

/-- CAN_CANCEL (R670). -/
def cmdCanCancel (c : Cmd) (s : State) : Res × State :=
  let n := c.target % 4096
  let b := fld c.args 0 1
  let t := Store.read {} (s.ctl n).tx b
  match t.state with
  | .free => (.ok, s)
  | .pending =>
    if b < 8 then (.fail stParamRange, s) else
    let s := match t.slot with | some k => s.finish k (.fail stCancelled 0 [b]) | none => s
    (.ok, txFree n b s)
  | .sending =>
    if b < 8 then (.fail stParamRange, s) else
    (.pending, s.updCtl n fun x => x.updTx b fun t => { t with cancels := t.cancels ++ [c.slot] })

/-- A FIFO frame as CAN_READ returns it (R673). -/
def rxRecord (x : RxBuf) (f : RxFrame) : List Nat :=
  le 4 (f.word0 + 2 ^ 31) ++
    le 4 (f.data.length + f.filter * 2 ^ 8 + b2n f.esi 21 + b2n f.brs 22 + b2n f.fd 23 + x.seq * 2 ^ 24) ++
    stampBytes f.ns ++ [0, 0] ++ f.data

/-- Frames from the head of the FIFO, at most `k` and within `room` bytes, each released (R673). A head buffer locked by a master stays
where it is. -/
def fifoTake (n : Nat) : Nat → Nat → State → List Nat × State
  | 0, _, s => ([], s)
  | k + 1, room, s =>
    let c := s.ctl n
    let x := Store.read {} c.fifo c.fifoHead
    match x.frame with
    | some f =>
      let bs := rxRecord x f
      if c.fifoLevel = 0 ∨ x.lock.isSome ∨ room < bs.length then ([], s) else
      let s := s.updCtl n fun c =>
        (c.updRx (48 + c.fifoHead) fun x => { x with frame := none, overwritten := false }).freeFifo c.fifoHead
      let (more, s) := fifoTake n k (room - bs.length) s
      (bs ++ more, s)
    | none => ([], s)

/-- CAN_READ (R673). -/
def cmdCanRead (c : Cmd) (s : State) : Res × State :=
  let k := fld c.args 0 1
  if k = 0 ∨ 32 < k then (.fail stParamRange, s) else
  let (bs, s) := fifoTake (c.target % 4096) k (replyRoom c.link (s.session c.session)) s
  (.ok bs, s)

/-! ### Command segments (R674) -/

/-- A command segment, also written to mailbox 0 and read from there: the bytes of the packet that it completes. A segment out of order
or of another TOGGLE, and a seventeenth, discard the packet under construction. -/
def cmdSegment (n : Nat) (data : List Nat) (back : Nat) (s : State) : Option (List Nat) × State :=
  let c := s.ctl n
  if c.state ≠ .active || s.parN P.CAN_CMD_ID n = 0 || data.length ≠ 64 then (none, s) else
  let s := boxWrite n 0 { word0 := s.parN P.CAN_CMD_ID n, fd := true, brs := true, esi := false, filter := 0, ns := s.nsBack back, data := data } s
  let s := s.updCtl n fun c => c.updRx 0 fun x => if x.lock.isNone then { x with frame := none } else x
  let h := data.headD 0
  let k := h % 64
  let tg := h.testBit 7
  let start : Option (List Nat × Nat) := if k = 0 then some ([], s.tm.now) else
    match c.cmdRx with
    | some (bs, next, t, from_) => if next = k ∧ t = tg ∧ k < 16 then some (bs, from_) else none
    | none => none
  match start with
  | none => (none, s.updCtl n fun c => { c with cmdRx := none })
  | some (bs, from_) =>
    let bs := bs ++ data.drop 1
    if h.testBit 6 then (some bs, s.updCtl n fun c => { c with cmdRx := none })
    else (none, s.updCtl n fun c => { c with cmdRx := some (bs, k + 1, tg, from_) })

/-- A partial packet is discarded after 100 ms (R674). -/
def segmentTimeout (n : Nat) (s : State) : State :=
  match (s.ctl n).cmdRx with
  | some (_, _, _, from_) => if s.tm.now < from_ + 100 * cyclesPerMs then s else s.updCtl n fun c => { c with cmdRx := none }
  | none => s

/-! ### Time-triggered reference (R675, R676) -/

/-- The time master sends the reference message from transmit buffer 1 (R675). -/
def ttSend (n : Nat) (s : State) : State :=
  let c := s.ctl n
  if c.state ≠ .active || s.parN P.CAN_TT_ROLE n ≠ 1 then s else
  let prev := (c.ttCount + 63) % 64
  let data := [c.ttCount, prev + b2n c.ttSentNs.isSome 7] ++ (match c.ttSentNs with | some x => stampBytes x | none => padTo 10 [])
  let s := s.updCtl n fun c => { c.updTx 1 (fun t => if t.state = TxState.sending then t else {}) with
    ttCount := (c.ttCount + 1) % 64, ttSentNs := none }
  s.canPost n 1 { ident := s.parN P.CAN_TT_REF_ID n, fd := true, brs := true, data := data }

/-- A reference message at a time slave (R676): the offset to the servo, and the mailbox of filter 1. -/
def ttReceive (n : Nat) (data : List Nat) (back : Nat) (s : State) : State :=
  let c := s.ctl n
  if c.state ≠ .active || s.parN P.CAN_TT_ROLE n ≠ 2 then s else
  let ns := s.nsBack back
  let s := boxWrite n 1 { word0 := s.parN P.CAN_TT_REF_ID n, fd := true, brs := true, esi := false, filter := 1, ns := ns, data := data } s
  let valid := (data.getD 1 0).testBit 7
  let prev := data.getD 1 0 % 64
  let offset : Option Int := match c.ttLast, ofStamp (data.drop 2) with
    | some (k, l), some m => if valid && k = prev then some ((l : Int) - m - s.par P.CAN_TT_DELAY n) else none
    | _, _ => none
  let s := s.updCtl n fun c => { c with
    ttLast := some (data.getD 0 0 % 64, ns), ttSync := if valid then true else c.ttSync, ttFrom := if valid then s.tm.now else c.ttFrom }
  match offset with
  | some o => if s.parN P.TIM_CAN_CTRL 0 = n then (measure 2 o s).1 else s
  | none => s

/-- No valid reference message for two cycles (R676). -/
def ttLost (n : Nat) (s : State) : State :=
  let c := s.ctl n
  if !c.ttSync || decide (s.tm.now < c.ttFrom + 2 * s.parN P.CAN_TT_CYCLE n * cyclesPerUs) then s else
  (s.updCtl n fun c => { c with ttSync := false, ttLast := none }).report 0xC 2 8 (b1 n ++ b1 (c.ttNow 2))

/-! ### CANopen (R679 to R684) -/

/-- A classical frame of the firmware's profiles from transmit buffer `b`. -/
def canopen (n b ident : Nat) (data : List Nat) (s : State) : State := s.canPost n b { ident := ident, data := data }

/-- The CiA 402 controlword of a remote axis (R681): enable operation, halt, fault reset, and in PP a new setpoint. -/
def State.controlword (s : State) (a : Nat) : Nat :=
  let c := (s.setpoint a).1
  let x := s.axis a
  (if c.testBit 0 then 0xF else 0x6) + b2n (s.inPP a && x.ppNew) 4 + b2n (c.testBit 2) 7 + b2n (c.testBit 1) 8

/-- The target position on CAN (R681): whole pu, rounded half up, saturated to 32 bits. -/
def wholePu (p : Int) : Int := satI 32 ((p + 32768) / 65536)

/-- The SDO downloads of a PP drive's limits (R339, R681): 0x6081, 0x6083 and 0x6084. -/
def ppLimits (n a : Nat) (s : State) : State :=
  let l := s.activeLimits a
  let node := s.parN P.AX_REMOTE_NODE a
  [(0x6081, l.v), (0x6083, l.a), (0x6084, l.d)].foldl (fun s e =>
    canopen n 6 (0x600 + node) ([0x23] ++ le 2 e.1 ++ [0] ++ le 4 e.2) s) s

/-- SYNC and the RPDOs at frame cycle S (R682); a PP drive gets its RPDO there too, with its limits before a new setpoint (DESIGN CHOICE,
notes/assumptions/50.md). -/
def syncSend (n : Nat) (s : State) : State :=
  if (s.ctl n).state ≠ .active || !(s.parN P.CAN_PROFILE n).testBit 2 || !s.framesRun then s else
  let as := (List.range s.axes).filter fun a =>
    s.axisRuns a && decide (s.axisType a = 1 ∧ s.parN P.AX_REMOTE_LINK a = n + 1 ∧ (s.axis a).sampled = some s.rg.frameStart)
  if as = [] then s else
  as.foldl (fun s a =>
    let s := if s.inPP a && (s.axis a).ppNew then ppLimits n a s else s
    let p := (s.setpoint a).2.1
    let s := canopen n 3 (0x200 + s.parN P.AX_REMOTE_NODE a) (le 2 (s.controlword a) ++ leI 4 (wholePu p)) s
    if s.inPP a then s.updAxis a fun x => { x with ppNew := false } else setpointSent a s.rg.frame s) (canopen n 2 0x80 [] s)

/-- A drive's TPDO (R682): statusword and position; the velocity is the position's difference over a sample period (DEDUCED,
notes/assumptions/50.md). -/
def tpdo (n node status : Nat) (pos : Int) (s : State) : State :=
  if (s.ctl n).state ≠ .active then s else
  let old := Store.read (0 : Int) (s.ctl n).position node
  let s := s.updCtl n fun c => { c with status := Store.write 0 c.status node status, position := Store.write 0 c.position node pos }
  match s.canAxis n node with
  | none => s
  | some a =>
    if !s.inPP a && !s.replyInTime a then s else
    let vel := if s.axisCycles a = 0 then 0 else satI 32 (roundRat (((pos - old : Int) : Rat) / s.axisT a))
    let cyc := match (s.axis a).sentPos with | e :: _ => e.1 | [] => 0
    remoteReply a cyc (pos * 65536) vel (status.testBit 2) (status.testBit 3) (s.axis a).driveCode (status.testBit 10) s

/-- A consumed heartbeat is missing (R684): a REMOTE axis on the node acts as remote lost. -/
def hbLost (n node : Nat) (s : State) : State :=
  let c := s.ctl n
  let b := Store.read 0 c.beats node
  if c.state ≠ .active || s.parN P.CAN_HB_TIME n = 0 || b = 0 || c.lostNodes.contains node ||
      decide (2 * s.tm.now < 2 * (b - 1) + 3 * s.parN P.CAN_HB_TIME n * cyclesPerMs) then s else
  let s := (s.updCtl n fun c => { c with lostNodes := c.lostNodes ++ [node] }).report 0xC 3 9 (b1 n ++ b1 node)
  match s.canAxis n node with
  | some a => axisFault a 4 s
  | none => s

/-- An emergency message (R679, R681): a REMOTE axis keeps the code. -/
def emcy (n node code reg : Nat) (s : State) : State :=
  if (s.ctl n).state ≠ .active then s else
  let s := s.report 0xC 2 0xA (b1 n ++ b1 node ++ b2 code ++ b1 reg)
  match s.canAxis n node with
  | some a => s.updAxis a fun x => { x with driveCode := code }
  | none => s

/-- The heartbeat producer (R679): boot-up once, then the NMT state, pre-operational after boot. -/
def hbSend (n : Nat) (s : State) : State :=
  let c := s.ctl n
  if c.state ≠ .active || s.parN P.CAN_PROFILE n = 0 || s.parN P.CAN_HB_TIME n = 0 then s else
  let s := canopen n 5 (0x700 + s.parN P.CAN_NODE_ID n) [c.nmt] s
  s.updCtl n fun c => if c.nmt = 0 then { c with nmt := 127 } else c

/-- A door controller's status (R680). -/
def door (n d st : Nat) (s : State) : State :=
  if (s.ctl n).state ≠ .active || !(s.parN P.CAN_PROFILE n).testBit 1 || decide (4 ≤ d) then s else
  (s.updCtl n fun c => { c with doors := Store.write 0 c.doors d st }).report 0xC 0 0xB (b1 n ++ b1 d ++ b1 st)

/-- An object of the server's dictionary (R679): its value, `none` for one that does not exist. Contents that the spec does not give are
free values. -/
def State.sdoObject (s : State) (n index sub : Nat) : Option (Nat × State) :=
  let v (x : Nat) : Option (Nat × State) := some (x % 2 ^ 32, s)
  let free : Option (Nat × State) := some (s.take (2 ^ 32))
  let node := s.parN P.CAN_NODE_ID n
  match index, sub with
  | 0x1000, 0 => free
  | 0x1001, 0 => v (b2n (s.pw.fault ≠ 0))
  | 0x1005, 0 => v 0x80
  | 0x1006, 0 => free
  | 0x1014, 0 => v (0x80 + node)
  | 0x1016, 0 => v 8
  | 0x1017, 0 => v (s.parN P.CAN_HB_TIME n)
  | 0x1018, 0 => v 4
  | 0x1018, 1 => free
  | 0x1018, 2 => v s.part
  | 0x1018, 3 => v s.stepping
  | 0x1018, 4 => v Config.serial
  | 0x1019, 0 => v 0
  | _, _ =>
    if (0x1400 ≤ index ∧ index ≤ 0x1407) ∨ (0x1600 ≤ index ∧ index ≤ 0x1607) ∨ (0x1800 ≤ index ∧ index ≤ 0x1807) ∨
        (0x1A00 ≤ index ∧ index ≤ 0x1A07) ∨ (index = 0x1016 ∧ 1 ≤ sub ∧ sub ≤ 8) then free else none

/-- An SDO abort. -/
def sdoAbort (data : List Nat) (code : Nat) : List Nat := 0x80 :: (sub data 1 3 ++ le 4 code)

/-- The SDO server (R679): expedited uploads; the objects are read-only. -/
def sdoServe (n : Nat) (data : List Nat) (s : State) : State :=
  let c := s.ctl n
  if c.state ≠ .active || s.parN P.CAN_PROFILE n = 0 || c.nmt = 4 || data.length ≠ 8 then s else
  let ccs := data.headD 0 / 32
  let index := fld data 1 2
  let (reply, s) := match s.sdoObject n index (data.getD 3 0) with
    | none => (sdoAbort data (if ccs = 1 ∨ ccs = 2 then 0x06020000 else 0x05040001), s)
    | some (v, s') =>
      if ccs = 2 then ([0x43] ++ sub data 1 3 ++ le 4 v, s')
      else (sdoAbort data (if ccs = 1 then 0x06010002 else 0x05040001), s)
  canopen n 4 (0x580 + s.parN P.CAN_NODE_ID n) reply s

/-! ### Commands -/

/-- CAN_FRAME_RX (R658). -/
def execCanFrameRx (dt ctrl : Nat) (frame : CanFrame) (s : State) : Out := .next (canReceive ctrl frame (s.elapse dt))
/-- CAN_BUFFER_LOCK (R661). -/
def execCanBufferLock (dt ctrl buffer master : Nat) (s : State) : Out := .next (canLock ctrl buffer master (s.elapse dt))
/-- CAN_BUFFER_RELEASE (R662). -/
def execCanBufferRelease (dt ctrl buffer master : Nat) (s : State) : Out := .next (canRelease ctrl buffer master (s.elapse dt))
/-- CAN_LOCK_TIMEOUT (R663). -/
def execCanLockTimeout (dt ctrl buffer : Nat) (s : State) : Out := .next (canLockTimeout ctrl buffer (s.elapse dt))
/-- CAN_FRAME_TX_DONE (R666). -/
def execCanFrameTxDone (dt ctrl buffer result tec recErr : Nat) (s : State) : Out := .next (txDone ctrl buffer result tec recErr (s.elapse dt))
/-- CAN_SEND_TIMEOUT (R668). -/
def execCanSendTimeout (dt ctrl buffer : Nat) (s : State) : Out := .next (sendTimeout ctrl buffer (s.elapse dt))
/-- CAN_TT_TIME_MARK (R669). -/
def execCanTtTimeMark (dt ctrl buffer : Nat) (busIdle : Bool) (s : State) : Out := .next (ttMark ctrl buffer busIdle (s.elapse dt))
/-- CAN_RECOVERED (R654). -/
def execCanRecovered (dt ctrl : Nat) (s : State) : Out := .next (canRecovered ctrl (s.elapse dt))
/-- CAN_CMD_PARTIAL_TIMEOUT (R674). -/
def execCanCmdPartialTimeout (dt ctrl : Nat) (s : State) : Out := .next (segmentTimeout ctrl (s.elapse dt))
/-- CAN_TT_REFERENCE_SEND (R675). -/
def execCanTtReferenceSend (dt ctrl : Nat) (s : State) : Out := .next (ttSend ctrl (s.elapse dt))
/-- CAN_TT_REFERENCE_RX (R676). -/
def execCanTtReferenceRx (dt ctrl : Nat) (data : List Nat) (back : Nat) (s : State) : Out :=
  .next (ttReceive ctrl data back (s.elapse dt))
/-- CAN_TT_REF_LOST (R676). -/
def execCanTtRefLost (dt ctrl : Nat) (s : State) : Out := .next (ttLost ctrl (s.elapse dt))
/-- CANOPEN_SYNC_SEND (R682). -/
def execCanopenSyncSend (dt ctrl : Nat) (s : State) : Out := .next (syncSend ctrl (s.elapse dt))
/-- CANOPEN_TPDO (R682). -/
def execCanopenTpdo (dt ctrl node status : Nat) (pos : Int) (s : State) : Out := .next (tpdo ctrl node status pos (s.elapse dt))
/-- CANOPEN_HB_LOST (R684). -/
def execCanopenHbLost (dt ctrl node : Nat) (s : State) : Out := .next (hbLost ctrl node (s.elapse dt))
/-- CANOPEN_SDO_REQUEST (R679). -/
def execCanopenSdoRequest (dt ctrl : Nat) (data : List Nat) (s : State) : Out := .next (sdoServe ctrl data (s.elapse dt))
/-- CANOPEN_EMCY (R679). -/
def execCanopenEmcy (dt ctrl node code reg : Nat) (s : State) : Out := .next (emcy ctrl node code reg (s.elapse dt))
/-- CANOPEN_HEARTBEAT_SEND (R679). -/
def execCanopenHeartbeatSend (dt ctrl : Nat) (s : State) : Out := .next (hbSend ctrl (s.elapse dt))
/-- CANOPEN_DOOR (R680). -/
def execCanopenDoor (dt ctrl door state : Nat) (s : State) : Out := .next (Sys2Proof.Machine.door ctrl door state (s.elapse dt))

end Sys2Proof.Machine
end

