-- ==== Sys2Proof/Machine/Feedback.lean ====
section
/-!
DEFINITION. Sys2Proof/Machine/Feedback.lean: the feedback front end (chapter 6): counting, index events, Hall and serial modes,
snapshots with their speeds, faults and their clearing, compare lists on the EVT pins, and latches.
-/
namespace Sys2Proof.Machine

/-! ### Channels (R246, R247, R275, R456) -/

/-- A channel that the safety configuration designates (R456). -/
def State.designated (s : State) (c : Nat) : Bool := (s.parN P.SAF_FB_MASK 0).testBit c

/-- The mode of a channel (R246). -/
def State.fbMode (s : State) (c : Nat) : Nat := s.parN P.FB_MODE c

/-- A serial channel. -/
def State.fbSerial (s : State) (c : Nat) : Bool := decide (s.fbMode c = 3 ∨ s.fbMode c = 4)

/-- A channel counts: it exists, the module is not held in reset, and STANDBY or OFF has not stopped it (R247, R275). -/
def State.counting (s : State) (c : Nat) : Bool :=
  decide (c < s.channels) && !s.pw.held && !s.pw.pllLost && decide (s.pw.state ≠ .off) && !(s.chan c).stopped

/-- A count wrapped to 32 bits (R247). -/
def wrap32 (i : Int) : Int := sx 32 (tc 32 i)

/-- CH_STATUS (R273). -/
def State.chStatus (s : State) (c : Nat) : Nat :=
  let f := s.chan c
  let mode := s.fbMode c
  let src := if mode = 0 ∨ f.fault ≠ 0 then 0 else match f.source with | .none => 0 | .timing => 1 | .bound => 2 | .count => 3
  (if mode = 2 then f.hall * 65536 else 0) + b2n f.warn 10 + b2n f.crcErr 9 + b2n f.age 8 + b2n f.indexSeen 6 +
    b2n f.dirNeg 5 + b2n f.moving 4 + src * 4 + b2n f.posValid 1 + b2n (decide (f.fault ≠ 0))

/-! ### Faults (R274, R276, R278) -/

/-- POS_VALID clears, with FB_POS_INVALID (R274, R295). -/
def posInvalid (c cause : Nat) (s : State) : State :=
  if (s.chan c).posValid then (s.updChan c fun f => { f with posValid := false }).report 5 2 5 (b1 c ++ b1 cause) else s

/-- A cause of FB_FAULT latches (R276), with FB_FAULT_SET. -/
def fbFault (c bit : Nat) (s : State) : State :=
  if (s.chan c).fault.testBit bit then s else
  let s := s.updChan c fun f => { f with fault := setBitN f.fault bit true }
  s.report 5 3 1 (b1 c ++ b2 (s.chan c).fault ++ leI 4 (s.chan c).count ++ b4 (compact s.ns))

/-- The causes present now (R276). -/
def State.fbPresent (s : State) (c : Nat) : Nat :=
  let f := s.chan c
  f.present + b2n (s.fbMode c = 2 && f.hallKnown && decide (f.hall = 0 ∨ f.hall = 7)) 2 +
    b2n (match f.illegalAt with | t :: _ => decide (s.tm.now ≤ t + cyclesPerMs) | [] => false)

/-- A live write of 1 to FB_FAULT_CLEAR at its frame start: the status it completes with (R278). -/
def fbClear (c : Nat) (s : State) : Nat × State :=
  let f := s.chan c
  let bad := s.fbPresent c &&& f.fault
  if bad ≠ 0 then (stWrongState, s.report 5 1 3 (b1 c ++ b2 bad))
  else if f.fault = 0 then (stOk, s)
  else (stOk, (s.updChan c fun f => { f with fault := 0 }).report 5 1 2 (b1 c ++ b2 f.fault))

/-! ### Compare outputs (R282 to R284) -/

/-- The level a pin shows as a compare output. -/
def State.pinLevel (s : State) (p : Nat) : Bool :=
  match (s.evt p).level with
  | some l => l
  | none => decide (s.parN P.CMP_EVT_IDLE p = 1)

/-- An action on a pin (R283, R284). -/
def pinAct (pin action len : Nat) (s : State) : State :=
  if s.parN P.CMP_EVT_FUNC pin ≠ 1 then s else
  let idle := decide (s.parN P.CMP_EVT_IDLE pin = 1)
  match action with
  | 0 => s.updEvt pin fun e => { e with level := some !idle, pulseTo := some (match e.pulseTo with
      | some t => max t (s.tm.now + len)
      | none => s.tm.now + len) }
  | 1 => s.updEvt pin fun e => { e with level := some true, pulseTo := none }
  | 2 => s.updEvt pin fun e => { e with level := some false, pulseTo := none }
  | _ =>
    let l := s.pinLevel pin
    s.updEvt pin fun e => { e with level := some !l, pulseTo := none }

/-- A compare pulse ends: the pin returns to CMP_EVT_IDLE (R283). -/
def pulseEnd (pin : Nat) (s : State) : State :=
  match (s.evt pin).pulseTo with
  | some t => if s.tm.now < t then s
              else s.updEvt pin fun e => { e with level := some (decide (s.parN P.CMP_EVT_IDLE pin = 1)), pulseTo := none }
  | none => s

/-- A pin takes the function that the parameters give it (R284, R294). -/
def pinRefresh (pin : Nat) (s : State) : State :=
  if s.parN P.CMP_EVT_FUNC pin = 1 then
    (if (s.evt pin).pulseTo.isSome then s
     else s.updEvt pin fun e => { e with level := some (decide (s.parN P.CMP_EVT_IDLE pin = 1)) })
  else s.updEvt pin fun e => { e with level := none, pulseTo := none }

/-- Entry `i` of channel `c` fires (R282). -/
def cmpFire (c i : Nat) (s : State) : State :=
  let e := Store.read {} (s.chan c).cmp i
  pinAct e.pin e.action (s.parN P.CMP_PULSE c) (s.updChan c fun f => { f with
    cmp := Store.upd {} f.cmp i fun e => { e with state := .fired, stamp := compact s.ns } })

/-- The armed entries that the step from `old` to `new` reaches fire, in ascending order (R282): on a counted edge those equal to
the new count, on a serial transfer those passed or reached. -/
def cmpFires (c : Nat) (old new : Int) (up serial : Bool) (s : State) : State :=
  (List.range 16).foldl (fun s i =>
    let e := Store.read {} (s.chan c).cmp i
    let dir := if up then e.qual % 2 = 1 else 2 ≤ e.qual
    let hit := if serial then (if up then old < e.position ∧ e.position ≤ new else new ≤ e.position ∧ e.position < old)
               else e.position = new
    if e.state = .armed ∧ dir ∧ hit then cmpFire c i s else s) s

/-- A load takes effect: entries behind are passed at once, and COMPARE_LOAD completes with the mask of passed entries
(R280, R281). -/
def cmpApply (c : Nat) (l : CmpLoad) (s : State) : State :=
  let f := s.chan c
  let moving := if s.framesRun then f.moving else
    match f.lastAt with
    | some t => decide (s.tm.now ≤ t + s.parN P.FB_SPEED_TMAX c * cyclesPerUs)
    | none => false
  let behind (e : CompareEntry) : Bool :=
    let side := wrap32 (e.position - f.count)
    decide (e.qual ≠ 0) && (decide (side = 0) || (moving && decide (if f.dirNeg then 0 < side else side < 0)))
  let cmp : Store CmpSt := ((l.entries.zip (List.range 16)).map fun p =>
    (p.2, ({ position := p.1.position, qual := p.1.qual, pin := p.1.pin, action := p.1.action
             state := if p.1.qual = 0 then .empty else if behind p.1 then .passed else .armed } : CmpSt))).filter
    fun p => decide (p.2 ≠ {})
  let mask : Nat := (l.entries.zip (List.range 16)).foldl (fun (n : Nat) p => if behind p.1 then n + 2 ^ p.2 else n) 0
  (s.updChan c fun f => { f with cmp := cmp }).finish l.slot (.fail (if mask = 0 then stOk else stComparePassed) 0 (le 2 mask))

/-- The loads of a channel whose instant has come take effect (R280). -/
def cmpDue (c : Nat) (s : State) : State :=
  let now := s.tm.now
  let isDue (l : CmpLoad) : Bool := match l.due with | some t => decide (t ≤ now) | none => false
  if !(s.chan c).loads.any isDue then s else
  let due := (s.chan c).loads.filter isDue
  due.foldl (fun s l => cmpApply c l s) (s.updChan c fun f => { f with loads := f.loads.filter fun l => !isDue l })

/-- The same for every channel. -/
def cmpDueAll (s : State) : State := (List.range s.channels).foldl (fun s c => cmpDue c s) s

/-- A frame start takes the loads accepted before it, for its frame cycle 16 (R280). -/
def cmpFrame (s : State) : State :=
  let s := cmpDueAll s
  let t := s.rg.frameStart + 16
  { s with fb := Store.mapAll {} (fun _ (f : FbSt) => { f with
      loads := f.loads.map fun l => { l with due := if l.due.isSome then l.due else some t } }) s.fb }

/-- Bytes 8 i to 8 i + 7 of COMPARE_LOAD (R279). -/
def parseCompare : Nat → List Nat → List CompareEntry
  | 0, _ => []
  | n + 1, bs => { position := fldI bs 0 4, qual := fld bs 4 1, pin := fld bs 5 1, action := fld bs 6 1,
                   reserved := fld bs 7 1 } :: parseCompare n (bs.drop 8)

/-- COMPARE_LOAD (R280, R281). -/
def cmdCompareLoad (c : Cmd) (s : State) : Res × State :=
  let ch := c.target % 4096
  let es := parseCompare (c.args.length / 8) c.args
  if es.any fun e => decide (4 ≤ e.qual ∨ 15 < e.pin ∨ 3 < e.action ∨ e.reserved ≠ 0) then (.fail stParamRange, s)
  else
    let l : CmpLoad := { slot := c.slot, entries := es, due := if s.framesRun then none else some s.tm.now }
    (.pending, s.updChan ch fun f => { f with loads := f.loads ++ [l] })

/-! ### Counted edges (R250 to R258, R267, R268) -/

/-- A counted edge (R268): the count, the edges L and R, reversal, and the compare entries. -/
def countedEdge (c : Nat) (up : Bool) (s : State) : State :=
  let s := cmpDue c s
  if !s.counting c then s else
  let up := if s.parN P.FB_DIR_INVERT c = 1 then !up else up
  let f := s.chan c
  let n := wrap32 (f.count + (if up then 1 else -1))
  let back := s.parN P.FB_GLITCH c + 3
  let e : Edge := { count := n, ns := s.nsBack back }
  let reversed := decide (f.last.isSome) && (f.dirNeg != !up)
  cmpFires c f.count n up false (s.updChan c fun f => { f with
    count := n, last := some e, ref := if f.ref.isNone || reversed then some e else f.ref
    dirNeg := !up, edged := true, epochOk := true, lastAt := some (s.tm.now - back)
    indexPrev := if reversed then none else f.indexPrev })

/-- An illegal transition (R251, R252). -/
def illegalStep (c : Nat) (s : State) : State :=
  if !s.counting c then s else
  let f := s.chan c
  let ts := (s.tm.now :: f.illegalAt).take 3
  let s := s.updChan c fun f => { f with illegal := satN 16 (f.illegal + 1), illegalAt := ts, ref := none }
  match ts with
  | [_, _, t] => if s.tm.now ≤ t + cyclesPerMs then loseContinuity c (posInvalid c 1 (fbFault c 0 s)) else s
  | _ => s

/-- The count of a channel set by a shift that leaves its speed alone (R254). -/
def shiftCount (c : Nat) (d : Int) (s : State) : State :=
  let e (x : Edge) : Edge := { x with count := wrap32 (x.count + d) }
  s.updChan c fun f => { f with
    count := wrap32 (f.count + d), last := f.last.map e, ref := f.ref.map e, history := f.history.map fun h => wrap32 (h + d) }

/-- An index event (R253 to R255). -/
def indexEvent (c : Nat) (gate : Bool) (s : State) : State :=
  if !s.counting c || s.fbMode c ≠ 1 || (s.parN P.FB_INDEX_GATE c = 1 && !gate) then s else
  let mode := s.parN P.FB_INDEX_MODE c
  let s := s.updChan c fun f => { f with indexSeen := true }
  if mode = 0 then s else
  let f := s.chan c
  let s := s.updChan c fun g => { g with
    indexCount := f.count, indexStamp := compact (s.nsBack (s.parN P.FB_GLITCH c + 3)), indexPrev := some f.count
    indexEvents := g.indexEvents + 1 }
  match mode, f.indexPrev with
  | 2, _ =>
    if f.indexSet then
      (shiftCount c (s.par P.FB_INDEX_VALUE c - f.count) s).updChan c fun f => { f with
        indexSet := false, posValid := true, indexPrev := some f.count }
    else s
  | 3, some p =>
    let d : Int := (wrap32 (f.count - p)).natAbs - (s.parN P.FB_COUNTS_REV c : Int)
    if s.parN P.FB_INDEX_TOL c < d.natAbs then loseContinuity c (posInvalid c 2 (fbFault c 1 s)) else s
  | _, _ => s

/-- The code after `h` in the forward sequence 1, 3, 2, 6, 4, 5 (R256). -/
def hallNext (h : Nat) : Nat :=
  match h with | 1 => 3 | 3 => 2 | 2 => 6 | 6 => 4 | 4 => 5 | 5 => 1 | _ => 8

/-- A change of the Hall code (R256); the first code seen only starts the sequence. -/
def hallChange (c code : Nat) (s : State) : State :=
  let code := code % 8
  let f := s.chan c
  if !s.counting c || s.fbMode c ≠ 2 || (f.hallKnown && decide (f.hall = code)) then s else
  let s := s.updChan c fun f => { f with hall := code, hallKnown := true }
  if !f.hallKnown then s
  else if hallNext f.hall = code then countedEdge c true s
  else if hallNext code = f.hall then countedEdge c false s
  else illegalStep c s

/-- A step edge (R258). -/
def stepEdge (c : Nat) (dirHigh dirChanged : Bool) (s : State) : State :=
  if s.fbMode c ≠ 5 then s else if dirChanged then illegalStep c s else countedEdge c dirHigh s

/-! ### Snapshots (R257, R266, R269 to R273, R807) -/

/-- The speed of a snapshot at valley `ns` with `len` cycles to the frame (R269, R543, R807). -/
def State.speedOf (s : State) (c ns len : Nat) : Rat × SpeedSource × Option Edge :=
  let f := s.chan c
  let tmax := s.parN P.FB_SPEED_TMAX c * 1000
  let w := min (s.parN P.FB_SPEED_FRAMES c) f.history.length
  let count : Rat := if w = 0 then 0 else
    (wrap32 (f.count - f.history.getD (w - 1) 0) : Rat) * cyclesPerS / (w * len : Nat)
  let byCount : Rat × SpeedSource × Option Edge := (count, .count, if f.edged && f.ref.isSome then f.last else f.ref)
  if s.fbSerial c then (count, .count, f.ref) else
  match f.edged, f.last, f.ref with
  | true, some l, some r =>
    let dt := (l.ns + 2 ^ 32 - r.ns % 2 ^ 32) % 2 ^ 32
    if l ≠ r ∧ 0 < dt ∧ dt ≤ tmax ∧ f.epochOk then ((wrap32 (l.count - r.count) : Rat) * nsPerS / dt, .timing, some l)
    else byCount
  | false, some l, r =>
    let dt := (ns + 2 ^ 32 - l.ns % 2 ^ 32) % 2 ^ 32
    if (f.source = .timing ∨ f.source = .bound) ∧ f.epochOk ∧ 0 < dt ∧ dt ≤ tmax then
      let lim : Rat := (nsPerS : Rat) / dt
      ((if f.exact < 0 then (if f.exact < -lim then -lim else f.exact) else (if lim < f.exact then lim else f.exact)),
        .bound, r)
    else byCount
  | _, _, _ => byCount

/-- SPEED as the snapshot holds it (R270). -/
def State.speedReg (s : State) (c : Nat) : Int :=
  let f := s.chan c
  if s.fbMode c = 0 ∨ f.fault ≠ 0 then 0 else satI 32 (roundAway (16 * f.exact))

/-- The words of the snapshot rebuilt (R272). -/
def snapWords (c ns : Nat) (s : State) : State :=
  let f := s.chan c
  let (lc, ln) : Int × Nat := match f.last with | some l => (l.count, compact l.ns) | none => (0, 0)
  let sp := s.speedReg c
  s.updChan c fun f => { f with
    speed := sp, snapNs := ns
    snap := [tc 32 f.count, tc 32 lc, ln, tc 32 sp, tc 32 f.indexCount, compact ns, s.chStatus c, f.fault] }

/-- The count enters the history and the speed is computed (R269, R807). -/
def snapSpeed (c ns len : Nat) (s : State) : State :=
  let (v, src, r) := s.speedOf c ns len
  s.updChan c fun f => { f with exact := v, source := src, ref := r, edged := false, history := (f.count :: f.history).take 64 }

/-- The snapshot of a channel (R271); in OFF mode SPEED is 0 (R270). On a serial channel while frames run the count enters at FB_SER_READY (R265, R266). -/
def snapshotOne (c ns len : Nat) (slow : Bool) (s : State) : State :=
  let f := s.chan c
  if f.stopped then s else
  let tm := s.parN P.FB_SPEED_TMAX c * cyclesPerUs
  let moving := match f.lastAt with | some t => decide (s.tm.now ≤ t + tm) | none => false
  let bad := decide (s.fbMode c = 2 ∧ f.hallKnown ∧ (f.hall = 0 ∨ f.hall = 7))
  let s := s.updChan c fun f => { f with
    moving := moving, hallBad := bad, history := if f.slowPace = slow then f.history else [], slowPace := slow }
  let s := if bad && f.hallBad then fbFault c 2 s else s
  if s.fbMode c = 0 then snapWords c ns s else
  if s.fbSerial c && !slow then
    snapWords c ns (s.updChan c fun f => { f with age := true, serTaken := false, serEnded := false, serGood := none })
  else snapWords c ns (snapSpeed c ns len s)

/-- All channels snapshotted at a frame start (R271). -/
def snapshotAll (s : State) : State :=
  let ns := s.rg.frameNs.getD s.ns
  (List.range s.channels).foldl (fun s c => snapshotOne c ns s.rg.frameLength false s) s

/-- All channels snapshotted at the pace of a stopped Ridge (R269, R807). -/
def snapshotIdle (s : State) : State :=
  let ns := s.ns
  (List.range s.channels).foldl (fun s c => snapshotOne c ns 40000 true s) s

/-! ### Serial modes (R259 to R266) -/

/-- A word of `b` bits decoded from Gray code. -/
def ofGray : Nat → Nat → Nat
  | 0, _ => 0
  | b + 1, n => let hi := ofGray b (n / 2)
                2 * hi + (if (n % 2 = 1) = (hi % 2 = 1) then 0 else 1)

/-- The bits of `n`, most significant first. -/
def bitsMsb : Nat → Nat → List Bool
  | 0, _ => []
  | b + 1, n => n.testBit b :: bitsMsb b n

/-- A serial count taken over: the snapshot's, compare entries, and POS_VALID at the first good value (R265, R274, R282). -/
def serialTake (c : Nat) (v : Int) (s : State) : State :=
  let s := cmpDue c s
  let old := (s.chan c).count
  let s := s.updChan c fun f => { f with
    count := v, age := false, serLate := 0, serGood := none, serSeen := true, posValid := f.posValid || !f.serSeen
    present := setBitN f.present 8 false }
  let s := if old < v then cmpFires c old v true true s else s
  if v < old then cmpFires c old v false true s else s

/-- A good value P (R264): the count it gives, or SER_JUMP. -/
def serialGood (c p : Nat) (s : State) : State :=
  let f := s.chan c
  let b := s.parN P.FB_SER_BITS c
  let (v, jump) : Int × Bool := match f.serPrev with
    | none => (wrap32 p, false)
    | some q =>
      let d := sx b ((p + 2 ^ b - q % 2 ^ b) % 2 ^ b)
      (if b = 32 then wrap32 p else wrap32 (f.count + d), decide (s.parN P.FB_SER_JUMP c < d.natAbs))
  let s := s.updChan c fun f => { f with serPrev := some p, present := setBitN f.present 7 jump }
  if jump then fbFault c 7 s
  else if s.framesRun && s.clocked then s.updChan c fun f => { f with serGood := some v }
  else serialTake c v s

/-- The checks of an SSI transaction (R260). -/
def ssiEnd (c : Nat) (r : SerialFrame) (s : State) : State :=
  let b := s.parN P.FB_SER_BITS c
  let bad := !r.idleHigh || !r.trailerLow
  let s := s.updChan c fun f => { f with present := setBitN f.present 3 bad }
  if bad then fbFault c 3 s
  else serialGood c (if s.parN P.FB_SER_CODE c = 1 then ofGray b (r.word % 2 ^ b) else r.word % 2 ^ b) s

/-- The CRC of a BiSS-C frame as transmitted (R261, R263). -/
def bissCrc (b : Nat) (r : SerialFrame) : Nat := 63 - crcBits 6 3 0 (bitsMsb b r.word ++ [r.nE, r.nW])

/-- The checks of a BiSS-C transaction, in order (R263). -/
def bissEnd (c : Nat) (r : SerialFrame) (s : State) : State :=
  let b := s.parN P.FB_SER_BITS c
  let mark (bit : Nat) (v : Bool) (s : State) : State := s.updChan c fun f => { f with present := setBitN f.present bit v }
  let s := mark 9 (!r.idleHigh) s
  if !r.idleHigh then fbFault c 9 s else
  let started := match r.startClocks with | some n => decide (n ≤ s.parN P.FB_ACK_MAX c) | none => false
  let s := mark 4 (!started) s
  if !started then fbFault c 4 s else
  let ok := decide (r.crc % 64 = bissCrc b r)
  let before := (s.chan c).crcErr
  let s := (mark 5 (!ok) s).updChan c fun f => { f with crcErr := !ok }
  if !ok then (if before then fbFault c 5 s else s) else
  let s := mark 6 (!r.nE) s
  let s := if r.nE then s else fbFault c 6 s
  let warned := (s.chan c).warn
  let s := if r.nE then s.updChan c fun f => { f with warn := !r.nW } else s
  let s := if r.nE && !r.nW && !warned then s.report 5 2 4 (b1 c ++ leI 4 (s.chan c).count ++ b4 (compact s.ns)) else s
  serialGood c (r.word % 2 ^ b) s

/-- SERIAL_TRANSACTION_END (R260, R263). -/
def serialEnd (c : Nat) (r : SerialFrame) (s : State) : State :=
  if !s.counting c || !s.fbSerial c then s else
  let s := s.updChan c fun f => { f with serRaw := r.word % 2 ^ 32, serEnded := true }
  if s.fbMode c = 3 then ssiEnd c r s else bissEnd c r s

/-- SERIAL_READY_TRANSFER (R265): at FB_SER_READY the good value enters the snapshot, or AGE stays set. -/
def serialReady (c : Nat) (s : State) : State :=
  let f := s.chan c
  if !s.counting c || !s.fbSerial c || !s.framesRun || f.serTaken || s.frameCycle < s.parN P.FB_SER_READY c then s else
  let s := s.updChan c fun f => { f with serTaken := true }
  let late := f.serGood.isNone && !f.serEnded
  let s := match f.serGood with
    | some v => serialTake c v s
    | none => s.updChan c fun f => { f with
        serLate := if late then f.serLate + 1 else 0, present := setBitN f.present 8 late }
  let s := if 2 ≤ (s.chan c).serLate then fbFault c 8 s else s
  let ns := (s.chan c).snapNs
  snapWords c ns (snapSpeed c ns s.rg.frameLength s)

/-- SERIAL_POLL_TIMER (R259): while no frames run the channels are snapshotted and the next transactions start. -/
def serialPoll (s : State) : State :=
  if s.framesRun && s.clocked || s.pw.held then s else
  let s := snapshotIdle s
  (List.range s.channels).foldl (fun s c => if s.fbSerial c && s.counting c then
    s.updChan c fun f => { f with age := !f.serEnded, serEnded := false } else s) s

/-! ### The alarm input (R246, R277) -/

/-- The filtered alarm input is at its active level, or no longer. -/
def alarmInput (c : Nat) (active : Bool) (s : State) : State :=
  let on := active && s.counting c && decide (s.fbMode c ≠ 0 ∧ s.parN P.FB_ALARM c ≠ 0)
  let s := s.updChan c fun f => { f with present := setBitN f.present 10 on }
  if on then fbFault c 10 s else s

/-! ### Latches (R285 to R290) -/

/-- LATCH_STATUS for a capture, or for none (R290). -/
def LatchSt.status (l : LatchSt) (x : Option Latched) : Nat :=
  l.queue.length * 32 + b2n l.overflow 4 + (match x with
    | some x => b2n x.interp 3 + b2n x.posValid 2 + b2n x.fault 1
    | none => 0) + b2n l.armed

/-- A capture as 18 bytes (R287, R434). -/
def LatchSt.bytes (l : LatchSt) (x : Latched) : List Nat := leI 4 x.count ++ stampBytes x.ns ++ le 4 (l.status (some x))

/-- The capture that an edge of latch `k` gives now (R286). -/
def State.capture (s : State) (k : Nat) : Latched :=
  let c := s.parN P.LAT_CHANNEL k
  let f := s.chan c
  let ns := s.nsBack (s.parN P.LAT_FILTER k + 3)
  let serial := s.fbSerial c
  let count := if serial then
      wrap32 (roundRat ((sx 32 (f.snap.getD 0 0) : Rat) + (f.speed : Rat) / 16 * ((ns : Int) - f.snapNs : Int) / nsPerS))
    else f.count
  { count := count, ns := ns, interp := serial, posValid := f.posValid, fault := decide (f.fault ≠ 0) }

/-- An edge of a latch source (R286 to R288). -/
def latchEdge (k : Nat) (rising : Bool) (s : State) : State :=
  if 8 ≤ k || !s.clocked || s.channels ≤ s.parN P.LAT_CHANNEL k then s else
  let x := s.capture k
  let s := s.updLatch k fun l => { l with lastEdge := some (rising, x), edges := l.edges + 1 }
  let l := s.latch k
  if !l.armed || !(l.edge.testBit (if rising then 0 else 1)) then s
  else if l.cont then
    if l.queue.length < 4 then s.updLatch k fun l => { l with queue := l.queue ++ [x] }
    else if l.overflow then s
    else (s.updLatch k fun l => { l with overflow := true }).report 5 1 6 (b1 k ++ b1 (s.parN P.LAT_CHANNEL k))
  else
    let s := s.updLatch k fun l => { l with armed := false, slot := none }
    match l.slot with
    | some i => s.finishAt i x.ns (.ok ((s.latch k).bytes x))
    | none => s

/-- The arming of a latch ends: a SINGLE one completes with CANCELLED (R288, R294). -/
def latchDisarm (k : Nat) (s : State) : State :=
  let l := s.latch k
  let s := s.updLatch k fun l => { l with armed := false, slot := none, queue := [], overflow := false }
  match l.slot with
  | some i => s.finish i (.fail stCancelled)
  | none => s

/-- A latch that a homing in progress reserves (R335). -/
def State.latchReserved (s : State) (k : Nat) : Bool :=
  (List.range s.axes).any fun a => match (s.axis a).home with
    | some h => decide ((h.method = 2 ∨ h.method = 3) ∧ s.parN P.HOM_LATCH a = k)
    | none => false

/-- LATCH_ARM (R287, R288). -/
def cmdLatchArm (c : Cmd) (s : State) : Res × State :=
  let k := c.target % 4096
  let edge := fld c.args 0 1
  let mode := fld c.args 1 1
  if edge < 1 ∨ 3 < edge ∨ 1 < mode then (.fail stParamRange, s)
  else if s.latchReserved k then (.fail stBusy, s)
  else
    let s := (latchDisarm k s).updLatch k fun l => { l with
      armed := true, edge := edge, cont := decide (mode = 1), slot := if mode = 0 then some c.slot else none }
    (if mode = 0 then .pending else .ok, s)

/-- The queued captures of a latch, returned and removed (R287, R434). -/
def takeCaptures (k : Nat) (s : State) : List Nat × State :=
  let l := s.latch k
  (l.queue.flatMap l.bytes, s.updLatch k fun l => { l with queue := [] })

/-! ### STANDBY, reset and commits (R188, R274, R275, R294) -/

/-- Entry to STANDBY: channels that the safety configuration does not designate stop (R275). -/
def fbStandby (s : State) : State :=
  (List.range s.channels).foldl (fun s c => if s.designated c then s else s.updChan c fun f => { f with stopped := true }) s

/-- Wake from STANDBY: a stopped channel counts again; an incremental one has POS_VALID clear (R275, R807). -/
def fbWake (s : State) : State :=
  (List.range s.channels).foldl (fun s c =>
    if !(s.chan c).stopped then s else
    let s := s.updChan c fun f => { f with stopped := false, history := [], ref := none, edged := false }
    if s.fbSerial c then s else loseContinuity c (posInvalid c 4 s)) s

/-- A committed change of a parameter of classes 0x50 to 0x52, from the value `old`, reaches the front end (R188, R294). A change of FB_MODE
ends alignment unless the channel counts from an absolute reference before and after it. -/
def fbCommit (id : Nat) (old : Int) (s : State) : State :=
  let c := id / 2 ^ 16 % 256
  let row := id / 2 ^ 24 * 2 ^ 16 + id % 2 ^ 16
  if row = 0x500000 then
    let s := s.updChan c fun f => { f with
      ref := none, history := [], serPrev := none, serGood := none, serSeen := false, hallKnown := false
      present := setBitN f.present 10 false }
    let s := posInvalid c 3 s
    if old = 3 ∨ old = 4 ∨ (old = 1 ∧ s.parN P.FB_INDEX_MODE c = 2) then loseContinuity c s else
    { s with mc := Store.mapAll {} (fun m (x : MachineSt) => { x with
        aligned := x.aligned && decide (s.parN P.MAC_FB_PRIMARY m ≠ c)
        aligned2 := x.aligned2 && decide (s.parN P.MAC_FB_SECOND m ≠ c) }) s.mc }
  else if row = 0x500002 then s.updChan c fun f => { f with ref := none }
  else if row = 0x510100 ∨ row = 0x510101 then pinRefresh (c - 128) s
  else if (row = 0x520000 ∨ row = 0x520001) ∧ (s.latch c).armed then latchDisarm c s
  else s

/-- A live write of FB_INDEX_MODE is applied (R253, R273). -/
def indexModeWritten (c mode : Nat) (s : State) : State :=
  s.updChan c fun f => { f with indexSeen := false, indexSet := decide (mode = 2), indexPrev := none }

/-! ### Commands -/

/-- QUAD_EDGE (R250). -/
def execQuadEdge (dt ch : Nat) (aLeads : Bool) (s : State) : Out :=
  .next (if s.fbMode ch = 1 then countedEdge ch aLeads (s.elapse dt) else s.elapse dt)
/-- ILLEGAL_TRANSITION (R251). -/
def execIllegalTransition (dt ch : Nat) (s : State) : Out :=
  .next (if s.fbMode ch = 1 ∨ s.fbMode ch = 5 then illegalStep ch (s.elapse dt) else s.elapse dt)
/-- INDEX_EVENT (R253). -/
def execIndexEvent (dt ch : Nat) (gate : Bool) (s : State) : Out := .next (indexEvent ch gate (s.elapse dt))
/-- HALL_CHANGE (R256). -/
def execHallChange (dt ch code : Nat) (s : State) : Out := .next (hallChange ch code (s.elapse dt))
/-- STEP_DIR_EDGE (R258). -/
def execStepDirEdge (dt ch : Nat) (dirHigh dirChanged : Bool) (s : State) : Out :=
  .next (stepEdge ch dirHigh dirChanged (s.elapse dt))
/-- CMP_PULSE_END (R283). -/
def execCmpPulseEnd (dt pin : Nat) (s : State) : Out := .next (pulseEnd pin (s.elapse dt))
/-- SERIAL_TRANSACTION_END (R263). -/
def execSerialTransactionEnd (dt ch : Nat) (frame : SerialFrame) (s : State) : Out := .next (serialEnd ch frame (s.elapse dt))
/-- SERIAL_POLL_TIMER (R259). -/
def execSerialPollTimer (dt : Nat) (s : State) : Out := .next (serialPoll (s.elapse dt))
/-- SERIAL_READY_TRANSFER (R265). -/
def execSerialReadyTransfer (dt ch : Nat) (s : State) : Out := .next (serialReady ch (s.elapse dt))
/-- FB_ALARM_INPUT (R277). -/
def execFbAlarmInput (dt ch : Nat) (active : Bool) (s : State) : Out := .next (alarmInput ch active (s.elapse dt))
/-- LATCH_EDGE (R286). -/
def execLatchEdge (dt latch : Nat) (rising : Bool) (s : State) : Out := .next (latchEdge latch rising (s.elapse dt))

end Sys2Proof.Machine
end

