-- ==== Sys2Proof/Machine/Windows.lean ====
section
/-!
DEFINITION. Sys2Proof/Machine/Windows.lean: the circular-buffer windows CW_0 to CW_15 (R765 to R767).
-/
namespace Sys2Proof.Machine

/-- Window `w`. -/
def State.win (s : State) (w : Nat) : CwSt := Store.read {} s.mm.cw w

/-- Window `w` rewritten. -/
def State.updWin (s : State) (w : Nat) (f : CwSt → CwSt) : State :=
  { s with mm := { s.mm with cw := Store.upd {} s.mm.cw w f } }

/-- FREE (R767). -/
def CwSt.room (c : CwSt) : Nat := c.len - c.level

/-- The address of ring offset `o` (R766). -/
def CwSt.at_ (c : CwSt) (o : Nat) : Nat := commonsBase + c.base + o % c.len

/-- Ring bytes from offset `o`, where they lie in the commons. -/
def ringRead (c : CwSt) (o n : Nat) (s : State) : List Nat := gen (fun i => s.rd8 (c.at_ (o + i))) n

/-- Bytes written from ring offset `o`. -/
def ringWrite (c : CwSt) (o : Nat) (bs : List Nat) (s : State) : State :=
  (bs.zip (List.range bs.length)).foldl (fun s p => s.wrN (c.at_ (o + p.2)) [p.1]) s

/-- OVF (1) or UNF (2) of a window is set; CW_OVERFLOW records the flag that rose (R766, R768). -/
def cwFlag (w flag : Nat) (s : State) : State :=
  let c := s.win w
  let s' := s.updWin w fun c => { c with ovf := c.ovf || decide (flag = 1), unf := c.unf || decide (flag = 2) }
  if (flag = 1 ∧ c.ovf) ∨ (flag = 2 ∧ c.unf) then s' else s'.report 0x10 1 5 (b1 w ++ b1 flag)

/-- The producer commits `n` bytes, or OVF (R766). -/
def wrAdvance (w n : Nat) (s : State) : State :=
  if 16 ≤ w then s
  else if (s.win w).room < n then cwFlag w 1 s
  else s.updWin w fun c => { c with wr := (c.wr + n) % max 1 c.len, level := c.level + n }

/-- The consumer releases `n` bytes, or UNF (R766). -/
def rdAdvance (w n : Nat) (s : State) : State :=
  if 16 ≤ w then s
  else if (s.win w).level < n then cwFlag w 2 s
  else s.updWin w fun c => { c with rd := (c.rd + n) % max 1 c.len, level := c.level - n }

/-- A write of at most 4 bytes through the producer aperture (R765, R766). -/
def producerWrite (w o : Nat) (data : List Nat) (s : State) : State :=
  if 16 ≤ w ∨ 1024 ≤ o then s else
  let c := s.win w
  if c.room ≤ o then cwFlag w 1 s else ringWrite c (c.wr + o) (data.take 4) s

/-- A read of at most 4 bytes through the consumer aperture (R765, R766): the word read is kept as the last one of master 0. -/
def consumerRead (w o n : Nat) (s : State) : State :=
  if 16 ≤ w ∨ 1024 ≤ o then s else
  let c := s.win w
  let (v, s) : Nat × State := if c.level ≤ o then (0, cwFlag w 2 s)
    else (ofLe (ringRead c (c.rd + o) (min n 4) s), s)
  { s with mm := { s.mm with lastRead := Store.write 0 s.mm.lastRead 0 v } }

/-- CW_STATUS as read (R767). -/
def CwSt.status (c : CwSt) : Nat := b2n c.enable 31 + b2n c.ovf 30 + b2n c.unf 29 + c.level % 2 ^ 21

/-- A write of CW_STATUS (R767). -/
def cwStatusWrite (w v : Nat) (s : State) : State :=
  if 16 ≤ w then s else
  s.updWin w fun c =>
    let c := { c with ovf := c.ovf && !v.testBit 30, unf := c.unf && !v.testBit 29 }
    if v.testBit 31 && !c.enable then { c with enable := true, wr := 0, rd := 0, level := 0 }
    else { c with enable := v.testBit 31 }

/-- A write of BASE or LEN: taken only while ENABLE is 0, and only a value the register can hold (R765, R767). -/
def cwSetup (w : Nat) (len : Bool) (v : Nat) (s : State) : State :=
  if 16 ≤ w || (s.win w).enable || v % 16 ≠ 0 then s
  else if len then (if 16 ≤ v ∧ v ≤ 1048576 then s.updWin w fun c => { c with len := v } else s)
  else if v < 0x200000 then s.updWin w fun c => { c with base := v } else s

/-- CW_WR_ADVANCE (R766). -/
def execCwWrAdvance (dt w n : Nat) (s : State) : Out := .next (wrAdvance w n (s.elapse dt))
/-- CW_RD_ADVANCE (R766). -/
def execCwRdAdvance (dt w n : Nat) (s : State) : Out := .next (rdAdvance w n (s.elapse dt))
/-- CW_PRODUCER_WRITE (R766). -/
def execCwProducerWrite (dt w offset : Nat) (data : List Nat) (s : State) : Out :=
  .next (producerWrite w offset data (s.elapse dt))
/-- CW_CONSUMER_READ (R766). -/
def execCwConsumerRead (dt w offset n : Nat) (s : State) : Out := .next (consumerRead w offset n (s.elapse dt))
/-- CW_STATUS_WRITE (R767). -/
def execCwStatusWrite (dt w value : Nat) (s : State) : Out := .next (cwStatusWrite w value (s.elapse dt))

end Sys2Proof.Machine
end

