-- ==== Sys2Proof/Machine/Capture.lean ====
section
/-!
DEFINITION. Sys2Proof/Machine/Capture.lean: the capture engine (chapter 12): probes, samples, blocks and records, the trigger
sequencer, user and evidence segments, and the stream through CW_15.
-/
namespace Sys2Proof.Machine

/-! ### Probes (R574 to R577) -/

/-- Width in bytes of a probe with source code `src` (R574). -/
def State.probeWidth (s : State) (src : Nat) : Nat :=
  if src / 2 ^ 24 = 1 then
    match (s.image).bind fun im => im.body.probes.find? fun p => decide (p.num = src % 65536) with
    | some p => if p.words = 2 then 4 else 2
    | none => 2
  else 4

/-- Levels of the field outputs: OUT_0 to OUT_15, then SOUT_0 to SOUT_3. -/
def State.outLevels (s : State) : Nat :=
  s.fd.readback % 65536 + (List.range 4).foldl (fun (n : Nat) k => n + b2n (s.sout k).on (16 + k)) 0

/-- A value published by the safety monitor, while it is not older than 2 T_SM (R574, R601). -/
def State.monValue (s : State) (sel : Nat) : Option Int :=
  let i := sel % 16
  match s.sf.pub.at_ with
  | none => none
  | some t =>
    if t + 200000 < s.tm.now then none else
    match sel / 16 % 16 with
    | 0 => s.sf.pub.counts[i]?
    | 1 => s.sf.pub.speeds[i]?
    | 2 => (s.sf.pub.status[i]?).map fun n => (n : Int)
    | _ => none

/-- The value that a probe other than a Traverse probe has at a valley (R575, R577). -/
def State.valleyValue (s : State) (src : Nat) : Option Int :=
  let a := src / 256 % 256
  if !s.cp.evid.runs then none else
  match src / 2 ^ 24 with
  | 2 => ((s.chan a).snap[src % 256]?).map fun n => sx 32 n
  | 3 => some (sx 32 (if s.framesRun then s.fd.published else s.fd.filtered))
  | 4 => some (s.outLevels : Int)
  | 5 => if a < s.stages then some (sx 32 (if src % 256 = 0 then s.stageStatus a else s.tripLatch a)) else none
  | 6 => s.monValue (src % 256)
  | _ => none

/-- The value of a Traverse probe as exported in frame `fr` (R575, R577). -/
def State.exported (s : State) (src fr : Nat) : Option Int :=
  match Store.read none s.cp.exports (src % 65536) with
  | some (f, v) => if f = fr then some (sx (8 * s.probeWidth src) v) else none
  | none => none

/-- The probes in use of an instance range: number, source, reductions (R574, R578, R590). -/
def State.probesIn (s : State) (lo hi : Nat) : List (Nat × Nat × Nat) :=
  ((List.range 64).filter fun k => decide (lo ≤ k ∧ k < hi ∧ s.parN P.CAP_PRB_SRC k / 2 ^ 24 ≠ 0)).map fun k =>
    (k, s.parN P.CAP_PRB_SRC k, s.parN P.CAP_PRB_RED k)

/-- Evidence segments are configured (R590). -/
def State.evidOn (s : State) : Bool := decide (s.parN P.CAP_EVID_SEGMENTS 0 ≠ 0)

/-- The evidence probes (R590). -/
def State.evidProbes (s : State) : List (Nat × Nat × Nat) := if s.evidOn then s.probesIn 48 64 else []

/-- The user probes as the parameters have them. -/
def State.userProbes (s : State) : List (Nat × Nat × Nat) := s.probesIn 0 (if s.evidOn then 48 else 64)

/-- The values of probes at a valley; Traverse probes are filled in at the end of the frame. -/
def State.valleyOf (s : State) (ps : List (Nat × Nat × Nat)) : List (Option Int) := ps.map fun p => s.valleyValue p.2.1

/-- The values of a completed frame (R575). -/
def State.frameOf (s : State) (ps : List (Nat × Nat × Nat)) (vs : List (Option Int)) (fr : Nat) : List (Option Int) :=
  (ps.zip vs).map fun p => if p.1.2.1 / 2 ^ 24 = 1 then s.exported p.1.2.1 fr else p.2

/-- RECORD_SIZE (R579). -/
def State.recordSize (s : State) (ps : List (Nat × Nat × Nat)) : Nat :=
  8 + (ps.map fun p => s.probeWidth p.2.1 * popN 4 p.2.2).foldl (· + ·) 0

/-- Size of a segment and its capacity in records (R584). -/
def State.segSize (s : State) : Nat := 2097152 / max 1 (s.parN P.CAP_SEGMENTS 0) / 64 * 64
def State.segCapacity (s : State) (size : Nat) : Nat := (s.segSize - 64) / size
/-- User segments: SEG_0 up to this number. -/
def State.userSegs (s : State) : Nat := s.parN P.CAP_SEGMENTS 0 - s.parN P.CAP_EVID_SEGMENTS 0

/-! ### Blocks and records (R578, R579) -/

/-- A valid sample enters an accumulator. -/
def ProbeAcc.add (a : ProbeAcc) (v : Int) : ProbeAcc :=
  { n := a.n + 1, last := v, lo := if a.n = 0 then v else min a.lo v, hi := if a.n = 0 then v else max a.hi v, sum := a.sum + v }

/-- A sample enters a block (R578). -/
def BlockSt.add (b : BlockSt) (vs : List (Option Int)) (ns : Nat) : BlockSt :=
  let accs := if b.count = 0 then vs.map fun _ => ({} : ProbeAcc) else b.accs
  { b with count := b.count + 1, first := if b.count = 0 then ns else b.first
           accs := (accs.zip vs).map fun p => match p.2 with | some v => p.1.add v | none => p.1 }

/-- The reductions of one probe: raw, min, max, mean, as patterns of `w` bytes (R577, R578). -/
def ProbeAcc.reduce (a : ProbeAcc) (red w : Nat) : List (Nat × Nat) :=
  let put (v : Int) : Nat × Nat := (if a.n = 0 then 2 ^ (8 * w - 1) else tc (8 * w) v, w)
  (if red.testBit 0 then [put a.last] else []) ++ (if red.testBit 1 then [put a.lo] else []) ++
    (if red.testBit 2 then [put a.hi] else []) ++ (if red.testBit 3 then [put (divHalfUp a.sum (max 1 a.n))] else [])

/-- The record of a block; `epoch` is the STEP_EPOCH at the previous record. -/
def State.blockRecord (s : State) (ps : List (Nat × Nat × Nat)) (b : BlockSt) (ns epoch : Nat) (cut : Bool) : CapRecord :=
  let invalid := (b.accs.zip ps).any fun p => decide (p.1.n = 0) && decide (p.2.2.2 ≠ 0)
  { ns := ns, first := b.first
    flags := (b.flags ||| b2n invalid 0) + b2n (decide (epoch ≠ s.tm.stepEpoch)) 1 + b2n cut 2
    values := (b.accs.zip ps).flatMap fun p => p.1.reduce p.2.2.2 (s.probeWidth p.2.2.1) }

/-- A record as its bytes (R579). -/
def CapRecord.bytes (r : CapRecord) : List Nat :=
  le 4 (compact r.ns) ++ le 2 (r.ns / 2 ^ 32 % 65536) ++ le 2 r.flags ++ r.values.flatMap fun p => le p.2 p.1

/-- A segment header (R585). -/
def segHeader (k : Nat) (g : SegSt) : List Nat :=
  let start := match g.start with | some n => some n | none => (g.records.head?).map (·.first)
  let b := le 4 0x53473031 ++ le 2 k ++ [g.kind, g.ending] ++ stampOpt g.trigger ++ stampOpt start ++ stampOpt g.finish ++
    le 4 g.records.length ++ le 4 g.pre ++ le 2 g.size ++
    [min 255 (g.records.filter fun r => r.flags.testBit 1).length, g.state, g.cond,
     g.flags + b2n (g.records.any fun r => r.flags.testBit 0) 2] ++ le 4 g.gen ++ le 2 g.offset ++ [0, 0]
  b ++ le 4 (crc32c b)

/-! ### The stream (R595, R596) -/

/-- A record of a user segment written through CW_15; false where it finds the window full (R589, R595). -/
def streamPut (k i : Nat) (r : CapRecord) (s : State) : State × Bool :=
  let bs := r.bytes
  let c := s.win 15
  if c.room < bs.length then (cwFlag 15 1 s, false)
  else
    let s := wrAdvance 15 bs.length (ringWrite c c.wr bs s)
    ({ s with cp := { s.cp with stream := s.cp.stream ++ [(k, i, bs.length)] } }, true)

/-! ### User segments (R583 to R589) -/

/-- A user capture runs. -/
def State.capRuns (s : State) : Bool := decide (s.cp.state = .pre ∨ s.cp.state = .wait ∨ s.cp.state = .post)

/-- The user capture's current segment ends; the capture state becomes `st`. -/
def segEnd (ending finish : Nat) (st : CapState) (s : State) : State :=
  let k := s.cp.segment
  let g := s.seg k
  let s := s.updSeg k fun g => { g with
    ending := ending, finish := some finish, start := (g.records.head?).map (·.first)
    pre := if g.trigger.isSome then g.pre else g.records.length }
  { s with cp := { s.cp with
      state := st, block := {}, trig := none, holds := false
      streamEnds := if s.cp.cfg.stream && g.trigger.isSome then s.cp.streamEnds ++ [k] else s.cp.streamEnds } }

/-- The capture stops with overflow (R589). -/
def capOverflow (cause : Nat) (s : State) : State :=
  if !s.capRuns then s else
  let k := s.cp.segment
  let s := segEnd 3 s.ns .overflow { s with cp := { s.cp with rearming := false, events := [] } }
  s.report 9 2 4 (b2 k ++ b1 cause ++ b4 (s.seg k).records.length)

/-- Records streamed from index `i` of the current segment (R596). -/
def streamAll : Nat → List CapRecord → State → State
  | _, [], s => s
  | i, r :: rs, s =>
    let (s', ok) := streamPut s.cp.segment i r s
    if ok then streamAll (i + 1) rs s' else capOverflow 3 s'

/-- The next free user segment from `k` on, in ascending order with wrap. -/
def State.freeSeg (s : State) : Nat → Nat → Option Nat
  | 0, _ => none
  | n + 1, k =>
    let k := if s.userSegs ≤ k then 0 else k
    if (s.seg k).held then State.freeSeg s n (k + 1) else some k

/-- A user segment starts recording. -/
def segStart (k : Nat) (s : State) : State :=
  let size := s.recordSize s.cp.cfg.probes
  let s := s.updSeg k fun _ => { held := true, size := size, gen := s.pm.gen,
                                 flags := b2n s.cp.cfg.cermer 0 + b2n s.cp.cfg.stream 3 }
  { s with cp := { s.cp with
      state := if s.cp.cfg.pre = 0 then .wait else .pre, segment := k, seqState := 0, matches_ := 0, samples := 0
      holds := false, rearming := false, trig := none } }

/-- The re-arm (R587): the next free user segment starts, or the capture stops with SEGMENTS_FULL. -/
def capRearm (s : State) : State :=
  if !s.cp.rearming then s else
  match s.freeSeg s.userSegs (s.cp.segment + 1) with
  | some k => segStart k s
  | none =>
    { s with cp := { s.cp with state := .stopped, rearming := false, events := [] } }.report 9 2 5
      (b2 ((List.range s.userSegs).filter fun k => (s.seg k).held).length)

/-- A record of the current user segment (R586): into the ring before the trigger, then up to CAP_POST from it. -/
def segRecord (r : CapRecord) (s : State) : State :=
  let k := s.cp.segment
  match s.cp.trig with
  | some (off, ns, st, cond) =>
    if (s.seg k).trigger.isNone then
      let ring := (s.seg k).records
      let s := s.updSeg k fun g => { g with
        records := ring ++ [{ r with flags := r.flags + 16 }], pre := ring.length, trigger := some ns, state := st, cond := cond
        offset := off, flags := g.flags + b2n (decide (ring.length < s.cp.cfg.pre)) 1 }
      let s := { s with cp := { s.cp with state := .post } }
      if s.cp.cfg.stream then streamAll 0 (s.seg k).records s else s
    else
      let i := (s.seg k).records.length
      let s := s.updSeg k fun g => { g with records := g.records ++ [r] }
      if s.cp.cfg.stream then streamAll i [r] s else s
  | none =>
    let ring := (s.seg k).records ++ [r]
    let ring := ring.drop (ring.length - s.cp.cfg.pre)
    let s := s.updSeg k fun g => { g with records := ring }
    { s with cp := { s.cp with state := if ring.length < s.cp.cfg.pre then .pre else .wait } }

/-- After a record: the segment is complete when CAP_POST records stand from the trigger on (R586, R587). -/
def segComplete (ns : Nat) (s : State) : State :=
  let k := s.cp.segment
  let g := s.seg k
  if !s.capRuns || g.trigger.isNone || g.records.length < g.pre + s.cp.cfg.post then s else
  let s := (segEnd 1 ns .stopped s).report 9 0 2 (b2 k ++ b4 g.records.length ++ b4 g.pre)
  if s.cp.cfg.rearm then { s with cp := { s.cp with state := .wait, rearming := true } } else s

/-- The block under way gives its record. -/
def blockEnd (ns : Nat) (cut : Bool) (s : State) : State :=
  let b := s.cp.block
  if b.count = 0 then s else
  let r := s.blockRecord s.cp.cfg.probes b ns s.cp.stepEpoch cut
  segRecord r { s with cp := { s.cp with block := {}, stepEpoch := s.tm.stepEpoch } }

/-- A running capture stops with an END code (R583, R597, R598, R600). -/
def capStop (ending : Nat) (s : State) : State :=
  if !s.capRuns then s else
  let k := s.cp.segment
  if s.cp.rearming then
    { s with cp := { s.cp with state := .stopped, rearming := false, events := [] } }.report 9 1 3 (b2 k ++ b1 ending)
  else
    let s := blockEnd s.ns true s
    (segEnd ending s.ns .stopped { s with cp := { s.cp with events := [] } }).report 9 1 3 (b2 k ++ b1 ending)

/-! ### The trigger sequencer (R580 to R583, R588) -/

/-- The raw value and the previous value of probe `n` in a sample. -/
def State.rawOf (s : State) (vs : List (Option Int)) (n : Nat) : Option Int × Option Int :=
  match s.cp.cfg.probes.findIdx? fun p => decide (p.1 = n) with
  | some i => (vs.getD i none, s.cp.lastVals.getD i none)
  | none => (none, none)

/-- OP of a condition of type 1 (R581), VALUE read as signed but for the bit and magnitude tests. -/
def condOp (op value : Nat) (v : Int) (before : Option Int) : Bool :=
  let x := sx 32 value
  match op with
  | 0 => decide (v = x)
  | 1 => decide (v ≠ x)
  | 2 => decide (v < x)
  | 3 => decide (x ≤ v)
  | 4 => (match before with | some b => decide (b < x ∧ x ≤ v) | none => false)
  | 5 => (match before with | some b => decide (x ≤ b ∧ v < x) | none => false)
  | 6 => decide (tc 32 v &&& value = value)
  | 7 => decide (value ≤ v.natAbs)
  | _ => false

/-- A report matches the selector of a condition of type 2. -/
def reportMatches (value : Nat) (r : Nat × Nat × Nat × Nat) : Bool :=
  decide (r.1 = value / 2 ^ 24 ∧ (value / 256 % 65536 = 0xFFFF ∨ r.2.1 = value / 256 % 65536) ∧ value % 8 ≤ r.2.2.1)

/-- An edge matches the selector of a condition of type 3. -/
def edgeMatches (value : Nat) (e : Nat × Bool × Nat) : Bool :=
  decide (e.1 = value % 16) && (value / 16).testBit (if e.2.1 then 0 else 1)

/-- A condition in a sample: whether it is true, and the stamp of the event that made it so (R581, R583). -/
def State.cond (s : State) (c : TrigCond) (vs : List (Option Int)) (ns : Nat) : Bool × Option Nat :=
  match c.type with
  | 0 => (true, none)
  | 1 => (match s.rawOf vs c.probe with
      | (some v, b) => (condOp c.op c.value v b, none)
      | (none, _) => (false, none))
  | 2 => (match (s.cp.reports.filter fun r => decide (r.2.2.2 ≤ ns)).find? (reportMatches c.value) with
      | some r => (true, some r.2.2.2)
      | none => (false, none))
  | 3 => (match (s.cp.edges.filter fun e => decide (e.2.2 ≤ ns)).find? (edgeMatches c.value) with
      | some e => (true, some e.2.2)
      | none => (false, none))
  | _ => (false, none)

/-- An action taken (R580, R582, R583, R588): `cond` is the TRIGGER_COND code, `ns` the trigger instant. -/
def seqAct (action cond ns : Nat) (before : CapSt) (s : State) : State × Bool :=
  let trig := action.testBit 4
  if trig && s.cp.cfg.cermer && decide ((s.seg s.cp.segment).records.length < s.cp.cfg.pre) then
    ({ s with cp := { s.cp with matches_ := before.matches_, samples := before.samples } }, false)
  else
    let s := if trig then { s with cp := { s.cp with
        trig := some (s.cp.block.count, ns, s.cp.seqState, cond), holds := true } } else s
    let s := if action.testBit 3 then { s with cp := { s.cp with seqState := action % 8, matches_ := 0, samples := 0 } } else s
    (s, action.testBit 5)

/-- The stamp of the event that completed a match (R583): of two, the later one where both were needed and the earlier one where either
was enough; the sample stamp where no event took part. -/
def matchInstant (logic : Nat) (na nb : Option Nat) (ns : Nat) : Nat :=
  match logic, na, nb with
  | 0, a, _ => a.getD ns
  | 1, some x, some y => max x y
  | _, some x, some y => min x y
  | _, some x, none => x
  | _, none, some y => y
  | _, none, none => ns

/-- The sequencer's evaluation in one sample; true where a STOP action was taken (R582). -/
def seqStep (vs : List (Option Int)) (ns : Nat) (s : State) : State × Bool :=
  if s.cp.holds then (s, false) else
  match s.cp.cfg.states[s.cp.seqState]? with
  | none => (s, false)
  | some e =>
    let before := s.cp
    let (a, na) := s.cond e.a vs ns
    let (b, nb) := s.cond e.b vs ns
    let hit := match e.logic with | 0 => a | 1 => a && b | 2 => a || b | _ => false
    let code := match e.logic with | 0 => 1 | 1 => 3 | _ => b2n a + 2 * b2n b
    let at_ := matchInstant e.logic na nb ns
    let s := { s with cp := { s.cp with samples := s.cp.samples + 1, matches_ := if hit then s.cp.matches_ + 1 else s.cp.matches_ } }
    if hit && decide (e.count ≤ s.cp.matches_) then seqAct e.onMatch code at_ before s
    else if e.timeout ≠ 0 ∧ e.timeout ≤ s.cp.samples then seqAct e.onTimeout 4 ns before s
    else (s, false)

/-- One user sample (R575, R576, R578, R582). -/
def userSample (vs : List (Option Int)) (ns : Nat) (s : State) : State :=
  let s := capRearm s
  if !s.capRuns then s else
  let (s, stop) := seqStep vs ns s
  let s := { s with cp := { s.cp with
    block := s.cp.block.add vs ns, lastVals := vs
    reports := s.cp.reports.filter fun r => decide (ns < r.2.2.2)
    edges := s.cp.edges.filter fun e => decide (ns < e.2.2) } }
  let s := if s.cp.cfg.decim ≤ s.cp.block.count then segComplete ns (blockEnd ns false s) else s
  if stop then capStop 2 s else s

/-! ### Evidence (R590 to R593) -/

/-- The evidence segment's block length now (R591). -/
def State.evidBlock (s : State) : Nat :=
  match s.cp.evid.segment with
  | some k => if (s.seg k).kind = 2 then s.parN P.CAP_EVID_BT_DIV 0 else s.parN P.CAP_EVID_DIV 0
  | none => s.parN P.CAP_EVID_DIV 0

/-- The evidence channel rewritten. -/
def State.updEvid (s : State) (f : EvidSt → EvidSt) : State := { s with cp := { s.cp with evid := f s.cp.evid } }

/-- The recording evidence segment ends (R591, R592). -/
def evidEnd (ending : Nat) (s : State) : State :=
  match s.cp.evid.segment with
  | none => s
  | some k =>
    let b := s.cp.evid.block
    let cap := s.segCapacity (s.recordSize s.evidProbes)
    let s := if b.count = 0 ∨ cap ≤ (s.seg k).records.length then s else
      s.updSeg k fun g => { g with records := g.records ++ [s.blockRecord s.evidProbes b s.ns s.cp.evid.stepEpoch true] }
    let s := s.updSeg k fun g => { g with ending := ending, finish := some s.ns, start := (g.records.head?).map (·.first) }
    let s := s.updEvid fun e => { e with segment := none, block := {}, ring := [], stepEpoch := s.tm.stepEpoch }
    let g := s.seg k
    s.report 9 1 6 (b2 k ++ b1 g.kind ++ b1 g.detail ++ b4 g.records.length ++
      b4 (match g.trigger with | some n => compact n | none => 0))

/-- One evidence sample (R590). -/
def evidSample (vs : List (Option Int)) (ns : Nat) (s : State) : State :=
  if !s.cp.evid.runs || !s.evidOn then s else
  let s := s.updEvid fun e => { e with block := e.block.add vs ns }
  if s.cp.evid.block.count < s.evidBlock then s else
  let r := s.blockRecord s.evidProbes s.cp.evid.block ns s.cp.evid.stepEpoch false
  let s := s.updEvid fun e => { e with block := {}, stepEpoch := s.tm.stepEpoch }
  match s.cp.evid.segment with
  | some k =>
    let s := s.updSeg k fun g => { g with records := g.records ++ [r] }
    if s.segCapacity (s.recordSize s.evidProbes) ≤ (s.seg k).records.length then evidEnd 1 s else s
  | none =>
    let n := s.parN P.CAP_EVID_PRE 0
    s.updEvid fun e => let ring := e.ring ++ [r]; { e with ring := ring.drop (ring.length - n) }

/-- The first free evidence segment. -/
def State.freeEvid (s : State) : Option Nat :=
  ((List.range (s.parN P.CAP_SEGMENTS 0)).filter fun k => decide (s.userSegs ≤ k)).find? fun k => !(s.seg k).held

/-- A trigger of the evidence channel: kind 1 with its cause bit, kind 2 with its output (R591 to R593). -/
def evidTrigger (kind detail ns : Nat) (s : State) : State :=
  if !s.cp.evid.runs || !s.evidOn then s else
  match s.cp.evid.segment, s.freeEvid with
  | some _, _ => s.updEvid fun e => { e with block := { e.block with
      flags := if e.block.flags.testBit 3 then e.block.flags else e.block.flags + 8 } }
  | none, none =>
    (s.updEvid fun e => { e with missed := satN 16 (e.missed + 1) }).report 9 3 7 (b1 kind ++ b1 detail ++ b4 (compact ns))
  | none, some k =>
    let ring := if kind = 1 then s.cp.evid.ring else []
    let short := decide (kind = 1 ∧ ring.length < s.parN P.CAP_EVID_PRE 0)
    let s := s.updEvid fun e => { e with
      segment := some k, ring := []
      block := if kind = 1 then { e.block with flags := e.block.flags + 16 } else { flags := 16 } }
    s.updSeg k fun _ => { held := true, kind := kind, trigger := some ns, pre := ring.length, size := s.recordSize s.evidProbes
                          cond := 5, flags := b2n short 1, gen := s.pm.gen, detail := detail, records := ring
                          offset := s.cp.evid.block.count }

/-! ### Frames, idle pace, events (R575 to R577, R587, R590) -/

/-- The samples of the frame that has just ended. -/
def frameSamples (s : State) : State :=
  match s.cp.valley with
  | none => s
  | some (fr, ns) =>
    let vs := s.frameOf s.cp.cfg.probes s.cp.valleyVals fr
    let s := evidSample (s.frameOf s.evidProbes s.cp.evid.valley fr) ns s
    let s := { s with cp := { s.cp with frameVals := vs } }
    if s.capRuns && decide (s.cp.cfg.mode = 0 ∧ fr % s.cp.cfg.divider = 0) && decide (s.cp.valleyVals.length = s.cp.cfg.probes.length)
    then userSample vs ns s else s

/-- A CAPTURE_ARM begins sampling (R600): its segment starts, and it completes. -/
def armBegin (s : State) : State :=
  match s.cp.arming with
  | none => s
  | some slot =>
    match s.freeSeg s.userSegs 0 with
    | none => { s with cp := { s.cp with arming := none } }.finish slot (.fail stBusy)
    | some k =>
      let s := { s with cp := { s.cp with arming := none, block := {}, lastVals := [], events := [], edges := [], reports := [],
                                          stepEpoch := s.tm.stepEpoch, frameVals := [] } }
      let s := segStart k s
      let size := s.recordSize s.cp.cfg.probes
      (s.report 9 0 1 (b2 k ++ b2 size ++ b4 s.pm.gen)).finish slot (.ok (le 2 k ++ le 2 size ++ le 4 (s.segCapacity size)))

/-- What the engine does at a frame start, after the snapshots (R575, R590, R600). -/
def captureFrame (s : State) : State :=
  let s := frameSamples s
  let s := if s.capRuns || s.cp.arming.isSome then s else { s with cp := { s.cp with reports := [], edges := [] } }
  let s := if s.cp.arming.isSome && (s.cp.cfg.mode = 1 || s.rg.frame % s.cp.cfg.divider = 0) then armBegin s else s
  let s := s.updEvid fun e => { e with runs := true }
  let vs := s.valleyOf s.cp.cfg.probes
  let es := s.valleyOf s.evidProbes
  { s with cp := { s.cp with valley := some (s.rg.frame, s.rg.frameNs.getD s.ns), valleyVals := vs, evid := { s.cp.evid with valley := es } } }

/-- CAPTURE_IDLE_TICK (R577, R590): the 100 µs pace while no frames run. -/
def captureIdle (s : State) : State :=
  if s.framesRun || !s.clocked then s else
  let s := evidSample (s.valleyOf s.evidProbes) s.ns s
  if s.capRuns && decide (s.cp.cfg.mode = 0) then userSample (s.valleyOf s.cp.cfg.probes) s.ns s
  else if s.capRuns then s else { s with cp := { s.cp with reports := [], edges := [] } }

/-- The Ridge goes to STOPPED (R598): the last frame's sample stands, and a user capture in frame mode stops. -/
def captureRidgeStop (s : State) : State :=
  let s := frameSamples s
  let s := { s with cp := { s.cp with valley := none } }
  if s.cp.cfg.mode = 0 then capStop 5 s else s

/-- An event of the engine's own detection (R576, R581): type 2 a report, type 3 an edge of an EVT pin, coded as the VALUE of a
condition. -/
def captureEvent (type value : Nat) (s : State) : State :=
  if !s.clocked then s else
  let ns := s.ns
  let pin := value % 16
  let rising := (value / 16).testBit 0
  let s := if type = 3 then { s with cp := { s.cp with edges := s.cp.edges ++ [(pin, rising, ns)] } } else s
  let cfg := s.cp.cfg
  let hit := if type = 3 then edgeMatches cfg.eventValue (pin, rising, ns)
    else reportMatches cfg.eventValue (value / 2 ^ 24, value / 256 % 65536, value % 8, ns)
  if !s.capRuns || cfg.mode ≠ 1 || cfg.eventType ≠ type || !hit then s
  else if s.cp.rearming then
    if 16 ≤ s.cp.events.length then capOverflow 2 s
    else { s with cp := { s.cp with events := s.cp.events ++ [(type, value, ns)] } }
  else userSample (if s.cp.frameVals = [] then cfg.probes.map fun _ => none else s.cp.frameVals) ns s

/-- CAPTURE_REARM (R587): the next segment starts and takes the events that waited. -/
def captureRearm (s : State) : State :=
  if !s.cp.rearming then s else
  let evs := s.cp.events
  let s := capRearm { s with cp := { s.cp with events := [] } }
  evs.foldl (fun s e => userSample s.cp.frameVals e.2.2 s) s

/-- A commit changes parameters of the engine (R597). -/
def captureCommit (user evid : Bool) (s : State) : State :=
  let s := if user then capStop 4 s else s
  if evid then (evidEnd 4 s).updEvid fun e => { e with ring := [], block := {} } else s

/-- The engine at a warm or cold reset, and at OFF (R594). -/
def captureReset (s : State) : State := { s with cp := {} }

/-! ### The stream's datagrams (R595) -/

/-- The port that carries the stream (R595). -/
def State.streamPort (s : State) : Nat :=
  match (s.jn.sessions.foldl (fun (b : Option Session) x => match b with
    | none => some x
    | some y => if x.id < y.id then some x else some y) none) with
  | some { link := .udp p _ _, .. } => p
  | _ => 0

/-- The records at the front of the stream that belong to one segment in sequence, at most `n`. -/
def streamRun : Nat → List (Nat × Nat × Nat) → List (Nat × Nat × Nat)
  | 0, _ => []
  | _, [] => []
  | n + 1, e :: es => e :: (streamRun n es).takeWhile fun x => decide (x.1 = e.1)

/-- CAPTURE_STREAM_SEND: one datagram of records in CW_15. -/
def streamSend (s : State) : State :=
  if !s.clocked then s else
  let port := s.streamPort
  let ip := s.parN P.CAP_STREAM_IP 0
  let dport := s.parN P.CAP_STREAM_PORT 0
  match s.cp.stream.head?, s.cp.streamEnds.head? with
  | none, none => s
  | h, e =>
    let k := match h, e with | some x, _ => x.1 | none, some k => k | none, none => 0
    let size := (s.seg k).size
    let run := streamRun ((1472 - 20 - 64) / max 1 size) s.cp.stream
    let rest := s.cp.stream.drop run.length
    let last := decide (e = some k) && !(rest.any fun x => decide (x.1 = k))
    match (s.port port).resolve s.tm.now (s.nextHop port ip) with
    | none => if s.parN P.ETH_IP port = 0 || !(s.port port).up then s else s.send (.arp port true 0 (s.nextHop port ip))
    | some _ =>
      if !(s.port port).up then s else
      let n := (run.map (·.2.2)).foldl (· + ·) 0
      let c := s.win 15
      let data := ringRead c c.rd n s
      let s := rdAdvance 15 n s
      let b := le 2 0x5A43 ++ [1, b2n last] ++ le 2 k ++ le 2 size ++
        le 4 (match run.head? with | some x => x.2.1 | none => (s.seg k).records.length) ++ le 2 run.length ++ [0, 0] ++ data ++
        (if last then segHeader k (s.seg k) else [])
      { s with cp := { s.cp with
          stream := rest, streamEnds := if last then s.cp.streamEnds.drop 1 else s.cp.streamEnds
          datagrams := s.cp.datagrams + 1 } }.send (.stream port ip dport (b ++ le 4 (crc32c b)))

/-! ### Commands (R600) -/

/-- A condition as its bytes code it. -/
def parseCond (bs : List Nat) : TrigCond :=
  { type := fld bs 0 1, probe := fld bs 1 1, op := fld bs 2 1, reserved := fld bs 3 1, value := fld bs 4 4 }

/-- The entries of CAPTURE_ARM. -/
def parseStates : Nat → List Nat → List TrigState
  | 0, _ => []
  | n + 1, bs => { logic := fld bs 0 1, onMatch := fld bs 1 1, count := fld bs 2 2, timeout := fld bs 4 2, onTimeout := fld bs 6 1
                   reserved := fld bs 7 1, a := parseCond (sub bs 8 8), b := parseCond (sub bs 16 8) } ::
      parseStates n (bs.drop 24)

/-- A condition in its stated ranges (R581). -/
def condOk (c : TrigCond) : Bool :=
  decide (c.type ≤ 3 ∧ c.reserved = 0 ∧ (c.type ≠ 1 ∨ (c.probe < 64 ∧ c.op ≤ 7)))

/-- An entry in its stated ranges (R580). -/
def entryOk (e : TrigState) : Bool :=
  decide (e.logic ≤ 3 ∧ e.reserved = 0 ∧ e.onMatch < 64 ∧ e.onTimeout < 64 ∧ (e.logic = 3 ∨ 1 ≤ e.count)) &&
    (decide (e.logic = 3) || (condOk e.a && (decide (e.logic = 0) || condOk e.b)))

/-- CAPTURE_ARM (R600). -/
def cmdCaptureArm (c : Cmd) (s : State) : Res × State :=
  let flags := fld c.args 0 1
  let states := parseStates 8 (c.args.drop 2)
  let mode := s.parN P.CAP_MODE 0
  if 1 < flags || !(states.all entryOk) || decide (fld c.args 1 1 ≠ 0) then (.fail stParamRange, s)
  else if s.capRuns || s.cp.arming.isSome || (decide (mode = 0) && !s.framesRun) then (.fail stWrongState, s)
  else
    let s := if flags = 1 then (List.range s.userSegs).foldl (fun s k => s.updSeg k fun _ => {}) s else s
    if (s.freeSeg s.userSegs 0).isNone then (.fail stBusy, s) else
    let cfg : CapConfig := {
      probes := s.userProbes, mode := mode, divider := max 1 (s.parN P.CAP_DIV 0), decim := s.parN P.CAP_DECIM 0
      pre := s.parN P.CAP_PRE 0, post := s.parN P.CAP_POST 0, rearm := decide (s.parN P.CAP_REARM 0 = 1)
      cermer := decide (s.parN P.CAP_CERMER 0 = 1), eventType := s.parN P.CAP_EVENT_TYPE 0
      eventValue := s.parN P.CAP_EVENT_VALUE 0, stream := decide (s.parN P.CAP_STREAM 0 = 1), states := states }
    (.pending, { s with cp := { s.cp with arming := some c.slot, cfg := cfg } })

/-- What a started CAPTURE_ARM does when no frames run: sampling begins at once. -/
def armIdle (s : State) : State := if s.framesRun then s else armBegin s

/-- Segments `first` to `last` that are held. -/
def State.heldIn (s : State) (first last : Nat) : List Nat :=
  (List.range (last + 1)).filter fun k => decide (first ≤ k) && (s.seg k).held

/-- CAPTURE_STOP with its three actions (R600). -/
def cmdCaptureStop (c : Cmd) (s : State) : Res × State :=
  let action := fld c.args 0 1
  let first := fld c.args 2 2
  let last := fld c.args 4 2
  if action = 0 then
    let s := match s.cp.arming with
      | some k => { s with cp := { s.cp with arming := none } }.finish k (.fail stCancelled)
      | none => s
    (.ok (le 2 0), capStop 2 s)
  else if 2 < action ∨ last < first ∨ s.parN P.CAP_SEGMENTS 0 ≤ last then (.fail stParamRange, s)
  else
    let evid := decide (action = 2)
    let other := if evid then decide (first < s.userSegs) else decide (s.userSegs ≤ last)
    let recording := (s.capRuns && !s.cp.rearming && decide (first ≤ s.cp.segment ∧ s.cp.segment ≤ last)) ||
      (match s.cp.evid.segment with | some k => decide (first ≤ k ∧ k ≤ last) | none => false)
    if other || recording then (.fail stWrongState, s) else
    let ks := s.heldIn first last
    let kind := match ks with | k :: _ => (s.seg k).kind | [] => 0
    let s := ks.foldl (fun s k => s.updSeg k fun _ => {}) s
    (.ok (le 2 ks.length), if ks = [] then s else s.report 9 0 8 (b2 first ++ b2 last ++ b1 kind))

/-- A read of records `first` to `first + n - 1` of segment `k`, header included, meets a word with an uncorrectable error (R756). -/
def State.capBroken (s : State) (k first n : Nat) : Bool :=
  let base := captureBase + k * s.segSize
  let size := (s.seg k).size
  s.mm.capBad.any fun a => decide ((base ≤ a ∧ a < base + 64) ∨
    (base + 64 + first * size ≤ a ∧ a < base + 64 + (first + n) * size))

/-- CAPTURE_READ (R596, R600, R756). -/
def cmdCaptureRead (c : Cmd) (s : State) : Res × State :=
  let k := fld c.args 0 2
  let first := fld c.args 2 4
  let n := fld c.args 6 2
  let g := s.seg k
  if s.parN P.CAP_SEGMENTS 0 ≤ k then (.fail stParamRange, s)
  else if !g.held then (.fail stWrongState, s)
  else
    let fit := (replyRoom c.link (s.session c.session) - 64) / max 1 g.size
    let rs := if first = 0xFFFFFFFF then [] else (g.records.drop first).take (min n fit)
    if s.capBroken k first rs.length then (.fail stHwFault, s) else
    (.ok (segHeader k g ++ rs.flatMap CapRecord.bytes), s)

/-- The code of a capture state (R600). -/
def capCode : CapState → Nat
  | .idle => 0
  | .pre => 1
  | .wait => 2
  | .post => 3
  | .stopped => 4
  | .overflow => 5

/-- CAPTURE_STATUS (R600). -/
def cmdCaptureStatus (_c : Cmd) (s : State) : Res × State :=
  let users := List.range s.userSegs
  let held := (users.filter fun k => (s.seg k).held).length
  let ev := (List.range (s.parN P.CAP_EVID_SEGMENTS 0)).foldl
    (fun (n : Nat) i => n + b2n (s.seg (s.userSegs + i)).held i) 0
  let size := s.recordSize (if s.capRuns then s.cp.cfg.probes else s.userProbes)
  (.ok ([capCode s.cp.state, s.cp.seqState] ++ le 2 s.cp.segment ++ le 2 held ++ le 2 (users.length - held) ++ le 8 ev ++
    le 2 s.cp.evid.missed ++ le 2 size ++ le 4 (s.segCapacity size) ++ le 4 (s.seg s.cp.segment).records.length ++
    le 4 s.cp.datagrams), s)

/-! ### Meanings -/

/-- CAPTURE_IDLE_TICK (R577). -/
def execCaptureIdleTick (dt : Nat) (s : State) : Out := .next (captureIdle (s.elapse dt))
/-- CAPTURE_EVENT (R576). -/
def execCaptureEvent (dt type value : Nat) (s : State) : Out := .next (captureEvent type value (s.elapse dt))
/-- CAPTURE_OVERFLOW (R589). -/
def execCaptureOverflow (dt cause : Nat) (s : State) : Out := .next (capOverflow cause (s.elapse dt))
/-- CAPTURE_REARM (R587). -/
def execCaptureRearm (dt : Nat) (s : State) : Out := .next (captureRearm (s.elapse dt))
/-- CAPTURE_STREAM_SEND (R595). -/
def execCaptureStreamSend (dt : Nat) (s : State) : Out := .next (streamSend (s.elapse dt))

end Sys2Proof.Machine
end

