-- ==== Sys2Proof/Machine/Field.lean ====
section
/-!
DEFINITION. Sys2Proof/Machine/Field.lean: the field inputs and outputs (chapter 15): input counters, outputs with joined members,
isolator links, supplies, IO_WRITE and IO_READ, and the operation counters.
-/
namespace Sys2Proof.Machine

/-! ### Inputs (R688, R690, R698) -/

/-- A supply has taken its first state and is not MISSING (R699). -/
def SupplySt.feeds (x : SupplySt) : Bool := x.known && decide (x.state ≠ .missing)

/-- The raw levels as the logic side takes them: inactive while side A's link is lost or VFLD_A is MISSING (R698, R699). -/
def State.rawInputs (s : State) (raw : Nat) : Nat := if s.fd.linkA && s.fd.va.feeds then raw % 2 ^ 32 else 0

/-- One step of an up/down counter from 0 to `n` (R688). -/
def countStep (n c : Nat) (active : Bool) : Nat := if active then min n (c + 1) else min n c - 1

/-- The filtered level that a counter value gives (R688). -/
def countLevel (n c : Nat) (level : Bool) : Bool := if n ≤ c then true else if c = 0 then false else level

/-- A pair is in use (R490). -/
def State.pairUsed (s : State) (p : Nat) : Bool := decide (p < 16 ∧ s.parN P.SAF_PAIR_MODE p ≠ 0)

/-- The monitor's counter of an input of a pair (R491); it holds during an off-pulse and 200 µs after it (R496). -/
def monStep (m : Nat) (active : Bool) (s : State) : State :=
  let n := s.parN P.SAF_PAIR_FILTER (m / 2)
  let hold := match Store.read 0 s.sf.pulse m with | 0 => false | t => decide (s.tm.now < t + 600 * cyclesPerUs)
  if !s.pairUsed (m / 2) || hold then s else
  let c := countStep n (Store.read 0 s.fd.monCounts m) active
  let old := s.fd.monFiltered.testBit m
  let lvl := countLevel n c old
  { s with fd := { s.fd with
      monCounts := Store.write 0 s.fd.monCounts m c, monFiltered := setBitN s.fd.monFiltered m lvl
      monAt := if lvl = old then s.fd.monAt else Store.write 0 s.fd.monAt m s.tm.now } }

/-- The reset input's filtered level is now `active`: a falling edge after at least 200 ms acts at the next cycle (R510). -/
def resetLevel (active : Bool) (s : State) : State :=
  let i := s.parN P.SAF_RESET_INPUT 0
  if i = 255 ∨ s.pairUsed (i / 2) then { s with sf := { s.sf with resetFrom := none } } else
  match s.sf.resetFrom with
  | none => if active then { s with sf := { s.sf with resetFrom := some s.tm.now } } else s
  | some t => if active then s else
    { s with sf := { s.sf with resetFrom := none, resetEdge := s.sf.resetEdge || decide (t + 200 * cyclesPerMs ≤ s.tm.now) } }

/-- The monitor's counter of the reset input, N = 30 (R510). -/
def monResetStep (raw : Nat) (s : State) : State :=
  let i := s.parN P.SAF_RESET_INPUT 0
  let c := countStep 30 s.fd.monResetCount (decide (i ≠ 255) && raw.testBit i)
  let lvl := countLevel 30 c s.fd.monReset
  resetLevel lvl { s with fd := { s.fd with monResetCount := c, monReset := lvl } }

/-- A sample of all inputs (R688, R690). -/
def inputSample (raw : Nat) (cfgEn : Bool) (s : State) : State :=
  if !s.clocked then s else
  let raw := s.rawInputs raw
  let en := cfgEn && s.fd.linkA && s.fd.va.feeds
  let s := (List.range 32).foldl (fun s m =>
    let n := s.parN P.FIO_IN_FILTER m
    let c := countStep n (Store.read 0 s.fd.counts m) (raw.testBit m)
    let s := { s with fd := { s.fd with
        counts := Store.write 0 s.fd.counts m c
        filtered := setBitN s.fd.filtered m (countLevel n c (s.fd.filtered.testBit m)) } }
    monStep m (raw.testBit m) s) s
  let cc := countStep 30 s.fd.cfgCount en
  let lvl := countLevel 30 cc s.fd.cfgEn
  monResetStep raw { s with fd := { s.fd with
    raw := raw, cfgCount := cc, cfgEn := lvl
    cfgFrom := if lvl then (if s.fd.cfgEn then s.fd.cfgFrom else some s.tm.now) else none } }

/-! ### Outputs (R691 to R697) -/

/-- The outputs joined with output `n`, itself among them (R691). -/
def State.joined (s : State) (n : Nat) : List Nat :=
  if (s.parN P.FIO_QUAD_MASK 0).testBit (n / 4) then [n / 4 * 4, n / 4 * 4 + 1, n / 4 * 4 + 2, n / 4 * 4 + 3]
  else if (s.parN P.FIO_PAIR_MASK 0).testBit (n / 2) then [n / 2 * 2, n / 2 * 2 + 1]
  else [n]

/-- An output is a test source of a pair in use (R496, R695). -/
def State.testSource (s : State) (n : Nat) : Bool :=
  (List.range 16).any fun p => s.pairUsed p && decide (s.parN P.SAF_PAIR_TSRC_A p = n ∨ s.parN P.SAF_PAIR_TSRC_B p = n)

/-- The level that the field side drives on OUT_n (R694, R695, R697): its safe level while the link or the supply's first state is missing
(R699), or until a command has come. -/
def State.outApplied (s : State) (n : Nat) : Bool :=
  let src := s.testSource n
  if !s.fd.linkB || !s.fd.vb.known || (s.fd.safe.testBit n && !src) then !src && decide (s.parN P.FIO_OUT_SAFE n = 1)
  else if (s.joined n).any fun m => s.fd.fault.testBit m then false
  else src || s.fd.cmd.testBit n

/-- The readback levels follow the levels applied; switchings from off to on are counted, test sources not (R700). -/
def outRefresh (s : State) : State :=
  (List.range 16).foldl (fun s n =>
    let new := s.outApplied n
    let old := s.fd.readback.testBit n
    { s with fd := { s.fd with
        readback := setBitN s.fd.readback n new
        switched := if new && !old && !s.testSource n then Store.upd 0 s.fd.switched n fun c => satN 32 (c + 1)
                    else s.fd.switched } }) s

/-- A fault of an output (R694). -/
def outFault (n cause : Nat) (s : State) : State :=
  if 16 ≤ n || s.fd.fault.testBit n || !s.clocked then s else
  let s := { s with fd := { s.fd with
    fault := setBitN s.fd.fault n true, faults := Store.upd 0 s.fd.faults n fun c => satN 32 (c + 1) } }
  (outRefresh s).report 0xD 2 4 (b1 n ++ b1 cause ++ b4 (compact s.ns))

/-- Outputs commanded off lose their latched faults (R694). -/
def clearFaults (mask levels : Nat) (s : State) : State :=
  (List.range 16).foldl (fun s n => if mask.testBit n && !levels.testBit n && s.fd.fault.testBit n then
    { s with fd := { s.fd with fault := setBitN s.fd.fault n false } }.report 0xD 1 5 (b1 n) else s) s

/-- The members of joined outputs that an IO_WRITE splits or drives apart (R692). -/
def State.splitJoin (s : State) (mask levels : Nat) : Bool :=
  (List.range 16).any fun n => mask.testBit n && (s.joined n).any fun m =>
    !mask.testBit m || (levels.testBit m != levels.testBit n)

/-- IO_WRITE (R692, R693). -/
def cmdIoWrite (c : Cmd) (s : State) : Res × State :=
  let mask := fld c.args 0 2
  let levels := fld c.args 2 2
  let smask := fld c.args 4 1 % 16
  let slev := fld c.args 5 1 % 16
  if s.splitJoin mask levels then (.fail stParamRange, s)
  else if (List.range 16).any fun n => mask.testBit n && s.testSource n then (.fail stWrongState, s)
  else
    let s := clearFaults mask levels { s with fd := { s.fd with
      cmd := (s.fd.cmd &&& (65535 - mask)) + (levels &&& mask)
      soutReq := (s.fd.soutReq &&& (15 - smask)) + (slev &&& smask) } }
    if !s.fd.linkB then (.fail stHwFault, s)
    else (.pending, { s with fd := { s.fd with
      writes := s.fd.writes ++ [(c.slot, mask, levels, if c.args.length = 6 then some (smask, slev) else none)] } })

/-- The field side's report on the oldest IO_WRITE (R693, R697). -/
def writeApplied (ok : Bool) (s : State) : State :=
  match s.fd.writes with
  | [] => s
  | (slot, mask, _, sreq) :: ws =>
    let s := { s with fd := { s.fd with writes := ws } }
    if !ok || !s.fd.linkB then s.finish slot (.fail stHwFault) else
    let smask := match sreq with | some (m, _) => m | none => 0
    let clear := mask + smask * 65536
    (outRefresh { s with fd := { s.fd with safe := s.fd.safe &&& (0xFFFFF - clear) } }).finish slot .ok

/-! ### Links (R697, R698) -/

/-- Field side B receives no refresh: every output in its safe state (R697). -/
def linkLostB (s : State) : State :=
  if !s.fd.linkB then s else
  let slots := s.fd.writes.map (·.1)
  let s := outRefresh { s with fd := { s.fd with linkB := false, lostB := some s.tm.now, safe := 0xFFFFF, writes := [] } }
  let s := slots.foldl (fun s k => s.finish k (.fail stHwFault)) s
  s.report 0xD 3 2 (b1 2 ++ b4 (compact s.ns))

/-- The logic side receives no refresh from side A (R698). -/
def linkLostA (s : State) : State :=
  if !s.fd.linkA then s else
  { s with fd := { s.fd with linkA := false, lostA := some s.tm.now } }.report 0xD 3 2 (b1 1 ++ b4 (compact s.ns))

/-- Refreshes resume on a side's link after a loss. -/
def linkRestored (sideB : Bool) (s : State) : State :=
  let lost := if sideB then s.fd.lostB else s.fd.lostA
  match lost with
  | none => s
  | some t =>
    let s := if sideB then { s with fd := { s.fd with linkB := true, lostB := none } }
             else { s with fd := { s.fd with linkA := true, lostA := none } }
    s.report 0xD 1 3 (b1 (if sideB then 2 else 1) ++ b4 ((s.tm.now - t) / cyclesPerUs))

/-- The links start up after a boot or a wake, and both supplies start MISSING (R697, R699). -/
def fieldStart (s : State) : State :=
  { s with fd := { s.fd with linkA := true, linkB := true, lostA := none, lostB := none, va := {}, vb := {}, safe := 0xFFFFF } }

/-- The logic side is silent: outputs in their safe states, waiting writes end (R697). -/
def fieldSilent (s : State) : State :=
  outRefresh { s with fd := { s.fd with linkA := false, linkB := false, safe := 0xFFFFF, writes := [] } }

/-! ### Supplies (R699) -/

/-- The state that a supply's last four measurements agree on, from its present state. -/
def SupplySt.next (x : SupplySt) : Option SupplyState :=
  if x.recent.length < 4 then none
  else if !x.known then
    (if x.recent.all (198 ≤ ·) then some .good else if x.recent.all (· < 120) then some .missing
     else if x.recent.all fun v => decide (120 ≤ v ∧ v < 198) then some .low else none)
  else match x.state with
    | .good => if x.recent.all (· < 120) then some .missing else if x.recent.all (· < 192) then some .low else none
    | .low => if x.recent.all (· < 120) then some .missing else if x.recent.all (198 ≤ ·) then some .good else none
    | .missing => if x.recent.all (198 ≤ ·) then some .good else none

/-- The code of a supply's state (R702). -/
def supplyCode : SupplyState → Nat
  | .good => 0
  | .low => 1
  | .missing => 2

/-- A measurement of one supply: the supply after it, and whether FIELD_SUPPLY is recorded. -/
def SupplySt.measure (x : SupplySt) (v : Nat) : SupplySt × Bool :=
  let x := { x with volts := v, recent := (v :: x.recent).take 4 }
  match x.next with
  | some st => ({ x with state := st, known := true }, if x.known then true else decide (st ≠ .good))
  | none => (x, false)

/-- FIELD_SUPPLY_MEASURE: both supplies measured, in 0.1 V. -/
def supplyMeasure (va vb : Nat) (s : State) : State :=
  if !s.clocked then s else
  let (a, ra) := s.fd.va.measure va
  let (b, rb) := s.fd.vb.measure vb
  let s := outRefresh { s with fd := { s.fd with va := a, vb := b } }
  let s := if ra then s.report 0xD 2 1 (b1 1 ++ b1 (supplyCode a.state) ++ b2 va) else s
  if rb then s.report 0xD 2 1 (b1 2 ++ b1 (supplyCode b.state) ++ b2 vb) else s

/-- FIO_SUPPLY (R702). -/
def State.fioSupply (s : State) : Nat :=
  b2n s.fd.cfgEn 7 + b2n s.fd.linkB 6 + b2n s.fd.linkA 5 + supplyCode s.fd.vb.state * 4 + supplyCode s.fd.va.state

/-! ### Counters and IO_READ (R700, R701) -/

/-- The counts written to the identity and ageing partition (R700). -/
def countersSave (s : State) : State := { s with fd := { s.fd with savedSwitched := s.fd.switched, savedFaults := s.fd.faults } }

/-- The IO_READ data as they stand now (R701). -/
def State.ioSnapshot (s : State) : List Nat :=
  let rb := (List.range 4).foldl (fun (n : Nat) k => n + b2n (decide (20 ≤ (s.sout k).volts)) (4 + k)) 0
  le 4 s.fd.filtered ++ le 4 s.fd.raw ++ le 2 s.fd.cmd ++ le 2 s.fd.readback ++ [s.fd.soutReq + rb, s.fioSupply] ++
    le 2 s.fd.fault ++ stampBytes s.ns

/-- The field publication at a frame start (R690, R701). -/
def fieldFrame (s : State) : State := { s with fd := { s.fd with published := s.fd.filtered, snap := s.ioSnapshot } }

/-- IO_READ (R701): the snapshot of the last frame start while frames run. -/
def cmdIoRead (_c : Cmd) (s : State) : Res × State :=
  (.ok (if s.framesRun && decide (s.fd.snap ≠ []) then s.fd.snap else s.ioSnapshot), s)

/-- A commit changed FIO_PAIR_MASK or FIO_QUAD_MASK: every output whose joining changes is switched off (R696). `before`
gives the members joined with each output before the commit. -/
def joinCommit (before : List (List Nat)) (s : State) : State :=
  let off := (List.range 16).filter fun n => decide (before.getD n [n] ≠ s.joined n)
  outRefresh { s with fd := { s.fd with cmd := off.foldl (fun c n => setBitN c n false) s.fd.cmd } }

/-! ### Meanings -/

/-- FIELD_INPUT_SAMPLE (R688). -/
def execFieldInputSample (dt raw : Nat) (cfgEn : Bool) (s : State) : Out := .next (inputSample raw cfgEn (s.elapse dt))
/-- OUT_FAULT_SET (R694). -/
def execOutFaultSet (dt output cause : Nat) (s : State) : Out := .next (outFault output cause (s.elapse dt))
/-- FIELD_LINK_LOST_B (R697). -/
def execFieldLinkLostB (dt : Nat) (s : State) : Out := .next (linkLostB (s.elapse dt))
/-- FIELD_LINK_LOST (R698). -/
def execFieldLinkLost (dt : Nat) (s : State) : Out := .next (linkLostA (s.elapse dt))
/-- FIELD_LINK_RESTORED (R697). -/
def execFieldLinkRestored (dt : Nat) (sideB : Bool) (s : State) : Out := .next (linkRestored sideB (s.elapse dt))
/-- FIELD_SUPPLY_MEASURE (R699). -/
def execFieldSupplyMeasure (dt va vb : Nat) (s : State) : Out := .next (supplyMeasure va vb (s.elapse dt))
/-- OPERATION_COUNTER_SAVE (R700). -/
def execOperationCounterSave (dt : Nat) (s : State) : Out := .next (countersSave (s.elapse dt))
/-- IO_WRITE_APPLIED (R693). -/
def execIoWriteApplied (dt : Nat) (ok : Bool) (s : State) : Out := .next (writeApplied ok (s.elapse dt))

end Sys2Proof.Machine
end

