-- ==== Sys2Proof/Machine/Monitor.lean ====
section
/-!
DEFINITION. Sys2Proof/Machine/Monitor.lean: the safety monitor's functions (chapter 10): its reports, causes and stops, safe axes with
speed and position functions, speed plausibility and slip, and the safe input pairs.
-/
namespace Sys2Proof.Machine

/-- T_SM (R452). -/
def State.tsm (s : State) : Nat := if s.pw.state = .standby then 400000 else 100000

/-- The cycle's start: the instant of the last one (R459). -/
def State.cycleAt (s : State) : Nat := s.sf.last.getD s.tm.now

/-! ### Records (R463, R528, R560) -/

/-- A record of the monitor with the stamp of its cycle start: severity 4 into its own queue, at most 4 in a cycle (R560). -/
def monReport (level code : Nat) (data : List Nat) (s : State) : State :=
  let s := { s with cp := { s.cp with reports := s.cp.reports ++ [(7, code, level, s.sf.lastNs)] } }
  let r : CairnRec := { ns := s.sf.lastNs, coarse := !s.clocked, scree := false, source := 7, level := level, code := code,
                        data := padTo 12 data }
  if level < 4 then s.file r
  else if s.cn.monEntered < 4 ∧ s.cn.monHeld = [] ∧ s.cn.monQ.length < 256 then
    { s with cn := { s.cn with monQ := s.cn.monQ ++ [r], monEntered := s.cn.monEntered + 1 } }
  else { s with cn := { s.cn with monHeld := s.cn.monHeld ++ [r] } }

/-- At a cycle start the monitor enters records it holds, at most 4 (R560). -/
def monEnter (s : State) : State :=
  let n := min 4 (256 - s.cn.monQ.length)
  let rs := s.cn.monHeld.take n
  { s with cn := { s.cn with monQ := s.cn.monQ ++ rs, monHeld := s.cn.monHeld.drop n, monEntered := rs.length } }

/-- The code of a group's state (R471, R517). -/
def groupCode : GroupMode → Nat
  | .released => 0
  | .ss1Ramp => 1
  | .ss1Time => 2
  | .sto => 3
  | .testing => 4

/-- The group status word (R517). -/
def GroupSt.word (g : GroupSt) : Nat :=
  g.sbc % 16 * 2 ^ 20 + b2n (g.causes.testBit 21) 19 + b2n (g.causes.testBit 20) 18 + b2n g.warn 17 + b2n (decide (g.causes ≠ 0)) 16 +
    b2n g.gdFb 11 + b2n g.gdEn 10 + b2n g.inhibit 9 + groupCode g.mode

/-! ### Groups, brakes and releases (R470, R473, R509) -/

/-- The groups of a mask. -/
def maskGroups (mask : Nat) : List Nat := (List.range 4).filter fun g => mask.testBit g

/-- The safe axis is in use: its channel, if SAF_AX_CH (or SAF_AX_CH2, with that base) names a designated one (R469, R488). -/
def State.saChan (s : State) (b k : Nat) : Option Nat :=
  let c := s.parN b k
  if c < s.channels ∧ s.designated c then some c else none

/-- The groups a safe axis acts on. -/
def State.saGroups (s : State) (k : Nat) : Nat := s.parN P.SAF_AX_GROUPS k % 16

/-- The brakes of a group (R470). -/
def State.groupBrakes (s : State) (g : Nat) : Nat :=
  let a := (List.range 8).foldl (fun (n : Nat) k => if (s.saGroups k).testBit g then n ||| s.parN P.SAF_AX_BRAKES k else n) 0
  (List.range s.machines).foldl (fun (n : Nat) m =>
    if (s.machineStages m) ≠ [] ∧ s.machineGroup m = g then n ||| s.parN P.SAF_MAC_BRAKES m else n) a

/-- The journal command that a safety command's slot belongs to ends; the monitor's record keeps its outcome (R457, R462). -/
def smFinish (slot : Nat) (r : Res) (s : State) : State :=
  match s.runningCmd slot, r with
  | some c, .done _ st _ _ _ =>
    { s with sf := { s.sf with ledger := s.sf.ledger.map fun (e : Nat × Nat × Nat × Option Nat) =>
        if e.1 = c.session ∧ e.2.1 = c.seq then (e.1, e.2.1, e.2.2.1, some st) else e } }.finishAt slot s.sf.lastNs r
  | _, _ => s

/-- The four cause masks. -/
def State.causeBytes (s : State) : List Nat := ((List.range 4).map fun g => b4 (s.group g).causes).flatten

/-- A SAFETY_RESET has no group left to release: SAFETY_RELEASED and its outcome (R508, R509). -/
def releaseEnd (x : ReleaseSt) (s : State) : State :=
  let s := if x.done = 0 then s else monReport 1 4 (b1 x.done ++ b2 x.session ++ b4 x.seq) s
  match x.slot with
  | some k => smFinish k (if x.status = 0 then .ok s.causeBytes else .fail x.status 0 s.causeBytes) s
  | none => s

/-- A group leaves the releases under way: released, or with a status (R509). -/
def releaseStep (g : Nat) (status : Nat) (s : State) : State :=
  let upd (x : ReleaseSt) : ReleaseSt :=
    if !x.left.testBit g then x else
    { x with left := setBitN x.left g false, done := if status = 0 then setBitN x.done g true else x.done
             status := if x.status = 0 then status else x.status }
  let xs := s.sf.releases.map upd
  (xs.filter fun x => decide (x.left = 0)).foldl (fun s x => releaseEnd x s)
    { s with sf := { s.sf with releases := xs.filter fun x => decide (x.left ≠ 0) } }

/-- SBC of the outputs `outs` by group `g`: those newly held switch off from the next output cycle on (R473). -/
def smSbc (g outs : Nat) (s : State) : State :=
  let outs := outs % 16
  let s := s.updGroup g fun x => { x with sbc := x.sbc ||| outs }
  (List.range 4).foldl (fun s n =>
    if outs.testBit n && !(s.sout n).held then
      monReport 4 3 (b1 (2 ^ n) ++ b2 (s.parN P.SAF_OUT_SBC_DELAY n))
        (s.updSout n fun x => { x with held := true, sbcNew := true, offAt := none })
    else s) s

/-- A running latent-test requirement of 72 h: the group's entry to STO takes cause 20 (R504). -/
def armedSto (g : Nat) (s : State) : State :=
  if !(s.group g).armed || (s.group g).causes.testBit 20 then s else
  let s := s.updGroup g fun x => { x with causes := setBitN x.causes 20 true, present := setBitN x.present 20 true, blocked := true }
  evidTrigger 1 20 s.sf.lastNs (monReport 4 1 (b1 (2 ^ g) ++ b1 20 ++ b1 255 ++ b4 (compact s.sf.lastNs)) s)

/-- A group goes to STO with SBC of `outs` (R471, R472, R477, flag SAFETY of R622); a release under way ends, a test in progress goes
on. -/
def smSto (g outs : Nat) (s : State) : State :=
  let s := if (s.group g).releasing then releaseStep g stSafetyDemand (s.updGroup g fun x => { x with releasing := false }) else s
  let m := (s.group g).mode
  let s := match m with
    | .released | .ss1Ramp | .ss1Time =>
      armedSto g (monReport 4 2 (b1 g ++ b1 (groupCode m) ++ b4 (s.group g).causes)
        ((identDemand g (s.updGroup g fun x => { x with mode := .sto, ss1 := none })).irq 3))
    | .sto | .testing => s
  smSbc g outs s

/-- SS1 of safe axis `k` starts in a group that is RELEASED (R474, R475, R477, R622). -/
def smSs1 (g k : Nat) (s : State) : State :=
  let s := if (s.group g).releasing then releaseStep g stSafetyDemand (s.updGroup g fun x => { x with releasing := false }) else s
  if (s.group g).mode ≠ .released then s else
  (identDemand g (s.updGroup g fun x => { x with mode := if s.parN P.SAF_AX_STOP k = 1 then .ss1Ramp else .ss1Time
                                                 ss1 := some (k, s.cycleAt, absR (s.safeAxis k).v) })).irq 3

/-- The action of a cause (R476): STO with the given outputs, or SS1 of a safe axis. -/
inductive SmAct where
  | sto (outs : Nat → Nat)
  | ss1 (axis : Nat)

/-- A group acts. -/
def smAct (a : SmAct) (g : Nat) (s : State) : State :=
  match a with
  | .sto outs => smSto g (outs g) s
  | .ss1 k => smSs1 g k s

/-- A cause that several pairs or machines share: it acts for each of them (R476, R478). -/
def sharedCause (c : Nat) : Bool := decide (c = 0 ∨ c = 1 ∨ c = 10 ∨ c = 11 ∨ c = 18)

/-- A brake test in progress ends with `r`: its output returns to the host's request, its axis to position control (R506, R507). -/
def brakeStop (r : BrakeTest → Res) (s : State) : State :=
  match s.sf.brake with
  | none => s
  | some b =>
    let s := { s with sf := { s.sf with brake := none } }
    let s := s.updSout b.output fun x => { x with brakeTest := false }
    let s := s.updAxis b.ridge fun x => if x.brake.isSome then { x with brake := none, integ := b.hold } else x
    evidEnd 1 (smFinish b.slot (r b) s)

/-- Results of a brake test as its reply gives them (R507): output, result, excursion, peak current. -/
def brakeData (b : BrakeTest) : List Nat :=
  (b.results.map fun x => b1 x.1 ++ b1 x.2.1 ++ b4 x.2.2.1 ++ b2 x.2.2.2).flatten

/-- The monitor takes cause `c` in the groups of `mask` (R476, R477): it latches, is recorded with the stamp of the cycle, opens
evidence, and acts. A safety demand ends a brake test (R507). -/
def smTake (c mask origin : Nat) (a : SmAct) (s : State) : State :=
  let mask := mask % 16
  let new := (List.range 4).foldl (fun (n : Nat) g => if mask.testBit g && !(s.group g).causes.testBit c then n + 2 ^ g else n) 0
  let s := (maskGroups mask).foldl (fun s g => s.updGroup g fun x => { x with
    causes := setBitN x.causes c true, present := setBitN x.present c true }) s
  let s := if new = 0 then s else
    evidTrigger 1 c s.sf.lastNs (monReport 4 1 (b1 new ++ b1 c ++ b1 origin ++ b4 (compact s.sf.lastNs)) s)
  let s := (maskGroups (if sharedCause c then mask else new)).foldl (fun s g => smAct a g s) s
  if new = 0 ∨ c = 21 then s else brakeStop (fun b => .fail stSafetyDemand 0 (brakeData b)) s

/-- STO with SBC of each group's brakes. -/
def State.stoSbc (s : State) : SmAct := .sto s.groupBrakes

/-- STO alone. -/
def stoOnly : SmAct := .sto fun _ => 0

/-! ### Pairs (R490 to R496) -/

/-- The demands of channels A and B from their filtered levels (R490). -/
def State.pairDemands (s : State) (p : Nat) : Bool × Bool :=
  let a := s.fd.monFiltered.testBit (2 * p)
  let b := s.fd.monFiltered.testBit (2 * p + 1)
  if s.parN P.SAF_PAIR_MODE p = 1 then (!a, !b) else (!a, b)

/-- The last filtered change of a pair's channel. -/
def State.pairAt (s : State) (p : Nat) (chB : Bool) : Nat := Store.read 0 s.fd.monAt (2 * p + b2n chB)

/-- SAF_PAIR_DISC in cycles. -/
def State.pairDisc (s : State) (p : Nat) : Nat := s.parN P.SAF_PAIR_DISC p * cyclesPerMs

/-- DISCREPANCY latches (R493). -/
def discLatch (p : Nat) (chB demand : Bool) (s : State) : State :=
  if (s.pair p).disc then s.updPair p fun x => { x with waits := none } else
  monReport 4 5 (b1 p ++ b1 (b2n chB) ++ b1 (if demand then 1 else 2))
    (s.updPair p fun x => { x with disc := true, waits := none, both := false, clean := false })

/-- The timing of a discrepancy whose first change waits for the other channel (R493). Between SAF_PAIR_DISC and one T_SM more,
either outcome may occur: a free value decides. -/
def discTiming (p : Nat) (chB demand : Bool) (t : Nat) (s : State) : State :=
  let x := s.pair p
  let first := if chB then x.b else x.a
  let other := if chB then x.a else x.b
  let limit := t + s.pairDisc p
  if first ≠ demand then discLatch p chB demand s
  else if other = demand then
    let at_ := s.pairAt p (!chB)
    if at_ ≤ limit then s.updPair p fun x => { x with waits := none }
    else if limit + 100000 ≤ at_ then discLatch p chB demand s
    else
      let (f, s) := s.take 2
      if f = 1 then discLatch p chB demand s else s.updPair p fun x => { x with waits := none }
  else if limit + 100000 ≤ s.cycleAt then discLatch p chB demand s
  else if limit < s.cycleAt then
    let (f, s) := s.take 2
    if f = 1 then discLatch p chB demand s else s
  else s

/-- A new difference between the channels starts the timing (R493); two changes between cycle starts are compared at once. -/
def discStart (p : Nat) (old new : Bool × Bool) (s : State) : State :=
  if old = new || old.1 != old.2 || (s.pair p).disc then s else
  let ta := s.pairAt p false
  let tb := s.pairAt p true
  if new.1 != old.1 && new.2 != old.2 then
    let chB := decide (tb < ta)
    let gap := if chB then ta - tb else tb - ta
    if gap ≤ s.pairDisc p then s else
    let (f, s) := s.take 2
    if f = 1 then discLatch p chB (if chB then new.2 else new.1) s else s
  else
    let chB := decide (new.2 ≠ old.2)
    s.updPair p fun x => { x with waits := some (chB, if chB then new.2 else new.1, if chB then tb else ta) }

/-- The clean operation that a latched DISCREPANCY asks for (R494). -/
def discClean (p : Nat) (s : State) : State :=
  let x := s.pair p
  if !x.disc then s
  else if x.a && x.b then s.updPair p fun x => { x with both := true, clean := false }
  else if !x.a && !x.b then
    if !x.both then s else
    let ta := s.pairAt p false
    let tb := s.pairAt p true
    s.updPair p fun x => { x with both := false, clean := decide ((if ta < tb then tb - ta else ta - tb) ≤ s.pairDisc p) }
  else if x.clean then s.updPair p fun x => { x with clean := false } else s

/-- A pair's levels latched at a cycle start and its discrepancy decided (R491 to R494). -/
def pairLatch (p : Nat) (s : State) : State :=
  if !s.pairUsed p then s.updPair p fun x => { x with seen := false, waits := none, demand := false } else
  let new := s.pairDemands p
  let x := s.pair p
  let old := if x.seen then (x.a, x.b) else new
  let s := s.updPair p fun x => { x with a := new.1, b := new.2, seen := true }
  let s := match (s.pair p).waits with
    | some (chB, d, t) => discTiming p chB d t s
    | none => discStart p old new s
  let s := match (s.pair p).waits with
    | some (chB, d, t) => if x.waits.isNone then discTiming p chB d t s else s
    | none => s
  let s := discClean p s
  s.updPair p fun x => { x with demand := x.a || x.b || x.disc }

/-- The function and target of a pair (R495). -/
def State.pairFunc (s : State) (p : Nat) : Nat := s.parN P.SAF_PAIR_FUNC p
def State.pairTarget (s : State) (p : Nat) : Nat := s.parN P.SAF_PAIR_TARGET p

/-- The groups a pair acts on. -/
def State.pairGroups (s : State) (p : Nat) : Nat :=
  if s.pairFunc p < 3 then s.pairTarget p % 16 else if s.pairTarget p < 8 then s.saGroups (s.pairTarget p) else 0

/-- The action of a pair's demand, discrepancy or test fault (R476): STO for 0x01, with SBC for 0x02, SS1 per SAF_AX_STOP for 0x03. For
the other functions STO with SBC of the safe axis's groups is taken (DEDUCED, notes/assumptions/60.md). -/
def State.pairAct (s : State) (p : Nat) : SmAct :=
  if s.pairFunc p = 1 then stoOnly
  else if s.pairFunc p = 3 ∧ s.parN P.SAF_AX_STOP (s.pairTarget p) ≠ 0 then .ss1 (s.pairTarget p)
  else s.stoSbc

/-- A pair evaluated (R459 step 2, R476, R494, R496). -/
def pairEval (p : Nat) (s : State) : State :=
  if !s.pairUsed p then s else
  let x := s.pair p
  let gm := s.pairGroups p
  let s := if x.demand && decide (s.pairFunc p ≤ 3) then smTake (if s.pairFunc p = 3 then 1 else 0) gm p (s.pairAct p) s else s
  let s := if x.disc then smTake 10 gm p (s.pairAct p) s else s
  if x.testBad then smTake 11 gm p (s.pairAct p) s else s

/-- A function of a safe axis is demanded by some pair (R495). -/
def State.saFunc (s : State) (k f : Nat) : Bool :=
  (List.range 16).any fun p => s.pairUsed p && (s.pair p).demand && decide (s.pairFunc p = f ∧ s.pairTarget p = k)

/-! ### Safe axes (R469 to R489) -/

/-- The speed over the present history (R469), counts/s. -/
def speedOver (hist : List Int) (w t : Nat) : Rat :=
  let m := min w (hist.length - 1)
  match hist.head?, hist[m]? with
  | some c, some c0 => if m = 0 then 0 else ((c - c0 : Int) : Rat) * cyclesPerS / (m * t : Nat)
  | _, _ => 0

/-- A count taken into an extended position. -/
def extendTo (pos : Option Int) (c : Int) : Int :=
  match pos with
  | none => c
  | some p => p + wrap32 (c - p)

/-- The limit of SLS k of a safe axis. -/
def State.slsLimit (s : State) (k j : Nat) : Nat :=
  match j with
  | 0 => s.parN P.SAF_AX_SLS_0 k
  | 1 => s.parN P.SAF_AX_SLS_1 k
  | 2 => s.parN P.SAF_AX_SLS_2 k
  | _ => s.parN P.SAF_AX_SLS_3 k

/-- Every group of a safe axis satisfies `p`, and it has one. -/
def State.saAll (s : State) (k : Nat) (p : GroupSt → Bool) : Bool :=
  let gs := maskGroups (s.saGroups k)
  decide (gs ≠ []) && gs.all fun g => p (s.group g)

/-- Counts and speeds of a safe axis latched (R469, R488). -/
def saRead (k c : Nat) (s : State) : State :=
  let x := s.safeAxis k
  let w := s.parN P.SAF_AX_SPEED_WIN k
  let p := extendTo x.pos (Store.read 0 s.sf.counts c)
  let h := (p :: x.history).take 41
  let v := speedOver h w s.tsm
  let still := decide (absR v ≤ s.parN P.SAF_AX_STANDSTILL_V k)
  let s := s.updSafeAxis k fun x => { x with
    pos := some p, history := h, v := v
    stillFrom := if still then some (x.stillFrom.getD s.cycleAt) else none }
  match s.saChan P.SAF_AX_CH2 k with
  | none => s
  | some c2 =>
    let p2 := extendTo x.pos2 (Store.read 0 s.sf.counts c2)
    s.updSafeAxis k fun x => { x with pos2 := some p2, history2 := (p2 :: x.history2).take 41 }

/-- SOS (R484, R485). The watch anchors again after a violation (DEDUCED, notes/assumptions/60.md). -/
def saSos (k : Nat) (s : State) : State :=
  let x := s.safeAxis k
  let auto := decide (s.parN P.SAF_AX_SSM_AUTO k = 1) && s.saAll k fun g => decide (g.mode = .sto)
  if !(s.saFunc k 0x0A || auto) then s.updSafeAxis k fun x => { x with anchor := none } else
  let p := x.pos.getD 0
  let a := x.anchor.getD p
  let s := s.updSafeAxis k fun x => { x with anchor := some a }
  if (p - a).natAbs ≤ s.parN P.SAF_AX_SSM_WINDOW k then s else
  let s := smTake 6 (s.saGroups k) k s.stoSbc s
  let pw := match s.pw.state with | .run => 0 | .doze => 1 | .standby => 2 | .off => 3
  monReport 4 6 (b1 k ++ leI 4 (p - a) ++ b1 pw) (s.updSafeAxis k fun x => { x with anchor := some p })

/-- SMS (R481) and the feedback fault of the axis's channel (R501): an illegal transition or alarm, or counts that differ. -/
def saSpeed (k c illegal : Nat) (s : State) : State :=
  let s := if s.parN P.SAF_AX_VMAX k < absR (s.safeAxis k).v then smTake 2 (s.saGroups k) k s.stoSbc s else s
  if illegal.testBit c || (s.chan c).present.testBit 10 || decide (4 ≤ Store.read 0 s.sf.differs c) then
    smTake 9 (s.saGroups k) k s.stoSbc s else s

/-- The instant from which SLS limit `j` is enforced, as of this cycle (R482). -/
def slsStep (k j : Nat) (s : State) : State :=
  if !s.saFunc k (4 + j) then s.updSafeAxis k fun x => { x with slsFrom := Store.write none x.slsFrom j none } else
  let excess := decide (s.slsLimit k j < absR (s.safeAxis k).v)
  let grace := s.parN P.SAF_AX_SS1_TIME k * cyclesPerMs
  s.updSafeAxis k fun x =>
    let t := match Store.read none x.slsFrom j with
      | none => if excess then s.cycleAt + grace else s.cycleAt
      | some t => if excess then t else min t s.cycleAt
    { x with slsFrom := Store.write none x.slsFrom j (some t) }

/-- SLS (R482): the lowest limit that is enforced. -/
def saSls (k : Nat) (s : State) : State :=
  let s := (List.range 4).foldl (fun s j => slsStep k j s) s
  let x := s.safeAxis k
  let hit := (List.range 4).any fun j => match Store.read none x.slsFrom j with
    | some t => decide (t ≤ s.cycleAt) && decide (s.slsLimit k j < absR x.v)
    | none => false
  if hit then smTake 3 (s.saGroups k) k s.stoSbc s else s

/-- SDI (R483). -/
def saSdi (k : Nat) (s : State) : State :=
  let p := (s.safeAxis k).pos.getD 0
  let tol : Int := s.parN P.SAF_AX_SDI_TOL k
  let qp := if s.saFunc k 8 then some (min ((s.safeAxis k).sdiPos.getD p) p) else none
  let qn := if s.saFunc k 9 then some (max ((s.safeAxis k).sdiNeg.getD p) p) else none
  let s := s.updSafeAxis k fun x => { x with sdiPos := qp, sdiNeg := qn }
  let bad := (match qp with | some q => decide (tol < p - q) | none => false) ||
    (match qn with | some q => decide (tol < q - p) | none => false)
  if bad then smTake 4 (s.saGroups k) k s.stoSbc s else s

/-- An estimate stage's voltages and currents in V and A as alpha and beta (R486). -/
def clarke (a b c : Rat) : Rat × Rat := ((2 * a - b - c) / 3, (b - c) * 5773502691896257645 / 10000000000000000000)

/-- The magnitude of a pair. -/
def mag2 (v : Rat × Rat) : Rat := sqrtR (v.1 * v.1 + v.2 * v.2)

/-- The electrical speed of a safe axis (R486). -/
def saEstimate (k : Nat) (e : EstInput) (s : State) : State :=
  let vdc : Rat := (e.vdc : Rat) * s.parN P.SAF_AX_DC_FS k / 10 / 32767
  let ifs : Rat := (s.parN P.SAF_AX_I_FS k : Rat) / 1000 / 32767
  let v := clarke (e.onU * vdc / 32767) (e.onV * vdc / 32767) (e.onW * vdc / 32767)
  let q := clarke (e.iU : Rat) (e.iV : Rat) (-(e.iU + e.iV : Int) : Rat)
  let i := (q.1 * ifs, q.2 * ifs)
  let rs : Rat := (s.parN P.SAF_AX_RS k : Rat) / 1000000
  let ls : Rat := (s.parN P.SAF_AX_LS k : Rat) / 1000000000
  let psi : Rat := (s.parN P.SAF_AX_PSI k : Rat) / 1000000
  let x := s.safeAxis k
  let (e0, i0) := x.elPrev.getD ((0, 0), i)
  let ts : Rat := (s.tsm : Rat) / cyclesPerS
  let eab := (v.1 - rs * i.1 - ls * (i.1 - i0.1) / ts, v.2 - rs * i.2 - ls * (i.2 - i0.2) / ts)
  let cross := e0.1 * eab.2 - e0.2 * eab.1
  let we := (if cross < 0 then -1 else 1) * mag2 eab / psi
  let vel := we * s.parN P.SAF_AX_COUNTS_REV k * 10000000000000000000 /
    (2 * 31415926535897932385 * s.parN P.SAF_AX_POLE_PAIRS k)
  s.updSafeAxis k fun x => { x with
    vEl := vel, elPrev := some (eab, i), current := (mag2 q).floor.toNat }

/-- Speed plausibility (R486, R487, R525). `es` are the estimate stages' inputs of this cycle. -/
def saPlaus (k : Nat) (es : List EstInput) (s : State) : State :=
  let st := s.parN P.SAF_AX_EST_STAGE k
  match es.find? fun e => decide (e.axis = k) with
  | none => s.updSafeAxis k fun x => { x with plausFrom := none, elPrev := none, current := 0 }
  | some e =>
    if s.stages ≤ st then s else
    let drives := decide ((s.stage st).mode = .driving)
    if !e.ok then
      let s := s.updSafeAxis k fun x => { x with plausFrom := none, elPrev := none }
      if drives then smTake 7 (s.saGroups k) k s.stoSbc s else s
    else
      let s := saEstimate k e s
      let x := s.safeAxis k
      let floor : Rat := s.parN P.SAF_AX_PLAUS_VMIN k
      let m := max (max (absR x.v) (absR x.vEl)) floor
      let bad := drives && s.saAll k (fun g => decide (g.mode = .released)) &&
        decide ((s.parN P.SAF_AX_PLAUS_TOL k : Rat) / 32768 * m < absR (x.v - x.vEl))
      if !bad then s.updSafeAxis k fun x => { x with plausFrom := none } else
      let from_ := x.plausFrom.getD s.cycleAt
      let s := s.updSafeAxis k fun x => { x with plausFrom := some from_ }
      if s.cycleAt < from_ + s.parN P.SAF_AX_PLAUS_TIME k * cyclesPerMs then s else
      let had := maskGroups (s.saGroups k) |>.all fun g => (s.group g).causes.testBit 7
      let s := smTake 7 (s.saGroups k) k s.stoSbc s
      if had then s else monReport 4 7 (b1 k ++ leI 4 (satI 32 (roundRat x.v)) ++ leI 4 (satI 32 (roundRat x.vEl))) s

/-- SLIP_FAULT by a criterion (R488, R489). -/
def slipTake (k crit : Nat) (d : Rat) (s : State) : State :=
  let had := maskGroups (s.saGroups k) |>.all fun g => (s.group g).causes.testBit 8
  let s := smTake 8 (s.saGroups k) k s.stoSbc s
  if had then s else monReport 4 8 (b1 k ++ b1 crit ++ leI 4 (satI 32 (roundRat d))) s

/-- The slip anchor is due to be taken again: 1 s at standstill (R488). -/
def State.slipStill (s : State) (k : Nat) : Bool :=
  match (s.safeAxis k).stillFrom with
  | some t => decide (t + cyclesPerS ≤ s.cycleAt)
  | none => false

/-- Slip (R488, R489). -/
def saSlip (k : Nat) (s : State) : State :=
  match s.saChan P.SAF_AX_CH2 k with
  | none => s
  | some _ =>
    let x := s.safeAxis k
    let ratio : Rat := (s.par P.SAF_AX_RATIO_NUM k : Rat) / s.parN P.SAF_AX_RATIO_DEN k
    let d := (x.pos2.getD 0 : Rat) * ratio - x.pos.getD 0
    let v2 := speedOver x.history2 (s.parN P.SAF_AX_SPEED_WIN k) s.tsm
    let d0 := if s.slipStill k then d else x.slip.getD d
    let s := s.updSafeAxis k fun x => { x with slip := some d0, slipD := d }
    let win := s.parN P.SAF_AX_SLIP_WINDOW k
    let s := if win ≠ 0 ∧ (win : Rat) < absR (d - d0) then slipTake k 1 (d - d0) s else s
    let tol := s.parN P.SAF_AX_SLIP_TOL k
    let bad := decide (tol ≠ 0) && decide ((s.parN P.SAF_AX_PLAUS_VMIN k : Rat) ≤ absR x.v) &&
      decide ((tol : Rat) / 32768 * absR x.v < absR (v2 * ratio - x.v))
    if !bad then s.updSafeAxis k fun x => { x with slipFrom := none } else
    let from_ := x.slipFrom.getD s.cycleAt
    let s := s.updSafeAxis k fun x => { x with slipFrom := some from_ }
    if s.cycleAt < from_ + s.parN P.SAF_AX_SLIP_TIME k * cyclesPerMs then s else slipTake k 2 (d - d0) s

/-- The course of SS1 in a group (R474, R475). -/
def groupSs1 (g : Nat) (s : State) : State :=
  match (s.group g).ss1 with
  | none => s
  | some (k, t0, v0) =>
    let v := absR (s.safeAxis k).v
    let t : Rat := ((s.cycleAt - t0 : Nat) : Rat) / cyclesPerS
    let margin : Rat := s.parN P.SAF_AX_SS1_MARGIN k
    let limit := max (v0 + margin - s.parN P.SAF_AX_SS1_DECEL k * t) margin
    let ramp := decide ((s.group g).mode = .ss1Ramp)
    if ramp && decide (limit < v) then smTake 5 (s.saGroups k) k s.stoSbc s
    else if decide (t0 + s.parN P.SAF_AX_SS1_TIME k * cyclesPerMs ≤ s.cycleAt) ||
        (ramp && decide (v ≤ s.parN P.SAF_AX_STANDSTILL_V k)) then smSto g (s.groupBrakes g) s
    else s

/-- A safe axis evaluated in a cycle (R459 step 2); in STANDBY only its standstill monitoring runs (R452, R485). -/
def saEval (k illegal : Nat) (es : List EstInput) (s : State) : State :=
  match s.saChan P.SAF_AX_CH k with
  | none => s
  | some c =>
    let s := saSos k (saRead k c s)
    if s.pw.state = .standby then s else
    let s := saSdi k (saSls k (saSpeed k c illegal s))
    let s := saSlip k (saPlaus k es s)
    (List.range 4).foldl (fun s g => if ((s.group g).ss1.map (·.1)) = some k then groupSs1 g s else s) s

end Sys2Proof.Machine
end

