-- ==== Sys2Proof/Machine/Params.lean ====
section
/-!
DEFINITION. Sys2Proof/Machine/Params.lean: parameter values on the wire (R10, R424, R433), the checks of a write (R802), a set of
writes laid over the running set, and GET_PARAM and GET_PARAM_INFO (R433, R636).
-/
namespace Sys2Proof.Machine

/-- Bits of a type code (R433): the low digit gives the width. -/
def typeBits (t : Nat) : Nat := 8 * 2 ^ (t % 16 - 1)

/-- The value that 8 bytes spell for a type code (R424, R433): zero- or sign-extended, else none. -/
def decodeValue (t raw : Nat) : Option Int :=
  let b := typeBits t
  if 0x10 ≤ t then
    let v := sx 64 raw
    if -(2 ^ (b - 1) : Int) ≤ v ∧ v < 2 ^ (b - 1) then some v else none
  else if raw < 2 ^ b then some (raw : Int) else none

/-- The writes of a payload: ID in 4 bytes, value in 8 (R424). -/
def parseWrites : Nat → List Nat → List (Nat × Nat)
  | 0, _ => []
  | n + 1, bs => if bs = [] then [] else (fld bs 0 4, fld bs 4 8) :: parseWrites n (bs.drop 12)

/-- The payload of writes. -/
def writesBytes (ws : List (Nat × Int)) : List Nat :=
  le 2 ws.length ++ (ws.map fun w => le 4 w.1 ++ leI 8 w.2).flatten

/-- One write checked: PARAM_UNKNOWN, PARAM_EFFECT unless `ok`, PARAM_RANGE (R424, R802), or its value. -/
def State.checkWrite (s : State) (ok : ParamDef → Bool) (id raw : Nat) : Except Nat Int :=
  match s.paramDef id with
  | none => .error stParamUnknown
  | some d =>
    if !ok d then .error stParamEffect else
    match decodeValue d.type raw with
    | none => .error stParamRange
    | some v => if d.inRange v then .ok v else .error stParamRange

/-- Writes laid over a set, all or nothing: the status of the first failing write, or the set (R424). -/
def State.layWrites (s : State) (ok : ParamDef → Bool) : List (Nat × Nat) → Store (Option Int) → Except Nat (Store (Option Int))
  | [], m => .ok m
  | (id, raw) :: ws, m =>
    match s.checkWrite ok id raw with
    | .error e => .error e
    | .ok v => State.layWrites s ok ws (Store.write none m id (some v))

/-- The value of a parameter in the running set with writes `w` laid over it (R426). -/
def State.seen (s : State) (w : Store (Option Int)) (id : Nat) : Int :=
  match Store.read none w id with
  | some v => v
  | none => s.parId id

/-- The same of instance `i`, as a natural number. -/
def State.seenN (s : State) (w : Store (Option Int)) (b i : Nat) : Nat := (s.seen w (b + i * 2 ^ 16)).toNat

/-- The state whose running set has writes `w` laid over it: what a check of a draft looks at. -/
def State.over (s : State) (w : Store (Option Int)) : State :=
  { s with pm := { s.pm with run := w.foldl (fun m e => Store.write none m e.1 e.2) s.pm.run } }

/-- The four parameters of the device key (R636). -/
def isKeyParam (id : Nat) : Bool :=
  decide (id = P.ETH_AUTH_KEY_0 ∨ id = P.ETH_AUTH_KEY_1 ∨ id = P.ETH_AUTH_KEY_2 ∨ id = P.ETH_AUTH_KEY_3)

/-- A value as GET_PARAM shows it: the key reads as its check value in ETH_AUTH_KEY_0 and as 0 otherwise (R636). -/
def State.shown (s : State) (id : Nat) (v : Int) : Int :=
  if !isKeyParam id then v else if id = P.ETH_AUTH_KEY_0 then (s.keyCheck : Int) else 0

/-- GET_PARAM (R433). An unknown source is PARAM_RANGE; a parameter that a draft does not write shows its running value
(DESIGN CHOICE, notes/assumptions/40.md). -/
def cmdGetParam (c : Cmd) (s : State) : Res × State :=
  let id := fld c.args 0 4
  let src := fld c.args 4 1
  if 4 < src then (.fail stParamRange, s) else
  match s.paramDef id with
  | none => (.fail stParamUnknown, s)
  | some d =>
    let v := if src = 0 then s.parId id else s.seen (s.draft (src - 1)).writes id
    (.ok (le 4 id ++ [d.type, d.effect, 0, 0] ++ leI 8 (s.shown id v)), s)

/-- The least and greatest value of a row's range. -/
def ParamDef.bounds (d : ParamDef) : Int × Int :=
  match d.spans with
  | [] => (0, 0)
  | p :: ps => ps.foldl (fun (b : Int × Int) q => (min b.1 q.1, max b.2 q.2)) p

/-- A name in 16 bytes of ASCII, zero-padded (R433); a longer one is cut. -/
def nameBytes (n : String) : List Nat := padTo 16 (n.toList.map fun ch => ch.toNat)

/-- The parameters whose default is "image" (R801). -/
def imageDefaults : List Nat :=
  [P.STG_MACHINE, P.STG_SET, P.STG_DC_CHANNEL, P.STG_SINC3_DEC, P.STG_DC_SINC3_DEC, P.MAC_FB_PRIMARY, P.MAC_FB_SECOND, P.PWM_PHASE,
   P.PWM_ALIGN, P.PWM_UPDATE, P.FB_MODE, P.FB_SER_READY, P.AX_TYPE, P.AX_FB_CHANNEL, P.AX_MACHINE, P.AX_RM, P.AX_REMOTE_LINK,
   P.AX_REMOTE_NODE, P.TSH_MACHINE_0, P.TSH_MACHINE_1, P.TSH_MACHINE_2, P.TSH_MACHINE_3, P.LT_MODE, P.LT_INDEX_AXIS,
   P.LT_TARGET_AXIS, P.LT_NBINS]

/-- The default that GET_PARAM_INFO shows: the table's, or the active image's initial value for one whose default is "image". -/
def State.shownDefault (s : State) (id : Nat) (d : ParamDef) : Int :=
  if imageDefaults.contains d.base then
    match (s.image).bind fun im => Store.read none im.body.init id with
    | some v => v
    | none => d.dflt
  else d.dflt

/-- GET_PARAM_INFO (R433). -/
def cmdGetParamInfo (c : Cmd) (s : State) : Res × State :=
  let id := fld c.args 0 4
  match s.paramDef id with
  | none => (.fail stParamUnknown, s)
  | some d =>
    (.ok (le 4 id ++ [d.type, d.effect, b2n d.structural, 0] ++ leI 8 d.bounds.1 ++ leI 8 d.bounds.2 ++
      leI 8 (s.shownDefault id d) ++ nameBytes d.name), s)

end Sys2Proof.Machine
end

