-- ==== Sys2Proof/Machine/MonitorRun.lean ====
section
/-!
DEFINITION. Sys2Proof/Machine/MonitorRun.lean: the safety monitor at work (chapter 10): its cycle, outputs and tests, the brake test, the
safety configuration, its commands, its publication, and its start and faults.
-/
namespace Sys2Proof.Machine

/-- The monitor has its supply and is out of reset (R466). -/
def State.monPowered (s : State) : Bool := decide (s.pw.state ≠ .off)

/-- What the monitor decides at the present instant, outside the pace of its cycle. -/
def smNow (f : State → State) (s : State) : State :=
  let last := s.sf.last
  let ns := s.sf.lastNs
  let s' := f { s with sf := { s.sf with last := some s.tm.now, lastNs := s.busNs } }
  { s' with sf := { s'.sf with last := last, lastNs := ns } }

/-! ### Outputs (R452, R472, R473, R497, R509) -/

/-- A group's outputs as prepared in the last cycle. A release ends when its inhibit goes off. -/
def groupOut (g : Nat) (s : State) : State :=
  let x := s.group g
  let runs := match x.mode with | .released | .ss1Ramp | .ss1Time => true | .sto | .testing => false
  if runs && !x.watchdog then
    if !x.inhibit then s.updGroup g fun x => { x with gdEn := true } else
    let s := s.updGroup g fun x => { x with gdEn := true, inhibit := false, sbc := 0 }
    let s := (List.range 4).foldl (fun s n =>
      if x.sbc.testBit n && !((List.range 4).any fun h => (s.group h).sbc.testBit n) then
        s.updSout n fun y => { y with held := false, sbcNew := false, offAt := none } else s) s
    releaseStep g 0 s
  else if x.releasing then s.updGroup g fun x => { x with gdEn := true, watchdog := false }
  else
    let s := s.updGroup g fun x => { x with gdEn := false, inhibit := true }
    if x.inhibit then s else disableGroup g s

/-- The level a safe output takes at an output instant (R473, R497, R499, R506, R692, R697). -/
def State.soutLevel (s : State) (n : Nat) : Bool :=
  let x := s.sout n
  s.fd.soutReq.testBit n && !s.fd.safe.testBit (16 + n) && s.fd.vb.known && s.monPowered && decide (s.sf.mode ≠ .starting) && !x.brakeTest &&
    !(x.held && (match x.offAt with | some t => decide (t ≤ s.tm.now) | none => false)) &&
    !((List.range 4).any fun m => decide (m ≠ n) && (s.sout m).faulty)

/-- A safe output at an output instant: SBC decided in the last cycle begins its delay; operations are counted (R473, R700). -/
def soutOut (n : Nat) (s : State) : State :=
  let s := if (s.sout n).sbcNew then s.updSout n fun x => { x with
      sbcNew := false, offAt := some (s.tm.now + s.parN P.SAF_OUT_SBC_DELAY n * cyclesPerMs) } else s
  let new := s.soutLevel n
  let old := (s.sout n).on
  let pulse := match (s.sout n).lastPulse with
    | some t => decide (s.tm.now < t + s.parN P.SAF_OUT_PULSE n * cyclesPerUs)
    | none => false
  let s := s.updSout n fun x => { x with on := new, inPulse := pulse }
  if new && !old then { s with fd := { s.fd with switched := Store.upd 0 s.fd.switched (16 + n) fun c => satN 32 (c + 1) } } else s

/-- Every output of the monitor switched. -/
def smOutputs (s : State) : State :=
  let s := (List.range 4).foldl (fun s g => groupOut g s) s
  (List.range 4).foldl (fun s n => soutOut n s) s

/-- OUTPUT_TEST_FAULT and cause 12 (R498, R499). -/
def outTestFault (n : Nat) (s : State) : State :=
  let x := s.sout n
  let s := if x.faulty then s else
    monReport 4 0xE (b1 n ++ b1 (b2n x.on) ++ b2 x.volts) (s.updSout n fun x => { x with faulty := true, good := 0, pulsed := false })
  smTake 12 15 n s.stoSbc s

/-- The readback of a safe output in a cycle (R498, R499). -/
def soutCheck (n volts : Nat) (s : State) : State :=
  let s := s.updSout n fun x => { x with volts := volts }
  let x := s.sout n
  if x.inPulse then s else
  let bad := if x.on then decide (volts + 30 < s.fd.vb.volts) else decide (20 ≤ volts)
  let s := s.updSout n fun x => { x with bad := if bad then x.bad + 1 else 0, good := if bad then 0 else x.good + 1 }
  let x := s.sout n
  if x.faulty then
    if 4 ≤ x.good ∧ x.pulsed then s.updSout n fun x => { x with faulty := false, bad := 0 }
    else smTake 12 15 n s.stoSbc s
  else if 4 ≤ x.bad then outTestFault n s else s

/-- GD_FB against GD_EN (R472, R509, R525), and the confirmation of a release. -/
def groupFb (g : Nat) (fb : Bool) (s : State) : State :=
  let s := s.updGroup g fun x => { x with
    gdFb := fb, fbFrom := if fb = x.gdEn then none else some (x.fbFrom.getD s.cycleAt) }
  let x := s.group g
  let s := match x.fbFrom with
    | some t =>
      if s.cycleAt ≤ t + s.parN P.SAF_GRP_GDFB g * cyclesPerMs then s else
      let had := x.causes.testBit 13
      let s := if x.releasing then releaseStep g stHwFault (s.updGroup g fun x => { x with releasing := false }) else s
      let s := smTake 13 (2 ^ g) g stoOnly s
      if had then s else monReport 4 0x10 (b1 g ++ b1 (b2n x.gdEn) ++ b1 (b2n fb)) s
    | none => s
  let x := s.group g
  if x.releasing && x.gdEn && fb && decide (s.sf.mode = .running) then
    s.updGroup g fun x => { x with releasing := false, mode := .released, watchdog := false }
  else s

/-! ### Requests of other blocks (R460, R478) -/

/-- One request: cause 18 with a machine, or another cause with its group mask. -/
def smRequest (r : Nat × Nat) (s : State) : State :=
  if r.1 = 18 then
    smTake 18 (2 ^ s.machineGroup r.2) 255 (.sto fun _ => s.parN P.SAF_MAC_BRAKES r.2) s
  else smTake r.1 r.2 255 (if r.1 = 15 then stoOnly else s.stoSbc) s

/-! ### Latent test (R503, R504) -/

/-- The conditions of the latent test of a group (R503). -/
def State.latentOk (s : State) (g : Nat) : Bool :=
  decide ((s.group g).mode = .sto) && !(s.group g).releasing &&
    ((List.range s.stages).all fun k => decide (groupOf k ≠ g ∨ (s.stage k).mode = .disabled)) &&
    ((List.range 8).all fun k => (s.saChan P.SAF_AX_CH k).isNone || !(s.saGroups k).testBit g ||
      decide (absR (s.safeAxis k).v ≤ s.parN P.SAF_AX_STANDSTILL_V k))

/-- A day and an hour in ns. -/
def dayNs : Nat := 86400 * nsPerS
def hourNs : Nat := 3600 * nsPerS

/-- The first SAF_TEST_TIME at or after 24 h from the last pass has come (R504). -/
def State.latentDue (s : State) (g : Nat) : Bool :=
  match (s.group g).lastPass with
  | none => true
  | some t =>
    let t := t + dayNs
    let at_ := t / dayNs * dayNs + s.parN P.SAF_TEST_TIME 0 * 60 * nsPerS
    decide ((if at_ < t then at_ + dayNs else at_) ≤ s.busNs)

/-- Hours since the last pass; 65 535 for a group that never passed (R504, R528). -/
def State.latentHours (s : State) (g : Nat) : Nat :=
  match (s.group g).lastPass with
  | none => 65535
  | some t => min 65535 ((s.busNs - t) / hourNs)

/-- The test of a group begins. -/
def latentBegin (g : Nat) (s : State) : State := s.updGroup g fun x => { x with mode := .testing, testFrom := some s.tm.now }

/-- LATENT_TEST_DUE: before the first release of a start, or when due (R504). -/
def latentDueRun (g : Nat) (s : State) : State :=
  if 4 ≤ g || decide (s.sf.mode ≠ .running ∨ s.pw.state = .standby) || !s.monPowered || !s.latentOk g ||
      ((s.group g).tested && !s.latentDue g) then s
  else latentBegin g s

/-- The command of a latent test has the results of all its groups (R516). -/
def latentReply (s : State) : State :=
  match s.sf.latent with
  | some (slot, mask, res) =>
    if (maskGroups mask).all fun g => res.any fun r => decide (r.1 = g) then
      let data := (maskGroups mask).flatMap fun g => match res.find? fun r => decide (r.1 = g) with | some r => b1 r.2 | none => []
      let ok := res.all fun r => decide (r.2 = 4)
      smFinish slot (if ok then .ok data else .fail stHwFault 0 data) { s with sf := { s.sf with latent := none } }
    else s
  | none => s

/-- LATENT_TEST_END: `failedStep` 0 for a pass (R503, R504). -/
def latentEnd (g failedStep : Nat) (s : State) : State :=
  if 4 ≤ g || decide ((s.group g).mode ≠ .testing) then s else
  let ms := (s.tm.now - (s.group g).testFrom.getD s.tm.now) / cyclesPerMs
  let s := s.updGroup g fun x => { x with mode := .sto, testFrom := none }
  let s := if failedStep = 0 then
      monReport 1 9 (b1 g ++ b2 ms) (s.updGroup g fun x => { x with
        tested := true, blocked := false, warn := false, armed := false, lastPass := some s.busNs })
    else
      smTake 20 (2 ^ g) g stoOnly (monReport 4 0xA (b1 g ++ b1 failedStep) (s.updGroup g fun x => { x with blocked := true }))
  latentReply { s with sf := { s.sf with latent := s.sf.latent.map fun (x : Nat × Nat × List (Nat × Nat)) =>
    (x.1, x.2.1, if x.2.1.testBit g then x.2.2 ++ [(g, if failedStep = 0 then 4 else failedStep - 1)] else x.2.2) } }

/-- LATENT_TEST_OVERDUE: the warning at 48 h, the block armed at 72 h (R504). -/
def latentOverdue (g : Nat) (s : State) : State :=
  if 4 ≤ g || (s.group g).lastPass.isNone || !s.monPowered then s else
  let h := s.latentHours g
  let s := if h < 48 ∨ (s.group g).warn then s else
    monReport 2 0xB (b1 g ++ b2 h) (s.updGroup g fun x => { x with warn := true })
  if h < 72 then s else s.updGroup g fun x => { x with armed := true }

/-! ### Brake test (R505 to R507) -/

/-- The Ridge axis that commands the machines of a safe axis: those of the safe axis's groups (R505). -/
def State.saRidge (s : State) (k : Nat) : Option Nat :=
  ((List.range s.machines).filter fun m => decide (s.machineStages m ≠ []) && (s.saGroups k).testBit (s.machineGroup m)).findSome?
    fun m => s.axisOf m

/-- Step 1 of the next output, or the end of a test that every output has passed (R506, R507). -/
def brakeNext (s : State) : State :=
  match s.sf.brake with
  | none => s
  | some b =>
    match b.left with
    | [] => { s with sf := { s.sf with brake := none } } |> smFinish b.slot (.ok (brakeData b))
    | n :: ns =>
      let s := { s with sf := { s.sf with brake := some { b with
        left := ns, output := n, step := 1, stepFrom := s.cycleAt, excursion := 0, peak := 0 } } }
      evidTrigger 2 n s.sf.lastNs (s.updSout n fun x => { x with brakeTest := true })

/-- An output has failed: cause 21 at once, and the command's outcome (R507). -/
def brakeFail (b : BrakeTest) (s : State) : State :=
  let b := { b with results := b.results ++ [(b.output, 2, b.excursion, b.peak)] }
  let s := { s with sf := { s.sf with brake := some b } }
  let s := monReport 4 0xD (b1 b.axis ++ b1 b.output ++ b4 b.excursion ++ b2 b.peak)
    (s.updSafeAxis b.axis fun x => { x with brake := some (s.sf.lastNs, 2) })
  smTake 21 (s.saGroups b.axis) b.axis s.stoSbc (brakeStop (fun b => .fail stHwFault 0 (brakeData b)) s)

/-- What the brake test holds of the axis's count and the current (R506, R507). -/
def brakeWatch (b : BrakeTest) (s : State) : BrakeTest :=
  let x := s.safeAxis b.axis
  let b := if 3 ≤ b.step ∧ b.step ≤ 5 then { b with excursion := max b.excursion ((x.pos.getD 0) - b.anchor).natAbs } else b
  if b.step = 4 then { b with peak := max b.peak x.current } else b

/-- Cycles that a step lasts (R506). -/
def State.brakeSpan (s : State) (b : BrakeTest) : Nat :=
  match b.step with
  | 1 | 6 => s.parN P.SAF_AX_BT_CLOSE b.axis * cyclesPerMs
  | 4 => s.parN P.SAF_AX_BT_HOLD b.axis * cyclesPerMs
  | _ => 500 * cyclesPerMs

/-- The torque demand of a step after `t` cycles (R506). -/
def brakeTorque (b : BrakeTest) (t : Nat) : Int :=
  let f : Rat := min 1 ((t : Rat) / (500 * cyclesPerMs : Nat))
  match b.step with
  | 3 => roundRat (b.hold + (b.torque - b.hold : Int) * f)
  | 4 => b.torque
  | _ => roundRat (b.torque + (b.hold - b.torque : Int) * f)

/-- The step of the present output whose time is over gives way to the next (R506). -/
def brakeStep (b : BrakeTest) (s : State) : State :=
  let set (b : BrakeTest) (s : State) : State := { s with sf := { s.sf with brake := some { b with stepFrom := s.cycleAt } } }
  match b.step with
  | 1 =>
    let hold := (s.axis b.ridge).torque
    set { b with step := 3, hold := hold, anchor := (s.safeAxis b.axis).pos.getD 0 }
      (s.updAxis b.ridge fun x => { x with brake := some hold })
  | 3 => set { b with step := 4 } (s.updAxis b.ridge fun x => { x with brake := some b.torque })
  | 4 => if b.peak < s.parN P.SAF_AX_BT_CURRENT b.axis then brakeFail b s else set { b with step := 5 } s
  | 5 =>
    let s := monReport 1 0xC (b1 b.axis ++ b1 b.output ++ b4 b.excursion ++ b2 b.peak)
      (s.updSafeAxis b.axis fun x => { x with brake := some (s.sf.lastNs, 1) })
    set { b with step := 6, results := b.results ++ [(b.output, 1, b.excursion, b.peak)] }
      ((s.updAxis b.ridge fun x => { x with brake := none, integ := b.hold }).updSout b.output fun x => { x with brakeTest := false })
  | _ => brakeNext (evidEnd 1 s)

/-- The brake test in a cycle: the watch, the torque, and a step that ends (R506, R507). -/
def brakeRun (s : State) : State :=
  match s.sf.brake with
  | none => s
  | some b0 =>
    let b := brakeWatch b0 s
    let s := { s with sf := { s.sf with brake := some b } }
    let t := s.cycleAt - b.stepFrom
    if 3 ≤ b.step ∧ b.step ≤ 5 ∧ s.parN P.SAF_AX_BT_WINDOW b.axis < b.excursion then brakeFail b s
    else if s.brakeSpan b ≤ t then brakeStep b s
    else if b.step = 3 ∨ b.step = 5 then s.updAxis b.ridge fun x => { x with brake := some (brakeTorque b t) }
    else s

/-! ### The configuration (R511 to R515) -/

/-- Every ID of class 0x68 that the part has, ascending (R513). -/
def State.safetyIds (s : State) : List Nat :=
  (List.range 96).flatMap fun i => ((paramClass 0x68).filter fun d =>
    decide (d.base / 2 ^ 16 % 256 ≤ i ∧ i < d.base / 2 ^ 16 % 256 + s.instances d.count)).map
      fun d => 0x68000000 + i * 2 ^ 16 + d.base % 2 ^ 16

/-- The CRC-32 over the safety configuration with writes `w` laid over the active one (R513). -/
def State.safetyCrc (s : State) (w : Store (Option Int)) : Nat :=
  crc32 (s.safetyIds.flatMap fun id => le 4 id ++ leI 8 (s.seen w id))

/-- The first failing check of SAFETY_CONFIG_VALIDATE: detail and two IDs (R513). -/
def State.safetyInvalid (s : State) (w : Store (Option Int)) : Option (Nat × Nat × Nat) :=
  let g (b i : Nat) : Nat := s.seenN w b i
  let id (b i : Nat) : Nat := b + i * 2 ^ 16
  let mask := g P.SAF_FB_MASK 0
  let used (k : Nat) : Bool := decide (k < 8) && decide (g P.SAF_AX_CH k ≠ 255)
  let pairs := (List.range 16).filter fun p => decide (g P.SAF_PAIR_MODE p ≠ 0)
  let first (xs : List (Option (Nat × Nat × Nat))) : Option (Nat × Nat × Nat) := xs.findSome? fun x => x
  let when_ (c : Bool) (d a b : Nat) : Option (Nat × Nat × Nat) := if c then some (d, a, b) else none
  first (
    [when_ (decide (8 < popN 32 mask)) 0x50 P.SAF_FB_MASK 0] ++
    ((List.range 32).map fun c => when_ (mask.testBit c && decide (s.parN P.FB_MODE c ≠ 1)) 0x51 P.SAF_FB_MASK (id P.FB_MODE c)) ++
    ((List.range 8).flatMap fun k => [P.SAF_AX_CH, P.SAF_AX_CH2].map fun b =>
      when_ (decide (g b k ≠ 255) && !mask.testBit (g b k)) 0x52 (id b k) P.SAF_FB_MASK) ++
    (((List.range 8).filter used).flatMap fun k =>
      ([P.SAF_AX_SLS_0, P.SAF_AX_SLS_1, P.SAF_AX_SLS_2, P.SAF_AX_SLS_3].flatMap fun b =>
        [when_ (decide (g P.SAF_AX_VMAX k < g b k)) 0x53 (id b k) (id P.SAF_AX_VMAX k),
         when_ (decide (g b k ≤ g P.SAF_AX_STANDSTILL_V k)) 0x53 (id P.SAF_AX_STANDSTILL_V k) (id b k)]) ++
      [when_ (decide (g P.SAF_AX_SS1_MARGIN k ≤ g P.SAF_AX_STANDSTILL_V k)) 0x53 (id P.SAF_AX_STANDSTILL_V k)
        (id P.SAF_AX_SS1_MARGIN k)]) ++
    (pairs.map fun p => when_ (if g P.SAF_PAIR_FUNC p < 3 then
        decide (g P.SAF_PAIR_TARGET p = 0 ∨ 2 ^ ((s.stages + 5) / 6) ≤ g P.SAF_PAIR_TARGET p)
      else !used (g P.SAF_PAIR_TARGET p)) 0x54 (id P.SAF_PAIR_TARGET p) (id P.SAF_PAIR_FUNC p)) ++
    ((List.range 16).map fun p => when_ (decide (g P.SAF_PAIR_TSRC_A p ≠ 255 ∧ g P.SAF_PAIR_TSRC_A p = g P.SAF_PAIR_TSRC_B p)) 0x55
      (id P.SAF_PAIR_TSRC_A p) (id P.SAF_PAIR_TSRC_B p)) ++
    ((List.range 8).map fun k => when_ (decide (g P.SAF_AX_EST_STAGE k ≠ 255) &&
      !(g P.SAF_AX_GROUPS k).testBit (g P.SAF_AX_EST_STAGE k / 6)) 0x56 (id P.SAF_AX_EST_STAGE k) (id P.SAF_AX_GROUPS k)) ++
    [when_ (decide (g P.SAF_RESET_INPUT 0 ≠ 255 ∧ g P.SAF_PAIR_MODE (g P.SAF_RESET_INPUT 0 / 2) ≠ 0)) 0x57 P.SAF_RESET_INPUT
      (id P.SAF_PAIR_MODE (g P.SAF_RESET_INPUT 0 / 2))])

/-- The draft is discarded (R511). -/
def draftDiscard (s : State) : State :=
  match s.sf.draft with
  | none => s
  | some _ => { s with sf := { s.sf with draft := none, mode := if s.sf.mode = .configuring then .running else s.sf.mode } }

/-- What a set holds of class 0x68. -/
def safetyPart (m : Store (Option Int)) : Store (Option Int) := Store.keep (fun id => decide (id / 2 ^ 24 = 0x68)) m

/-- The safety part of the running set replaced. -/
def safetyLoad (m : Store (Option Int)) (s : State) : State :=
  let rest := Store.keep (fun id => decide (id / 2 ^ 24 ≠ 0x68)) s.pm.run
  { s with pm := { s.pm with run := m.foldl (fun r e => Store.write none r e.1 e.2) rest } }

/-- The monitor restarts (R458, R465 to R467): every group in STO with its latched causes 10, 11, 20 and 21, everything else at its
start. A DISCREPANCY and an input test fault stay with their causes. -/
def smRestart (s : State) : State :=
  let s := (List.range 4).foldl (fun s g =>
    disableGroup g (s.updGroup g fun x =>
      let keep := x.causes &&& (2 ^ 10 + 2 ^ 11 + 2 ^ 20 + 2 ^ 21)
      { causes := keep, present := keep, blocked := keep.testBit 20, lastPass := x.lastPass, gdFb := x.gdFb })) s
  let old := s.sf
  { s with
    sf := { groups := old.groups, copyA := old.copyA, copyB := old.copyB, validA := old.validA, validB := old.validB,
            ledger := old.ledger, mbox := old.mbox,
            axes := Store.mapAll {} (fun (_ : Nat) (x : SafeAxisSt) => ({ brake := x.brake } : SafeAxisSt)) old.axes,
            pairs := Store.mapAll {} (fun (_ : Nat) (x : PairSt) => ({ disc := x.disc, testBad := x.testBad } : PairSt)) old.pairs },
    fd := { s.fd with monCounts := [], monFiltered := 0, monAt := [], monResetCount := 0, monReset := false } }

/-! ### Commands (R462, R505, R508, R511 to R516) -/

/-- A group left by a SAFETY_RESET's clearing: no cause, so released, released from SS1, or kept with its lowest cause (R467, R508). -/
def resetGroup (g : Nat) (acc : Nat × Nat) (s : State) : (Nat × Nat) × State :=
  let x := s.group g
  let low := ((List.range 23).find? fun b => x.causes.testBit b).getD 20
  match x.mode with
  | .ss1Ramp | .ss1Time =>
    if x.causes = 0 then (acc, s.updGroup g fun x => { x with mode := .released, ss1 := none }) else ((acc.1, min acc.2 low), s)
  | .sto =>
    if x.releasing then (acc, s)
    else if x.causes ≠ 0 ∨ !x.tested ∨ x.blocked then ((acc.1, min acc.2 low), s)
    else ((setBitN acc.1 g true, acc.2), s.updGroup g fun x => { x with releasing := true, watchdog := false })
  | .released | .testing => (acc, s)

/-- The pairs' and axes' shares of SAFETY_RESET: clean operations clear DISCREPANCY, the slip anchor is taken again (R488, R494). -/
def resetConditions (mask : Nat) (s : State) : State :=
  let s := (List.range 16).foldl (fun s p =>
    if s.pairUsed p && decide (s.pairGroups p &&& mask ≠ 0) && (s.pair p).disc && (s.pair p).clean then
      s.updPair p fun x => { x with disc := false, clean := false, both := false, demand := x.a || x.b }
    else s) s
  let s := (maskGroups mask).foldl (fun s g => s.updGroup g fun x => { x with
    present := setBitN (setBitN (setBitN (setBitN x.present 10 false) 8 false) 1 false) 0 false }) s
  let s := (List.range 16).foldl (fun s p =>
    if !s.pairUsed p then s else
    let x := s.pair p
    let c := b2n (x.demand && decide (s.pairFunc p < 3)) 0 + b2n (x.demand && decide (s.pairFunc p = 3)) 1 + b2n x.disc 10
    (maskGroups (s.pairGroups p)).foldl (fun s g => s.updGroup g fun y => { y with present := y.present ||| c }) s) s
  (List.range 8).foldl (fun s k =>
    let x := s.safeAxis k
    let s := s.updSafeAxis k fun x => { x with slip := if x.slip.isSome then some x.slipD else none }
    match x.slipFrom with
    | some t => if t + s.parN P.SAF_AX_SLIP_TIME k * cyclesPerMs ≤ s.cycleAt then
        (maskGroups (s.saGroups k)).foldl (fun s g => s.updGroup g fun y => { y with present := setBitN y.present 8 true }) s else s
    | none => s) s

/-- SAFETY_RESET, by a command or by the reset input (R508 to R510). -/
def smReset (mask : Nat) (cmd : Option Cmd) (s : State) : State :=
  let done (r : Res) (s : State) : State := match cmd with | some c => smFinish c.slot r s | none => s
  if s.sf.mode ≠ .running ∨ s.pw.mode = .recovery then done (.fail stWrongState) s else
  let mask := mask % 16
  if (maskGroups mask).any fun g => decide ((s.group g).mode = .testing) then done (.fail stBusy 0 s.causeBytes) s else
  let s := resetConditions mask s
  let s := (maskGroups mask).foldl (fun s g => s.updGroup g fun x => { x with causes := x.causes &&& x.present }) s
  let ((rel, low), s) := (maskGroups mask).foldl (fun (a : (Nat × Nat) × State) g => resetGroup g a.1 a.2) ((0, 255), s)
  let x : ReleaseSt := { slot := if low = 255 then cmd.map (·.slot) else none, session := (cmd.map (·.session)).getD 0
                         seq := (cmd.map (·.seq)).getD 0, left := rel, done := 0, status := 0 }
  let s := if rel = 0 then s else { s with sf := { s.sf with releases := s.sf.releases ++ [x] } }
  if low ≠ 255 then done (.fail stSafetyDemand low s.causeBytes) s
  else if rel = 0 then done (.ok s.causeBytes) s else s

/-- SAFETY_TEST_RUN kind 1 (R503). -/
def smLatent (c : Cmd) (s : State) : State :=
  let mask := fld c.args 1 1 % 16
  if s.sf.mode ≠ .running || s.sf.latent.isSome || decide (mask = 0) || !(maskGroups mask).all s.latentOk then
    smFinish c.slot (.fail stWrongState) s
  else (maskGroups mask).foldl (fun s g => latentBegin g s) { s with sf := { s.sf with latent := some (c.slot, mask, []) } }

/-- SAFETY_TEST_RUN kind 2 (R505). -/
def smBrake (c : Cmd) (s : State) : State :=
  let k := fld c.args 1 1
  let outs := fld c.args 2 1
  let dir := fld c.args 3 1
  let t := fldI c.args 4 4
  if 8 ≤ k ∨ 16 ≤ outs ∨ 2 ≤ dir then smFinish c.slot (.fail stParamRange) s else
  match s.saChan P.SAF_AX_CH k, s.saRidge k with
  | some _, some a =>
    if s.sf.mode ≠ .running || s.sf.brake.isSome || decide ((s.axis a).mode ≠ .holding) ||
        decide ((s.parN P.SAF_AX_STANDSTILL_V k : Rat) < absR (s.safeAxis k).v) ||
        !s.saAll k (fun g => decide (g.mode = .released)) || !(maskGroups outs).all (fun n => (s.sout n).on) then
      smFinish c.slot (.fail stWrongState) s
    else
      let b : BrakeTest := { slot := c.slot, axis := k, ridge := a, left := maskGroups outs, output := 0,
                             torque := if dir = 1 then -t else t, step := 1, stepFrom := s.cycleAt, hold := 0, anchor := 0,
                             excursion := 0, peak := 0, results := [] }
      brakeNext { s with sf := { s.sf with brake := some b } }
  | _, _ => smFinish c.slot (.fail stWrongState) s

/-- SAFETY_CONFIG_BEGIN (R511). -/
def smBegin (c : Cmd) (s : State) : State :=
  let en := match s.fd.cfgFrom with | some t => decide (t + cyclesPerS ≤ s.cycleAt) | none => false
  if !en then smFinish c.slot (.fail stSafetyLocked) s
  else if s.sf.draft.isSome || (List.range 4).any (fun g => decide ((s.group g).mode ≠ .sto)) ||
      (List.range s.axes).any (fun a => decide ((s.axis a).mode ≠ .disabled)) then smFinish c.slot (.fail stWrongState) s
  else smFinish c.slot (.ok (b4 (s.safetyCrc []))) { s with sf := { s.sf with
    mode := .configuring, draft := some { values := [], crc := none, writes := 0, lastCmd := s.cycleAt } } }

/-- SAFETY_CONFIG_WRITE (R512). -/
def smWrite (c : Cmd) (d : SafetyDraft) (s : State) : State :=
  match s.layWrites (fun p => decide (p.effect = 3)) (parseWrites (fld c.args 0 2) (c.args.drop 2)) d.values with
  | .error e => smFinish c.slot (.fail e) s
  | .ok m => smFinish c.slot (.ok (b2 m.length)) { s with sf := { s.sf with draft := some { d with
      values := m, crc := none, writes := m.length } } }

/-- SAFETY_CONFIG_VALIDATE (R513). -/
def smValidate (c : Cmd) (d : SafetyDraft) (s : State) : State :=
  let n := b2 s.safetyIds.length
  match s.safetyInvalid d.values with
  | some (det, a, b) => smFinish c.slot (.fail stInconsistent det (b4 0 ++ n ++ b4 a ++ b4 b)) s
  | none =>
    let crc := s.safetyCrc d.values
    smFinish c.slot (.ok (b4 crc ++ n)) { s with sf := { s.sf with draft := some { d with crc := some crc } } }

/-- SAFETY_CONFIG_ACTIVATE (R514): two copies written, the monitor restarts with them. -/
def smActivate (c : Cmd) (d : SafetyDraft) (s : State) : State :=
  let crc := fld c.args 0 4
  if !s.fd.cfgEn then smFinish c.slot (.fail stSafetyLocked) s
  else if d.crc ≠ some crc then smFinish c.slot (.fail stSafetyCrc) s
  else
    let m := d.values.foldl (fun r e => Store.write none r e.1 e.2) (safetyPart s.pm.run)
    let s := monReport 1 0x12 (b4 crc ++ b2 c.session ++ b4 c.seq) (smFinish c.slot .ok s)
    smRestart (safetyLoad m { s with sf := { s.sf with copyA := m, copyB := m, validA := true, validB := true } })

/-- One command of the mailbox, recorded before it acts (R457, R462). -/
def smExec (c : Cmd) (s : State) : State :=
  let s := { s with sf := { s.sf with ledger := s.sf.ledger ++ [(c.session, c.seq, c.opcode, none)] } }
  match s.sf.mode with
  | .starting => smFinish c.slot (.fail stWrongState) s
  | .faulted => smFinish c.slot (.fail stHwFault) s
  | .running | .configuring =>
    match c.opcode with
    | 0x0601 => smReset (fld c.args 0 1) (some c) s
    | 0x0602 => smBegin c s
    | 0x0606 =>
      match fld c.args 0 1 with
      | 1 => smLatent c s
      | 2 => smBrake c s
      | _ => smFinish c.slot (.fail stParamRange) s
    | op =>
      match s.sf.draft with
      | none => smFinish c.slot (.fail stWrongState) s
      | some d =>
        let d := { d with lastCmd := s.cycleAt }
        let s := { s with sf := { s.sf with draft := some d } }
        if op = 0x0603 then smWrite c d s else if op = 0x0604 then smValidate c d s else smActivate c d s

/-- The mailbox read at a cycle start, in order. -/
def smMailbox (s : State) : State :=
  s.sf.mbox.foldl (fun s c => smExec c s) { s with sf := { s.sf with mbox := [] } }

/-- A sequenced safety command goes to the monitor's mailbox (R462). -/
def cmdSafety (c : Cmd) (s : State) : Res × State := (.pending, { s with sf := { s.sf with mbox := s.sf.mbox ++ [c] } })

/-! ### Publication and SAFETY_STATUS (R461, R516) -/

/-- The publication at the end of a cycle (R461). -/
def smPublish (s : State) : State :=
  let gs := (List.range 4).map s.group
  let bit16 (f : PairSt → Bool) : Nat := (List.range 16).foldl (fun (n : Nat) p => n + b2n (s.pairUsed p && f (s.pair p)) p) 0
  let cs := (List.range 8).map fun k => if (s.saChan P.SAF_AX_CH k).isSome then ((s.safeAxis k).history.headD 0) else 0
  let vs := (List.range 8).map fun k => if (s.saChan P.SAF_AX_CH k).isSome then satI 32 (roundRat (s.safeAxis k).v) else 0
  { s with sf := { s.sf with pub := {
      counts := cs.map wrap32, speeds := vs, status := gs.map GroupSt.word, causes := gs.map (·.causes), demand := bit16 (·.demand)
      disc := bit16 (·.disc), souts := (List.range 4).foldl (fun (n : Nat) k => n + b2n (s.sout k).on k) 0, at_ := some s.tm.now } } }

/-- The code of the monitor's state (R458). -/
def monCode : MonState → Nat
  | .starting => 0
  | .running => 1
  | .configuring => 2
  | .faulted => 3

/-- SAFETY_STATUS of the module (R516). -/
def State.safetyModule (s : State) : List Nat :=
  let p := s.sf.pub
  [monCode s.sf.mode, 0] ++ b4 (s.safetyCrc []) ++ (p.status.flatMap b4) ++ (p.causes.flatMap b4) ++ b2 p.demand ++ b2 p.disc ++
    [p.souts, 0] ++ ((List.range 8).flatMap fun k => leI 4 (p.speeds.getD k 0))

/-- SAFETY_STATUS and GET_STATUS of a group (R516); its brake test is that of the lowest safe axis that acts on the group and has one
(DEDUCED, notes/assumptions/60.md). -/
def State.safetyGroup (s : State) (g : Nat) : List Nat :=
  let p := s.sf.pub
  let bt := ((List.range 8).filter fun k => (s.saGroups k).testBit g).findSome? fun k => (s.safeAxis k).brake
  b4 (p.status.getD g 0x203) ++ b4 (p.causes.getD g 0) ++ stampOpt (s.group g).lastPass ++ stampOpt (bt.map (·.1)) ++
    [match bt with | some x => x.2 | none => 0]

/-! ### The cycle (R452, R459) -/

/-- The monitor's own counts and their comparison with the front end's (R456, R501). -/
def smCounts (cs : List (Nat × Int)) (s : State) : State :=
  cs.foldl (fun s e =>
    let d := decide (4 < (wrap32 (e.2 - (s.chan e.1).count)).natAbs)
    { s with sf := { s.sf with
        counts := Store.write 0 s.sf.counts e.1 (wrap32 e.2)
        differs := Store.upd 0 s.sf.differs e.1 fun n => if d then n + 1 else 0 } }) s

/-- The conditions that hold whatever a cycle finds: a failed brake test, a latent-test block, a fault, a bad configuration and a faulty
output. -/
def smPresent (s : State) : State :=
  let out := (List.range 4).any fun n => (s.sout n).faulty
  (List.range 4).foldl (fun s g => s.updGroup g fun x => { x with
    present := b2n (x.causes.testBit 21) 21 + b2n x.blocked 20 + b2n (decide (s.sf.mode = .faulted)) 19 + b2n s.sf.cfgBad 22 + b2n out 12 }) s

/-- The evaluation of a cycle in RUN and DOZE, after the safe axes (R459 step 2). -/
def smFunctions (inp : SafetyInputs) (s : State) : State :=
  let s := (List.range 16).foldl (fun s p => pairEval p s) s
  let s := s.sf.requests.foldl (fun s r => smRequest r s) { s with sf := { s.sf with requests := [] } }
  let s := (List.range 4).foldl (fun s g => groupFb g (inp.gdFb.testBit g) s) s
  let s := (List.range 4).foldl (fun s n => soutCheck n (inp.sout.getD n 0) s) s
  let s := if s.sf.cfgBad then smTake 22 15 255 s.stoSbc s else s
  let s := brakeRun s
  let s := if s.sf.draft.isSome && !s.fd.cfgEn then draftDiscard s else s
  let s := if s.sf.resetEdge then smReset (s.parN P.SAF_RESET_GROUPS 0) none { s with sf := { s.sf with resetEdge := false } } else s
  smMailbox s

/-- A cycle of the monitor: due once T_SM has passed by its own time base, which keeps within 0.1 % (R452, R454). -/
def safetyCycle (inp : SafetyInputs) (s : State) : State :=
  let due := match s.sf.last with | none => true | some t => decide (t * 1000 + s.tsm * 999 ≤ s.tm.now * 1000)
  if !s.monPowered || !due then s else
  let s := monEnter (smOutputs { s with sf := { s.sf with last := some s.tm.now, lastNs := s.reportNs.1 } })
  if s.sf.mode = .faulted then smPublish (smMailbox s) else
  let s := smCounts inp.counts s
  let s := if s.pw.state = .standby then s else (List.range 16).foldl (fun s p => pairLatch p s) s
  let s := smPresent s
  let s := (List.range 8).foldl (fun s k => saEval k inp.illegal inp.est s) s
  let s := if s.pw.state = .standby then s else smFunctions inp s
  smPublish s

/-! ### Start and faults (R465, R502, R515, R35) -/

/-- MONITOR_FAULT: cause 19 in every group, FAULT_N, until a warm reset (R502). -/
def monitorFault (kind detail : Nat) (s : State) : State :=
  if s.sf.mode = .faulted || !s.monPowered then s else
  smNow (fun s =>
    let s := monReport 4 0x11 (b1 kind ++ b4 detail) { s with sf := { s.sf with mode := .faulted, draft := none } }
    smTake 19 15 255 s.stoSbc (s.driveFault 3)) s

/-- MONITOR_START: the stored copies checked, one restored from the other, cause 22 if neither is valid; a cause 21 that was kept takes
its SBC again (R458, R465, R515). -/
def monitorStart (selfTestOk : Bool) (s : State) : State :=
  if s.sf.mode ≠ .starting || !s.monPowered then s
  else if !selfTestOk then monitorFault 1 0 s
  else smNow (fun s =>
    let s := if !s.sf.validA && !s.sf.validB then { s with sf := { s.sf with cfgBad := true } } else
      let m := if s.sf.validA then s.sf.copyA else s.sf.copyB
      safetyLoad m { s with sf := { s.sf with copyA := m, copyB := m, validA := true, validB := true, cfgBad := false } }
    let s := { s with sf := { s.sf with mode := .running } }
    let s := if s.sf.cfgBad then smTake 22 15 255 s.stoSbc s else s
    (List.range 4).foldl (fun s g => if (s.group g).causes.testBit 21 then smSbc g (s.groupBrakes g) s else s) s) s

/-- A cause taken at once by a check that runs beside the cycle: 14 for the heartbeat, 16 for the clock (R35, R479). -/
def smCause (c : Nat) (s : State) : State :=
  if s.sf.mode = .faulted || !s.monPowered then s else smNow (fun s => smTake c 15 255 s.stoSbc s) s

/-- The time of a plausibility disagreement is over (R487). -/
def plausDue (k : Nat) (s : State) : State :=
  match (s.safeAxis k).plausFrom with
  | none => s
  | some t =>
    if s.cycleAt < t + s.parN P.SAF_AX_PLAUS_TIME k * cyclesPerMs then s else
    let x := s.safeAxis k
    let had := maskGroups (s.saGroups k) |>.all fun g => (s.group g).causes.testBit 7
    let s := smTake 7 (s.saGroups k) k s.stoSbc s
    if had then s else monReport 4 7 (b1 k ++ leI 4 (satI 32 (roundRat x.v)) ++ leI 4 (satI 32 (roundRat x.vEl))) s

/-- The time of a slip disagreement is over (R489). -/
def slipDue (k : Nat) (s : State) : State :=
  match (s.safeAxis k).slipFrom with
  | none => s
  | some t =>
    if s.cycleAt < t + s.parN P.SAF_AX_SLIP_TIME k * cyclesPerMs then s else
    slipTake k 2 ((s.safeAxis k).slipD - (s.safeAxis k).slip.getD 0) s

/-- The slip anchor taken again after 1 s at standstill (R488). -/
def slipAnchor (k : Nat) (s : State) : State :=
  if (s.saChan P.SAF_AX_CH2 k).isNone || !s.slipStill k then s else s.updSafeAxis k fun x => { x with slip := some x.slipD }

/-- An off-pulse of a safe output (R497, R499). -/
def offPulse (n : Nat) (below2V : Bool) (s : State) : State :=
  let x := s.sout n
  let due := match x.lastPulse with | none => true | some t => decide (t + s.parN P.SAF_OUT_INTERVAL 0 * cyclesPerMs ≤ s.tm.now)
  let clash := (List.range 4).any fun m => decide (m ≠ n) && ((s.sout m).inPulse ||
    (match (s.sout m).lastPulse with | some t => decide (s.cycleAt ≤ t) | none => false))
  if 4 ≤ n || decide (s.parN P.SAF_OUT_TEST n ≠ 1) || !x.on || !due || clash || !s.monPowered then s else
  let s := s.updSout n fun x => { x with lastPulse := some s.tm.now, inPulse := true, pulsed := below2V }
  if below2V then s else smNow (fun s => outTestFault n (s.updSout n fun x => { x with good := 0 })) s

/-- A test pulse of a pair's channel (R496). -/
def testPulse (p : Nat) (chB noVoltage : Bool) (s : State) : State :=
  let src := if chB then s.parN P.SAF_PAIR_TSRC_B p else s.parN P.SAF_PAIR_TSRC_A p
  let m := 2 * p + b2n chB
  let last (m : Nat) : Nat := Store.read 0 s.sf.pulse m
  let due := decide (last m = 0 ∨ last m + 800 * cyclesPerMs ≤ s.tm.now)
  let apart := decide (last (2 * p + b2n (!chB)) = 0 ∨ last (2 * p + b2n (!chB)) + 400 * cyclesPerMs ≤ s.tm.now)
  if !s.pairUsed p || decide (15 < src) || !due || !apart || !s.monPowered then s else
  let s := { s with sf := { s.sf with pulse := Store.write 0 s.sf.pulse m s.tm.now } }
  if noVoltage then s.updPair p fun x => { x with testOk := x.testOk + 1, testBad := x.testBad && decide (x.testOk + 1 < 2) }
  else smNow (fun s =>
    let had := (s.pair p).testBad
    let s := s.updPair p fun x => { x with testOk := 0, testBad := true }
    let s := smTake 11 (s.pairGroups p) p (s.pairAct p) s
    if had then s else monReport 4 0xF (b1 p ++ b1 (b2n chB) ++ b1 src) s) s

/-- The monitor decides an event of its own only while it runs (R466, R502). -/
def smEvent (f : State → State) (s : State) : State :=
  if !s.monPowered || decide (s.sf.mode = .faulted) then s else smNow f s

/-! ### Meanings -/

/-- SAFETY_CYCLE (R459). -/
def execSafetyCycle (dt : Nat) (inp : SafetyInputs) (s : State) : Out := .next (safetyCycle inp (s.elapse dt))
/-- DISCREPANCY (R493). -/
def execDiscrepancy (dt pair : Nat) (s : State) : Out := .next (smEvent (fun s => pairEval pair (pairLatch pair s)) (s.elapse dt))
/-- HEARTBEAT_LOST (R479). -/
def execHeartbeatLost (dt : Nat) (s : State) : Out := .next (smCause 14 (s.elapse dt))
/-- SS1_TIME_EXPIRED (R475). -/
def execSs1TimeExpired (dt axis : Nat) (s : State) : Out :=
  .next (smEvent (fun s => (List.range 4).foldl (fun s g =>
    if ((s.group g).ss1.map (·.1)) = some axis then groupSs1 g s else s) s) (s.elapse dt))
/-- SLS_GRACE_EXPIRED (R482). -/
def execSlsGraceExpired (dt axis : Nat) (s : State) : Out :=
  .next (smEvent (fun s => if (s.saChan P.SAF_AX_CH axis).isSome then saSls axis s else s) (s.elapse dt))
/-- PLAUSIBILITY_FAULT (R487). -/
def execPlausibilityFault (dt axis : Nat) (s : State) : Out := .next (smEvent (plausDue axis) (s.elapse dt))
/-- SLIP_FAULT (R489). -/
def execSlipFault (dt axis : Nat) (s : State) : Out := .next (smEvent (slipDue axis) (s.elapse dt))
/-- SLIP_ANCHOR (R488). -/
def execSlipAnchor (dt axis : Nat) (s : State) : Out := .next (smEvent (slipAnchor axis) (s.elapse dt))
/-- SAFE_OUTPUT_OFF_PULSE (R497). -/
def execSafeOutputOffPulse (dt output : Nat) (below2V : Bool) (s : State) : Out := .next (offPulse output below2V (s.elapse dt))
/-- INPUT_TEST_PULSE (R496). -/
def execInputTestPulse (dt pair : Nat) (chB noVoltage : Bool) (s : State) : Out := .next (testPulse pair chB noVoltage (s.elapse dt))
/-- OUTPUT_TEST_FAULT (R498): the fourth disagreeing readback. -/
def execOutputTestFault (dt output readback : Nat) (s : State) : Out :=
  .next (smEvent (fun s => if output < 4 ∧ 3 ≤ (s.sout output).bad then soutCheck output readback s else s) (s.elapse dt))
/-- GD_FB_FAULT (R472). -/
def execGdFbFault (dt group : Nat) (s : State) : Out :=
  .next (smEvent (fun s => if group < 4 then groupFb group (s.group group).gdFb s else s) (s.elapse dt))
/-- SBC_OUTPUT_OFF (R473). -/
def execSbcOutputOff (dt output : Nat) (s : State) : Out :=
  .next ((fun (s : State) => if output < 4 && (s.sout output).on && !s.soutLevel output then
    s.updSout output fun x => { x with on := false } else s) (s.elapse dt))
/-- LATENT_TEST_DUE (R504). -/
def execLatentTestDue (dt group : Nat) (s : State) : Out := .next (latentDueRun group (s.elapse dt))
/-- LATENT_TEST_END (R503). -/
def execLatentTestEnd (dt group failedStep : Nat) (s : State) : Out := .next (smEvent (latentEnd group failedStep) (s.elapse dt))
/-- LATENT_TEST_OVERDUE (R504). -/
def execLatentTestOverdue (dt group : Nat) (s : State) : Out := .next (smEvent (latentOverdue group) (s.elapse dt))
/-- SAFETY_RESET_INPUT (R510): the monitor's filtered level of the reset input changes. -/
def execSafetyResetInput (dt : Nat) (active : Bool) (s : State) : Out :=
  .next ((fun (s : State) => resetLevel active { s with fd := { s.fd with
    monReset := active, monResetCount := if active then 30 else 0 } }) (s.elapse dt))
/-- SAFE_CFG_EN_FALL (R511). -/
def execSafeCfgEnFall (dt : Nat) (s : State) : Out :=
  .next ((fun (s : State) => draftDiscard { s with fd := { s.fd with cfgEn := false, cfgCount := 0, cfgFrom := none } }) (s.elapse dt))
/-- SAFETY_DRAFT_TIMEOUT (R511). -/
def execSafetyDraftTimeout (dt : Nat) (s : State) : Out :=
  .next ((fun (s : State) => match s.sf.draft with
    | some d => if d.lastCmd + 1800 * cyclesPerS ≤ s.tm.now then draftDiscard s else s
    | none => s) (s.elapse dt))
/-- MONITOR_START (R515). -/
def execMonitorStart (dt : Nat) (selfTestOk : Bool) (s : State) : Out := .next (monitorStart selfTestOk (s.elapse dt))
/-- MONITOR_FAULT (R502). -/
def execMonitorFault (dt kind detail : Nat) (s : State) : Out := .next (monitorFault kind detail (s.elapse dt))
/-- CLOCK_CROSS_CHECK_FAIL (R35). -/
def execClockCrossCheckFail (dt : Nat) (s : State) : Out := .next (smCause 16 (s.elapse dt))
/-- BRAKE_TEST_STEP (R506). -/
def execBrakeTestStep (dt : Nat) (s : State) : Out := .next (smEvent brakeRun (s.elapse dt))

end Sys2Proof.Machine
end

