-- ==== Sys2Proof/Machine/Drafts.lean ====
section
/-!
DEFINITION. Sys2Proof/Machine/Drafts.lean: the drafts and their commands (R423 to R425, R435) and the checks of STAGE_CHECK (R426 and
the DETAIL tables of the owning chapters).
-/
namespace Sys2Proof.Machine

/-! ### The checks (R426) -/

/-- A violation: its DETAIL and the parameters it concerns. -/
abbrev Violation := Nat × List Nat

/-- A violation where `bad` holds. -/
def viol (bad : Bool) (detail : Nat) (ids : List Nat) : List Violation := if bad then [(detail, ids)] else []

/-- Instance `i` of the parameter with base `b`. -/
def pid (b i : Nat) : Nat := b + i * 2 ^ 16

/-- The axes that have a loop in the image. -/
def State.imageAxes (s : State) : List Nat := (List.range s.axes).filter s.axisUsed

/-- Divider and phase of an axis's loop. -/
def State.axisRate (s : State) (a : Nat) : Option (Nat × Nat) := (s.axisLoop a).map fun l => (l.divExp, l.phase)

/-- Pairs of neighbours in a list. -/
def neighbours : List Nat → List (Nat × Nat)
  | a :: b :: xs => (a, b) :: neighbours (b :: xs)
  | _ => []

/-- 0x0001 to 0x0005 (R85, R159, R168, R209, R224), on the running set with the draft laid over it. -/
def State.checkStages (t : State) (im : Image) (w : Store (Option Int)) : List Violation :=
  let init (id : Nat) : Int := match Store.read none im.body.init id with | some v => v | none => t.parId id
  ((List.range t.stages).flatMap fun k => viol (decide (t.period k < t.parN P.PWM_PHASE k + 2)) 1
    [pid P.PWM_PHASE k, pid P.PWM_ALIGN (groupOf k)]) ++
  (w.flatMap fun e => match t.paramDef e.1 with
    | some d => viol (d.structural && decide (t.parId e.1 ≠ init e.1)) 2 [e.1]
    | none => []) ++
  ((List.range t.machines).flatMap fun m =>
    (neighbours (t.machineStages m)).flatMap fun (p : Nat × Nat) =>
      let c1 := t.parN P.STG_DC_CHANNEL p.1
      let c2 := t.parN P.STG_DC_CHANNEL p.2
      viol (decide (t.par P.STG_DC_V_FS c1 ≠ t.par P.STG_DC_V_FS c2)) 3
        [pid P.STG_DC_V_FS c2, pid P.STG_DC_V_FS c1, pid P.STG_DC_CHANNEL p.2, pid P.STG_DC_CHANNEL p.1]) ++
  (((List.range t.stages).map (pid P.STG_SINC3_DEC) ++ (List.range 8).map (pid P.STG_DC_SINC3_DEC)).flatMap fun id =>
    viol (decide (init id < t.parId id)) 4 [id]) ++
  ((List.range t.stages).flatMap fun k => viol (decide (t.period k / 2 < 12 * t.parN P.TRP_BLANK k)) 5
    [pid P.TRP_BLANK k, pid P.PWM_ALIGN (groupOf k)])

/-- 0x0006 to 0x0008 (R320, R325, R329). A slave is an axis of the image whose gearing the draft writes (DEDUCED,
notes/assumptions/41.md). -/
def State.checkGroups (t : State) (w : Store (Option Int)) : List Violation :=
  let members (g : Nat) : List Nat := t.imageAxes.filter fun a => (t.parN P.PTH_AXIS_MASK g).testBit a
  let slaves := t.imageAxes.filter fun a => w.any fun e =>
    decide (e.1 / 2 ^ 24 = 0x33 ∧ e.1 / 2 ^ 16 % 256 = a ∧ e.1 % 2 ^ 16 < 4)
  let named (a : Nat) : List (Nat × Nat × Nat) :=
    [(P.TSH_MACHINE_0, P.TSH_WEIGHT_0), (P.TSH_MACHINE_1, P.TSH_WEIGHT_1), (P.TSH_MACHINE_2, P.TSH_WEIGHT_2),
     (P.TSH_MACHINE_3, P.TSH_WEIGHT_3)].filterMap fun p =>
      if t.parN p.1 a = 255 then none else some (t.parN p.1 a, pid p.1 a, pid p.2 a)
  let single (a : Nat) : List (Nat × Nat) :=
    (if t.parN P.AX_MACHINE a = 255 then [] else [(t.parN P.AX_MACHINE a, pid P.AX_MACHINE a)]) ++ (named a).map fun n => (n.1, n.2.1)
  let owners := t.imageAxes.flatMap single
  ((List.range 4).flatMap fun g =>
    ((neighbours (members g)).flatMap fun (p : Nat × Nat) =>
      viol (decide (t.axisRate p.1 ≠ t.axisRate p.2)) 6 [pid P.PTH_AXIS_MASK g]) ++
    ((List.range g).flatMap fun h => viol ((members g).any fun a => (members h).contains a) 6
      [pid P.PTH_AXIS_MASK g, pid P.PTH_AXIS_MASK h])) ++
  (slaves.flatMap fun a =>
    let m := t.parN P.GR_MASTER a
    viol (!t.imageAxes.contains m || decide (m = a) || slaves.contains m || decide (t.axisRate m ≠ t.axisRate a)) 7
      [pid P.GR_MASTER a, pid P.GR_MASTER m]) ++
  (t.imageAxes.flatMap fun a =>
    let ns := named a
    viol (decide (ns ≠ []) && (decide (ns.foldl (fun (n : Nat) x => n + (t.parId x.2.2).toNat) 0 ≠ 32768) ||
      ns.any fun x => decide (t.parId x.2.2 = 0))) 8 (ns.map fun x => x.2.2) ++
    viol (decide (ns ≠ []) && decide (t.parN P.AX_MACHINE a ≠ 255)) 8 (pid P.AX_MACHINE a :: ns.map fun x => x.2.1)) ++
  ((List.range owners.length).flatMap fun i =>
    match owners[i]? with
    | some o => (owners.take i).flatMap fun q => viol (decide (q.1 = o.1)) 8 [o.2, q.2]
    | none => [])

/-- 0x0009 to 0x000D (R338, the check of RM_PULSE, R360, R364, the observer). -/
def State.checkMotion (t : State) : List Violation :=
  (t.imageAxes.flatMap fun a => viol (decide (t.axisType a = 1 ∧ t.parN P.AX_REMOTE_MODE a = 0 ∧ t.parN P.AX_REMOTE_LINK a = 0 ∧
    t.axisCycles a < 50000)) 9 [pid P.AX_REMOTE_MODE a, pid P.AX_REMOTE_LINK a]) ++
  ((List.range 8).flatMap fun n => viol (decide (t.parN P.RM_MIN_PERIOD n ≤ t.parN P.RM_PULSE n)) 0xA
    [pid P.RM_PULSE n, pid P.RM_MIN_PERIOD n]) ++
  ((List.range 16).flatMap fun l =>
    let ix := t.parN P.LT_INDEX_AXIS l
    let tg := t.parN P.LT_TARGET_AXIS l
    viol (decide (t.parN P.LT_MODE l ≠ 0) && (decide (t.axisRate ix ≠ t.axisRate tg) || decide (t.axisType tg ≠ 0))) 0xB
      [pid P.LT_INDEX_AXIS l, pid P.LT_TARGET_AXIS l]) ++
  ((List.range 16).flatMap fun l =>
    let ix := t.parN P.LT_INDEX_AXIS l
    viol (decide (t.parN P.LT_MODE l = 1) && decide ((t.parN P.LT_PERIOD_POS l : Rat) / 65536 / t.parN P.LT_NBINS l <
      t.parN P.LT_VMAX l * t.axisT ix)) 0xC [pid P.LT_VMAX l, pid P.LT_PERIOD_POS l] ++
    viol (decide (t.parN P.LT_MODE l ≠ 0) && decide (t.parN P.LT_VMAX l < t.parN P.LT_VMIN l)) 0xC
      [pid P.LT_VMIN l, pid P.LT_VMAX l]) ++
  ((List.range t.axes).flatMap fun a => viol (decide (t.parN P.OBS_ENABLE a = 1 ∧ t.parN P.FF_INERTIA a = 0)) 0xD
    [pid P.OBS_ENABLE a, pid P.FF_INERTIA a])

/-- 0x0040 to 0x0046 (R456, R571, R603, R638). `s` is the state before the draft. -/
def State.checkFront (t s : State) : List Violation :=
  let evt := pid P.CMP_EVT_FUNC (t.parN P.TIM_PPS_PIN 0)
  let n := t.parN P.CAP_SEGMENTS 0
  let held := s.cp.segs.any fun e => e.2.held
  let user := t.segCapacity (t.recordSize t.userProbes)
  let evid := t.segCapacity (t.recordSize t.evidProbes)
  let dx := t.imageAxes.filter fun a => decide (t.axisType a = 1 ∧ t.parN P.AX_REMOTE_LINK a = 0)
  ((List.range t.channels).flatMap fun c => viol (t.designated c && decide (t.fbMode c ≠ 1)) 0x40 [pid P.FB_MODE c, P.SAF_FB_MASK]) ++
  ([P.TIM_SOURCE, P.TIM_SOURCE_2].flatMap fun id => viol (decide (t.parId id = 3 ∧ t.parId evt ≠ 3)) 0x41 [id, evt]) ++
  viol (decide (user < t.parN P.CAP_PRE 0 + t.parN P.CAP_POST 0) && decide (t.userProbes ≠ [])) 0x42 [P.CAP_PRE, P.CAP_POST] ++
  viol (t.evidOn && decide (evid ≤ t.parN P.CAP_EVID_PRE 0) && decide (t.evidProbes ≠ [])) 0x42 [P.CAP_EVID_PRE, P.CAP_EVID_SEGMENTS] ++
  ([P.CAP_SEGMENTS, P.CAP_EVID_SEGMENTS].flatMap fun id => viol (held && decide (t.parId id ≠ s.parId id)) 0x43 [id]) ++
  viol (decide (n ≤ t.parN P.CAP_EVID_SEGMENTS 0)) 0x44 [P.CAP_EVID_SEGMENTS, P.CAP_SEGMENTS] ++
  viol (decide (t.parN P.CAP_STREAM 0 = 1 ∧ t.parN P.CAP_STREAM_IP 0 = 0)) 0x45 [P.CAP_STREAM, P.CAP_STREAM_IP] ++
  ((neighbours dx).flatMap fun (p : Nat × Nat) => viol (decide (t.axisRate p.1 ≠ t.axisRate p.2)) 0x46
    [pid P.AX_REMOTE_LINK p.2, pid P.AX_REMOTE_LINK p.1]) ++
  viol (decide (dx ≠ []) && decide (t.parN P.ETH_DX_PORT 0 = 255)) 0x46 [P.ETH_DX_PORT]

/-- A CAN bit time outside R648 or its sample point outside 50 % to 90 % (R651). -/
def bitTimeBad (brp t1 t2 lo hi : Nat) : Bool :=
  let q := 1 + t1 + t2
  decide (80000000 < lo * brp * q ∨ hi * brp * q < 80000000) || decide (10 * (1 + t1) < 5 * q ∨ 9 * q < 10 * (1 + t1))

/-- The bus time of a CSP cycle of `n` drives in bits (R683): SYNC and an RPDO and a TPDO of 8 bytes for each. -/
def cspBits (n : Nat) : Nat := 55 + n * 270

/-- 0x0047 to 0x004A (R651, R676, R683, R695). -/
def State.checkLinks (t : State) : List Violation :=
  let csp (n : Nat) : List Nat := t.imageAxes.filter fun a =>
    decide (t.axisType a = 1 ∧ t.parN P.AX_REMOTE_MODE a = 0 ∧ t.parN P.AX_REMOTE_LINK a = n + 1)
  let slaves := (List.range 4).filter fun n => decide (t.parN P.CAN_TT_ROLE n = 2)
  let can := t.parN P.TIM_CAN_CTRL 0
  ((List.range 4).flatMap fun n =>
    viol (bitTimeBad (t.parN P.CAN_NBRP n) (t.parN P.CAN_NTSEG1 n) (t.parN P.CAN_NTSEG2 n) 10000 1000000) 0x47
      [pid P.CAN_NBRP n, pid P.CAN_NTSEG1 n] ++
    viol (bitTimeBad (t.parN P.CAN_DBRP n) (t.parN P.CAN_DTSEG1 n) (t.parN P.CAN_DTSEG2 n) 500000 5000000) 0x47
      [pid P.CAN_DBRP n, pid P.CAN_DTSEG1 n]) ++
  ((List.range 4).flatMap fun n =>
    let xs := csp n
    let bit := 5 * t.parN P.CAN_NBRP n * (1 + t.parN P.CAN_NTSEG1 n + t.parN P.CAN_NTSEG2 n)
    xs.flatMap fun a => viol (decide (8 * t.axisCycles a < 10 * (cspBits xs.length * bit))) 0x48
      [pid P.AX_REMOTE_LINK a, pid P.CAN_NBRP n]) ++
  viol (decide (1 < slaves.length)) 0x49 (slaves.map (pid P.CAN_TT_ROLE)) ++
  ([P.TIM_SOURCE, P.TIM_SOURCE_2].flatMap fun id => viol (decide (t.parId id = 2 ∧ t.parN P.CAN_TT_ROLE can ≠ 2)) 0x49
    [id, pid P.CAN_TT_ROLE can]) ++
  ((List.range 16).flatMap fun p => [P.SAF_PAIR_TSRC_A, P.SAF_PAIR_TSRC_B].flatMap fun b =>
    viol (decide (t.parN b p < 16) && decide (1 < (t.joined (t.parN b p)).length)) 0x4A [pid b p, P.FIO_PAIR_MASK, P.FIO_QUAD_MASK]) ++
  ((List.range 16).flatMap fun n => (t.joined n).flatMap fun m =>
    viol (decide (t.parN P.FIO_OUT_SAFE n ≠ t.parN P.FIO_OUT_SAFE m)) 0x4A [pid P.FIO_OUT_SAFE n, pid P.FIO_OUT_SAFE m]) ++
  ((List.range 8).flatMap fun b => viol ((t.parN P.FIO_PAIR_MASK 0).testBit b && (t.parN P.FIO_QUAD_MASK 0).testBit (b / 2)) 0x4A
    [P.FIO_PAIR_MASK, P.FIO_QUAD_MASK])

/-- Every violation of the running set with `w` laid over it, in table order. The checks that name the image need an active one. -/
def State.violations (s : State) (w : Store (Option Int)) : List Violation :=
  let t := s.over w
  (match s.image with
   | some im => t.checkStages im w ++ t.checkGroups w ++ t.checkMotion
   | none => []) ++ t.checkFront s ++ t.checkLinks

/-- The first violation as STAGE_CHECK reports it: DETAIL and two IDs. The writes in ascending ID come first, then table order. -/
def State.firstViolation (s : State) (w : Store (Option Int)) : Option (Nat × Nat × Nat) :=
  let vs := s.violations w
  let second (id : Nat) (v : Violation) : Nat := (v.2.find? fun x => decide (x ≠ id)).getD 0
  match w.findSome? fun e => (vs.find? fun v => v.2.contains e.1).map fun v => (v.1, e.1, second e.1 v) with
  | some r => some r
  | none => vs.head?.map fun v => (v.1, v.2.headD 0, second (v.2.headD 0) v)

/-! ### The drafts' commands (R423, R424, R435) -/

/-- STAGE_OPEN: the draft named, or the first FREE one for instance 0xFFF. -/
def cmdStageOpen (c : Cmd) (s : State) : Res × State :=
  let i := c.target % 4096
  let free := (List.range 4).filter fun k => decide ((s.draft k).state = .free)
  let pick := if i = 0xFFF then free.head? else free.find? fun k => decide (k = i)
  match pick with
  | none => (.fail stWrongState, s)
  | some k => (.ok [k], s.updDraft k fun _ => { state := .opened })

/-- The effects that a STAGE_WRITE takes: not SAFETY, no key over UDP, and in RECOVERY the key and the service mode alone (R424, R636,
R719). -/
def State.writable (s : State) (l : Link) (d : ParamDef) : Bool :=
  decide (d.effect ≠ 3) && !(isKeyParam d.base && (match l with | .udp _ _ _ => true | .host | .can _ => false)) &&
    (decide (s.pw.mode ≠ .recovery) || isKeyParam d.base || decide (d.base = P.PWR_SERVICE_MODE))

/-- STAGE_WRITE (R424). -/
def cmdStageWrite (c : Cmd) (s : State) : Res × State :=
  let k := c.target % 4096
  let d := s.draft k
  if d.state = .free then (.fail stWrongState, s) else
  match s.layWrites (s.writable c.link) (parseWrites (fld c.args 0 2) (c.args.drop 2)) d.writes with
  | .error e => (.fail e, s)
  | .ok m =>
    if 4096 < m.length then (.fail stWrongState 1, s)
    else (.ok (b2 m.length), s.updDraft k fun d => { d with state := .opened, writes := m })

/-- STAGE_CHECK (R425, R426): a failed check leaves the draft OPEN (DEDUCED, notes/assumptions/41.md). -/
def cmdStageCheck (c : Cmd) (s : State) : Res × State :=
  let k := c.target % 4096
  let d := s.draft k
  if d.state = .free then (.fail stWrongState, s) else
  match s.firstViolation d.writes with
  | some (det, a, b) => (.fail stInconsistent det (b4 s.pm.gen ++ b4 a ++ b4 b), s.updDraft k fun d => { d with state := .opened })
  | none => (.ok (b4 s.pm.gen), s.updDraft k fun d => { d with state := .checked, checkedGen := s.pm.gen })

/-- STAGE_DISCARD (R435). -/
def cmdStageDiscard (c : Cmd) (s : State) : Res × State := (.ok, s.updDraft (c.target % 4096) fun _ => {})

/-- The code of a draft's state, in the order of R423 (DEDUCED, notes/assumptions/41.md). -/
def draftCode : DraftState → Nat
  | .free => 0
  | .opened => 1
  | .checked => 2

/-- STAGE_READ (R435): the writes in ascending ID; the key reads as 0 (R636). -/
def cmdStageRead (c : Cmd) (s : State) : Res × State :=
  let d := s.draft (c.target % 4096)
  let n := fld c.args 2 2
  if 256 < n then (.fail stParamRange, s) else
  let ws := (d.writes.drop (fld c.args 0 2)).take n
  (.ok ([draftCode d.state, 0] ++ b2 d.writes.length ++
    (ws.flatMap fun e => le 4 e.1 ++ (if isKeyParam e.1 then leI 8 0 else leI 8 (e.2.getD 0)))), s)

end Sys2Proof.Machine
end

