-- ==== Sys2Proof/Machine/Net.lean ====
section
/-!
DEFINITION. Sys2Proof/Machine/Net.lean: the Ethernet ports (R627 to R642): the MAC's filter, ARP, IPv4 and UDP, ICMP, links, PTP and
drive exchange.
-/
namespace Sys2Proof.Machine

/-! ### Ports and the MAC's filter (R627, R628) -/

/-- The MAC address of a port (R628). -/
def portMac (p : Nat) : Nat := (Config.baseMac + p) % 2 ^ 48

/-- The broadcast address. -/
def macBroadcast : Nat := 0xFFFFFFFFFFFF

/-- The multicast addresses of PTP over IEEE 802.3 and over UDP/IPv4 (PRESUMED from IEEE 1588, notes/assumptions/51.md). -/
def ptpMacs : List Nat := [0x011B19000000, 0x0180C200000E, 0x01005E000181, 0x01005E00006B]

/-- The port runs: enabled, its link up, its block clocked and not in reset. -/
def State.portRuns (s : State) (p : Nat) : Bool :=
  decide (p < 2) && s.clocked && (s.port p).up && decide (s.parN P.ETH_ENABLE p = 1) &&
    !(s.pw.inReset.any fun (e : Nat × Nat × Nat) => decide (e.1 = 0xB))

/-- The MAC takes a frame (R628). -/
def State.macTakes (s : State) (f : EthFrame) : Bool :=
  let p := f.port
  let tagged : Bool := match f.vlan with
    | some v => decide (s.parN P.ETH_VLAN p = v) || decide (s.parN P.ETH_VLAN p = 0)
    | none => decide (s.parN P.ETH_VLAN p = 0)
  tagged && decide (f.payload.length ≤ 1500) &&
    (decide (f.destMac = portMac p ∨ f.destMac = macBroadcast) ||
      (decide (s.parN P.ETH_PTP_MODE p = 1) && ptpMacs.contains f.destMac))

/-! ### ARP (R629, R630) -/

/-- An address learned: 32 entries of 300 s; the one nearest its end makes room (DESIGN CHOICE, notes/assumptions/51.md). -/
def arpLearn (p ip mac : Nat) (s : State) : State :=
  s.updPort p fun e =>
    let rest := e.arp.filter fun a => decide (a.ip ≠ ip)
    let oldest := rest.foldl (fun (m : Nat) a => min m a.expires) (s.tm.now + 300 * cyclesPerS)
    let rest := if rest.length < 32 then rest else
      match rest.find? fun a => decide (a.expires = oldest) with | some a => rest.erase a | none => rest.drop 1
    { e with arp := rest ++ [{ ip := ip, mac := mac, expires := s.tm.now + 300 * cyclesPerS }] }

/-- The datagrams that waited for an address leave (R630). -/
def arpFlush (p ip : Nat) (s : State) : State :=
  let ws := (s.port p).waits.filter fun w => decide (w.ip = ip)
  let s := s.updPort p fun e => { e with waits := e.waits.filter fun w => decide (w.ip ≠ ip) }
  ws.foldl (fun s w => s.send (.udp p w.destIp w.destPort w.bytes)) s

/-- One of the 100 answers to ARP and ICMP that a port gives per second (R629). -/
def answerBudget (p : Nat) (s : State) : Bool × State :=
  let e := s.port p
  let fresh := decide (e.answersFrom + cyclesPerS ≤ s.tm.now)
  if fresh then (true, s.updPort p fun e => { e with answers := 1, answersFrom := s.tm.now })
  else if e.answers < 100 then (true, s.updPort p fun e => { e with answers := e.answers + 1 })
  else (false, s)

/-- Another station uses the port's address (R647). -/
def arpConflict (p mac ip : Nat) (s : State) : State :=
  if ip ≠ 0 ∧ ip = s.parN P.ETH_IP p ∧ mac ≠ portMac p then s.report 0xB 2 4 (b1 p ++ le 6 mac) else s

/-- An ARP request (R629). The sender of a request for the port's own address is learned (PRESUMED, notes/assumptions/51.md). -/
def arpRequest (p mac ip target : Nat) (s : State) : State :=
  if !s.portRuns p || s.parN P.ETH_IP p = 0 then s else
  let s := arpConflict p mac ip s
  if target ≠ s.parN P.ETH_IP p then s else
  let s := if ip = 0 then s else arpFlush p ip (arpLearn p ip mac s)
  let (ok, s) := answerBudget p s
  if ok then s.send (.arp p false mac ip) else s

/-- An ARP reply to the port. -/
def arpReply (p mac ip : Nat) (s : State) : State :=
  if s.parN P.ETH_IP p = 0 then s else arpFlush p ip (arpLearn p ip mac (arpConflict p mac ip s))

/-- An address stays unresolved (R630): its datagrams drop 1 s after the third request. -/
def arpFail (p ip : Nat) (s : State) : State :=
  s.updPort p fun e => { e with waits := e.waits.filter fun w => !decide (w.ip = ip ∧ w.since + 3 * cyclesPerS ≤ s.tm.now) }

/-- A cache entry reaches its lifetime (R630). -/
def arpExpire (p ip : Nat) (s : State) : State :=
  s.updPort p fun e => { e with arp := e.arp.filter fun a => !decide (a.ip = ip ∧ a.expires ≤ s.tm.now) }

/-- An ICMP echo request (R629). -/
def icmpEcho (p mac ip : Nat) (data : List Nat) (s : State) : State :=
  if !s.portRuns p || s.parN P.ETH_IP p = 0 || s.parN P.ETH_ICMP 0 = 0 then s else
  let (ok, s) := answerBudget p s
  if ok then s.send (.icmp p mac ip data) else s

/-! ### IPv4 and UDP (R629, R631) -/

/-- The sum of 16-bit words, most significant byte first. -/
def sum16 : List Nat → Nat
  | a :: b :: bs => a * 256 + b + sum16 bs
  | [a] => a * 256
  | [] => 0

/-- The one's complement sum of the internet checksum, folded. -/
def ones16 (n : Nat) : Nat := let m := n % 65536 + n / 65536; let m := m % 65536 + m / 65536; m % 65536 + m / 65536

/-- The UDP datagram that an IPv4 packet carries to the port (R629): source address, source port and data. -/
def State.udpData (s : State) (p : Nat) (bs : List Nat) : Option (Nat × Nat × List Nat) :=
  let total := ofBe (sub bs 2 2)
  let h := bs.take 20
  let u := (bs.take total).drop 20
  let len := ofBe (sub u 4 2)
  let src := ofBe (sub bs 12 4)
  let dst := ofBe (sub bs 16 4)
  let pseudo := sub bs 12 8 ++ [0, 17] ++ sub u 4 2
  if bs.headD 0 = 0x45 ∧ 28 ≤ total ∧ total ≤ bs.length ∧ ofBe (sub bs 6 2) % 2 ^ 14 = 0 ∧ bs.getD 9 0 = 17 ∧
      ones16 (sum16 h) = 0xFFFF ∧ s.parN P.ETH_IP p ≠ 0 ∧ dst = s.parN P.ETH_IP p ∧ ofBe (sub u 2 2) = 45320 ∧
      8 ≤ len ∧ len ≤ u.length ∧ (ofBe (sub u 6 2) = 0 ∨ ones16 (sum16 (pseudo ++ u.take len)) = 0xFFFF) then
    some (src, ofBe (sub u 0 2), (u.take len).drop 8)
  else none

/-- A received frame (R628, R629): the command packet that it carries with its link, if any; ARP is handled here. PTP and drive exchange
have their own rows. -/
def ethFrame (f : EthFrame) (s : State) : Option (Link × List Nat) × State :=
  let p := f.port
  if !s.portRuns p then (none, s)
  else if !f.fcsOk then (none, s.updPort p fun e => { e with fcsErrors := e.fcsErrors + 1 })
  else if !s.macTakes f then (none, s.updPort p fun e => { e with discarded := e.discarded + 1 })
  else if f.etherType = 0x0806 then
    let b := f.payload
    let mac := ofBe (sub b 8 6)
    let ip := ofBe (sub b 14 4)
    if sub b 0 6 ≠ [0, 1, 8, 0, 6, 4] then (none, s)
    else if ofBe (sub b 6 2) = 1 then (none, arpRequest p mac ip (ofBe (sub b 24 4)) s)
    else (none, arpReply p mac ip s)
  else if f.etherType = 0x0800 then
    match s.udpData p f.payload with
    | some (ip, udpPort, data) => (some (.udp p ip udpPort, data), s)
    | none => (none, s)
  else (none, s)

/-! ### PTP (R633 to R635) -/

/-- The PHY delay removed at receipt, in ns (R635); LINK_UP's speed is coded as ETH_SPEED. -/
def rxDelay (speed : Nat) : Nat := if speed = 3 then 216 else if speed = 2 then 296 else 2400
/-- The PHY delay added at transmission, in ns (R635). -/
def txDelay (speed : Nat) : Nat := if speed = 3 then 152 else if speed = 2 then 248 else 1200

/-- The clock identity: the port's MAC address as an EUI-64 (PRESUMED, notes/assumptions/51.md). -/
def clockIdentity : Nat :=
  let m := portMac 0
  m / 2 ^ 24 * 2 ^ 40 + 0xFFFE * 2 ^ 24 + m % 2 ^ 24

/-- A data set as one number, in the order in which the best master clock algorithm compares its members. -/
def datasetRank (xs : List Nat) : Nat :=
  match xs with
  | p1 :: cls :: acc :: var :: p2 :: gm :: steps :: _ =>
    ((((((p1 % 256) * 256 + cls % 256) * 256 + acc % 256) * 65536 + var % 65536) * 256 + p2 % 256) * 2 ^ 64 + gm % 2 ^ 64) * 65536 +
      steps % 65536
  | _ => 2 ^ 200

/-- The module's own data set (R634); its variance is not in the spec (DESIGN CHOICE 0xFFFF, notes/assumptions/51.md). -/
def State.ownDataset (s : State) : List Nat :=
  [s.parN P.ETH_PTP_PRIO1 0, 248, 0xFE, 0xFFFF, s.parN P.ETH_PTP_PRIO2 0, clockIdentity, 0]

/-- PTP runs on a port: an ordinary clock uses the lowest port whose PTP is on (R633). -/
def State.ptpRuns (s : State) (p : Nat) : Bool :=
  s.portRuns p && decide (s.parN P.ETH_PTP_MODE p = 1) &&
    (decide (s.parN P.ETH_PTP_CLOCK 0 = 1 ∨ p = 0) || decide (s.parN P.ETH_PTP_MODE 0 = 0))

/-- A port's PTP state changes, with PTP_PORT_STATE (R647). -/
def ptpSet (p st gm : Nat) (s : State) : State :=
  if (s.port p).ptpState = st then s.updPort p fun e => { e with grandmaster := gm } else
  (s.updPort p fun e => { e with ptpState := st, grandmaster := gm }).report 0xB 1 3 (b1 p ++ b1 st ++ le 8 gm)

/-- The grandmaster of an announced rank. -/
def rankMaster (r : Nat) : Nat := r / 65536 % 2 ^ 64

/-- The states of the ports after a change of what they heard (R633): the best of all masters is followed if it is better than the
module's own data set or the module is slave-only; a port that leads away from it is master, or listens. -/
def ptpDecide (s : State) : State :=
  let own := datasetRank s.ownDataset
  let only := decide (s.parN P.ETH_PTP_SLAVE_ONLY 0 = 1)
  let heard := (List.range 2).filterMap fun p => if s.ptpRuns p then ((s.port p).best).map fun b => (b.1, p) else none
  let best : Option (Nat × Nat) := heard.foldl (fun (m : Option (Nat × Nat)) x => match m with
    | some y => if x.1 < y.1 then some x else some y
    | none => some x) none
  let follow : Option (Nat × Nat) := match best with
    | some x => if only || decide (x.1 < own) then some x else none
    | none => none
  (List.range 2).foldl (fun s p =>
    if !s.ptpRuns p then s else
    match follow with
    | some (r, q) =>
      if q = p then
        let st := (s.port p).ptpState
        let same := decide ((st = 8 ∨ st = 9) ∧ (s.port p).grandmaster = rankMaster r)
        ptpSet p (if same then st else 8) (rankMaster r) s
      else if only then ptpSet p 4 (rankMaster r) s
      else match (s.port p).best with
        | some b => if b.1 < own then ptpSet p 7 (rankMaster r) s else ptpSet p 6 (rankMaster r) s
        | none => ptpSet p 6 (rankMaster r) s
    | none => if only then ptpSet p 4 0 s else ptpSet p 6 clockIdentity s) s

/-- An Announce (R633). -/
def ptpAnnounce (p : Nat) (m : PtpMsg) (s : State) : State :=
  if m.source / 2 ^ 16 = clockIdentity then s else
  let r := datasetRank m.dataset
  let keep : Option (Nat × Nat) := match (s.port p).best with
    | some b => if b.2 = m.source ∨ r < b.1 then some (r, m.source) else some b
    | none => some (r, m.source)
  ptpDecide (s.updPort p fun e => { e with best := keep })

/-- An offset from the master (R535, R633): a port in UNCALIBRATED becomes SLAVE. -/
def ptpOffset (p : Nat) (diff : Int) (s : State) : State :=
  let s := s.updPort p fun e => { e with syncDiff := some diff, syncRx := none }
  let s := if (s.port p).ptpState = 8 then ptpSet p 9 (s.port p).grandmaster s else s
  (measure 1 (diff - (s.port p).pathDelay) s).1

/-- The stamp of a received event message (R635): less the PHY's delay. -/
def State.ptpRx (s : State) (p back : Nat) : Int := (s.nsBack back : Int) - rxDelay (s.port p).speed
/-- The stamp of an event message sent now (R635). -/
def State.ptpTx (s : State) (p : Nat) : Nat := s.ns + txDelay (s.port p).speed

/-- A PTP message (R633). A master is followed by its source identity. -/
def ptpMessage (p : Nat) (m : PtpMsg) (s : State) : State :=
  if !s.ptpRuns p || m.domain ≠ s.parN P.ETH_PTP_DOMAIN 0 then s else
  let e := s.port p
  let slave := decide (e.ptpState = 8 ∨ e.ptpState = 9) && (match e.best with | some b => decide (b.2 = m.source) | none => false)
  let p2p := decide (s.parN P.ETH_PTP_DELAY 0 = 1)
  let rx := s.ptpRx p m.back
  match m.type with
  | .announce => ptpAnnounce p m s
  | .sync =>
    if !slave then s
    else if m.twoStep then s.updPort p fun e => { e with syncRx := some (m.seq, (rx - m.correction).toNat) }
    else ptpOffset p (rx - m.stamp - m.correction) s
  | .followUp =>
    match e.syncRx with
    | some (q, r) => if slave && decide (q = m.seq) then ptpOffset p ((r : Int) - m.stamp - m.correction) s else s
    | none => s
  | .delayReq => if decide (e.ptpState = 6) && !p2p then s.send (.ptp p 9 rx.toNat) else s
  | .delayResp =>
    match e.delayTx, e.syncDiff with
    | some (q, t3), some d =>
      if slave && !p2p && decide (q = m.seq ∧ m.requester / 2 ^ 16 = clockIdentity) then
        s.updPort p fun e => { e with pathDelay := (d + ((m.stamp : Int) - m.correction - t3)) / 2, delayTx := none }
      else s
    | _, _ => s
  | .pdelayReq => if p2p then (s.send (.ptp p 3 rx.toNat)).send (.ptp p 0xA (s.ptpTx p)) else s
  | .pdelayResp =>
    match e.delayTx with
    | some (q, t1) =>
      if !p2p || !decide (q = m.seq ∧ m.requester / 2 ^ 16 = clockIdentity) then s
      else if m.twoStep then
        s.updPort p fun e => { e with pdelayRx := some (q, rx - t1 + m.stamp - m.correction), delayTx := none }
      else s.updPort p fun e => { e with pathDelay := (rx - t1 - m.correction) / 2, delayTx := none }
    | none => s
  | .pdelayRespFollowUp =>
    match e.pdelayRx with
    | some (q, x) =>
      if p2p && decide (q = m.seq ∧ m.requester / 2 ^ 16 = clockIdentity) then
        s.updPort p fun e => { e with pathDelay := (x - m.stamp - m.correction) / 2, pdelayRx := none }
      else s
    | none => s

/-- As master the port sends Announce, or Sync with a Follow_Up in two-step form (R633). -/
def ptpMasterSend (p : Nat) (announce : Bool) (s : State) : State :=
  if !s.ptpRuns p || (s.port p).ptpState ≠ 6 then s else
  if announce then
    (s.updPort p fun e => { e with announceSeq := (e.announceSeq + 1) % 65536 }).send (.ptp p 0xB s.ns)
  else
    let ns := s.ptpTx p
    let s := (s.updPort p fun e => { e with syncSeq := (e.syncSeq + 1) % 65536 }).send (.ptp p 0 ns)
    if s.parN P.ETH_PTP_STEP 0 = 0 then s.send (.ptp p 8 ns) else s

/-- No Announce within the receipt timeout (R633): the master is forgotten. -/
def ptpTimeout (p : Nat) (s : State) : State :=
  if !s.ptpRuns p then s else
  ptpDecide (s.updPort p fun e => { e with best := none, syncRx := none, delayTx := none, syncDiff := none })

/-- The periodic delay request (R633): Delay_Req of a slave, or Pdelay_Req in any state. -/
def ptpDelaySend (p : Nat) (s : State) : State :=
  let e := s.port p
  let p2p := decide (s.parN P.ETH_PTP_DELAY 0 = 1)
  if !s.ptpRuns p || !(p2p || decide (e.ptpState = 8 ∨ e.ptpState = 9)) then s else
  let ns := s.ptpTx p
  (s.updPort p fun e => { e with delayTx := some (e.delaySeq, ns), delaySeq := (e.delaySeq + 1) % 65536 }).send
    (.ptp p (if p2p then 2 else 1) ns)

/-! ### Links (R632, R644, R647) -/

/-- A port gains link. -/
def linkUp (p speed duplex : Nat) (s : State) : State :=
  if 2 ≤ p || (s.port p).up || !s.clocked || s.parN P.ETH_ENABLE p = 0 then s else
  let s := (s.updPort p fun e => { e with up := true, speed := speed, duplex := duplex }).report 0xB 1 1 (b1 p ++ b1 speed ++ b1 duplex)
  if s.ptpRuns p then ptpSet p 4 0 s else s

/-- A port loses link: what waits for an address is dropped, and its PTP port begins afresh. -/
def linkDown (p : Nat) (s : State) : State :=
  if 2 ≤ p || !(s.port p).up then s else
  let s := (s.updPort p fun e => { e with
    up := false, speed := 0, duplex := 0, waits := [], best := none, syncRx := none, delayTx := none, syncDiff := none
    ptpState := 1, grandmaster := 0 }).report 0xB 2 2 (b1 p)
  ptpDecide s

/-- A commit wrote parameters of the ports: a port turned off loses its link, PTP turned on or off begins or ends. -/
def ethCommit (s : State) : State :=
  (List.range 2).foldl (fun s p =>
    if s.parN P.ETH_ENABLE p = 0 then linkDown p s
    else if s.ptpRuns p then (if (s.port p).ptpState = 1 ∨ (s.port p).ptpState = 3 then ptpSet p 4 0 s else s)
    else if s.parN P.ETH_PTP_MODE p = 0 ∧ (s.port p).ptpState ≠ 1 then ptpSet p 3 0 s
    else s) s

/-! ### Drive exchange (R638 to R642) -/

/-- The axes of drive exchange that have taken the sample of the present frame. -/
def State.dxAxes (s : State) : List Nat :=
  (List.range s.axes).filter fun a =>
    s.axisRuns a && decide (s.axisType a = 1 ∧ s.parN P.AX_REMOTE_LINK a = 0 ∧ (s.axis a).sampled = some s.rg.frameStart)

/-- The stamp of the valley of sample k + 1 of an axis (R639). -/
def State.nextValley (s : State) (a : Nat) : Nat := s.rg.frameNs.getD s.ns + s.axisCycles a * s.tm.inc / 2 ^ 33

/-- The setpoint frame's payload (R639). -/
def State.dxPayload (s : State) (as : List Nat) : List Nat :=
  let entry (a : Nat) : List Nat :=
    let x := s.setpoint a
    [s.parN P.AX_REMOTE_NODE a, x.1, 0, 0] ++ leI 8 x.2.1 ++ leI 4 x.2.2
  let apply : Nat := match as with | a :: _ => s.nextValley a | [] => s.ns
  let b := [1, 1] ++ le 2 s.dx.cycle ++ stampBytes apply ++ [as.length, b2n s.tm.coarse] ++ as.flatMap entry
  b ++ le 4 (crc32c b)

/-- At frame cycle S the MAC sends the setpoint frame, or is late with it (R639, R647). -/
def dxSend (late : Bool) (s : State) : State :=
  let p := s.parN P.ETH_DX_PORT 0
  let as := s.dxAxes.take 40
  if !s.framesRun || as = [] || decide (2 ≤ p) then s else
  let cyc := s.dx.cycle
  let bs := s.dxPayload as
  let s := if late then s.report 0xB 3 6 (b2 cyc ++ b4 s.rg.frame)
    else if s.portRuns p then s.send (.eth p (0x015A57445800 + s.parN P.ETH_DX_DOMAIN 0) 0x88B5 (padTo (max 46 bs.length) bs))
    else s
  let s := as.foldl (fun s a => setpointSent a cyc s) s
  { s with dx := { cycle := (cyc + 1) % 65536, replied := [] } }

/-- A drive's reply (R640, R641): one that is late, damaged, of another cycle or of no known node is discarded. -/
def dxReply (bs : List Nat) (s : State) : State :=
  let p := s.parN P.ETH_DX_PORT 0
  let node := bs.getD 4 0
  let cyc := fld bs 2 2
  let ok := decide (28 ≤ bs.length) && decide (fld bs 24 4 = crc32c (bs.take 24)) && decide (bs.getD 0 0 = 1 ∧ bs.getD 1 0 = 2) &&
    decide ((cyc + 1) % 65536 = s.dx.cycle)
  if !s.portRuns p || !ok || s.dx.replied.contains node then s else
  match (List.range s.axes).find? fun a =>
      decide (s.axisType a = 1 ∧ s.parN P.AX_REMOTE_LINK a = 0 ∧ s.parN P.AX_REMOTE_NODE a = node) with
  | none => s
  | some a =>
    if !s.replyInTime a then s else
    let st := bs.getD 5 0
    remoteReply a ((cyc + 65535) % 65536) (fldI bs 8 8) (fldI bs 16 4) (st.testBit 0) (st.testBit 1) (fld bs 6 2) false
      { s with dx := { s.dx with replied := s.dx.replied ++ [node] } }

/-! ### Commands -/

/-- ARP_REQUEST_RX (R629). -/
def execArpRequestRx (dt port senderMac senderIp targetIp : Nat) (s : State) : Out :=
  .next (arpRequest port senderMac senderIp targetIp (s.elapse dt))
/-- ARP_RESOLVE_FAIL (R630). -/
def execArpResolveFail (dt port ip : Nat) (s : State) : Out := .next (arpFail port ip (s.elapse dt))
/-- ARP_CACHE_ENTRY_EXPIRED (R630). -/
def execArpCacheEntryExpired (dt port ip : Nat) (s : State) : Out := .next (arpExpire port ip (s.elapse dt))
/-- ICMP_ECHO (R629). -/
def execIcmpEcho (dt port senderMac senderIp : Nat) (data : List Nat) (s : State) : Out :=
  .next (icmpEcho port senderMac senderIp data (s.elapse dt))
/-- PTP_MESSAGE (R633). -/
def execPtpMessage (dt port : Nat) (msg : PtpMsg) (s : State) : Out := .next (ptpMessage port msg (s.elapse dt))
/-- PTP_MASTER_SEND (R633). -/
def execPtpMasterSend (dt port : Nat) (announce : Bool) (s : State) : Out := .next (ptpMasterSend port announce (s.elapse dt))
/-- PTP_ANNOUNCE_TIMEOUT (R633). -/
def execPtpAnnounceTimeout (dt port : Nat) (s : State) : Out := .next (ptpTimeout port (s.elapse dt))
/-- PTP_DELAY_REQ_SEND (R633). -/
def execPtpDelayReqSend (dt port : Nat) (s : State) : Out := .next (ptpDelaySend port (s.elapse dt))
/-- LINK_UP (R647). -/
def execLinkUp (dt port speed duplex : Nat) (s : State) : Out := .next (linkUp port speed duplex (s.elapse dt))
/-- LINK_DOWN (R644). -/
def execLinkDown (dt port : Nat) (s : State) : Out := .next (linkDown port (s.elapse dt))
/-- DX_SETPOINT_SEND (R639). -/
def execDxSetpointSend (dt : Nat) (late : Bool) (s : State) : Out := .next (dxSend late (s.elapse dt))
/-- DX_REPLY (R641). -/
def execDxReply (dt : Nat) (payload : List Nat) (s : State) : Out := .next (dxReply payload (s.elapse dt))

end Sys2Proof.Machine
end

