-- ==== Sys2Proof/Machine/Commit.lean ====
section
/-!
DEFINITION. Sys2Proof/Machine/Commit.lean: live writes and STAGE_COMMIT (R28, R88 to R91, R425 to R431, R808): the coefficient banks, the
stored sets, the commit marker, and what a change of a parameter does at once.
-/
namespace Sys2Proof.Machine

/-! ### Coefficient banks (R87 to R90, R115) -/

/-- Bytes of a coefficient bank (R115). -/
def coeffBytes : Nat := 0x3000

/-- The base of coefficient bank A or B of spur `k`. -/
def coeffBase (k : Nat) (b : Bool) : Nat := bankBase k false + (if b then coeffBytes else 0)

/-- A converted value written to every copy of a parameter in bank A, B or both (R88). -/
def writeCopies (id : Nat) (v : Int) (banks : List Bool) (s : State) : State :=
  match s.image with
  | none => s
  | some im =>
    (im.body.layout.filter fun e => decide (e.id = id)).foldl (fun s e =>
      let ws := Config.convert e.conv e.shift v
      e.copies.foldl (fun s c =>
        if s.spurs ≤ c.1 then s else
        banks.foldl (fun s b => s.wrN (coeffBase c.1 b + 2 * c.2.1) ((ws.take c.2.2).flatMap (le 2))) s) s) s

/-- Each spur's active bank copied into its inactive bank (R90 step 2). -/
def copyBanks (s : State) : State :=
  (List.range s.spurs).foldl (fun s k =>
    s.copyRange (coeffBase k s.rg.bankB) (coeffBase k !s.rg.bankB) coeffBytes) s

/-- Steps 2 and 3 of R90; with the Ridge STOPPED the banks are loaded at the next start (R428). -/
def prepareBanks (w : Store (Option Int)) (s : State) : State :=
  if !s.framesRun then s else
  w.foldl (fun s e => match e.2 with | some v => writeCopies e.1 v [!s.rg.bankB] s | none => s) (copyBanks s)

/-! ### Stored sets (R429, R431) -/

/-- What a stored set holds: the running values and those that wait for a restart, the safety monitor's apart. -/
def State.storedValues (s : State) : Store (Option Int) :=
  Store.keep (fun id => decide (id / 2 ^ 24 ≠ 0x68)) (s.pm.restart.foldl (fun m e => Store.write none m e.1 e.2) s.pm.run)

/-- The highest generation among the sets that count. -/
def State.newestGen (s : State) : Nat := s.pm.sets.foldl (fun n x => if x.marked then max n x.gen else n) 0

/-- A completed live write stored as a new set (R431). A set of a higher generation that was stored meanwhile does not hide it (DEDUCED,
notes/assumptions/42.md). -/
def storeLive (gen : Nat) (s : State) : State :=
  let g := max gen s.newestGen
  { s with pm := { s.pm with sets := { gen := g, marked := true, values := s.storedValues } :: s.pm.sets.filter fun x => !x.marked } }

/-- The set of a commit stored before its marker (R429). -/
def storeUnmarked (w : Store (Option Int)) (s : State) : State :=
  let vs := w.foldl (fun m e => Store.write none m e.1 e.2) s.storedValues
  { s with pm := { s.pm with sets := (s.pm.sets.filter (·.marked)) ++ [{ gen := s.pm.gen + 1, marked := false, values := vs }] } }

/-- The marker is in the journal: the commit's set counts (R429). -/
def storeMarked (s : State) : State :=
  { s with pm := { s.pm with sets := [{ gen := s.pm.gen, marked := true, values := s.storedValues }] } }

/-! ### What a change of a parameter does -/

/-- The debug port locks (R725): DEBUG_LOCKED with its cause. -/
def debugLock (cause : Nat) (s : State) : State :=
  let told := s.pw.dbg.unlocked.isSome
  let s := { s with pw := { s.pw with dbg := { s.pw.dbg with allowed := none, challenge := none, wrong := 0, unlocked := none } } }
  if told then s.report 0xF 1 0xA (b1 cause) else s

/-- A write of PWR_DEBUG_ALLOW (R725): 1 counts from an authenticated session. -/
def debugAllow (v : Int) (session : Nat) (s : State) : State :=
  if v = 0 then debugLock 1 s else
  let authed := match s.session session with | some x => x.authed | none => false
  if !authed then s else
  { s with pw := { s.pw with dbg := { s.pw.dbg with allowed := some (s.tm.now, session), challenge := none, wrong := 0 } } }

/-- A commit changed K_dev (R637): the keys of authenticated sessions are discarded, and KEY_CHANGED is recorded. -/
def keyChanged (session : Nat) (s : State) : State :=
  let s := { s with jn := { s.jn with sessions := s.jn.sessions.map fun (x : Session) => if x.authed then { x with key := none } else x } }
  s.report 0xA 1 5 (b4 s.keyCheck ++ b2 session)

/-- A parameter of instance 0x00 to 0x2F of class 0x78, or CAP_MODE to CAP_STREAM_PORT (R597). -/
def isUserCapture (id : Nat) : Bool :=
  decide (id / 2 ^ 24 = 0x78) && (decide (id / 2 ^ 16 % 256 < 0x30) || decide (P.CAP_MODE ≤ id ∧ id ≤ P.CAP_STREAM_PORT))

/-- A parameter of the evidence capture (R597). -/
def isEvidence (id : Nat) : Bool := decide (P.CAP_EVID_SEGMENTS ≤ id ∧ id ≤ P.CAP_EVID_BT_DIV)

/-- What one committed parameter does besides its new value (R30, R188, R204, R220, R244, R294, R372, R656, R725). -/
def valueEffect (session id : Nat) (old new : Int) (s : State) : State :=
  let cls := id / 2 ^ 24
  let base := cls * 2 ^ 24 + id % 2 ^ 16
  let i := id / 2 ^ 16 % 256
  if cls = 0x38 then ltCommit id old new s
  else if cls = 0x50 ∨ cls = 0x51 ∨ cls = 0x52 then
    if base = P.FB_INDEX_MODE then indexModeWritten i new.toNat s
    else if old ≠ new then fbCommit id old s else s
  else if base = P.APWM_MODE then apwmSetMode i new.toNat s
  else if base = P.APWM_STOP_ACTION ∧ old ≠ new ∧ !s.framesRun then apwmSetMode i (s.apwm i).mode s
  else if base = P.TRP_FILTER ∧ old ≠ new then tripInput i (s.stage i).tripActive 0 s
  else if base = P.PWM_TEST_DUTY_U ∨ base = P.PWM_TEST_DUTY_V ∨ base = P.PWM_TEST_DUTY_W then
    if s.openLoop (groupOf i) then loadAll (groupOf i) (writeDuty i (base - P.PWM_TEST_DUTY_U) new.toNat s) else s
  else if base = P.STG_FAST_DEC ∨ base = P.STG_OC_LEVEL ∨ base = P.STG_OC_COUNT ∨ base = P.STG_STUCK_RUN then
    s.updStage i fun t => { t with ocRun := 0 }
  else if cls = 0x10 ∧ 0x80 ≤ i ∧ (id % 2 ^ 16 = P.STG_DC_FAST_DEC % 2 ^ 16 ∨ id % 2 ^ 16 = P.STG_DC_OV_LEVEL % 2 ^ 16 ∨
      id % 2 ^ 16 = P.STG_DC_STUCK_RUN % 2 ^ 16) then
    s.updMod (i - 80) fun m => { m with ovRun := 0 }
  else if old ≠ new ∧ (base = P.MAC_FB_PRIMARY ∨ base = P.MAC_FB_SECOND ∨ base = P.MAC_POLE_PAIRS ∨ base = P.MAC_COUNTS_REV) then
    s.updMachine i fun x => { x with
      aligned := x.aligned && decide (base = P.MAC_FB_SECOND), aligned2 := x.aligned2 && decide (base = P.MAC_FB_PRIMARY) }
  else if id = P.TIM_SOURCE ∧ old ≠ new then servoFree s
  else if base = P.CAN_ENABLE then canCommit i s
  else if id = P.PWR_DEBUG_ALLOW then debugAllow new session s
  else s

/-- The values of a commit applied (R11, R30): RESTART values wait, the others run from now. -/
def applyValues (session : Nat) (w : Store (Option Int)) (s : State) : State :=
  let joins := gen s.joined 16
  let key := s.kDev
  let ws : List (Nat × Int) := w.filterMap fun e => e.2.map fun v => (e.1, v)
  let later (id : Nat) : Bool := match s.paramDef id with | some d => decide (d.effect = 2) | none => false
  let now := (ws.filter fun e => !later e.1).map fun e => (e.1, s.parId e.1, e.2)
  let s := { s with pm := { s.pm with
    run := now.foldl (fun m e => Store.write none m e.1 (some e.2.2)) s.pm.run
    restart := (ws.filter fun e => later e.1).foldl (fun m e => Store.write none m e.1 (some e.2)) s.pm.restart } }
  let s := now.foldl (fun s e => valueEffect session e.1 e.2.1 e.2.2 s) s
  let changed := now.filter fun e => decide (e.2.1 ≠ e.2.2)
  let s := if changed.any fun e => isUserCapture e.1 || isEvidence e.1 then
      captureCommit (changed.any fun e => isUserCapture e.1) (changed.any fun e => isEvidence e.1) s else s
  let s := if changed.any fun e => decide (e.1 = P.FIO_PAIR_MASK ∨ e.1 = P.FIO_QUAD_MASK) then joinCommit joins s else s
  let s := if changed.any fun e => decide (e.1 / 2 ^ 24 = 0x88) then ethCommit s else s
  if s.kDev = key then s else keyChanged session s

/-! ### Live writes (R28, R89, R431) -/

/-- A live write applied (R89, R431): in force, in every copy of both banks, stored and recorded. A write of 1 to FB_FAULT_CLEAR that finds
a cause present changes nothing (R278). -/
def applyLive (x : LiveWrite) (s : State) : Res × State :=
  let clears := decide (x.id % 2 ^ 16 = P.FB_FAULT_CLEAR % 2 ^ 16 ∧ x.id / 2 ^ 24 = 0x50 ∧ x.value = 1)
  let (st, s) := if clears then fbClear (x.id / 2 ^ 16 % 256) s else (stOk, s)
  if st ≠ stOk then (.fail st, s) else
  let session := (s.entry x.slot).session
  let old := s.parId x.id
  let s := { s with pm := { s.pm with run := Store.write none s.pm.run x.id (some x.value) } }
  let s := if s.framesRun then writeCopies x.id x.value [false, true] s else s
  let s := valueEffect session x.id old x.value s
  (.ok, (storeLive x.gen s).report 1 0 5 (b4 x.id ++ leI 8 x.value))

/-- The next pending live write applied at a frame start (R28); a commit waits for those before it (R90 step 1). -/
def liveNext (s : State) : State :=
  match s.pm.live with
  | [] => s
  | x :: xs =>
    let (r, s) := applyLive x { s with pm := { s.pm with live := xs } }
    let s := s.finish x.slot r
    match s.rg.commit with
    | some c => if c.phase = .waiting then
        let s := { s with rg := { s.rg with commit := some { c with
          before := c.before - 1, phase := if c.before ≤ 1 then .preparing else .waiting } } }
        if c.before ≤ 1 then prepareBanks c.values s else s
      else s
    | none => s

/-- Every pending live write applied at once: the Ridge is STOPPED (R431). -/
def liveAll : Nat → State → State
  | 0, s => s
  | n + 1, s => if s.pm.live = [] then s else liveAll n (liveNext s)

/-- SET_PARAM_LIVE (R12, R425, R433, R802): applied at once with the Ridge STOPPED, else pending. A value that breaks a check with another
parameter is PARAM_RANGE. -/
def cmdSetParamLive (c : Cmd) (s : State) : Res × State :=
  let id := fld c.args 0 4
  match s.checkWrite (fun d => decide (d.effect = 0)) id (fld c.args 4 8) with
  | .error e => (.fail e, s)
  | .ok v =>
    let w : Store (Option Int) := [(id, some v)]
    if (s.violations w).any fun x => x.2.contains id then (.fail stParamRange, s) else
    let x : LiveWrite := { slot := c.slot, id := id, value := v, gen := c.gen }
    if s.framesRun then (.pending, { s with pm := { s.pm with live := s.pm.live ++ [x] } }) else applyLive x s

/-! ### STAGE_COMMIT (R90, R91, R427 to R430, R808) -/

/-- A commit ends NOT APPLIED (R430): its set is not kept. -/
def commitFails (c : CommitSt) (status : Nat) (s : State) : State :=
  { s with pm := { s.pm with sets := s.pm.sets.filter (·.marked) } }.finish c.slot (.notApplied status)

/-- The next identification commit begins (R201). -/
def commitNext (s : State) : State :=
  if s.rg.commit.isSome || s.rg.flipped.isSome then s else
  match s.rg.waiting with
  | [] => s
  | c :: cs =>
    let n := s.pm.live.length
    let s := { s with rg := { s.rg with
      waiting := cs, commit := some { c with before := n, phase := if n = 0 then .preparing else .waiting } } }
    if n = 0 then prepareBanks c.values s else s

/-- The commit in progress ends NOT APPLIED and the next one begins. -/
def commitDrop (status : Nat) (s : State) : State :=
  match s.rg.commit with
  | none => s
  | some c =>
    let s := { s with rg := { s.rg with commit := none } }
    commitNext (if c.ident.isSome then s.finish c.slot (.fail status) else commitFails c status s)

/-- The values of a commit take effect at the commit frame start, or without one (R90 step 6, R428). -/
def commitApply (c : CommitSt) (flip : Bool) (s : State) : State :=
  let s := { s with rg := { s.rg with
    commit := none, bankB := if flip then !s.rg.bankB else s.rg.bankB
    flipped := some { commit := c, frame := if flip then s.rg.frame else 0xFFFFFFFF, flipped := flip } } }
  let s := applyValues c.session c.values s
  match c.ident with
  | none => s
  | some (m, mode, _, second) =>
    if mode = 1 then (s.machineStages m).foldl (fun s k => s.updStage k fun t => { t with calibrated := true }) s
    else s.updMachine m fun x => { x with aligned := true, aligned2 := x.aligned2 || second }

/-- COMMIT_BANKS_PREPARED (R90 steps 4 and 5, R427, R428): the read-back, the stored set, and arming. -/
def banksPrepared (ok : Bool) (s : State) : State :=
  match s.rg.commit with
  | none => s
  | some c =>
    if c.phase ≠ .preparing then s
    else if !ok then commitDrop stHwFault s
    else
      let late := match c.mode, c.stamp with
        | 2, some n => decide (n + s.rg.frameLength * 5 / 2 < s.ns)
        | _, _ => false
      if late then commitDrop stCommitLate s else
      let s := storeUnmarked c.values s
      let wait := s.framesRun || (match c.mode, c.stamp with | 2, some n => decide (s.ns < n) | _, _ => false)
      if wait then { s with rg := { s.rg with commit := some { c with phase := .armed } } } else commitApply c false s

/-- The commit frame start of an armed commit (R91, R427). -/
def State.flipDue (s : State) (c : CommitSt) : Bool :=
  decide (c.phase = .armed) && (match c.mode with
    | 0 => true
    | 1 => decide (s.rg.frame % 64 = 0)
    | _ => match c.stamp with | some n => decide (n ≤ s.rg.frameNs.getD s.ns) | none => true)

/-- COMMIT_STAMP_REACHED (R428). -/
def stampReached (s : State) : State :=
  match s.rg.commit with
  | none => s
  | some c =>
    if s.framesRun || c.phase ≠ .armed then s else
    match c.stamp with
    | some n => if c.mode = 2 ∧ s.ns < n then s else commitApply c false s
    | none => commitApply c false s

/-- Words of the reply of an identification (R436). -/
def identReply (s : State) (c : CommitSt) (m mode quality : Nat) (second : Bool) : List Nat :=
  let v (id : Nat) : Int := match Store.read none c.values id with | some x => x | none => 0
  if mode = 1 then (s.machineStages m).flatMap fun k =>
    [k, 0] ++ leI 2 (v (pid P.STG_OFFSET_U k)) ++ leI 2 (v (pid P.STG_OFFSET_V k))
  else leI 2 (v (pid P.MAC_ANGLE_OFFSET m)) ++ le 2 quality ++ leI 2 (v (pid P.MAC_ANGLE_OFFSET_2 m)) ++ [b2n second, 0]

/-- The records and drafts of an identification that has its marker (R201). -/
def identDone (c : CommitSt) (m mode quality : Nat) (s : State) : State :=
  let v (id : Nat) : Int := match Store.read none c.values id with | some x => x | none => 0
  let s := if mode = 1 then (s.machineStages m).foldl (fun s k =>
      s.report 3 1 6 (b1 k ++ leI 2 (v (pid P.STG_OFFSET_U k)) ++ leI 2 (v (pid P.STG_OFFSET_V k)))) s
    else s.report 3 1 7 (b1 m ++ b1 mode ++ leI 2 (v (pid P.MAC_ANGLE_OFFSET m)) ++ b2 quality)
  (List.range 4).foldl (fun s k =>
    let d := s.draft k
    if d.state = .checked ∧ d.writes.any fun e => c.values.any fun x => decide (x.1 = e.1) then
      s.updDraft k fun d => { d with state := .opened }
    else s) s

/-- COMMIT_MARKER_WRITTEN (R429, R430): the new generation, the marker in the journal, the set that counts, the free draft. -/
def markerWritten (s : State) : State :=
  match s.rg.flipped with
  | none => s
  | some f =>
    let c := f.commit
    let s := storeMarked { s with pm := { s.pm with gen := (s.pm.gen + 1) % 2 ^ 32 }, rg := { s.rg with flipped := none } }
    let det := if f.flipped then 0 else 1
    let s := match c.ident with
      | some (m, mode, q, second) =>
        let data := identReply s c m mode q second
        identDone c m mode q ((s.complete c.slot 2 stOk 0 f.frame (some s.ns)).finish c.slot (.done 2 0 0 f.frame data))
      | none =>
        let s := (s.complete c.slot 3 stOk det f.frame (some s.ns)).finish c.slot
          (.done 3 0 det f.frame (le 4 f.frame ++ le 4 s.pm.gen))
        let s := match c.draft with | some k => s.updDraft k fun _ => {} | none => s
        s.report 1 1 4 (b2 c.session ++ b4 c.seq ++ b4 s.pm.gen ++ b1 (c.draft.getD 0) ++ [0])
    commitNext s

/-- A draft that holds the key or the service mode commits only as R636 and R723 say. -/
def State.commitForbidden (s : State) (c : Cmd) (w : Store (Option Int)) : Bool :=
  let authed := match s.session c.session with | some x => x.authed | none => false
  let onHost : Bool := match c.link with | .host => true | .udp _ _ _ => false | .can _ => false
  (w.any (fun e => isKeyParam e.1) && decide (s.pw.mode = .service)) ||
    (w.any (fun e => decide (e.1 = P.PWR_SERVICE_MODE)) && !(authed || (decide (s.pw.mode = .recovery) && onHost)))

/-- STAGE_COMMIT (R425, R427, R719, R808): refused BUSY, NOT_CHECKED, PARAM_RANGE or WRONG_STATE in this order (DEDUCED,
notes/assumptions/42.md), else step 1 of R90; the recovery loader applies it at once. -/
def cmdStageCommit (c : Cmd) (s : State) : Res × State :=
  let k := c.target % 4096
  let d := s.draft k
  let mode := fld c.args 0 1
  let stamp : Option Nat := if c.args.length < 12 then none else ofStamp (c.args.drop 2)
  let busy := (s.rg.commit.toList ++ s.rg.waiting).any fun x => x.ident.isNone
  if busy then (.notApplied stBusy, s)
  else if d.state ≠ .checked ∨ d.checkedGen ≠ s.pm.gen then (.notApplied stNotChecked, s)
  else if 2 < mode ∨ (mode = 2 ∧ (stamp.isNone ∨ nsPerS ≤ fld c.args 8 4)) then (.notApplied stParamRange, s)
  else if s.commitForbidden c d.writes then (.notApplied stWrongState, s)
  else
    let n := s.pm.live.length
    let x : CommitSt := { slot := c.slot, session := c.session, seq := c.seq, draft := some k, mode := mode, stamp := stamp
                          phase := if n = 0 then .preparing else .waiting, before := n, values := d.writes, ident := none }
    if s.pw.mode = .recovery then
      (.pending, markerWritten (commitApply x false (storeUnmarked x.values { s with rg := { s.rg with commit := none } })))
    else if s.rg.commit.isSome || s.rg.flipped.isSome then (.pending, { s with rg := { s.rg with waiting := s.rg.waiting ++ [x] } })
    else
      let s := { s with rg := { s.rg with commit := some x } }
      (.pending, if n = 0 then prepareBanks x.values s else s)

/-- COMMIT_BANKS_PREPARED (R90). -/
def execCommitBanksPrepared (dt : Nat) (readbackOk : Bool) (s : State) : Out := .next (banksPrepared readbackOk (s.elapse dt))
/-- COMMIT_MARKER_WRITTEN (R429). -/
def execCommitMarkerWritten (dt : Nat) (s : State) : Out := .next (markerWritten (s.elapse dt))
/-- COMMIT_STAMP_REACHED (R428). -/
def execCommitStampReached (dt : Nat) (s : State) : Out := .next (stampReached (s.elapse dt))

end Sys2Proof.Machine
end

