-- ==== Sys2Proof/Machine/Flags.lean ====
section
/-!
DEFINITION. Sys2Proof/Machine/Flags.lean: the spur's arithmetic to the last bit (R122 to R133): products, saturation of
accumulators, rounding and narrowing, and the result and flags of every ALU operation.
-/
namespace Sys2Proof.Machine

/-- The Q31 product of two Q15 operands, and whether it saturated (R122). -/
def fracProduct (a b : BitVec 16) : Int × Bool :=
  if a = 0x8000#16 ∧ b = 0x8000#16 then (0x7FFFFFFF, true) else (a.toInt * b.toInt * 2, false)

/-- A sum held in an accumulator: the nearest 40-bit limit where it lies outside, and whether it did (R124). -/
def sat40 (i : Int) : Acc × Bool :=
  (BitVec.ofInt 40 (satI 40 i), decide (satI 40 i ≠ i))

/-- RND: round half up to Q15, saturating; whether it saturated (R127). -/
def round15 (a : Acc) : BitVec 16 × Bool :=
  let i := (a.toInt + 0x8000) / 65536
  (BitVec.ofInt 16 (satI 16 i), decide (satI 16 i ≠ i))

/-- SAT32: the value saturated to 32 bits; whether it saturated (R128). -/
def sat32 (a : Acc) : Word × Bool :=
  (BitVec.ofInt 32 (satI 32 a.toInt), decide (satI 32 a.toInt ≠ a.toInt))

/-- ASH by `s` from -16 to 15: an arithmetic right shift, or a saturating left shift (R126). -/
def shiftAcc (a : Acc) (s : Int) : Acc × Bool :=
  if s < 0 then (BitVec.ofInt 40 (a.toInt / 2 ^ (-s).toNat), false) else sat40 (a.toInt * 2 ^ s.toNat)

/-- A flag an operation leaves: a value the spec gives, or one it does not state. -/
inductive FlagOut where
  | is (b : Bool)
  | open
deriving DecidableEq, Repr

/-- What an ALU operation gives: its result, none for CMP, and the flags C and V; N and Z follow from `shown` (R111, R131, R148). -/
structure AluOut where
  result : Option Word
  shown : Word
  c : FlagOut
  v : FlagOut
deriving DecidableEq, Repr

/-- An addition with carry in (R131). -/
def aluAdd (a b : Word) (cin : Nat) : AluOut :=
  let r := a + b + BitVec.ofNat 32 cin
  { result := some r, shown := r, c := .is (decide (2 ^ 32 ≤ a.toNat + b.toNat + cin)),
    v := .is (decide (r.toInt ≠ a.toInt + b.toInt + cin)) }

/-- A subtraction with borrow in (R131). -/
def aluSub (a b : Word) (bin : Nat) : AluOut :=
  let r := a - b - BitVec.ofNat 32 bin
  { result := some r, shown := r, c := .is (decide (a.toNat < b.toNat + bin)),
    v := .is (decide (r.toInt ≠ a.toInt - b.toInt - bin)) }

/-- A saturating result of the exact value `i`, with the carry or borrow `c` of the operation (R131). -/
def aluSat (i : Int) (c : Bool) : AluOut :=
  let r := BitVec.ofInt 32 (satI 32 i)
  { result := some r, shown := r, c := .is c, v := .is (decide (satI 32 i ≠ i)) }

/-- A result whose C and V the spec does not state. -/
def aluPlain (r : Word) : AluOut := { result := some r, shown := r, c := .open, v := .open }

/-- Every operation of classes 0x4 and 0x5 (R131, R148, R152): `b` is the second source, `n` the shift count, `cin` the C flag. -/
def alu (op : AluOp) (a b : Word) (n : Nat) (cin : Bool) : AluOut :=
  match op with
  | .add => aluAdd a b 0
  | .addc => aluAdd a b (b2n cin)
  | .adds => aluSat (a.toInt + b.toInt) (decide (2 ^ 32 ≤ a.toNat + b.toNat))
  | .sub => aluSub a b 0
  | .subc => aluSub a b (b2n cin)
  | .subs => aluSat (a.toInt - b.toInt) (decide (a.toNat < b.toNat))
  | .and => aluPlain (a &&& b)
  | .or => aluPlain (a ||| b)
  | .xor => aluPlain (a ^^^ b)
  | .cmp => { aluSub a b 0 with result := none }
  | .min => aluPlain (if a.toInt ≤ b.toInt then a else b)
  | .max => aluPlain (if a.toInt ≤ b.toInt then b else a)
  | .abs =>
    let r := if a.toInt < 0 then 0 - a else a
    { result := some r, shown := r, c := .open, v := .is (decide (a = 0x80000000#32)) }
  | .neg => aluSub 0 a 0
  | .shl => aluPlain (a <<< n)
  | .shr => aluPlain (a >>> n)
  | .asr => aluPlain (a.sshiftRight n)

/-- Whether a condition of the select class holds (R152). -/
def selHolds (cd : SelCond) (n z c v : Bool) : Bool :=
  match cd with
  | .eq => z
  | .ne => !z
  | .lt => n != v
  | .ge => n == v
  | .gt => !z && (n == v)
  | .le => z || (n != v)
  | .lo => c
  | .hs => !c
  | .al => true

end Sys2Proof.Machine
end

