-- ==== Sys2Proof/Machine/Operands.lean ====
section
/-!
DEFINITION. Sys2Proof/Machine/Operands.lean: a spur's registers, its view of banks X and Y (R115 to R118), post-modification
(R119 to R121) and the operand forms of its instructions (R150 to R153), and the step of one instruction: what an executed
instruction sees of late results, the branch delay, the repeats, the signature and the yield point (R134 to R146).
-/
namespace Sys2Proof.Machine

/-! ### Registers -/

def SpurSt.rd (r : SpurSt) (n : Fin 16) : Word := Store.read 0 r.d n
def SpurSt.ra (r : SpurSt) (n : Fin 4) : Acc := Store.read 0 r.a n
def SpurSt.rp (r : SpurSt) (n : Fin 8) : Addr := Store.read 0 r.p n
def SpurSt.rm (r : SpurSt) (n : Fin 4) : Word := Store.read 0 r.m n
def SpurSt.wd (r : SpurSt) (n : Fin 16) (v : Word) : SpurSt := { r with d := Store.write 0 r.d n v }
def SpurSt.wa (r : SpurSt) (n : Fin 4) (v : Acc) : SpurSt := { r with a := Store.write 0 r.a n v }
def SpurSt.wp (r : SpurSt) (n : Fin 8) (v : Addr) : SpurSt := { r with p := Store.write 0 r.p n v }
def SpurSt.wm (r : SpurSt) (n : Fin 4) (v : Word) : SpurSt := { r with m := Store.write 0 r.m n v }
/-- The low half of a D register. -/
def SpurSt.rdL (r : SpurSt) (n : Fin 16) : BitVec 16 := (r.rd n).setWidth 16
/-- A write to the low half; the high half keeps its value. -/
def SpurSt.wdL (r : SpurSt) (n : Fin 16) (v : BitVec 16) : SpurSt := r.wd n ((r.rd n).extractLsb' 16 16 ++ v)
/-- A write to the high half; the low half keeps its value. -/
def SpurSt.wdH (r : SpurSt) (n : Fin 16) (v : BitVec 16) : SpurSt := r.wd n (v ++ (r.rd n).setWidth 16)
/-- A result that the next executed instruction does not see (R136). -/
def SpurSt.delay (r : SpurSt) (x : Delayed) : SpurSt := { r with late := r.late ++ [x] }

/-- A late write takes its place. -/
def SpurSt.settle (r : SpurSt) : Delayed → SpurSt
  | .d n v => r.wd n v
  | .dHigh n v => r.wdH n v
  | .a n v => r.wa n v
  | .p n v => r.wp n v
  | .m n v => r.wm n v
  | .mLow n v => r.wm n ((r.rm n).extractLsb' 16 16 ++ v)
  | .mHigh n v => r.wm n (v ++ (r.rm n).setWidth 16)

/-- The registers with every late write in place. -/
def SpurSt.commit (r : SpurSt) : SpurSt := r.late.foldl SpurSt.settle { r with late := [] }

/-- SR as RDSR reads it (R111). -/
def SpurSt.status (r : SpurSt) : Word :=
  BitVec.ofNat 32 (r.fc.toNat * 2 ^ 26 + b2n r.trn 19 + b2n r.rv 15 + b2n r.av 14 + b2n r.ps 13 + r.reps.length * 2 ^ 8 +
    r.stack.length * 2 ^ 5 + b2n r.n 3 + b2n r.z 2 + b2n r.c 1 + b2n r.v 0)

/-- WRSR: the flags written, the W1C bits cleared where 1 is written (R111, R148). -/
def SpurSt.writeStatus (r : SpurSt) (w : Word) : SpurSt :=
  let x := w.toNat
  { r with n := bitN x 3, z := bitN x 2, c := bitN x 1, v := bitN x 0, trn := r.trn && !bitN x 19, rv := r.rv && !bitN x 15,
           av := r.av && !bitN x 14, ps := r.ps && !bitN x 13 }

/-! ### Data banks (R115 to R118) -/

/-- The physical word of bank X or Y that spur word address `a` reaches; none in the hole of bank X (R115). -/
def State.physWord (s : State) (bankY : Bool) (a : Addr) : Option Nat :=
  let n := a.toNat
  if bankY then some n
  else if n < 0x1800 then some (if s.rg.bankB then n + 0x1800 else n)
  else if n < 0x3000 then none
  else some n

/-- A 16-bit word as spur `k` reads it. -/
def State.ld16 (s : State) (k : Nat) (bankY : Bool) (a : Addr) : BitVec 16 :=
  match s.physWord bankY a with
  | some w => BitVec.ofNat 16 (s.rd8 (bankBase k bankY + 2 * w) + 256 * s.rd8 (bankBase k bankY + 2 * w + 1))
  | none => 0

/-- A 16-bit word as spur `k` writes it. -/
def State.st16 (s : State) (k : Nat) (bankY : Bool) (a : Addr) (v : BitVec 16) : State :=
  match s.physWord bankY a with
  | some w => s.wrN (bankBase k bankY + 2 * w) (le 2 v.toNat)
  | none => s

/-- The even address of a 32-bit access (R118). -/
def evenAddr (a : Addr) : Addr := a &&& 0x3FFE#14

/-- A 32-bit pair: the word at the even address is bits [15:0] (R118). -/
def State.ld32 (s : State) (k : Nat) (bankY : Bool) (a : Addr) : Word :=
  s.ld16 k bankY (evenAddr a + 1) ++ s.ld16 k bankY (evenAddr a)

/-- A 32-bit pair stored (R118). -/
def State.st32 (s : State) (k : Nat) (bankY : Bool) (a : Addr) (v : Word) : State :=
  (s.st16 k bankY (evenAddr a) (v.setWidth 16)).st16 k bankY (evenAddr a + 1) (v.extractLsb' 16 16)

/-! ### Post-modification (R119 to R121) -/

/-- The smallest power of two not below `n`, from `2 ^ (14 - fuel)` up. -/
def pow2From : Nat → Nat → Nat
  | 0, _ => 2 ^ 14
  | f + 1, n => if n ≤ 2 ^ (14 - (f + 1)) then 2 ^ (14 - (f + 1)) else pow2From f n

/-- The result of (Pi)+Mj, none where R121 leaves it undefined. -/
def postMod (p : Addr) (m : Word) : Option Addr :=
  let len := (m.extractLsb' 16 16).toNat
  let step := (m.setWidth 16).toInt
  if len = 0 then some (BitVec.ofInt 14 ((p.toNat : Int) + step)) else
  let sz := pow2From 14 len
  let b := p.toNat / sz * sz
  let o := p.toNat - b
  if o < len ∧ step ≤ len ∧ -step ≤ len then some (BitVec.ofNat 14 (b + (((o : Int) + step) % (len : Int)).toNat)) else none

/-- What becomes of an address register: kept, advanced by the access's words, or post-modified. -/
inductive PostForm where
  | keep
  | inc
  | by (j : Fin 4)
deriving DecidableEq, Repr

/-- The post-modification of P`i` by an access of `words` words, seen by the next executed instruction (R120, R136); where R121
leaves the result undefined it is a free value. -/
def applyPost (s : State) (r w : SpurSt) (i : Fin 8) (words : Nat) : PostForm → State × SpurSt
  | .keep => (s, w)
  | .inc => (s, w.wp i (r.rp i + BitVec.ofNat 14 words))
  | .by j =>
    match postMod (r.rp i) (r.rm j) with
    | some a => (s, w.wp i a)
    | none => let (x, s') := s.take (2 ^ 14); (s', w.wp i (BitVec.ofNat 14 x))

/-- The form of a load or store's modification (R153). -/
def lsForm : LsMod → PostForm
  | .keep => .keep
  | .inc => .inc
  | .by j => .by j

/-- The form of a dual fetch's modification: M0 or M1 for X, M2 or M3 for Y (R150). -/
def dualForm (bankY : Bool) : DMod → PostForm
  | .keep => .keep
  | .inc => .inc
  | .by second => .by (match bankY, second with | false, false => 0 | false, true => 1 | true, false => 2 | true, true => 3)

/-- The address register of a dual fetch: P0 to P3 for X, P4 to P7 for Y (R117). -/
def dualReg (bankY : Bool) (a : DualAddr) : Fin 8 :=
  if bankY then ⟨a.p.val + 4, by omega⟩ else ⟨a.p.val, by omega⟩

/-- A 16-bit operand of the dual-MAC class with its post-modification (R150). -/
def macSrc (k : Nat) (bankY : Bool) (r : SpurSt) : MacSrc → State → SpurSt → BitVec 16 × State × SpurSt
  | .reg d, s, w => (r.rdL d, s, w)
  | .mem a, s, w =>
    let i := dualReg bankY a
    let v := s.ld16 k bankY (r.rp i)
    let (s, w) := applyPost s r w i 1 (dualForm bankY a.mod)
    (v, s, w)

/-- A 32-bit operand of a dual fetch with its post-modification (R118, R151). -/
def dualPair (k : Nat) (bankY : Bool) (r : SpurSt) (a : DualAddr) (s : State) (w : SpurSt) : Word × State × SpurSt :=
  let i := dualReg bankY a
  let v := s.ld32 k bankY (r.rp i)
  let (s, w) := applyPost s r w i 2 (dualForm bankY a.mod)
  (v, s, w)

/-! ### One instruction -/

/-- A late write that opens a load delay slot (R136). -/
def Delayed.isLoad : Delayed → Bool
  | .d _ _ => true
  | .dHigh _ _ => true
  | .a _ _ => true
  | _ => false

/-- The boundary after the last instruction is a yield point (R141). -/
def SpurSt.atYield (r : SpurSt) : Bool :=
  !r.live || (r.branch.isNone && r.reps.isEmpty && !r.late.any Delayed.isLoad)

/-- The first request in the order of R142 that is pending. -/
def SpurSt.has (r : SpurSt) (q : SpurRequest) : Bool := r.requests.any fun x => decide (x = q)

/-- Requests pending at a yield point are taken in the order failover, frame abort, debug halt, trip notice (R142 to R144). -/
def SpurSt.yieldPoint (r : SpurSt) : SpurSt :=
  if r.halted || !r.atYield then r
  else if r.has .failover then { r with halted := true, requests := r.requests.filter (· ≠ .failover) }
  else if r.has .abort then { r with halted := true, requests := r.requests.filter (· ≠ .abort) }
  else if r.has .dbg then { r with halted := true, requests := r.requests.filter (· ≠ .dbg) }
  else if r.has .trip then { r with trn := true, requests := r.requests.filter (· ≠ .trip) }
  else r

/-- Two bytes of the instruction's address fed to the control-flow signature (R146). -/
def SpurSt.feed (r : SpurSt) (pc : Addr) : SpurSt := { r with sig := crcFlow r.sig (be 2 pc.toNat) }

/-- Where execution goes after the instruction at `r.pc` (R137 to R140): the third instruction after a branch is its target, the
end of a repeat iteration returns to the block's start. `w` is the spur after the instruction. -/
def SpurSt.goOn (r w : SpurSt) : SpurSt :=
  match r.branch with
  | some (n, t) => if n ≤ 1 then { w with pc := t, branch := none } else { w with pc := r.pc + 1, branch := some (n - 1, t) }
  | none =>
    match r.reps with
    | l :: ls =>
      if l.last = r.pc ∧ w.reps.length ≤ r.reps.length then
        if 1 < l.count then { w with pc := l.start, reps := { l with count := l.count - 1 } :: ls }
        else { w with pc := r.pc + 1, reps := ls }
      else { w with pc := r.pc + 1 }
    | [] => { w with pc := r.pc + 1 }

/-- The code of a service mode (R621, R753). -/
def modeCode : ServiceMode → Nat
  | .commissioning => 0
  | .service => 1
  | .recovery => 2

/-- A debug halt acts on the stages that the spur hosts (R234): in SERVICE they freeze, else they go to high impedance and are DISABLED;
DEBUG_HALT_OUTPUTS (R245). -/
def debugStages (k : Nat) (s : State) : State :=
  let ks := (List.range s.machines).flatMap fun m => if s.machineSpur m = some k then s.machineStages m else []
  let s := s.report 4 1 5 (b1 k ++ b1 (modeCode s.pw.mode) ++ b4 (ks.foldl (fun n j => n ||| 2 ^ j) 0))
  (List.range s.machines).foldl (fun s m =>
    if s.machineSpur m ≠ some k then s else
    let hold := decide (s.pw.mode = .service)
    let s := (s.machineStages m).foldl (fun s j => s.updStage j fun t => if hold then { t with frozen := true } else
      { t with mode := if t.mode = .driving then .disabled else t.mode, hiz := true, switches := 0, driveFrom := none }) s
    if hold then s else s.updMachine m fun x => { x with on := false }) s

/-- Spur `k` at an instruction boundary or at idle: pending requests are taken where it is a yield point (R142, R234). -/
def spurYield (k : Nat) (r : SpurSt) (s : State) : State :=
  let w := r.yieldPoint
  let s := s.updSpur k fun _ => w
  if r.has .dbg && !w.has .dbg then debugStages k s else s

/-- One executed instruction of spur `k` that takes `cost` cycles: `f` gets the state, the registers as the instruction sees
them and the registers with every late write of the instruction before in place. A spur that is idle or halted starts none
(R60, R144). -/
def spurStep (k : Fin 8) (cost : Nat) (f : State → SpurSt → SpurSt → State × SpurSt) (s : State) : State :=
  let r := s.spur k
  if !r.live || r.halted then s else
  let (s', w) := f s r r.commit
  spurYield k { (r.goOn w).feed r.pc with cycle := r.cycle + cost } s'

/-- An instruction that touches registers alone. -/
def spurReg (k : Fin 8) (f : SpurSt → SpurSt → SpurSt) (s : State) : State := spurStep k 1 (fun s r w => (s, f r w)) s

end Sys2Proof.Machine
end

