-- ==== Sys2Proof/Machine/Ridge.lean ====
section
/-!
DEFINITION. Sys2Proof/Machine/Ridge.lean: the Ridge's states, the frame start, spur failure, failover and retirement, the Ridge's start and
stop, and the spur's end marker and exchange slots (R19 to R30, R56 to R74, R87 to R109, R141 to R154, R803 to R805).
-/
namespace Sys2Proof.Machine

/-! ### Images -/

/-- The base of a slot or firmware copy in MRAM (R761). -/
def slotBase (k : Nat) : Nat := if k < 4 then traverseBase k else firmwareBase (k % 2)

/-- The room of a slot or firmware copy. -/
def slotRoom (k : Nat) : Nat := if k < 4 then 0x40000 else 0x180000

/-- HASH over header bytes 0x00 to 0x8F and bytes 256 to LENGTH − 1 (R78). -/
def State.slotHashOk (s : State) (k length : Nat) : Bool :=
  let bs := s.rdN (slotBase k) length
  decide (256 ≤ length ∧ length ≤ slotRoom k) && decide (sha256 (bs.take 0x90 ++ bs.drop 256) = sub bs 0x90 32)

/-- The variant for the loss of spur `k` is in the active image. -/
def State.hasVariant (s : State) (k : Nat) : Bool :=
  match s.image with | some im => im.variantMask.testBit k | none => false

/-- A spur that may not run: excluded or retired (R101, R102). -/
def State.spurOut (s : State) (k : Nat) : Bool := s.rg.excluded.testBit k || s.rg.retired.testBit k

/-- Spur `k` runs a program of the running schedule. -/
def State.spurRuns (s : State) (k : Nat) : Bool :=
  s.framesRun && !s.spurOut k && (match s.sched with | some sc => sc.entries.any (fun e => decide (e.1 = k)) | none => false)

/-- The machines whose current loop spur `k` hosts in the running schedule. -/
def State.hosted (s : State) (k : Nat) : List Nat := (List.range s.machines).filter fun m => decide (s.machineSpur m = some k)

/-- Programs of the active image in the spurs' program memories (R86). -/
def loadPrograms (s : State) : State :=
  match s.image with
  | none => s
  | some im => im.body.programs.foldl (fun s p => if s.spurs ≤ p.1 then s else s.wrN (progBase p.1 + p.2.1) (p.2.2.flatMap (le 4))) s

/-- Both coefficient banks of every spur loaded from the running values (R86, R428). -/
def loadBanks (s : State) : State :=
  match s.image with
  | none => s
  | some im => im.body.layout.foldl (fun s e => writeCopies e.id (s.parId e.id) [false, true] s) s

/-! ### Stop (R56, R58, R100) -/

/-- A request to spur `k` (R66), taken at once where the spur is at a yield point. -/
def spurRequest (k : Nat) (q : SpurRequest) (s : State) : State :=
  let r := s.spur k
  if r.has q then spurYield k r s else spurYield k { r with requests := r.requests ++ [q] } s

/-- The commit in progress ends NOT APPLIED with HW_FAULT and COMMIT_NOT_APPLIED (R27, R100, R104). -/
def commitLost (s : State) : State :=
  match s.rg.commit with
  | none => s
  | some c => (commitDrop stHwFault s).report 2 2 7 (b4 c.seq ++ b4 s.rg.frame)

/-- The commit in progress when the Ridge stops: lost with a spur (R100), else applied without a flip once it is armed (R428). -/
def commitAtStop (lost : Bool) (s : State) : State :=
  if lost then commitLost s else
  match s.rg.commit with
  | some c => if c.phase ≠ .armed then s else
    (match c.stamp with
     | some n => if c.mode = 2 ∧ s.ns < n then s else commitApply c false s
     | none => commitApply c false s)
  | none => s

/-- The Ridge goes to STOPPED (R21, R56, R58, R66, R100): causes 3 and 4 take a safety demand in all groups. -/
def ridgeStop (cause : Nat) (s : State) : State :=
  if !s.framesRun then s else
  let lost := decide (cause = 3 ∨ cause = 4)
  let s := captureRidgeStop s
  let s := (List.range s.spurs).foldl (fun s k => spurRequest k .abort s) s
  let s := { s with rg := { s.rg with state := .stopped, variant := none, failure := none, stopCause := cause, fresh := true }
                    gp := Store.mapAll {} (fun _ (x : GroupPwm) => { x with proxy := none, told := false }) s.gp }
  let s := s.report 2 1 2 (b1 cause)
  let s := axesStop (stagesStop s)
  let s := if lost then { s with sf := { s.sf with requests := s.sf.requests ++ [(17, 0xF)] } } else s
  let s := commitAtStop lost s
  let s := liveAll (s.pm.live.length + 1) s
  cmpDueAll (cmpFrame (ltFrame s))

/-! ### Spur failure (R92 to R105) -/

/-- A failure counted for the life of the module; the third retires the spur (R102). -/
def countFailure (k : Nat) (s : State) : State :=
  let n := Store.read 0 s.rg.failCounts k + 1
  let s := { s with rg := { s.rg with failCounts := Store.write 0 s.rg.failCounts k n } }
  if 3 ≤ n ∧ !s.rg.retired.testBit k then
    { s with rg := { s.rg with retired := setBitN s.rg.retired k true } }.report 2 2 6 (b1 k ++ b1 1)
  else s

/-- The sequence of R94 to R98 for spur `k` begun in frame `n`, `cyc` cycles into the present frame: halted, its stages on their way to high
impedance, its machines torque-interrupted; a second loss, or one without a variant, stops the Ridge (R58, R100). -/
def spurLost (k n cyc : Nat) (s : State) : State :=
  let second := s.rg.failure.isSome || s.rg.variant.isSome
  if second then (ridgeStop 3 s).report 2 3 8 (b1 k ++ b4 s.rg.frame)
  else if !s.hasVariant k then ridgeStop 4 s
  else
    let from_ := s.rg.frameStart + cyc + 8
    let s := (s.hosted k).foldl (fun s m =>
      let s := (s.machineStages m).foldl (fun s j => s.updStage j fun t => { t with hizFrom := some from_, driveFrom := none }) s
      s.updMachine m fun x => if x.on then { x with interrupted := some 0 } else x) s
    let s := spurRequest k .failover <| identFailover { s with rg := { s.rg with failure := some (k, n) } }
    match s.rg.commit with
    | some c => if c.phase = .preparing then commitLost s else s
    | none => s

/-- Spur `k` fails a check at frame cycle `cyc` (R92, R94, R101): 1 control flow, 2 slot cycle, 3 end marker, 4 residue, 5 memory. -/
def spurFails (k check cyc : Nat) (s : State) : State :=
  if !s.spurRuns k then s else
  let s := s.report 2 3 3 (b1 k ++ b1 check ++ b4 s.rg.frame ++ b2 cyc)
  let s := countFailure k { s with rg := { s.rg with excluded := setBitN s.rg.excluded k true } }
  spurLost k s.rg.frame cyc s

/-- The retirement of spur `k` is due (R103): no stage that it hosts is enabled, or 24 h have passed since the request. -/
def State.retireDue (s : State) (k deadline : Nat) : Bool :=
  decide (deadline ≤ s.tm.now) || (s.hosted k).all fun m => (s.drivingOf m).isEmpty

/-- The retirement of spur `k` takes effect (R103): as if the spur had failed a check in the frame before. -/
def retireSpur (k : Nat) (s : State) : State :=
  let runs := s.spurRuns k
  let s := { s with rg := { s.rg with
    retired := setBitN s.rg.retired k true, retireReq := s.rg.retireReq.filter fun e => decide (e.1 ≠ k) } }
  let s := s.report 2 2 6 (b1 k ++ b1 2)
  if runs then spurLost k ((s.rg.frame + 2 ^ 32 - 1) % 2 ^ 32) 0 s else s

/-- The requested retirements that are due at a frame start, or at any instant with the Ridge STOPPED. -/
def retireFrame (s : State) : State :=
  s.rg.retireReq.foldl (fun s e => if s.retireDue e.1 e.2 then retireSpur e.1 s else s) s

/-- The fallback variant takes effect (R95 to R99, R307, R367, R803): adopted machines start in this frame and drive from the next one's reload;
dropped loops are recorded and their machines torque-unavailable. -/
def fallbackSwitch (k : Nat) (s : State) : State :=
  let dropped := match s.image with | some im => Store.read [] im.body.dropped k | none => []
  let hosted := s.hosted k
  let s := { s with rg := { s.rg with state := .fallback, variant := some k, failure := none }
                    gp := Store.mapAll {} (fun _ (x : GroupPwm) => { x with proxy := none, told := false }) s.gp }
  let s := s.report 2 2 4 (b1 k ++ b1 dropped.length ++ b4 s.rg.frame)
  let s := (s.loops.filter fun l => dropped.contains l.id).foldl (fun s l => s.report 2 2 5 (b2 l.id ++ b1 l.kind ++ b1 l.object)) s
  let s := hosted.foldl (fun s m =>
    if s.machineHeld m then
      let s := s.updMachine m fun x => if x.on then { x with startFrame := some s.rg.frame } else x
      (s.machineStages m).foldl (fun s j => s.updStage j fun t =>
        if t.mode = .driving then { t with hiz := true, switches := 0, hizFrom := none
                                           driveFrom := some (s.rg.frameStart + s.rg.frameLength) } else t) s
    else if (s.machine m).unavailable.isSome then s else makeUnavailable m 4 s) s
  axesDropped (ltCauseAll 5 (fun _ => true) s)

/-! ### Frame start (R19, R22, R26 to R30, R106, R112) -/

/-- Identifications in progress at a frame start (R199, R201), and machines torque-interrupted one frame longer (R98, R305). -/
def machineFrame (s : State) : State :=
  let s := (List.range 4).foldl (fun s g => if s.inDemand g then identDemand g s else s) s
  { s with mc := Store.mapAll {} (fun m (x : MachineSt) =>
      let c := s.chan (s.parN P.MAC_FB_SECOND m)
      { x with ident := x.ident.map fun (i : IdentSt) => { i with frames := i.frames - 1, secondOk := i.secondOk && c.posValid && decide (c.fault = 0) }
               interrupted := x.interrupted.map (· + 1) }) s.mc }

/-- A spur at a frame start (R60, R112, R146). -/
def SpurSt.atFrame (r : SpurSt) (fc : Nat) (entry : Addr) : SpurSt :=
  { r.commit with ps := false, av := false, rv := false, fc := BitVec.ofNat 6 fc, stack := [], reps := [], branch := none
                  pc := entry, sig := 0xFFFFFFFF, cycle := 16, live := true }

/-- Every spur of the running schedule begins its frame program; the others idle. -/
def spursFrame (s : State) : State :=
  match s.sched with
  | none => s
  | some sc => (List.range s.spurs).foldl (fun s k =>
      let r := s.spur k
      let failed := match s.rg.failure with | some (j, _) => decide (j = k) | none => false
      if r.halted || failed || s.spurOut k then s.updSpur k fun r => { r with live := false }
      else match sc.entries.find? fun e => decide (e.1 = k) with
        | some e => s.updSpur k fun r => r.atFrame s.rg.frame (BitVec.ofNat 14 e.2)
        | none => s.updSpur k fun r => { r with live := false }) s

/-- The commit of a frame start (R26 to R28, R90, R104): applied, lost, or not due. True where it was applied. -/
def frameCommit (switched : Bool) (s : State) : State × Bool :=
  match s.rg.commit with
  | none => (s, false)
  | some c =>
    if !s.flipDue c then (s, false)
    else if switched || s.rg.failure.isSome then (commitLost s, false)
    else (commitApply c true s, true)

/-- The frame-start actions (R26). -/
def frameActions (s : State) : State :=
  let s := retireFrame s
  if !s.framesRun then s else
  let lost := s.rg.failure.bind fun e => if s.rg.frame = (e.2 + 4) % 2 ^ 32 then some e.1 else none
  let switched := lost.isSome
  let s := match lost with | some k => fallbackSwitch k s | none => s
  let s := dropBanks s
  let armed := match s.rg.commit with | some c => decide (c.phase = .armed) | none => false
  let (s, _) := frameCommit switched s
  let s := if switched || armed || s.rg.failure.isSome then s else liveNext s
  let s := feedbackSwitch (takeEnables switched s)
  let s := cmpFrame (machineFrame s)
  if switched then s else ltFrame s

/-- FRAME_START: the valley that ends a frame of F cycles, or the first one after the Ridge left STOPPED. Snapshots hold what the channels had
before the commit of the same frame start (R271, R294). -/
def frameStart (s : State) : State :=
  let due := if s.rg.fresh then s.tm.now else s.rg.frameStart + s.rg.frameLength
  if !s.framesRun || !s.clocked || s.tm.now < due then s else
  let s := { s with rg := { s.rg with
    frame := if s.rg.fresh then 0 else (s.rg.frame + 1) % 2 ^ 32, fresh := false, frameStart := due
    frameNs := some (s.nsBack (s.tm.now - due)) } }
  let s := captureFrame (fieldFrame (snapshotAll s))
  let s := frameActions s
  if s.framesRun then spursFrame s else s

/-- FALLBACK_TAKES_EFFECT: the frame start of frame n + 4 after a failure in frame n (R95). -/
def fallbackDue (s : State) : State :=
  match s.rg.failure with
  | some (_, n) => if (s.rg.frame + 1) % 2 ^ 32 = (n + 4) % 2 ^ 32 then frameStart s else s
  | none => s

/-! ### Start (R57, R59, R101, R113, R428, R804, R805) -/

/-- Spurs of the primary schedule that are out, ascending. -/
def State.lostSpurs (s : State) (im : Image) : List Nat := (List.range s.spurs).filter fun k => im.usesSpur k && s.spurOut k

/-- A built-in test that failed (R59, R102). -/
def builtInFails (k : Nat) (s : State) : State :=
  countFailure k ({ s with rg := { s.rg with excluded := setBitN s.rg.excluded k true } }.report 2 3 3
    (b1 k ++ b1 6 ++ b4 s.rg.frame ++ b2 0))

/-- Machines torque-unavailable at a Ridge start (R805): the state ends, and begins again at once where its cause remains. -/
def unavailableStart (s : State) : State :=
  (List.range s.machines).foldl (fun s m =>
    match (s.machine m).unavailable with
    | none => s
    | some c =>
      let gone := if c = 4 then s.machineHeld m else s.causeGone m
      let s := s.updMachine m fun x => { x with unavailable := none }
      if gone then s else makeUnavailable m c s) s

/-- The Ridge leaves STOPPED with variant `v`, or with the primary schedule. -/
def ridgeRun (im : Image) (v : Option Nat) (s : State) : State :=
  let s := { s with
    rg := { s.rg with state := if v.isSome then .fallback else .running, variant := v, failure := none, fresh := true
                      frameLength := im.frameLength, frameNs := none }
    sp := []
    st := Store.mapAll {} (fun _ (t : StageSt) => { t with frozen := false }) s.st
    ax := Store.mapAll {} (fun _ (a : AxisSt) => { a with samples := 0 }) s.ax }
  let s := (List.range 56).foldl (fun s i => s.updMod i fun m => { m with
    dec := if 48 ≤ i then s.parN P.STG_DC_SINC3_DEC (i - 48) else s.parN P.STG_SINC3_DEC (i / 2)
    measured := m.measured && decide (i < 48), lowTold := m.lowTold && decide (i < 48), satRun := 0 }) s
  let s := loadBanks (loadPrograms s)
  let s := s.report 2 0 1 (b1 (s.activeSlot.getD 0) ++ b1 (v.getD 0xFF) ++ b4 im.contractId ++ b4 im.configId)
  let s := ltStart s.rg.tablesKept (apwmRidgeStart (unavailableStart s))
  { s with rg := { s.rg with tablesKept := true } }

/-- The Ridge's start from STOPPED with the spurs whose built-in test passed (R57, R59, R101). -/
def ridgeStart (passed : List Nat) (s : State) : State :=
  if s.framesRun || !s.clocked || !s.pw.ready || decide (s.pw.state ≠ .run ∨ s.pw.mode = .recovery) || s.pw.entry.isSome then s else
  match s.image with
  | none => s
  | some im =>
    if !s.slotHashOk (s.activeSlot.getD 0) im.length then s else
    let failed := (List.range s.spurs).filter fun k => im.usesSpur k && !s.spurOut k && !passed.contains k
    let s := failed.foldl (fun s k => builtInFails k s) s
    match s.lostSpurs im with
    | [] => ridgeRun im none s
    | [k] => if im.variantMask.testBit k then ridgeRun im (some k) s
        else { s with rg := { s.rg with stopCause := 4 } }.report 2 1 2 (b1 4)
    | _ => { s with rg := { s.rg with stopCause := 3 } }.report 2 1 2 (b1 3)

/-! ### End marker, reserved encodings and exchange slots (R60, R68, R69, R92, R147, R154) -/

/-- END: the end marker, with the checks of R92 on the signature and on its cycle. -/
def endMarker (k : Nat) (s : State) : State :=
  let r := s.spur k
  if !r.live || r.halted then s else
  let w := { r.commit.feed r.pc with live := false, cycle := r.cycle + 1, branch := none, reps := [] }
  let s := spurYield k w s
  let key := k * 64 + s.rg.frame % 64
  match s.sched with
  | none => s
  | some sc =>
    if Store.read none sc.sigs key ≠ some w.sig then spurFails k 1 r.cycle s
    else if Store.read 0 sc.ends key ≠ r.cycle then spurFails k 3 r.cycle s
    else s

/-- A reserved encoding: the spur halts, a control-flow failure in that cycle (R147). -/
def reservedEncoding (k : Nat) (s : State) : State :=
  let r := s.spur k
  if !r.live || r.halted then s else
  spurFails k 1 r.cycle (s.updSpur k fun r => { r with halted := true })

/-- Words of modulator input `i` as an in-slot reads them: the main result of that input (R166, R167). Words of a slot come from successive inputs
(DEDUCED, notes/assumptions/20.md). -/
def State.modWord (s : State) (i : Nat) : Nat := tc 16 (s.mod i).main

/-- The words of a latch (R289): count, full stamp, a reserved word, LATCH_STATUS and the depth; with no capture queued the count and the stamp
are free values. -/
def latchWords (k : Nat) (s : State) : List Nat × State :=
  let l := s.latch k
  let words (bs : List Nat) : List Nat := gen (fun i => fld bs (2 * i) 2) (bs.length / 2)
  let tail := words (le 4 (l.status l.queue.head?) ++ le 4 l.queue.length)
  match l.queue with
  | x :: _ => (words (leI 4 x.count ++ stampBytes x.ns) ++ 0 :: tail, s)
  | [] => let (bs, s) := s.takeBytes 14; (words bs ++ 0 :: tail, s)

/-- The words that an in-slot brings (R68, R272, R289). -/
def slotIn (e : SlotEntry) (s : State) : List Nat × State :=
  match e.kind with
  | 1 => (gen (fun i => s.modWord (e.target + i)) e.words, s)
  | 2 =>
    let (ws, s) : List Nat × State := if 32 ≤ e.target ∧ e.target < 40 then latchWords (e.target - 32) s
      else ((s.chan e.target).snap.flatMap fun n => [n % 65536, n / 65536 % 65536], s)
    (gen (fun i => ws.getD i 0) e.words, s)
  | _ => (gen (fun i => let a := e.target * 65536 + e.targetLo + 2 * i; s.rd8 a + 256 * s.rd8 (a + 1)) e.words, s)

/-- An out-slot's words to the shadows of a stage (three duties), or of auxiliary channel TARGET − 24: on-time, off-time, level (R215, R239;
notes/assumptions/20.md). -/
def slotShadow (e : SlotEntry) (ws : List Nat) (s : State) : State :=
  if e.target < s.stages then
    if s.openLoop (groupOf e.target) then s else
    (List.range (min 3 e.words)).foldl (fun s i => writeDuty e.target i (ws.getD i 0) s) s
  else if 24 ≤ e.target ∧ e.target < 32 then
    let w (i : Nat) : Nat := ws.getD i 0
    s.updApwm (e.target - 24) fun a => { a with
      ridgeOn := w 0 + 65536 * w 1, ridgeOff := w 2 + 65536 * w 3, ridgeLevel := sx 16 (w 4) }
  else s

/-- What an out-slot does with its words (R68, R215, R239, R342, R575). The exporting slot's TARGET is the probe number
(notes/assumptions/20.md). -/
def slotOut (e : SlotEntry) (ws : List Nat) (s : State) : State :=
  match e.kind with
  | 4 => let a := e.target * 65536 + e.targetLo
         if commonsBase ≤ a ∧ a + 2 * e.words ≤ commonsBase + 0x200000 then s.wrN a (ws.flatMap (le 2)) else s
  | 5 => slotShadow e ws s
  | 6 => if e.target < 4 ∧ !s.openLoop e.target then loadAll e.target s else s
  | 7 => if e.target < 8 then
           rmWrite e.target (sx 40 (ws.getD 0 0 + 65536 * ws.getD 1 0 + 2 ^ 32 * (ws.getD 2 0 % 256))) s else s
  | 8 => let v := some (s.rg.frame, ws.getD 0 0 + 65536 * ws.getD 1 0)
         { s with cp := { s.cp with exports := Store.write none s.cp.exports e.target v } }
  | _ => s

/-- The slot that an XCH names is issued at its cycle, by its spur, in a frame of its phase (R69). -/
def State.slotAt (s : State) (k index cycle : Nat) : Option SlotEntry :=
  (s.sched).bind fun sc => (sc.slots[index]?).bind fun e =>
    if e.spur = k ∧ e.cycle = cycle ∧ s.rg.frame % 2 ^ e.divExp = e.phase then some e else none

/-- XCH (R69, R94, R154): any slot issued at another cycle than its entry's is a self-check failure; out-slots of a failed spur are discarded. -/
def exchange (k : Fin 8) (index : Nat) (bankY : Bool) (addr : Addr) (s : State) : State :=
  let r := s.spur k
  if !r.live || r.halted then s else
  match s.slotAt k index r.cycle with
  | none => spurFails k 2 r.cycle (spurStep k 2 (fun s _ w => (s, w)) s)
  | some e =>
    let at_ (i : Nat) : Addr := addr + BitVec.ofNat 14 i
    spurStep k (2 + (e.words + 3) / 4) (fun s _ w =>
      if e.kind ≤ 3 then
        let (ws, s) := slotIn e s
        ((ws.zip (List.range e.words)).foldl (fun s x => s.st16 k bankY (at_ x.2) (BitVec.ofNat 16 x.1)) s, w)
      else if s.spurOut k then (s, w)
      else (slotOut e (gen (fun i => (s.ld16 k bankY (at_ i)).toNat) e.words) s, w)) s

/-- A correctable error counted in its region (R756), coded as R768 codes regions. -/
def eccCount (region : Nat) (s : State) : State :=
  { s with mm := { s.mm with corrected := Store.write 0 s.mm.corrected region (Store.read 0 s.mm.corrected region + 1) } }

/-! ### Commands -/

/-- FRAME_START (R26). -/
def execFrameStart (dt : Nat) (s : State) : Out := .next (frameStart (s.elapse dt))
/-- FALLBACK_TAKES_EFFECT (R95). -/
def execFallbackTakesEffect (dt : Nat) (s : State) : Out := .next (fallbackDue (s.elapse dt))
/-- RIDGE_START (R57). -/
def execRidgeStart (dt : Nat) (passed : List Nat) (s : State) : Out := .next (ridgeStart passed (s.elapse dt))
/-- SPUR_CHECK_FAILED (R94). -/
def execSpurCheckFailed (dt spur check : Nat) (s : State) : Out :=
  let s := s.elapse dt
  .next (spurFails spur check s.frameCycle s)
/-- SPUR_RETIREMENT_EFFECT (R103): the retirement asked for, once it is due. -/
def execSpurRetirementEffect (dt spur : Nat) (s : State) : Out :=
  let s := s.elapse dt
  .next (match s.rg.retireReq.find? fun e => decide (e.1 = spur) with
    | some e => if s.retireDue spur e.2 then retireSpur spur s else s
    | none => s)
/-- SPUR_ECC_CORRECTED (R93): corrected, counted and recorded. -/
def execSpurEccCorrected (dt spur addr : Nat) (s : State) : Out :=
  let s := s.elapse dt
  .next (if s.spurs ≤ spur then s else
    (eccCount (if addr % 0x100000 < 0x80000 then 2 else 3) s).report 2 0 0xB (b1 spur ++ b4 addr))
/-- TRIP_NOTICE (R143). -/
def execTripNotice (dt spur : Nat) (s : State) : Out :=
  let s := s.elapse dt
  .next (if s.spurs ≤ spur then s else spurRequest spur .trip s)
/-- FRAME_ABORT (R66). -/
def execFrameAbort (dt spur : Nat) (s : State) : Out :=
  let s := s.elapse dt
  .next (if s.spurs ≤ spur then s else spurRequest spur .abort s)
/-- FAILOVER_HALT (R144): a failed spur's halt. -/
def execFailoverHalt (dt spur : Nat) (s : State) : Out :=
  let s := s.elapse dt
  .next (if s.spurs ≤ spur || !s.spurOut spur then s else spurRequest spur .failover s)
/-- DEBUG_HALT (R66, R234, R724): where debug access is available. -/
def execDebugHalt (dt spur : Nat) (s : State) : Out :=
  let s := s.elapse dt
  .next (if s.spurs ≤ spur || (decide (s.pw.mode = .service) && s.pw.dbg.unlocked.isNone) then s else spurRequest spur .dbg s)
/-- END (R60, R92). -/
def execEndOp (k : Fin 8) (s : State) : Out := .next (endMarker k s)
/-- XCH (R154). -/
def execXch (k : Fin 8) (index : BitVec 12) (bankY : Bool) (addr : BitVec 14) (s : State) : Out :=
  .next (exchange k index.toNat bankY addr s)
/-- RESERVED_ENCODING (R147). -/
def execReservedEncoding (k : Fin 8) (s : State) : Out := .next (reservedEncoding k s)

end Sys2Proof.Machine
end

