-- ==== Sys2Proof/Machine/Walk.lean ====
section
/-!
DEFINITION. Sys2Proof/Machine/Walk.lean: the full decode of a schedule that the load check of yield spacing makes (R62 to R65, R83 detail
0x06, R148 to R155): what an instruction word means for the order and the cycles of execution, and the path of a frame program.
-/
namespace Sys2Proof.Machine

/-- What an instruction word means for the order of execution: a plain instruction with its cycles and whether it is a load into a D or A
register, an exchange slot by its index, or control. -/
inductive Flow where
  | plain (cycles : Nat) (load : Bool)
  | slot (index : Nat)
  | bra (target : Nat)
  | call (target : Nat)
  | ret
  | bfc (mask value target : Nat)
  | rep (count last : Nat)
  | stop
  | reserved
deriving DecidableEq, Repr

/-- Bits `lo` upward, `n` of them. -/
def bitsOf (w lo n : Nat) : Nat := w / 2 ^ lo % 2 ^ n

/-- The flow of an instruction word (R148 to R154). -/
def flowOf (w : Nat) : Flow :=
  let op := bitsOf w 23 5
  let wide := bitsOf w 25 3
  match bitsOf w 28 4 with
  | 0 => match bitsOf w 26 2 with
    | 0 => match bitsOf w 20 6 with
      | 0 => .plain 1 false
      | 1 => .ret
      | 2 => .stop
      | 3 => .plain 1 false
      | _ => .reserved
    | 1 => if bitsOf w 25 1 = 1 then .call (bitsOf w 0 14) else .bra (bitsOf w 0 14)
    | 2 => .rep (bitsOf w 14 12 + 1) (bitsOf w 0 14)
    | _ => .bfc (bitsOf w 20 6) (bitsOf w 14 6) (bitsOf w 0 14)
  | 1 => if bitsOf w 26 2 = 3 then .reserved else .plain 1 false
  | 2 => .plain 1 false
  | 3 => if op ≤ 8 then .plain 1 false else .reserved
  | 4 => if op ≤ 16 then .plain 1 false else .reserved
  | 5 => if op ≤ 16 then .plain 1 false else .reserved
  | 6 => if op ≤ 1 then .plain 2 false else .reserved
  | 7 => if op ≤ 2 ∧ bitsOf w 0 4 ≤ 8 then .plain 1 false else .reserved
  | 8 => if bitsOf w 15 2 = 3 then .reserved else .plain 1 (decide (wide ≤ 3))
  | 9 => .plain 1 true
  | 10 => if wide ≤ 5 then .plain 1 false else .reserved
  | 11 => .slot (bitsOf w 16 12)
  | 12 => if wide ≤ 2 then .plain 1 false else .reserved
  | 13 => if op ≤ 2 then .plain 1 false else .reserved
  | _ => .reserved

/-- The instruction word at an address of spur `k`'s program memory. -/
def Image.wordAt (im : Image) (k pc : Nat) : Option Nat :=
  im.body.programs.findSome? fun p =>
    if p.1 = k ∧ p.2.1 ≤ 4 * pc then p.2.2[(4 * pc - p.2.1) / 4]? else none

/-- Where a walk stands: address, frame cycle, branch on its way, repeat levels, return addresses, whether the last instruction was a load, and
the cycle of the last yield point. -/
structure Walk where
  pc : Nat
  cycle : Nat
  branch : Option (Nat × Nat)
  reps : List (Nat × Nat × Nat)
  stack : List Nat
  load : Bool
  yielded : Nat
deriving DecidableEq, Repr

/-- The boundary before the next instruction: a yield point or not, and whether yield points lie too far apart (R65, R141). -/
def Walk.settle (w : Walk) : Option Walk :=
  let w := if w.branch.isNone && w.reps.isEmpty && !w.load then { w with yielded := w.cycle } else w
  if 256 < w.cycle - w.yielded then none else some w

/-- Where execution goes after an instruction that took `cycles`. -/
def Walk.advance (w : Walk) (cycles : Nat) (load : Bool) : Walk :=
  let w' := { w with cycle := w.cycle + cycles, load := load }
  match w.branch with
  | some (n, t) => if n ≤ 1 then { w' with pc := t, branch := none } else { w' with pc := w.pc + 1, branch := some (n - 1, t) }
  | none =>
    match w.reps with
    | (n, a, l) :: rs =>
      if l = w.pc then (if 1 < n then { w' with pc := a, reps := (n - 1, a, l) :: rs } else { w' with pc := w.pc + 1, reps := rs })
      else { w' with pc := w.pc + 1 }
    | [] => { w' with pc := w.pc + 1 }

/-- A branch taken or not; refused inside a delay slot or a repeat block (R155). -/
def Walk.jump (w : Walk) (target : Option Nat) : Option Walk :=
  if w.branch.isSome || !w.reps.isEmpty then none else
  let w' := w.advance 1 false
  some (match target with | some t => { w' with branch := some (2, t) } | none => w')

/-- The path of a frame program from its entry to END, for at most `fuel` instructions (R155): the cycle of END, or none where a check fails. `fc`
is FC, `slots` the table of the schedule. -/
def Image.walk (im : Image) (k fc : Nat) (slots : List SlotEntry) : Nat → Walk → Option Nat
  | 0, _ => none
  | f + 1, w =>
    match w.settle, im.wordAt k w.pc with
    | some w, some i =>
      match flowOf i with
      | .plain c l => Image.walk im k fc slots f (w.advance c l)
      | .slot n => match slots[n]? with
        | some e => if e.spur = k ∧ e.cycle = w.cycle then Image.walk im k fc slots f (w.advance (2 + (e.words + 3) / 4) false) else none
        | none => none
      | .bra t => (w.jump (some t)).bind (Image.walk im k fc slots f)
      | .call t => if 4 ≤ w.stack.length then none else
          (w.jump (some t)).bind fun x => Image.walk im k fc slots f { x with stack := (w.pc + 3) :: w.stack }
      | .ret => match w.stack with
        | [] => none
        | t :: ts => (w.jump (some t)).bind fun x => Image.walk im k fc slots f { x with stack := ts }
      | .bfc m v t => (w.jump (if fc &&& m = v then some t else none)).bind (Image.walk im k fc slots f)
      | .rep n l =>
        let inner := match w.reps with | (_, _, o) :: _ => decide (o ≤ l) | [] => false
        if w.branch.isSome || decide (3 ≤ w.reps.length ∨ l ≤ w.pc) || inner then none else
        let x := w.advance 1 false
        Image.walk im k fc slots f { x with reps := (n, w.pc + 1, l) :: w.reps }
      | .stop => if w.branch.isSome || !w.reps.isEmpty then none else some w.cycle
      | .reserved => none
    | _, _ => none

/-- The walk of spur `k` in a schedule at position `fc` of the superframe. -/
def Image.walkSpur (im : Image) (sc : Schedule) (k entry fc : Nat) : Option Nat :=
  im.walk k fc sc.slots im.frameLength
    { pc := entry, cycle := 16, branch := none, reps := [], stack := [], load := false, yielded := 16 }

end Sys2Proof.Machine
end

