-- ==== Sys2Proof/Machine/Images.lean ====
section
/-!
DEFINITION. Sys2Proof/Machine/Images.lean: Traverse slots and firmware copies (R76 to R86, R437 to R439, R717, R718): the load checks of
IMAGE_END, IMAGE_BEGIN, IMAGE_DATA, IMAGE_ACTIVATE and IMAGE_LIST.
-/
namespace Sys2Proof.Machine

/-! ### Reading an image (R77, R78) -/

/-- An image as its bytes describe it (R77); without readable sections, their check fails. -/
def parseImage (bs : List Nat) : Image :=
  { magic := fld bs 0 4, format := fld bs 4 2, part := fld bs 6 2, minStepping := fld bs 8 1, spurs := fld bs 9 1
    stages := fld bs 10 1, machines := fld bs 11 1, axes := fld bs 12 1, feedback := fld bs 13 1, variantCount := fld bs 14 1
    sectionCount := fld bs 15 1, length := fld bs 0x10 4, frameLength := fld bs 0x14 4, contractId := fld bs 0x20 4
    buildStamp := sub bs 0x28 10, configId := fld bs 0x34 4, variantMask := fld bs 0x88 1, hash := sub bs 0x90 32
    sections := gen (fun i => (fld bs (0x38 + 8 * i) 4, fld bs (0x3C + 8 * i) 4)) 10
    body := (Config.sections bs).getD { sectionsOk := false } }

/-! ### The checks of R83 -/

/-- A refusal: status, detail, index. -/
abbrev Refused := Nat × Nat × Nat

/-- The first item for which `bad` holds refuses with its index. -/
def firstBad {α : Type} (detail : Nat) (idx : α → Nat) (bad : α → Bool) (xs : List α) : Option Refused :=
  (xs.find? bad).map fun x => (stImageContract, detail, idx x)

/-- Items with their positions. -/
def numbered {α : Type} (xs : List α) : List (Nat × α) := (List.range xs.length).zip xs

/-- Every schedule of an image with its key. -/
def Image.allScheds (im : Image) : List (Nat × Schedule) := im.body.scheds.filterMap fun e => e.2.map fun sc => (e.1, sc)

/-- Every slot of every schedule with its position in its table. -/
def Image.allSlots (im : Image) : List (Nat × SlotEntry) := im.allScheds.flatMap fun e => numbered e.2.slots

/-- The part and the counts of R1 (step 2). -/
def State.targetOk (s : State) (im : Image) : Bool :=
  decide (im.magic = 0x54525631 ∧ im.format / 256 = 1 ∧ im.part = s.part ∧ im.minStepping ≤ s.stepping) &&
    decide (im.spurs ≤ s.spurs ∧ im.stages ≤ s.stages ∧ im.machines ≤ s.machines ∧ im.axes ≤ s.axes ∧ im.feedback ≤ s.channels)

/-- 0x01: ten sections on 16-byte boundaries, apart from each other, within LENGTH and behind the header. -/
def Image.sectionBad (im : Image) : Option Refused :=
  if im.sectionCount ≠ 10 ∨ !im.body.sectionsOk then some (stImageContract, 1, 0) else
  let xs := numbered im.sections
  firstBad 1 (·.1) (fun (x : Nat × Nat × Nat) => decide (x.2.1 % 16 ≠ 0 ∨ im.length < x.2.1 + x.2.2 ∨ (x.2.2 ≠ 0 ∧ x.2.1 < 256)) ||
    xs.any fun y => decide (y.1 < x.1 ∧ x.2.1 < y.2.1 + y.2.2 ∧ y.2.1 < x.2.1 + x.2.2)) xs

/-- 0x03: dividers and phases of loops and slots; current loops at divider 1 (R61, R67, R160). -/
def Image.rateBad (im : Image) : Option Refused :=
  (firstBad 3 (·.id) (fun (l : LoopRow) => decide (6 < l.divExp ∨ 2 ^ l.divExp ≤ l.phase ∨ (l.kind = 1 ∧ l.divExp ≠ 0))) im.body.loops).or
  (firstBad 3 (·.1) (fun (e : Nat × SlotEntry) => decide (6 < e.2.divExp ∨ 2 ^ e.2.divExp ≤ e.2.phase)) im.allSlots)

/-- 0x05: the end marker of every spur in every position of the superframe (R64); index the spur. -/
def Image.endBad (im : Image) : Option Refused :=
  firstBad 5 (fun e => e.1 / 64) (fun (e : Nat × Nat) => decide (im.frameLength < e.2 + 128)) (im.allScheds.flatMap fun e => e.2.ends)

/-- 0x06: the walk of every spur in every position ends where its end marker lies (R65, R155); index the spur. -/
def Image.yieldBad (im : Image) : Option Refused :=
  firstBad 6 (·.1) (fun (x : Nat × Schedule × Nat × Nat) => decide (im.walkSpur x.2.1 x.1 x.2.2.1 x.2.2.2 ≠
      some (Store.read 0 x.2.1.ends (x.1 * 64 + x.2.2.2))))
    (im.allScheds.flatMap fun e => e.2.entries.flatMap fun p => (List.range 64).map fun fc => (p.1, e.2, p.2, fc))

/-- The frame cycle after the last of a slot's cycles (R154). -/
def SlotEntry.finish (e : SlotEntry) : Nat := e.cycle + 2 + (e.words + 3) / 4

/-- Two slots are issued in some frame together. -/
def SlotEntry.meets (a b : SlotEntry) : Bool :=
  let d := 2 ^ min a.divExp b.divExp
  decide (a.phase % d = b.phase % d)

/-- The commons bytes of a slot of kind 3 or 4. -/
def SlotEntry.span (e : SlotEntry) : Nat × Nat := (e.target * 65536 + e.targetLo, e.target * 65536 + e.targetLo + 2 * e.words)

/-- Two commons slots touch a common byte. -/
def SlotEntry.overlaps (a b : SlotEntry) : Bool := decide (a.span.1 < b.span.2 ∧ b.span.1 < a.span.2)

/-- The decimation of a modulator input (R163). -/
def State.decimation (t : State) (i : Nat) : Nat :=
  if 48 ≤ i then t.parN P.STG_DC_SINC3_DEC (i - 48) else t.parN P.STG_SINC3_DEC (i / 2)

/-- The frame cycles at which a stage reloads (R208 to R210), within a frame of `f` cycles. -/
def State.reloadCycles (t : State) (f k : Nat) : List Nat :=
  let g := groupOf k
  let long := decide (2 ≤ t.parN P.PWM_ALIGN g)
  let p := if long then 2 * f else f
  let ph := t.parN P.PWM_PHASE k
  let both := long || decide (t.parN P.PWM_UPDATE g = 1)
  ([(ph + p / 2) % f] ++ if both then [ph % f] else []).eraseDups

/-- A slot's cycles keep 64 cycles clear before each reload of the stages concerned (R70). -/
def State.clearOf (t : State) (f : Nat) (ks : List Nat) (e : SlotEntry) : Bool :=
  ks.all fun k => (t.reloadCycles f k).all fun r => decide (r ≤ e.cycle ∨ e.finish + 64 ≤ r)

/-- The stages of a group that belong to machines. -/
def State.groupStages (t : State) (g : Nat) : List Nat :=
  (List.range t.stages).filter fun k => decide (groupOf k = g) && (t.machineOf k).isSome

/-- LOAD_ALL slots that a group needs in a frame: one per reload of the group, as many as its stages have (R70). -/
def State.loadsPerFrame (t : State) (f g : Nat) : Nat :=
  (t.groupStages g).foldl (fun n k => max n (t.reloadCycles f k).length) 0

/-- 0x07: the placement rules of R70 and R803 except commons traffic, on the initial values of the image `t`; index the slot. -/
def State.placeBad (t : State) (im : Image) (sc : Schedule) : Option Refused :=
  let f := im.frameLength
  let bad (x : Nat × SlotEntry) : Bool :=
    let e := x.2
    match e.kind with
    | 1 => (List.range e.words).any fun i =>
        decide (e.cycle < 30 * t.decimation (e.target + i) + 40 ∨ f < 60 * t.decimation (e.target + i))
    | 2 => decide (e.cycle < 40)
    | 3 => sc.slots.any fun p => decide (p.kind = 4) && p.overlaps e && p.meets e &&
        !(decide (e.finish ≤ p.cycle ∨ p.finish + 16 ≤ e.cycle))
    | 4 => sc.slots.any fun p => decide (p.kind = 4 ∧ p ≠ e) && p.overlaps e && p.meets e
    | 5 => decide (e.target < 24) && !t.clearOf f [e.target] e
    | 6 => (t.groupStages e.target).isEmpty || !t.clearOf f (t.groupStages e.target) e
    | 7 => sc.slots.any fun p => decide (p.kind = e.kind ∧ p.target = e.target ∧ p ≠ e) && p.meets e
    | 8 => sc.slots.any fun p => decide (p.kind = e.kind ∧ p.target = e.target ∧ p ≠ e) && p.meets e
    | _ => true
  (firstBad 7 (·.1) bad (numbered sc.slots)).or
  (firstBad 7 id (fun (g : Nat) => decide ((sc.slots.filter fun e => decide (e.kind = 6 ∧ e.target = g)).length ≠ t.loadsPerFrame f g))
    (List.range 4))

/-- 0x09: CONTRACT_ID and, for each loop, slots of its spur at its IN_SLOT and OUT_SLOT (R73, R74); index the loop. -/
def Image.contractBad (im : Image) : Option Refused :=
  let rows := im.body.loops
  let bytes (l : LoopRow) : List Nat := le 2 l.id ++ [l.divExp, l.phase] ++ le 2 l.sample ++ le 2 l.inSlot ++ le 2 l.compute ++
    le 2 l.outSlot ++ le 4 l.effect
  let slots := match Store.read none im.body.scheds 0 with | some sc => sc.slots | none => []
  if crc32 (rows.flatMap bytes) ≠ im.contractId then some (stImageContract, 9, 0) else
  firstBad 9 (·.id) (fun (l : LoopRow) =>
    !(slots.any fun e => decide (e.spur = l.spur ∧ e.cycle = l.inSlot ∧ e.kind ≤ 3)) ||
    !(slots.any fun e => decide (e.spur = l.spur ∧ e.cycle = l.outSlot ∧ 4 ≤ e.kind))) rows

/-- 0x0A: VARIANT_COUNT, no variant on its lost spur, VARIANTS against the dropped loops, HOSTS, and the group loads of R803; index the spur or the
loop. -/
def Image.variantBad (im : Image) : Option Refused :=
  let ks := (List.range 8).filter im.variantMask.testBit
  if im.variantCount ≠ ks.length then some (stImageContract, 0xA, im.variantCount) else
  let loads (sc : Schedule) : List Nat := (sc.slots.filter fun e => decide (e.kind = 6)).map (·.target)
  let primary := match Store.read none im.body.scheds 0 with | some sc => loads sc | none => []
  (firstBad 0xA id (fun (k : Nat) => match Store.read none im.body.scheds (k + 1) with
    | none => true
    | some sc => sc.entries.any (fun e => decide (e.1 = k)) || sc.slots.any (fun e => decide (e.spur = k)) ||
        primary.any fun g => !(loads sc).contains g) ks).or
  (firstBad 0xA (·.id) (fun (l : LoopRow) => ks.any fun k =>
    (l.variants.testBit k == (Store.read [] im.body.dropped k).contains l.id) ||
    decide (l.hosts.getD k 0xFF ≠ 0xFF ∧ !l.variants.testBit k) ||
    decide (l.variants.testBit k ∧ l.spur ≠ k ∧ l.hosts.getD k 0xFF ≠ l.spur) ||
    decide (l.variants.testBit k ∧ l.hosts.getD k 0xFF = k)) im.body.loops)

/-- 0x0B: the machines of the image `t` describes; index the machine (R157). -/
def State.machineBad (t : State) (im : Image) : Option Refused :=
  firstBad 0xB id (fun (m : Nat) =>
    let ks := t.machineStages m
    let sets := ks.map (t.parN P.STG_SET)
    let loops := im.body.loops.filter fun l => decide (l.kind = 1 ∧ l.object = m)
    if ks.isEmpty then decide (m < im.machines) || !loops.isEmpty else
    decide (6 < ks.length) || ks.any (fun k => decide (groupOf k ≠ t.machineGroup m)) ||
    (List.range ks.length).any (fun i => decide ((sets.filter fun x => decide (x = i)).length ≠ 1)) ||
    (decide (2 ≤ ks.length) && ks.any fun k => !im.body.banks.contains (m, k))) (List.range t.machines)

/-- Every parameter ID of the part (R801). -/
def State.allIds (s : State) : List Nat :=
  (List.range 256).flatMap fun c => (paramClass c).flatMap fun d => (List.range (s.instances d.count)).map fun i => d.base + i * 2 ^ 16

/-- 0x0C: layout copies and probes within spur data memory, and a value for every parameter; index the position or the ID. -/
def State.layoutBad (s : State) (im : Image) : Option Refused :=
  (firstBad 0xC (·.1) (fun (x : Nat × LayoutEntry) => decide (8 < x.2.copies.length) ||
    x.2.copies.any fun c => decide (s.spurs ≤ c.1 ∨ 0x1800 < c.2.1 + c.2.2)) (numbered im.body.layout)).or
  ((firstBad 0xC (·.num) (fun (v : ProbeVar) => decide (s.spurs ≤ v.spur ∨ 0x4000 < v.addr + v.words)) im.body.probes).or
  (firstBad 0xC id (fun (i : Nat) => (Store.read none im.body.init i).isNone)
    (s.allIds.filter fun i => decide (i / 2 ^ 24 ≠ 0x68))))

/-- 0x0D: a signature for every spur, schedule and position; index the spur. -/
def Image.signatureBad (im : Image) : Option Refused :=
  firstBad 0xD (·.1) (fun (x : Nat × Schedule) => (List.range 64).any fun i => (Store.read none x.2.sigs (x.1 * 64 + i)).isNone)
    (im.allScheds.flatMap fun e => e.2.entries.map fun p => (p.1, e.2))

/-- The checks of step 3 in their order. -/
def State.contractRefusal (s : State) (im : Image) : Option Refused :=
  let t := s.over im.body.init
  let f := im.frameLength
  im.sectionBad.or <|
  (if f < 5000 ∨ 50000 < f ∨ f % 8 ≠ 0 then some (stImageContract, 2, 0) else none).or <|
  im.rateBad.or <|
  (firstBad 4 (·.spur) (fun (c : Claim) => decide (65536 < c.program ∨ 12288 < c.coeff ∨ 32768 < c.xBytes ∨ 32768 < c.yBytes))
    im.body.claims).or <|
  im.endBad.or <| im.yieldBad.or <|
  (im.allScheds.findSome? fun e => t.placeBad im e.2).or <|
  (if 32 < im.body.commonsRun ∨ 128 < im.body.commonsMax then some (stImageContract, 8, 0) else none).or <|
  im.contractBad.or <| im.variantBad.or <| (t.machineBad im).or <| (s.layoutBad im).or im.signatureBad

/-- The checks of IMAGE_END on the bytes of a Traverse slot (R83 steps 1 to 3): a refusal, or none. -/
def State.imageRefusal (s : State) (k : Nat) (im : Image) : Option Refused :=
  let bs := s.rdN (slotBase k) im.length
  if (s.slot k).written < im.length ∨ !s.slotHashOk k im.length ∨ !Config.signatureOk (bs.take 0xB0) (sub bs 0xB0 64) then
    some (stImageSignature, 0, 0)
  else if !s.targetOk im then some (stImageTarget, 0, 0)
  else s.contractRefusal im

/-- The checks of IMAGE_END on a firmware copy (R717, R718). -/
def State.firmwareRefusal (s : State) (k : Nat) : Option Refused :=
  let bs := s.rdN (slotBase k) (s.slot k).written
  if !Config.firmwareSigned bs then some (stImageSignature, 0, 0)
  else if Config.firmwareMagic bs ≠ 0x46575231 ∨ Config.firmwarePart bs ≠ s.part then some (stImageTarget, 0, 0)
  else none

/-! ### Commands (R82, R83, R438, R439, R718) -/

/-- A refusal recorded and answered (R83, R109). -/
def imageRefused (r : Refused) (s : State) : Res × State :=
  (.fail r.1 r.2.1 (le 4 r.2.2), s.report 2 1 0xA (b2 r.1 ++ b2 r.2.1 ++ b4 r.2.2))

/-- A firmware copy that runs or that the boot record names (R718). -/
def State.firmwareBusy (s : State) (k : Nat) : Bool :=
  decide (4 ≤ k) && (decide (s.pw.running = some (k % 2)) || decide (k % 2 = b2n s.pw.bootB))

/-- IMAGE_BEGIN (R82, R718). A length beyond the slot is out of range (DEDUCED, notes/assumptions/21.md). -/
def cmdImageBegin (c : Cmd) (s : State) : Res × State :=
  let k := c.target % 4096
  let n := fld c.args 0 4
  if (s.slot k).state = .active ∨ s.firmwareBusy k then (.fail stWrongState, s)
  else if slotRoom k < n then (.fail stParamRange, s)
  else (.ok, s.updSlot k fun _ => { state := .writing, written := 0, length := n })

/-- IMAGE_DATA (R82, R439). -/
def cmdImageData (c : Cmd) (s : State) : Res × State :=
  let k := c.target % 4096
  let o := fld c.args 0 4
  let data := c.args.drop 4
  let x := s.slot k
  if x.state ≠ .writing ∨ o ≠ x.written ∨ x.length < o + data.length then (.fail stWrongState 0 (le 4 x.written), s)
  else (.ok, ((s.wrN (slotBase k + o) data).worn (slotBase k + o) data.length).updSlot k fun x => { x with written := o + data.length })

/-- IMAGE_END (R82, R83, R718): VALID, or EMPTY where a check fails. -/
def cmdImageEnd (c : Cmd) (s : State) : Res × State :=
  let k := c.target % 4096
  if (s.slot k).state ≠ .writing then (.fail stWrongState, s) else
  let im := parseImage (s.rdN (slotBase k) (s.slot k).written)
  match if k < 4 then s.imageRefusal k im else s.firmwareRefusal k with
  | some r => imageRefused r (s.updSlot k fun x => { x with state := .empty, image := none })
  | none => (.ok, s.updSlot k fun x => { x with state := .valid, image := if k < 4 then some im else none })

/-- The parameters that an image's activation changes (R84, R801): the structural ones, and those without a stored value. -/
def State.activation (s : State) (im : Image) : Store (Option Int) :=
  im.body.init.filter fun e => match s.paramDef e.1 with
    | some d => decide (e.1 / 2 ^ 24 ≠ 0x68) && (d.structural || (Store.read none s.pm.run e.1).isNone)
    | none => false

/-- The activation itself (R84, R86): parameters, programs and banks, the slot ACTIVE and the former one VALID. The Ridge starts at RIDGE_START. -/
def activate (k : Nat) (im : Image) (s : State) : State :=
  let s := match s.activeSlot with | some j => s.updSlot j fun x => { x with state := .valid } | none => s
  let s := s.updSlot k fun x => { x with state := .active }
  let s := applyValues 0 (s.activation im) { s with rg := { s.rg with tablesKept := false } }
  (storeLive s.pm.gen (loadBanks (loadPrograms s))).report 2 1 9 (b1 k ++ b4 im.contractId ++ b4 im.configId)

/-- IMAGE_ACTIVATE (R83 step 4, R86, R718). -/
def cmdImageActivate (c : Cmd) (s : State) : Res × State :=
  let k := c.target % 4096
  let x := s.slot k
  if 4 ≤ k then
    if x.state ≠ .valid then (.fail stWrongState, s) else (.ok, { s with pw := { s.pw with bootB := decide (k % 2 = 1) } })
  else
    let driving := (List.range s.stages).any fun j => decide ((s.stage j).mode = .driving)
    match x.image with
    | none => imageRefused (stWrongState, 0, 0) s
    | some im =>
      if s.framesRun || driving || decide (x.state ≠ .valid) then imageRefused (stWrongState, 0, 0) s
      else if !s.slotHashOk k im.length then imageRefused (stImageSignature, 0, 0) s
      else match s.lostSpurs im with
        | [] => (.ok, activate k im s)
        | [j] => if im.variantMask.testBit j then (.ok, activate k im s) else imageRefused (stImageContract, 0x10, j) s
        | j :: _ => imageRefused (stImageContract, 0x10, j) s

/-- The code of a slot's state (R438). -/
def slotCode : SlotState → Nat
  | .empty => 0
  | .writing => 1
  | .valid => 2
  | .active => 3

/-- IMAGE_LIST (R438). -/
def cmdImageList (_c : Cmd) (s : State) : Res × State :=
  (.ok ((List.range 4).flatMap fun k =>
    let x := s.slot k
    slotCode x.state :: (match x.image with
      | some im => le 2 im.part ++ le 4 im.contractId ++ le 4 im.configId ++ padTo 10 im.buildStamp ++ [im.variantMask] ++ le 2 0
      | none => List.replicate 10 0 ++ List.replicate 10 255 ++ [0] ++ le 2 0)), s)

end Sys2Proof.Machine
end

