-- ==== Sys2Proof/Machine/Registers.lean ====
section
/-!
DEFINITION. Sys2Proof/Machine/Registers.lean: the registers of the peripheral blocks and of the host window as a master reads and writes
them (R13 to R15, R39 to R42, R620 to R623), the latches of wide values, and accesses that nothing answers. Masters are numbered 0
supervisor, 1 DMA engine, 2 capture engine, 3 host port.
-/
namespace Sys2Proof.Machine

/-! ### What a register holds -/

/-- SERVO_STATUS (R551). -/
def State.servoStatus (s : State) : Nat :=
  s.tm.stepEpoch * 2 ^ 24 + s.tm.source * 2 ^ 8 + b2n s.tm.slewLimited 6 + b2n s.tm.coarse 7 + servoCode s.tm.servo

/-- WATCHDOG of a group (R233): cycles since the oldest last loaded reload of its driven stages. -/
def State.watchdogCount (s : State) (g : Nat) : Nat :=
  let ks := (List.range 6).map (6 * g + ·) |>.filter fun k => decide (k < s.stages) && (s.stage k).mode = .driving
  ks.foldl (fun n k => max n (s.tm.now - (s.stage k).lastLoaded)) 0

/-- The PWM block (R221, R222, R228). The layout of an auxiliary channel's set is not in the spec. -/
def State.pwmReg (s : State) (o : Nat) : Nat :=
  let k := o / 0x40
  let t := s.stage k
  if o < 0x1000 then
    if s.stages ≤ k then 0 else
    match o % 0x40 with
    | 0 => t.dutyU
    | 4 => t.dutyV
    | 8 => t.dutyW
    | 0xC => t.forceU + t.forceV * 2 ^ 15
    | 0x10 => t.forceW
    | 0x14 => s.stageStatus k
    | 0x18 => s.tripLatch k
    | 0x1C => t.stamp
    | _ => 0
  else if o < 0x1080 ∧ o % 0x20 = 4 then s.watchdogCount ((o - 0x1000) / 0x20)
  else 0

/-- The words of a latch (R289, R290). -/
def State.latchWords (s : State) (k : Nat) : List Nat :=
  let l := s.latch k
  let x := l.queue.head?
  let (c, st) : Nat × List Nat := match x with | some x => (tc 32 x.count, stampBytes x.ns) | none => (0, padTo 10 [])
  [c, fld st 0 4, fld st 4 4, fld st 8 2, l.status x]

/-- The feedback block. -/
def State.fbReg (s : State) (o : Nat) : Nat :=
  let c := o / 0x40
  let f := s.chan c
  if o < 0x1000 then
    if s.channels ≤ c then 0 else
    match o % 0x40 with
    | 0 => tc 32 f.count
    | 4 => match f.last with | some e => tc 32 e.count | none => 0
    | 8 => match f.last with | some e => compact e.ns | none => 0
    | 0xC => tc 32 f.speed
    | 0x10 => tc 32 f.indexCount
    | 0x14 => f.indexStamp
    | 0x18 => s.chStatus c
    | 0x1C => f.fault
    | 0x20 => f.illegal
    | 0x24 => f.serRaw % 2 ^ 32
    | _ => 0
  else if o < 0x2000 then
    let e := Store.read {} (s.chan ((o - 0x1000) / 0x80)).cmp (o % 0x80 / 8)
    if o % 8 = 0 then tc 32 e.position else e.qual + e.pin * 2 ^ 8 + e.action * 2 ^ 16
  else if o < 0x3000 then (Store.read {} (s.chan ((o - 0x2000) / 0x40)).cmp (o % 0x40 / 4)).stamp
  else if o < 0x3100 ∧ o % 8 = 0 then
    ((s.chan ((o - 0x3000) / 8)).cmp).foldl (fun (n : Nat) e =>
      n + b2n (e.2.state = .fired) e.1 + b2n (e.2.state = .passed) (16 + e.1)) 0
  else if 0x4000 ≤ o ∧ o < 0x4100 then (s.latchWords ((o - 0x4000) / 0x20)).getD (o % 0x20 / 4) 0
  else 0

/-- The rate multipliers (R341 to R346). -/
def State.rmReg (s : State) (o : Nat) : Nat :=
  let n := o / 0x20
  if 8 ≤ n then 0 else
  let r := (rmAdvance n s).rate n
  match o % 0x20 with
  | 0 => tc 32 r.w
  | 4 => tc 32 (r.w / 2 ^ 32)
  | 8 => tc 32 r.ext
  | 0xC => tc 40 r.ext / 2 ^ 32
  | 0x10 => tc 32 r.emitted
  | 0x14 => s.rmStatus n
  | _ => 0

/-- The timebase (R549, R551). -/
def State.timeReg (s : State) (o : Nat) : Nat :=
  let ns := s.busNs
  match o with
  | 0 => ns % nsPerS
  | 4 => ns / nsPerS % 2 ^ 32
  | 8 => ns / nsPerS / 2 ^ 32 % 2 ^ 16
  | 0xC => s.tm.inc % 2 ^ 32
  | 0x10 => s.tm.inc / 2 ^ 32 % 2 ^ 8
  | 0x14 => s.servoStatus
  | 0x18 => tc 32 (satI 32 s.tm.lastOffset)
  | 0x1C => tc 32 (roundRat s.tm.y)
  | 0x20 => tc 32 s.tm.lastStep
  | 0x24 => tc 32 (s.tm.lastStep / 2 ^ 32)
  | _ => 0

/-- A word of a receive buffer (R659, R660). -/
def RxBuf.word (x : RxBuf) (w : Nat) : Nat :=
  let stamp := match x.frame with | some f => stampBytes f.ns | none => []
  match w with
  | 0 => match x.frame with | some f => f.word0 + 2 ^ 31 | none => 0
  | 1 => match x.frame with
    | some f => f.data.length + f.filter * 2 ^ 8 + b2n f.esi 21 + b2n f.brs 22 + b2n f.fd 23 + x.seq * 2 ^ 24
    | none => x.seq * 2 ^ 24
  | 23 => x.overCount + b2n x.overwritten 16 + b2n x.lockTimeout 17 + x.seq * 2 ^ 24
  | _ =>
    if w < 5 then fld stamp (4 * (w - 2)) 4
    else if w < 21 then match x.frame with | some f => fld f.data (4 * (w - 5)) 4 | none => 0
    else 0

/-- CAN_STATUS (R664). -/
def CanSt.statusWord (c : CanSt) : Nat :=
  canCode c.state + b2n c.passive 4 + b2n (!c.idle) 5 + b2n c.wakeSeen 6 + b2n c.ttSync 7 + c.fifoLevel * 2 ^ 8

/-- A controller's part of the message SRAM (R657); the layouts of a transmit buffer and of a filter are not in the spec. -/
def State.canReg (s : State) (o : Nat) : Nat :=
  let c := s.ctl (o / 0x4000)
  let r := o % 0x4000
  if r = 0 then c.statusWord
  else if r = 4 then satN 8 c.txErrors + satN 8 c.rxErrors * 2 ^ 8 + satN 8 (c.recent s.tm.now).length * 2 ^ 16
  else if r = 8 then c.rxLost
  else if 0x1000 ≤ r ∧ r < 0x1000 + 48 * 0x60 then (c.rx ((r - 0x1000) / 0x60)).word ((r - 0x1000) % 0x60 / 4)
  else if 0x2400 ≤ r ∧ r < 0x3000 then (c.rx (48 + (r - 0x2400) / 0x60)).word ((r - 0x2400) % 0x60 / 4)
  else 0

/-- The field I/O bridge (R702). -/
def State.fieldReg (s : State) (o : Nat) : Nat :=
  let rb := (List.range 4).foldl (fun (n : Nat) i => n + b2n (s.soutLevel i) i) 0
  match o with
  | 0 => s.fd.filtered
  | 4 => s.fd.raw
  | 8 => s.fd.cmd + s.fd.soutReq * 2 ^ 16
  | 0xC => s.fd.readback + rb * 2 ^ 16
  | 0x10 => s.fd.fault
  | 0x14 => s.fioSupply
  | _ => 0

/-- The windows (R765, R767). -/
def State.cwReg (s : State) (o : Nat) : Nat :=
  let c := s.win (o / 0x20)
  if o < 0x200 then
    match o % 0x20 with
    | 0 => c.base
    | 4 => c.len
    | 8 => c.wr
    | 0xC => c.rd
    | 0x18 => c.status
    | _ => 0
  else if 0xC000 ≤ o then
    let w := (o - 0xC000) / 0x400
    let c := s.win w
    if c.level ≤ o % 0x400 then 0 else ofLe (ringRead c (c.rd + o % 0x400) 4 s)
  else if 0x8000 ≤ o then
    let c := s.win ((o - 0x8000) / 0x400)
    ofLe (ringRead c (c.wr + o % 0x400) 4 s)
  else 0

/-- HOST_STATUS (R621). -/
def State.hostStatus (s : State) : Nat :=
  b2n s.pw.ready 15 + b2n s.keySet 14 + b2n s.pw.warning 13 + b2n (s.jn.fail0 || s.jn.fail1) 12 +
    b2n ((List.range 4).any s.inDemand) 11 + b2n (s.pw.fault ≠ 0) 10 +
    (match s.rg.state with | .stopped => 0 | .running => 1 | .fallback => 2) * 2 ^ 8 +
    (match s.pw.mode with | .commissioning => 0 | .service => 1 | .recovery => 2) * 2 ^ 6 +
    (match s.pw.state with | .doze => 1 | .run | .standby | .off => 0) * 2 ^ 4 +
    s.pw.strapBoot * 4 + b2n s.pw.strapHost 1

/-- The oldest Cairn sequence kept (R558, R620). -/
def State.cairnTail (s : State) : Nat :=
  match s.cn.newest with
  | some n => (n + 2 ^ 32 - oldestAge s n) % 2 ^ 32
  | none => Config.openWord s.tm.now 0x11 % 2 ^ 32

/-- A register of the host window (R620), MBX_OUT_DATA apart; MBX_CTRL as read, and the Cairn sequences while there is no record, are open
(notes/assumptions/74.md). -/
def State.hostReg (s : State) (a : Nat) : Nat :=
  match a with
  | 0x00 => s.part * 2 ^ 16 + 0x5A * 2 ^ 8 + s.stepping
  | 0x01 => Config.firmware (s.pw.running.getD 2) % 2 ^ 24
  | 0x02 => Config.serial % 2 ^ 32
  | 0x03 => s.hp.serialHi
  | 0x04 => s.hostStatus
  | 0x05 => s.hp.irqFlags
  | 0x06 => s.hp.irqMask
  | 0x09 => 2048 - s.hp.mbxIn.length
  | 0x0B => s.hp.outLevel * 2 ^ 16 + (match s.hp.mbxOut with | p :: _ => p.length | [] => 0)
  | 0x0C => Config.openWord s.tm.now 0x0C % 2 ^ 32
  | 0x10 => match s.cn.newest with | some n => n | none => Config.openWord s.tm.now 0x10 % 2 ^ 32
  | 0x11 => s.cairnTail
  | 0x12 => min s.unacked 0xFFFF
  | 0x14 => s.busNs % nsPerS
  | 0x15 => s.hp.timeSec % 2 ^ 32
  | 0x16 => s.hp.timeSec / 2 ^ 32 % 2 ^ 16
  | 0x17 => s.servoStatus
  | 0x18 => s.rg.frame
  | 0x1C => (match s.pw.state with | .doze => 1 | .run | .standby | .off => 0) * 2 ^ 8
  | _ => 0

/-- IRQ_N driven low (R622). -/
def State.irqLow (s : State) : Bool := decide (s.hp.irqFlags &&& s.hp.irqMask ≠ 0)

/-! ### Accesses (R14, R15, R41, R42) -/

/-- The block of R711 that owns a peripheral address, while it is in reset (R712). -/
def State.blockReset (s : State) (a : Nat) : Bool :=
  s.pw.inReset.any fun (e : Nat × Nat × Nat) => match a / 0x10000 with
    | 0x5005 => decide (e.1 = 0xC)
    | 0x5006 => decide (e.1 = 0xB)
    | 0x5007 => decide (e.1 = 0xA)
    | 0x5008 => decide (e.1 = 0xD)
    | _ => false

/-- A spur address lies in the inactive coefficient bank (R42, R115). -/
def State.inactiveBank (s : State) (a : Nat) : Bool :=
  let o := a % 0x100000
  if s.rg.bankB then decide (0x80000 ≤ o ∧ o < 0x83000) else decide (0x83000 ≤ o ∧ o < 0x86000)

/-- An address responds to a master (R39 to R42, R712). -/
def State.responds (s : State) (a : Nat) : Bool :=
  match s.region a with
  | .none => false
  | .spur _ => !s.framesRun || s.inactiveBank a
  | .peripheral _ => !s.blockReset a
  | _ => true

/-- A word as an access by a master other than the host port reads it, latches apart. -/
def State.busWord (s : State) (a : Nat) : Nat :=
  match s.region a with
  | .none => 0
  | .peripheral b =>
    let o := a % 0x10000
    match b with
    | 0 => s.pwmReg o
    | 2 => s.fbReg o
    | 3 => s.rmReg o
    | 4 => s.timeReg o
    | 5 => s.canReg o
    | 8 => s.fieldReg o
    | 0xA => s.cwReg o
    | _ => 0
  | _ => ofLe (s.rdN a 4)

/-- The addresses of the upper words of the wide value whose low word stands at `a` (R14). -/
def wideWords (a : Nat) : List Nat :=
  if a = 0x50040000 then [0x50040004, 0x50040008]
  else if a = 0x50040020 then [0x50040024]
  else if 0x50030000 ≤ a ∧ a < 0x50030100 ∧ (a % 0x20 = 0 ∨ a % 0x20 = 8) then [a + 4]
  else if 0x50024000 ≤ a ∧ a < 0x50024100 ∧ a % 0x20 = 4 then [a + 4, a + 8]
  else []

/-- A register that the tables of its block name for reading (R221, R290, R346, R551, R657, R702, R765). An auxiliary channel's set, a transmit
buffer, a filter and the words of a latch without a capture have no content in the spec, nor has any other word of a block. -/
def State.regStated (s : State) (b o : Nat) : Bool :=
  decide (o % 4 = 0) && (match b with
    | 0 => decide (o < 0x1000 ∧ o / 0x40 < s.stages ∧ o % 0x40 < 0x20) || decide (0x1000 ≤ o ∧ o < 0x1080 ∧ o % 0x20 = 4)
    | 2 => decide (o < 0x1000 ∧ o / 0x40 < s.channels ∧ o % 0x40 < 0x28) ||
        decide (0x1000 ≤ o ∧ o < 0x2000 ∧ (o - 0x1000) / 0x80 < s.channels) || decide (0x2000 ≤ o ∧ (o - 0x2000) / 0x40 < s.channels) ||
        decide (0x3000 ≤ o ∧ (o - 0x3000) / 8 < s.channels ∧ o % 8 = 0) ||
        (decide (0x4000 ≤ o ∧ o < 0x4100 ∧ o % 0x20 < 0x14) && (decide (o % 0x20 = 0x10) || !(s.latch ((o - 0x4000) / 0x20)).queue.isEmpty))
    | 3 => decide (o < 0x100 ∧ o % 0x20 < 0x18)
    | 4 => decide (o < 0x28)
    | 5 => let r := o % 0x4000
           decide (r < 0xC ∨ (0x1000 ≤ r ∧ r < 0x2200) ∨ (0x2400 ≤ r ∧ r < 0x3000))
    | 8 => decide (o < 0x18)
    | 0xA => decide (o < 0x200 ∧ (o % 0x20 < 0x10 ∨ o % 0x20 = 0x18)) || decide (0x8000 ≤ o)
    | _ => false)

/-- A word that responds and whose content the spec gives. The structured partitions of MRAM have no bytes in the model, and the bytes of most have
none in the spec (DESIGN CHOICE, notes/assumptions/74.md). -/
def State.wordStated (s : State) (a : Nat) : Bool :=
  match s.region a with
  | .peripheral b => s.regStated b (a % 0x10000)
  | .mram => decide (a + 4 ≤ 0x40400000)
  | .identity => false
  | _ => true

/-- A read of the consumer aperture at an offset beyond LEVEL sets UNF (R766). -/
def apertureRead (a : Nat) (s : State) : State :=
  let o := a % 0x10000
  let w := (o - 0xC000) / 0x400
  if s.region a = .peripheral 0xA ∧ 0xC000 ≤ o ∧ (s.win w).level ≤ o % 0x400 then cwFlag w 2 s else s

/-- A word read from the block itself: one whose content the spec does not give is a free value (notes/assumptions/74.md). -/
def wordRead (a : Nat) (s : State) : Nat × State :=
  if s.wordStated a then (s.busWord a, apertureRead a s) else s.take (2 ^ 32)

/-- A read by a master (R13 to R15): what it returns is kept as the master's last word. -/
def busRead (master a : Nat) (s : State) : State :=
  let key (x : Nat) : Nat := master * 2 ^ 32 + x
  let latches := ((wideWords a).filter s.wordStated).foldl (fun m x => Store.write [] m (key x) [s.busWord x]) s.mm.latches
  let (v, s) : Nat × State := match Store.read [] s.mm.latches (key a) with
    | [x] => (x, s)
    | _ => wordRead a s
  { s with mm := { s.mm with lastRead := Store.write 0 s.mm.lastRead master v, latches := latches } }

/-- The host port reads the low word of a wide value (R14, R620). -/
def hostLatch (a : Nat) (s : State) : State :=
  match a with
  | 0x02 => { s with hp := { s.hp with serialHi := Config.serial / 2 ^ 32 % 2 ^ 32 } }
  | 0x14 => { s with hp := { s.hp with timeSec := s.busNs / nsPerS % 2 ^ 48 } }
  | _ => s

/-- LOW_WORD_READ_LATCH (R14): the host port reads its window, another master the map of R39. -/
def lowWordRead (master a : Nat) (s : State) : State :=
  if master = 3 then
    hostLatch a { s with mm := { s.mm with lastRead := Store.write 0 s.mm.lastRead 3 (s.hostReg a) } }
  else if !s.responds a then { s with mm := { s.mm with lastRead := Store.write 0 s.mm.lastRead master 0 } }
  else busRead master a s

/-- A word pushed to MBX_IN while it has room (R617). -/
def mbxPush (v : Nat) (s : State) : State :=
  if 2048 ≤ s.hp.mbxIn.length then s
  else { s with hp := { s.hp with
    mbxIn := s.hp.mbxIn ++ [v % 2 ^ 32]
    partialFrom := match s.hp.partialFrom with | some c => some c | none => some s.tm.now } }

/-- A write of a host register (R617, R620, R622); the wake that PWR_REQ asks for is the power controller's (R623). -/
def hostWrite (a v : Nat) (s : State) : State :=
  match a with
  | 0x05 => { s with hp := { s.hp with irqFlags := s.hp.irqFlags &&& (0xFF - v % 0x100) } }
  | 0x06 => { s with hp := { s.hp with irqMask := v % 0x100 } }
  | 0x08 => mbxPush v s
  | 0x0C =>
    let s := if v.testBit 0 then { s with hp := { s.hp with mbxIn := [], partialFrom := none } } else s
    if v.testBit 1 then State.refill 64 { s with hp := { s.hp with mbxOut := [] } } else s
  | _ => s

/-- A write to the PWM block: the duty shadows and LOAD_ALL (R215). -/
def pwmWrite (o v : Nat) (s : State) : State :=
  let k := o / 0x40
  if o < 0x1000 ∧ k < s.stages then
    match o % 0x40 with
    | 0 => writeDuty k 0 v s
    | 4 => writeDuty k 1 v s
    | 8 => writeDuty k 2 v s
    | _ => s
  else if 0x1000 ≤ o ∧ o < 0x1080 ∧ o % 0x20 = 0 ∧ v.testBit 0 then loadAll ((o - 0x1000) / 0x20) s
  else s

/-- A write to the windows block (R765 to R767). -/
def cwWrite (o v : Nat) (s : State) : State :=
  let w := o / 0x20
  if o < 0x200 then
    match o % 0x20 with
    | 0 => cwSetup w false v s
    | 4 => cwSetup w true v s
    | 0x10 => wrAdvance w v s
    | 0x14 => rdAdvance w v s
    | 0x18 => cwStatusWrite w v s
    | _ => s
  else if 0x8000 ≤ o ∧ o < 0xC000 then producerWrite ((o - 0x8000) / 0x400) (o % 0x400) (le 4 v) s
  else s

/-- A write by a master other than the host port: registers take it as their access column says, memories store the word; the
write-once identity data and structured journals stay as they are (R763). -/
def busWrite (a v : Nat) (s : State) : State :=
  match s.region a with
  | .peripheral b =>
    let o := a % 0x10000
    match b with
    | 0 => pwmWrite o v s
    | 3 => if o < 0x100 ∧ o % 0x20 = 0x14 then rmClear (o / 0x20) v s else s
    | 5 => if o % 0x4000 = 0 ∧ v.testBit 6 then s.updCtl (o / 0x4000) fun c => { c with wakeSeen := false } else s
    | 0xA => cwWrite o v s
    | _ => s
  | .tcm | .commons | .spur _ | .capture => s.wrN a (le 4 v)
  | .mram => if a < 0x40400000 then (s.wrN a (le 4 v)).worn a 4 else s
  | .identity | .none => s

/-- The host port answers: slave mode, powered, not in reset (R605, R624, R712). -/
def State.hostServed (s : State) : Bool :=
  !s.pw.strapHost && s.clocked && !(s.pw.inReset.any fun (e : Nat × Nat × Nat) => decide (e.1 = 0xA))

/-- REGISTER_WRITE (R13, R41). -/
def registerWrite (master a v : Nat) (s : State) : State :=
  if master = 3 then (if s.hostServed then hostWrite a v s else s)
  else if !s.responds a then s
  else busWrite a v s

/-- UNMAPPED_ACCESS (R41): an error response; a read returns 0, a write has no effect. -/
def unmapped (master a : Nat) (write : Option Nat) (s : State) : State :=
  if s.responds a || write.isSome then s
  else { s with mm := { s.mm with lastRead := Store.write 0 s.mm.lastRead master 0 } }

/-- LOW_WORD_READ_LATCH (R14). -/
def execLowWordReadLatch (dt master addr : Nat) (s : State) : Out := .next (lowWordRead master addr (s.elapse dt))
/-- UNMAPPED_ACCESS (R41). -/
def execUnmappedAccess (dt master addr : Nat) (write : Option Nat) (s : State) : Out :=
  .next (unmapped master addr write (s.elapse dt))

end Sys2Proof.Machine
end

