-- ==== Sys2Proof/Machine/Reset.lean ====
section
/-!
DEFINITION. Sys2Proof/Machine/Reset.lean: the reset controller (R706 to R722, R737 to R741, R757): COLD and WARM resets, the start sequence
with the restart of both journals (R414, R440, R558), domain resets (R708, R711 to R713, R441), and the supply monitors.
-/
namespace Sys2Proof.Machine

/-! ### COLD and WARM resets (R706 to R710) -/

/-- What a COLD or WARM reset leaves of the reset and power controllers (R706, R710): the always-on registers of a WARM reset, and what lies in
MRAM. Records that wait for the start are kept in both (DESIGN CHOICE, notes/assumptions/70.md). -/
def PowerSt.afterReset (p : PowerSt) (cold : Bool) (source : Nat) : PowerSt :=
  let told := if !cold && p.dbg.unlocked.isSome then [(0xF, 1, 0xA, b1 3)] else []
  { held := true, bootB := p.bootB, loads := p.loads, resetKind := if cold then 1 else 2, resetSource := source
    holdup := if cold then none else p.holdup
    fault := if cold then 0 else p.fault % 4
    stuck := if cold then none else p.stuck
    wakeFail := if cold then none else p.wakeFail
    wakeSets := if cold then 0 else p.wakeSets
    owed := p.owed ++ told }

/-- A COLD or WARM reset begins (R706, R709, R710, R757): every SRAM and register but those that its kind keeps, outputs as R709 holds them; the
module stays in reset until its start sequence. -/
def resetModule (cold : Bool) (source : Nat) (s : State) : State :=
  let align := (List.range s.channels).foldl (fun s c => loseContinuity c s) s
  let mon := (smRestart s).sf
  { s.clearSram with
    tm := { now := s.tm.now, stepEpoch := if cold then 0 else s.tm.stepEpoch, coarseNs := if cold then none else s.tm.coarseNs }
    cn := { ring := s.cn.ring, nextSeq := s.cn.nextSeq, newest := s.cn.newest }
    jn := { bank0 := s.jn.bank0, bank1 := s.jn.bank1, lastSlot := s.jn.lastSlot, fail0 := s.jn.fail0, fail1 := s.jn.fail1
            sessions := s.jn.sessions.map fun (x : Session) => { x with key := none, challenge := none, fails := 0, fullTold := false } }
    pm := { sets := s.pm.sets, drafts := s.pm.drafts }
    rg := { failCounts := s.rg.failCounts, retired := s.rg.retired, slots := s.rg.slots }
    sp := [], md := [], ap := [], gp := [], fb := [], ev := [], la := [], rm := [], ax := [], pg := []
    st := Store.mapAll {} (fun (_ : Nat) (t : StageSt) => ({ calibrated := t.calibrated, count := if cold then 0 else t.count } : StageSt)) s.st
    mc := Store.mapAll {} (fun (_ : Nat) (x : MachineSt) => ({ aligned := x.aligned, aligned2 := x.aligned2 } : MachineSt)) align.mc
    lt := Store.mapAll {} (fun (_ : Nat) (x : TableSt) => ({ saved := x.saved, stored := x.stored } : TableSt)) s.lt
    sf := { mon with mbox := [], pub := {} }
    cp := {}
    fd := { switched := s.fd.switched, faults := s.fd.faults, savedSwitched := s.fd.savedSwitched, savedFaults := s.fd.savedFaults }
    hp := {}, eth := [], dx := {}, can := []
    pw := s.pw.afterReset cold source
    ag := { s.ag with voltage := if cold then 900 else s.ag.voltage, slack := List.replicate 8 0, highFrom := none, driftSum := 0, driftSpan := 0 }
    mm := { lost := if cold then [] else s.mm.lost, lostAddrs := if cold then [] else s.mm.lostAddrs
            mramErrs := s.mm.mramErrs, bankFailed := s.mm.bankFailed, wear := s.mm.wear } }

/-! ### Restart of the journals (R414, R440, R558) -/

/-- The slots that hold anything in either bank. -/
def State.journalSlots (s : State) : List Nat :=
  s.jn.bank0.map (·.1) ++ (s.jn.bank1.map (·.1)).filter fun k => !(s.jn.bank0.any fun e => decide (e.1 = k))

/-- The two copies of a slot compared and repaired (R414). -/
def repairSlot (k : Nat) (s : State) : State :=
  let a := Store.read {} s.jn.bank0 k
  let b := Store.read {} s.jn.bank1 k
  let both (e : JEntry) (how : Nat) (s : State) : State :=
    { s with jn := { s.jn with bank0 := Store.write {} s.jn.bank0 k e, bank1 := Store.write {} s.jn.bank1 k e } }.report 1 2 6
      (b2 k ++ b1 how)
  if a = b then s
  else if a.valid && (!b.valid || decide (b.writeCount ≤ a.writeCount)) then both a 1 s
  else if b.valid then both b 2 s
  else both {} 3 s

/-- Every slot compared, unless a bank has failed (R414, R417). -/
def repairJournal (s : State) : State :=
  if s.jn.fail0 || s.jn.fail1 then s else s.journalSlots.foldl (fun s k => repairSlot k s) s

/-- Empty slots within the ring's written span (R558). -/
def State.ringHoles (s : State) : Nat :=
  match s.cn.newest with
  | none => 0
  | some n => oldestAge s n + 1 - (s.cn.ring.filter fun e => e.2.isSome).length

/-- JOURNAL_RING_REPAIRED (R558). -/
def repairRing (s : State) : State := if s.ringHoles = 0 then s else s.report 8 2 0x12 (b4 s.ringHoles)

/-- The outcome that an entry not completed takes after a reset (R440): outcome and status. -/
def State.restartOutcome (s : State) (e : JEntry) : Nat × Nat :=
  let k := e.target % 4096
  if e.state = 1 then (2, stInterrupted)
  else if e.opcode = 0x0303 then (4, stInterrupted)
  else if e.opcode = 0x0903 then
    (2, if (if k < 4 then decide ((s.slot k).state = .active) else s.pw.bootB == decide (k % 2 = 1)) then stOk else stInterrupted)
  else if 0x0601 ≤ e.opcode ∧ e.opcode ≤ 0x0606 then
    match s.sf.ledger.find? fun (x : Nat × Nat × Nat × Option Nat) => decide (x.1 = e.session ∧ x.2.1 = e.seq) with
    | some (_, _, _, some st) => (2, st)
    | _ => (2, stInterrupted)
  else (2, stInterrupted)

/-- Opcodes of the moves whose interruption is recorded (R307): MOVE_ABS, MOVE_REL, MOVE_VEL, HOME, GEAR_ENGAGE. -/
def moveOpcodes : List Nat := [0x0502, 0x0503, 0x0504, 0x0508, 0x050B]

/-- One entry given its outcome, with MOVE_INTERRUPTED for a started move. -/
def restartEntry (k : Nat) (s : State) : State :=
  let e := s.entry k
  let (o, st) := s.restartOutcome e
  let s := if e.state = 2 ∧ moveOpcodes.contains e.opcode then s.report 6 2 4 (b1 (e.target % 4096) ++ b2 e.opcode ++ b4 e.seq) else s
  s.complete k o st 0 0 (some s.ns)

/-- Slots of the entries that had not completed. -/
def State.openSlots (s : State) : List Nat := (s.heldEntries.filter fun e => decide (e.2.state < 3)).map (·.1)

/-- A reset returns a CHECKED draft to OPEN (R423). -/
def draftsReset (s : State) : State :=
  (List.range 4).foldl (fun s k => if (s.draft k).state = .checked then s.updDraft k fun d => { d with state := .opened } else s) s

/-! ### The start sequence (R714 to R720, R547) -/

/-- The newest valid stored set (R429, R431). -/
def State.newestSet (s : State) : Option StoredSet :=
  s.pm.sets.foldl (fun (b : Option StoredSet) x => if !x.marked then b else
    match b with
    | some y => if y.gen < x.gen then some x else b
    | none => some x) none

/-- The newest set loaded, with the active image's initial values where it has none (R84, R429); the safety configuration is the monitor's. -/
def loadSet (s : State) : State :=
  let x : StoredSet := s.newestSet.getD { gen := 0, marked := true, values := [] }
  let mine := Store.keep (fun id => decide (id / 2 ^ 24 = 0x68)) s.pm.run
  let s := { s with pm := { s.pm with
    run := x.values.foldl (fun m (e : Nat × Option Int) => Store.write none m e.1 e.2) mine
    gen := x.gen, sets := s.pm.sets.filter (·.marked), restart := [], live := [] } }
  match s.image with
  | some im => { s with pm := { s.pm with run := (s.activation im).foldl (fun m (e : Nat × Option Int) => Store.write none m e.1 e.2) s.pm.run } }
  | none => s

/-- The stamp of the newest valid Cairn record (R547). -/
def State.newestNs (s : State) : Option Nat :=
  (s.cn.newest).bind fun q => (Store.read none s.cn.ring (s.ringSlot q)).bind fun (e : Nat × CairnRec) => if e.1 = q then some e.2.ns else none

/-- What T is loaded with at a start, and its basis (R547). -/
def State.startBasis (s : State) : Nat × Nat :=
  match s.tm.coarseNs, s.newestNs with
  | some c, _ => (c, 1)
  | none, some n => if Config.madeNs ≤ n + nsPerS then (n + nsPerS, 2) else (Config.madeNs, 3)
  | none, none => (Config.madeNs, 3)

/-- T loaded at a start, with TIME_UNSYNCED_START (R546, R547). -/
def startTime (fromOff : Bool) (s : State) : State :=
  let (ns, basis) := s.startBasis
  (stepTo ns (if fromOff then 3 else 4) (servoFree s)).report 8 2 7 (b1 basis)

/-- What a start finds before firmware runs (R714, R716, R717, R720): the cause of RECOVERY if it leads there, the firmware copy that runs, and
its records. A copy passes its checks exactly while its slot is VALID (DEDUCED, notes/assumptions/70.md). -/
def State.bootPlan (s : State) (b : BootInputs) (skip : Bool) : Option Nat × Option Nat × List (Nat × Nat × Nat × List Nat) :=
  let opt : List (Nat × Nat × Nat × List Nat) :=
    if skip then [(0xF, 3, 6, b1 s.pw.loads)]
    else if b.optionA && !b.optionB then [(0xF, 2, 5, b1 1)]
    else if !b.optionA && b.optionB then [(0xF, 2, 5, b1 0)] else []
  if skip || (!b.optionA && !b.optionB) then (some 2, none, opt) else
  match b.strapBoot % 4 with
  | 3 => (some 1, none, opt)
  | 2 => (none, none, opt)
  | 1 => (if !b.strapHost then some 4 else if b.flash.isNone then some 5 else none, none, opt)
  | _ =>
    let ok (k : Nat) : Bool := decide ((s.slot (0x100 + k)).state = .valid)
    let bad (k : Nat) : Nat × Nat × Nat × List Nat := (0xF, 3, 7, b1 k ++ b1 1)
    let n := b2n s.pw.bootB
    if ok n then (none, some n, opt)
    else if ok (1 - n) then (none, some (1 - n), opt ++ [bad n])
    else (some 3, none, opt ++ [bad n, bad (1 - n)])

/-- The code of a power state (R438, R753). -/
def powerCode : PowerState → Nat
  | .run => 0
  | .doze => 1
  | .standby => 2
  | .off => 3

/-- Reports filed one after the other: source, level, code, data. -/
def reportEach (rs : List (Nat × Nat × Nat × List Nat)) (s : State) : State :=
  rs.foldl (fun s r => s.report r.1 r.2.1 r.2.2.1 r.2.2.2) s

/-- The auxiliary channels leave reset (R240): in their modes, OFF where APWM_STOP_ACTION says so while the Ridge is STOPPED. -/
def apwmStart (s : State) : State :=
  (List.range 8).foldl (fun s n =>
    (apwmSetMode n (s.parN P.APWM_MODE n) s).updApwm n fun a => { a with hiz := false }) s

/-- The retention register of failed wakes moves to the journal, and FAULT_N is released (R736). -/
def wakeFailMoved (s : State) : State :=
  match s.pw.wakeFail with
  | none => s
  | some (step, tries, sets) =>
    ({ s with pw := { s.pw with wakeFail := none, wakeSets := 0, lastTry := none } }.releaseFault 1).report 0xE 3 4
      (b1 step ++ b1 tries ++ b2 sets)

/-- Records of a start (R720, R721, R728, R735, R741, R753) and what they clear. -/
def startRecords (cause : Option Nat) (recs : List (Nat × Nat × Nat × List Nat)) (s : State) : State :=
  let p := s.pw
  let s := s.report 0xF 2 1 (b1 p.resetKind ++ b1 p.resetSource ++ b1 p.strapBoot ++ b1 (modeCode p.mode))
  let s := reportEach recs s
  let s := match cause with | some c => s.report 0xF 3 8 (b1 c) | none => s
  let s := match p.stuck with
    | some n => ({ s with pw := { s.pw with stuck := none } }.releaseFault 0).report 0xF 3 4 (b2 n)
    | none => s
  let s := match p.holdup with | some us => if us < 1000 then s.report 0xE 3 8 (b2 us) else s | none => s
  let s := reportEach p.owed { s with pw := { s.pw with owed := [], holdup := none } }
  match p.wake with
  | some w => wakeFailMoved (({ s with pw := { s.pw with wake := none } }.irq 6).report 0xE 1 3
      (b1 w.source ++ b1 (powerCode w.left) ++ b4 ((s.tm.now - w.began) / cyclesPerUs)))
  | none => s

/-- START_SEQUENCE (R714 to R720): from reset to HOST_STATUS READY. A load cut short restarts the sequence; a host download that has not come
leaves the module waiting for it. -/
def startSequence (b : BootInputs) (s : State) : State :=
  let skip := decide (8 ≤ s.pw.loads)
  if !s.pw.held then s
  else if !skip && b.loadCut then { s with pw := { s.pw with loads := s.pw.loads + 1 } }
  else if b.strapBoot % 4 = 2 && !b.download && !skip && (b.optionA || b.optionB) then s
  else
    let (cause, run, recs) := s.bootPlan b skip
    let s := loadSet { s with pw := { s.pw with
      strapBoot := b.strapBoot % 4, strapHost := b.strapHost, strapClk := b.strapClk
      loads := if skip then s.pw.loads else 0, running := run, held := false, state := .run } }
    let mode : ServiceMode := if cause.isSome then .recovery else if s.parN P.PWR_SERVICE_MODE 0 = 1 then .service else .commissioning
    let s := startTime s.pw.wake.isSome { s with pw := { s.pw with mode := mode } }
    let s := draftsReset (repairRing (repairJournal s))
    let s := s.openSlots.foldl (fun s k => restartEntry k s) s
    let s := startRecords cause recs s
    let s := (List.range 16).foldl (fun s p => pinRefresh p s) (apwmStart (fieldStart s))
    let s := if cause.isSome then s else canWakeAll s
    { s with pw := { s.pw with ready := true, pwrFail := s.pw.warning } }

/-! ### Domain resets (R708, R711 to R713) -/

/-- CLK_RIDGE cycles that 64 cycles of a block's clock take (R31, R713). -/
def blockCycles (block : Nat) : Nat :=
  match block with
  | 1 => 32
  | 2 => 64
  | 0xA | 0xB | 0xD => 256
  | 0xC => 320
  | _ => 128

/-- A block is in domain reset. -/
def State.inReset (s : State) (block : Nat) : Bool := s.pw.inReset.any fun (e : Nat × Nat × Nat) => decide (e.1 = block)

/-- The domain reset of a block is asserted and recorded: source 1 command, 2 watchdog, 3 safety monitor (R712, R753). -/
def domainAssert (block source : Nat) (s : State) : State :=
  { s with pw := { s.pw with
    inReset := (s.pw.inReset.filter fun (e : Nat × Nat × Nat) => decide (e.1 ≠ block)) ++ [(block, source, s.tm.now)] } }.report 0xF 2 2
    (b1 block ++ b1 source)

/-- A supervisor domain reset (R707, R708): with PWR_DOMAIN_ESCALATE of them within 10 min the next is a WARM reset. The Ridge, the PWM and the
safety monitor run on; the TCM is cleared (R757). -/
def supervisorReset (source : Nat) (s : State) : State :=
  if !s.clocked || s.inReset 1 then s else
  let recent := s.pw.domainTimes.filter fun t => decide (s.tm.now < t + 600 * cyclesPerS)
  if s.parN P.PWR_DOMAIN_ESCALATE 0 ≤ recent.length then
    resetModule false (match source with | 1 => 7 | 2 => 8 | _ => 9) s
  else
    let s := domainAssert 1 source s
    { s.clearRange 0 0x80000 with pw := { s.pw with domainTimes := recent ++ [s.tm.now], ready := false, entry := none } }

/-- A command that the Ridge holds across a supervisor domain reset (R441): group 0x04, group 0x05, a pending live write, and a commit that is
armed or has flipped; a safety command stays with the monitor until its outcome is recorded. -/
def State.heldByRidge (s : State) (c : Cmd) : Bool :=
  let group := c.opcode / 256
  let own (x : CommitSt) : Bool := decide (x.slot = c.slot)
  let armed := (match s.rg.commit with | some x => own x && decide (x.phase = .armed) | none => false) ||
    (match s.rg.flipped with | some f => own f.commit | none => false)
  let commits := (match s.rg.commit with | some x => own x | none => false) || s.rg.waiting.any own
  let safety := decide (0x0601 ≤ c.opcode ∧ c.opcode ≤ 0x0606) &&
    !(s.sf.ledger.any fun (x : Nat × Nat × Nat × Option Nat) => decide (x.1 = c.session ∧ x.2.1 = c.seq) && x.2.2.2.isSome)
  armed || (!commits && (decide (group = 4 ∨ group = 5) || decide (c.opcode = 0x0203))) || safety

/-- An outcome kept in the Ridge's ring is journaled without a report (R441). -/
def journalDone (s : State) : State :=
  s.jn.done.foldl (fun s d => if (s.entry d.slot).state = 3 then s else s.complete d.slot d.outcome d.status d.detail d.result (some d.ns))
    { s with jn := { s.jn with done := [] } }

/-- The supervisor returns (R440, R441): the Ridge's completions journaled, the entries it had in hand given their outcomes, session keys gone. -/
def supervisorBack (source : Nat) (s : State) : State :=
  let held := s.jn.done.length
  let s := journalDone s
  let lost := s.jn.queue ++ s.jn.running.filter fun c => !s.heldByRidge c
  let kept := s.jn.running.filter s.heldByRidge
  let s := lost.foldl (fun s c => restartEntry c.slot s) s
  let gone (x : CommitSt) : Bool := decide (x.phase ≠ .armed)
  let s := { s with
    jn := { s.jn with
      queue := [], running := kept
      sessions := s.jn.sessions.map fun (x : Session) => { x with key := none, challenge := none, fails := 0 } }
    pm := { s.pm with sets := if s.rg.commit.any gone then s.pm.sets.filter (·.marked) else s.pm.sets }
    rg := { s.rg with commit := s.rg.commit.filter fun x => !gone x, waiting := [] }
    pw := { s.pw with ready := true } }
  (draftsReset s).report 1 3 9 (b1 source ++ b2 lost.length ++ b2 held)

/-- A REMOTE axis on drive exchange (`can` false) or on CAN that is enabled (R711). -/
def State.remoteEnabled (s : State) (can : Bool) : Bool :=
  (List.range s.axes).any fun a => decide (s.axisType a = 1 ∧ (s.axis a).mode ≠ .disabled) &&
    (decide (s.parN P.AX_REMOTE_LINK a ≠ 0) == can)

/-- Every output is at its safe state (R697, R711). -/
def State.outputsSafe (s : State) : Bool :=
  ((List.range 16).all fun n => s.fd.readback.testBit n == (!s.testSource n && decide (s.parN P.FIO_OUT_SAFE n = 1))) &&
    (List.range 4).all fun n => !(s.sout n).on

/-- The condition of a domain reset by command (R711). -/
def State.mayReset (s : State) (block : Nat) : Bool :=
  match block with
  | 1 | 0xA => true
  | 2 => !s.framesRun
  | 9 => !s.capRuns
  | 0xB => !s.remoteEnabled false
  | 0xC => !s.remoteEnabled true
  | 0xD => s.outputsSafe
  | _ => false

/-- A block other than the supervisor loses its state (R711, R712). -/
def blockClears (block : Nat) (s : State) : State :=
  match block with
  | 2 => { s with sp := [], rg := { s.rg with frame := 0, fresh := true, bankB := false } }
  | 9 => captureReset s
  | 0xA => { s with hp := {} }
  | 0xB => { s with eth := [], dx := {} }
  | 0xC => { (List.range 4).foldl (fun s n => canDrop n (.fail stCancelled) s) s with can := [] }
  | 0xD =>
    let slots := s.fd.writes.map (·.1)
    slots.foldl (fun s k => s.finish k (.fail stHwFault)) (fieldSilent s)
  | _ => s

/-- A domain reset by command takes place. -/
def domainReset (block : Nat) (s : State) : State :=
  if block = 1 then supervisorReset 1 s else domainAssert block 1 (blockClears block s)

/-- RESET_REQUEST (R438, R711): OK before the reset begins; the reset follows once the reply has left. -/
def cmdResetRequest (c : Cmd) (s : State) : Res × State :=
  let kind := fld c.args 0 1
  let block := fld c.args 1 1
  let due (k : Nat) : State := { s with pw := { s.pw with resetDue := some (k, block, decide (c.link = .host)) } }
  match kind with
  | 1 => (.ok, due 2)
  | 2 => if s.mayReset block then (.ok, due 3) else (.fail stWrongState, s)
  | _ => (.fail stParamRange, s)

/-- The reset asked for begins once its reply has left (R438, R711). -/
def resetWhenDue (s : State) : State :=
  match s.pw.resetDue with
  | none => s
  | some (kind, block, host) =>
    if s.jn.done ≠ [] || (host && (decide (s.hp.mbxOut ≠ []) || decide (s.hp.waiting ≠ []))) then s else
    let s := { s with pw := { s.pw with resetDue := none } }
    if kind = 2 then resetModule false 6 s else domainReset block s

/-- DOMAIN_RESET_RELEASE (R713): `deferred` cycles later than asked where the domain did not report clock-good. -/
def domainRelease (block deferred : Nat) (s : State) : State :=
  match s.pw.inReset.find? fun (e : Nat × Nat × Nat) => decide (e.1 = block) with
  | none => s
  | some (_, source, t) =>
    if s.tm.now < t + blockCycles block || !s.clocked then s else
    let s := { s with pw := { s.pw with inReset := s.pw.inReset.filter fun (e : Nat × Nat × Nat) => decide (e.1 ≠ block) } }
    let s := if deferred = 0 then s else s.report 0xF 1 3 (b1 block ++ b4 deferred)
    match block with
    | 1 => supervisorBack source s
    | 0xC => canWakeAll s
    | 0xD => fieldStart s
    | _ => s

/-! ### Supplies and pins (R721, R722, R737 to R741, R35) -/

/-- The supply warning is in force (R738). -/
def supplyWarned (vin : Nat) (s : State) : State :=
  { s with pw := { s.pw with warning := true, warnFrom := some s.tm.now, lowest := vin, pwrFail := true } }

/-- SUPPLY_WARNING (R738): PWR_FAIL_N low, the journals flushed, acceptance stopped. Its own record is filed as the warning begins, so that the flush
writes it with its data (DEDUCED, notes/assumptions/70.md). -/
def supplyWarning (vin : Nat) (s : State) : State :=
  if s.pw.warning then s
  else if s.pw.held || s.pw.state = .off then supplyWarned vin s
  else
    let s := supplyWarned vin ((s.irq 4).report 0xE 2 5 (b2 vin))
    countersSave { s with cn := { s.cn with flushFrom := some s.tm.now, flushed := 0 } }

/-- SUPPLY_DIP (R739): VIN_12 has stayed at or above 10.5 V for 5 ms. -/
def supplyDip (lowest : Nat) (s : State) : State :=
  match s.pw.warnFrom with
  | none => s
  | some t =>
    if s.tm.now < t + 5 * cyclesPerMs then s else
    let low := min lowest s.pw.lowest
    let s := { s with pw := { s.pw with warning := false, warnFrom := none, lowest := 0, pwrFail := s.pw.held } }
    if s.pw.held || s.pw.state = .off then s else
    (s.irq 4).report 0xE 2 6 (b2 low ++ b4 ((s.tm.now - t) / cyclesPerUs))

/-- VIN_RESET_LEVEL (R707, R737, R741): a WARM reset, with the hold-up measured from the warning. -/
def vinResetLevel (s : State) : State :=
  resetModule false 3 { s with pw := { s.pw with holdup := s.pw.warnFrom.map fun t => (s.tm.now - t) / cyclesPerUs } }

/-- SUPPLY_FAULT (R737): a WARM reset, held while the fault persists; recorded at the start. -/
def supplyFault (supply mv : Nat) (s : State) : State :=
  if supply = 0 ∨ 4 < supply ∨ s.pw.state = .off then s else
  resetModule false 4 { s with pw := { s.pw with owed := s.pw.owed ++ [(0xE, 3, 7, b1 supply ++ b2 mv)] } }

/-- VAON_BK_LOW (R707, R737): below 2.5 V while VIN_12 is absent, the always-on domain is lost and the next start is COLD. -/
def vaonLow (mv : Nat) (s : State) : State :=
  if 2500 ≤ mv || !((s.pw.held && decide (s.pw.resetSource = 3)) || decide (s.pw.state = .off)) then s else
  resetModule true 3 { s with pw := { s.pw with owed := s.pw.owed ++ [(0xE, 3, 7, b1 5 ++ b2 mv)] } }

/-- POWER_ON (R707): WARM with the always-on domain kept by VAON_BK, else COLD. -/
def powerOn (kept : Bool) (s : State) : State := if kept then resetModule false 2 s else resetModule true 1 s

/-- RESET_N low (R721, R722): pulses below 10 us are ignored. -/
def resetNLow (ns : Nat) (s : State) : State := if ns < 10000 then s else resetModule false 5 s

/-- STUCK_RESET (R721): RESET_N low for more than 10 s. -/
def stuckReset (seconds : Nat) (s : State) : State :=
  if !s.pw.held || s.pw.resetSource ≠ 5 || seconds ≤ 10 then s else
  { s with pw := { s.pw with stuck := some (min 65535 seconds) } }.driveFault 0

/-- PLL_LOCK_LOST (R35): stage outputs to high impedance, Ridge STOPPED, FAULT_N, a safety demand in all groups; recovery by a warm reset alone,
and the stop is recorded at the next start. -/
def pllLost (s : State) : State :=
  if !s.clocked then s else
  let front := s.cn.front
  let stopped := s.framesRun
  let s := stagesStop (ridgeStop 2 s)
  let s := { s with
    cn := { s.cn with front := front }
    pw := { s.pw with pllLost := true, owed := s.pw.owed ++ (if stopped then [(2, 1, 2, b1 2)] else []) } }
  smCause 16 (s.driveFault 2)

/-! ### Commands -/

/-- POWER_ON (R707). -/
def execPowerOn (dt : Nat) (alwaysOnKept : Bool) (s : State) : Out := .next (powerOn alwaysOnKept (s.elapse dt))
/-- VIN_RESET_LEVEL (R737). -/
def execVinResetLevel (dt : Nat) (s : State) : Out := .next (vinResetLevel (s.elapse dt))
/-- SUPPLY_FAULT (R737). -/
def execSupplyFault (dt supply mv : Nat) (s : State) : Out := .next (supplyFault supply mv (s.elapse dt))
/-- VAON_BK_LOW (R737). -/
def execVaonBkLow (dt mv : Nat) (s : State) : Out := .next (vaonLow mv (s.elapse dt))
/-- RESET_N_LOW (R721). -/
def execResetNLow (dt ns : Nat) (s : State) : Out := .next (resetNLow ns (s.elapse dt))
/-- STUCK_RESET (R721). -/
def execStuckReset (dt seconds : Nat) (s : State) : Out := .next (stuckReset seconds (s.elapse dt))
/-- START_SEQUENCE (R715). -/
def execStartSequence (dt : Nat) (boot : BootInputs) (s : State) : Out := .next (startSequence boot (s.elapse dt))
/-- SUPERVISOR_WATCHDOG (R708). -/
def execSupervisorWatchdog (dt : Nat) (s : State) : Out := .next (supervisorReset 2 (s.elapse dt))
/-- HEARTBEAT_DOMAIN_RESET (R707): the heartbeat unchanged for 100 ms. -/
def execHeartbeatDomainReset (dt : Nat) (s : State) : Out := .next (supervisorReset 3 (s.elapse dt))
/-- DOMAIN_RESET_RELEASE (R713). -/
def execDomainResetRelease (dt block deferred : Nat) (s : State) : Out := .next (domainRelease block deferred (s.elapse dt))
/-- SUPPLY_WARNING (R738). -/
def execSupplyWarning (dt vin : Nat) (s : State) : Out := .next (supplyWarning vin (s.elapse dt))
/-- SUPPLY_DIP (R739). -/
def execSupplyDip (dt lowest : Nat) (s : State) : Out := .next (supplyDip lowest (s.elapse dt))
/-- PLL_LOCK_LOST (R35). -/
def execPllLockLost (dt : Nat) (s : State) : Out := .next (pllLost (s.elapse dt))

end Sys2Proof.Machine
end

