-- ==== Sys2Proof/Machine/Spi.lean ====
section
/-!
DEFINITION. Sys2Proof/Machine/Spi.lean: the SPI host port (R605 to R624): frames, the reply words, the mailboxes and the supervisor's
taking of packets from MBX_IN.
-/
namespace Sys2Proof.Machine

/-- The check word over words (R609). -/
def checkWord (ws : List Nat) : Nat := crc16 (ws.flatMap fun w => be 4 w)

/-- One more error of kind `i` for HOST_FRAME_ERRORS: 0 aborted, 1 check, 2 sync, 3 underrun, 4 overrun (R647). -/
def hostError (i : Nat) (s : State) : State :=
  { s with hp := { s.hp with errors := (List.range 5).map fun k => s.hp.errors.getD k 0 + (if k = i then 1 else 0) } }

/-- `n` words removed from the head of MBX_OUT (R613); waiting reports move in. -/
def popOut : Nat → List (List Nat) → List (List Nat)
  | _, [] => []
  | 0, ps => ps
  | n + 1, p :: ps => match p with
    | [] => popOut n ps
    | [_] => popOut n ps
    | _ :: ws => popOut n (ws :: ps)

/-- The words that leave the module in a frame of N data words (R612, R616): the reply of frame n − 1, the status repeated first on an
underrun, zeros after it. -/
def HostSt.replyOf (h : HostSt) (underrun : Bool) (status n : Nat) : List (Nat × Bool) :=
  let r := if underrun ∧ h.reply ≠ [] then (status, false) :: h.reply else h.reply
  r.take n ++ List.replicate (n - r.length) (0, false)

/-- The address of word `i` of a frame (R608). -/
def frameAddr (header i : Nat) : Nat := header % 256 + (if header.testBit 22 then i else 0)

/-- The reads of a read frame (R611, R613, R615): `k` words of MBX_OUT_DATA have been read before. -/
def frameReads (header : Nat) (out : List Nat) : Nat → Nat → Nat → State → List (Nat × Bool) × State
  | 0, _, _, s => ([], s)
  | n + 1, i, k, s =>
    let a := frameAddr header i
    let (w, k, s) : (Nat × Bool) × Nat × State :=
      if 0x3F < a then ((0, false), k, s)
      else if a = 0x0A then match out[k]? with
        | some x => ((x, true), k + 1, s)
        | none => ((0, false), k, s)
      else ((s.hostReg a, false), k, hostLatch a s)
    let (ws, s) := frameReads header out n (i + 1) k s
    (w :: ws, s)

/-- The writes of a write frame in word order (R611, R615); `true` where PWR_REQ.WAKE was written. -/
def frameWrites (header : Nat) : List Nat → Nat → State → Bool × State
  | [], _, s => (false, s)
  | v :: vs, i, s =>
    let a := frameAddr header i
    let (w, s') := frameWrites header vs (i + 1) (if a ≤ 0x3F then hostWrite a v s else s)
    (w || (decide (a = 0x1C) && v.testBit 0), s')

/-- How many words of a frame of `n` data words go to MBX_IN_DATA (R617). -/
def mbxWords (header n : Nat) : Nat := ((List.range n).filter fun i => decide (frameAddr header i = 0x08)).length

/-- A frame ends at the release of the select (R608 to R617): `words` as the host sent them, `clocks` counted. An aborted or a refused
frame removes nothing from a mailbox (R610), even where it carried words out. `true` where the frame asked for RUN (R623). -/
def spiFrame (words : List Nat) (clocks : Nat) (underrun : Bool) (s : State) : Bool × State :=
  if !s.hostServed then (false, s) else
  let header := words.headD 0
  let n := header / 256 % 256 + 1
  let status := s.hp.frameSeq * 2 ^ 24 + s.hp.status
  let sent := s.hp.replyOf underrun status (clocks / 32 - 2)
  let line := status :: sent.map (·.1)
  let s := { s with hp := { s.hp with sdo := line ++ [checkWord line] } }
  let under := underrun && decide (s.hp.reply ≠ [])
  let s := if under then hostError 3 s else s
  let complete := decide (32 ≤ clocks ∧ clocks = 32 * (n + 2) ∧ words.length = n + 2)
  if !complete then
    (false, hostError 0 { s with hp := { s.hp with status := 2 + b2n under 6, reply := [] } })
  else
    let s := { s with hp := { s.hp with frameSeq := (s.hp.frameSeq + 1) % 256 } }
    let write := header.testBit 23
    let data := (words.drop 1).take n
    let syncBad := decide (header / 2 ^ 24 ≠ 0xA5 ∨ header / 2 ^ 16 % 2 ^ 6 ≠ 0)
    let checkBad := decide (words.getD (n + 1) 0 ≠ checkWord (words.take (n + 1)))
    if syncBad || checkBad then
      let s := if checkBad then hostError 1 s else s
      let s := if syncBad then hostError 2 s else s
      (false, { s with hp := { s.hp with status := b2n under 6 + b2n checkBad 3 + b2n syncBad 2 + b2n write, reply := [] } })
    else
      let taken := (sent.filter (·.2)).length
      let s := State.refill 64 { s with hp := { s.hp with mbxOut := popOut taken s.hp.mbxOut } }
      let excess := (List.range n).any fun i => decide (0x3F < frameAddr header i)
      let s := if excess then hostError 4 s else s
      let base := b2n under 6 + b2n excess 5
      if write then
        let k := mbxWords header n
        if k ≠ 0 ∧ 2048 < s.hp.mbxIn.length + k then
          (false, { s with hp := { s.hp with status := base + 2 ^ 4 + 1, reply := [] } })
        else
          let (wake, s) := frameWrites header data 0 s
          (wake, { s with hp := { s.hp with status := base + 1, reply := [] } })
      else
        let (ws, s) := frameReads header s.hp.mbxOut.flatten n 0 0 s
        (false, { s with hp := { s.hp with status := base + 2 ^ 7, reply := ws } })

/-! ### MBX_IN (R618) -/

/-- The bytes of words. -/
def wordsBytes (ws : List Nat) : List Nat := ws.flatMap (le 4)

/-- How many words the packet at the head takes by its LENGTH and AUTH flag (R391, R618). -/
def packetLen (ws : List Nat) : Nat :=
  let bs := wordsBytes (ws.take 4)
  (20 + fld bs 12 2 + (if (fld bs 3 1).testBit 0 then 16 else 0) + 3) / 4

/-- MBX_IN with `k` words fewer, with the flag MBX_IN_SPACE when its free words reach 1 024 (R622). -/
def mbxDrop (k : Nat) (s : State) : State :=
  let old := s.hp.mbxIn.length
  let s := { s with hp := { s.hp with mbxIn := s.hp.mbxIn.drop k } }
  let s := { s with hp := { s.hp with partialFrom := if s.hp.mbxIn = [] then none else some s.tm.now } }
  if 1024 < old ∧ s.hp.mbxIn.length ≤ 1024 then s.irq 1 else s

/-- Words up to one that begins with MAGIC (R618). -/
def badWords : List Nat → Nat
  | [] => 0
  | w :: ws => if w % 65536 = 0x5A57 then 0 else badWords ws + 1

/-- The supervisor discards words until it finds MAGIC (R618). -/
def mbxResync (s : State) : State :=
  let k := badWords s.hp.mbxIn
  if k = 0 ∨ !s.pw.ready then s else (mbxDrop k s).report 0xA 2 2 (b2 k)

/-- A partial packet has lain 100 ms (R618): it is discarded as words without MAGIC are. -/
def mbxPartial (s : State) : State :=
  match s.hp.partialFrom with
  | none => s
  | some c =>
    if s.tm.now < c + 100 * cyclesPerMs ∨ s.hp.mbxIn = [] ∨ !s.pw.ready then s else
    let k := 1 + badWords (s.hp.mbxIn.drop 1)
    (mbxDrop k s).report 0xA 2 2 (b2 k)

/-- The next whole packet of MBX_IN (R618), if its first word begins with MAGIC. -/
def mbxTake (s : State) : Option (List Nat) × State :=
  match s.hp.mbxIn with
  | [] => (none, s)
  | w :: _ =>
    let k := packetLen s.hp.mbxIn
    if !s.pw.ready ∨ w % 65536 ≠ 0x5A57 ∨ s.hp.mbxIn.length < 4 ∨ s.hp.mbxIn.length < k then (none, s)
    else (some (wordsBytes (s.hp.mbxIn.take k)), mbxDrop k s)

/-- A completion report that finds no room within 1 s is dropped (R619). Replies stay. -/
def reportDropped (s : State) : State :=
  match s.hp.waiting.find? fun e => decide (e.1 + cyclesPerS ≤ s.tm.now) && ((e.2.2.2.getD 3 0).testBit 4) with
  | none => s
  | some e => { s with hp := { s.hp with waiting := s.hp.waiting.erase e } }.report 0xA 2 3 (b2 e.2.1 ++ b4 e.2.2.1)

/-- HOST_REPORT_DROPPED (R619). -/
def execHostReportDropped (dt : Nat) (s : State) : Out := .next (reportDropped (s.elapse dt))

end Sys2Proof.Machine
end

