-- ==== Sys2Proof/Machine/PowerState.lean ====
section
/-!
DEFINITION. Sys2Proof/Machine/PowerState.lean: the power controller (R727 to R736, R643, R677, R758, R760): POWER_STATE with its entry handshake,
the entries, and the wakes.
-/
namespace Sys2Proof.Machine

/-! ### Entry (R729 to R733) -/

/-- A power state by the code of POWER_STATE. -/
def powerOf (n : Nat) : PowerState :=
  match n with
  | 0 => .run
  | 1 => .doze
  | 2 => .standby
  | _ => .off

/-- The blocks asked for an entry, in order (R730). -/
def entryBlocks (target : PowerState) : List Nat :=
  match target with
  | .doze => [9, 6, 3, 2]
  | _ => [9, 6, 3, 2, 0xC, 0xB, 0xD, 7, 8, 1, 0x10]

/-- The reason for which a block refuses in the present state (R730), if it has one. -/
def State.refuseReason (s : State) (e : EntrySt) (block : Nat) : Option Nat :=
  match block with
  | 9 => if s.capRuns then some 1
         else if e.target = .off ∧ ((List.range (s.parN P.CAP_SEGMENTS 0)).any fun k => decide (s.userSegs ≤ k) && (s.seg k).held) then some 8
         else none
  | 6 => if (List.range s.axes).any fun a => decide ((s.axis a).mode ≠ .disabled) then some 1 else none
  | 3 => if (List.range s.stages).any fun k => decide ((s.stage k).mode = .driving) then some 1 else none
  | 7 =>
    if (List.range 4).any fun g => decide ((s.group g).mode ≠ .sto ∧ (s.group g).mode ≠ .testing) then some 3
    else if (List.range 4).any fun n => (s.sout n).on then some 4
    else if ((List.range 4).any fun g => decide ((s.group g).mode = .testing)) || s.sf.brake.isSome then some 5
    else if s.sf.draft.isSome then some 6
    else none
  | 1 => if s.jn.running.any fun c => decide (c.slot ≠ e.slot) then some 7 else none
  | _ => none

/-- A CAN frame is in transmission (R672). -/
def State.canSending (s : State) : Bool := (List.range 4).any fun n => !(s.ctl n).idle

/-- The answer that counts (R730, R672): what the state shows of a block comes before what it says. -/
def State.answerOf (s : State) (e : EntrySt) (block : Nat) (a : BlockAnswer) : BlockAnswer :=
  match s.refuseReason e block with
  | some r => .refuse r
  | none => match a with
    | .ready => if block = 0xC && s.canSending then .delay 1000 else .ready
    | a => a

/-- The entry as rewritten. -/
def setEntry (e : Option EntrySt) (s : State) : State := { s with pw := { s.pw with entry := e } }

/-- Every record in the queues and open Scree entries written, the supervisor stopping for good (R733). -/
def flushQueues (s : State) : State :=
  let rs := s.cn.monQ ++ s.cn.monHeld ++ s.cn.front ++ s.cn.heldMarks ++ (screeOrder 256 s.cn.screes).map screeRecord
  rs.foldl writeOne { s with cn := { s.cn with monQ := [], monHeld := [], front := [], heldMarks := [], screes := [] } }

/-- The entry succeeds for the supervisor: recorded, completed with the stamp of entry, and reported before it stops (R733, R753). -/
def entryComplete (e : EntrySt) (s : State) : State :=
  let s := s.report 0xE 1 1 (b1 (powerCode e.target) ++ b1 (powerCode s.pw.state) ++ b2 e.session ++ b4 e.seq)
  let s := s.finish e.slot .ok
  if e.target = .doze then s else
  let s := State.reportAll (s.jn.done.length + 1) s
  if e.target = .off then flushQueues s else s

/-- What a block does after READY (R730, R732). -/
def blockStops (e : EntrySt) (block : Nat) (s : State) : State :=
  match block with
  | 2 => ridgeStop 1 s
  | 0xC => canStandby (decide (e.target = .standby)) s
  | 0xD => outRefresh { s with fd := { s.fd with safe := 0xFFFFF } }
  | 8 => { s with tm := { s.tm with coarseNs := some (s.busNs / 1000 * 1000) } }
  | 1 => entryComplete e s
  | _ => s

/-- What STANDBY leaves of the core domain (R36, R754, R758): the kept memories, the safety domain, the always-on domain and the designated
channels; COUNT, the calibration and the alignment are kept elsewhere (R187, R188, R222). -/
def coreLost (s : State) : State :=
  { fbStandby s with
    mem := Store.keep (fun a => decide (a < 0x20000000 ∨ (0x30000000 ≤ a ∧ a < 0x50000000))) s.mem
    st := Store.mapAll {} (fun (_ : Nat) (t : StageSt) => ({ calibrated := t.calibrated, count := t.count } : StageSt)) s.st
    mc := Store.mapAll {} (fun (_ : Nat) (x : MachineSt) => ({ aligned := x.aligned, aligned2 := x.aligned2 } : MachineSt)) s.mc
    md := [], ap := [], gp := [], sp := [], rm := [], ev := [], la := [], eth := [], dx := {}, hp := {}
    mm := { s.mm with latches := [], lost := [], lostAddrs := [] } }

/-- DOZE, STANDBY or OFF is entered (R727). -/
def enterState (e : EntrySt) (s : State) : State :=
  let s := setEntry none s
  match e.target with
  | .run => s
  | .doze => let s := entryComplete e s
             { s with pw := { s.pw with state := .doze } }
  | .standby => let s := coreLost (fieldSilent s)
                { s with pw := { s.pw with state := .standby, ready := false } }
  | .off => let s := { coreLost (fieldSilent s) with sf := (smRestart s).sf, fb := [], cp := {} }
            { s with pw := { s.pw with state := .off, ready := false, running := none } }

/-- The stopped blocks restarted in reverse order; what they gave up does not come back (R732). -/
def entryAbandon (e : EntrySt) (s : State) : State :=
  e.stopped.foldl (fun s b => if b = 0xC then canWakeAll s else s) (setEntry none s)

/-- The entry is refused by a block (R732, R753). -/
def entryRefused (e : EntrySt) (block reason : Nat) (s : State) : State :=
  ((entryAbandon e s).report 0xE 1 2 (b1 (powerCode e.target) ++ b1 block ++ b1 reason)).finish e.slot
    (.done 2 stRefused block 0 [block, reason])

/-- A block answers (R731): READY stops it, a fourth answer that is not READY counts as REFUSE 0x0A, one that comes after 1 ms as none. -/
def blockAnswer (a : BlockAnswer) (s : State) : State :=
  match s.pw.entry with
  | none => s
  | some e =>
    match e.blocks with
    | [] => s
    | b :: bs =>
      if e.retryAt.isSome || !s.clocked then s
      else if e.since + cyclesPerMs < s.tm.now then entryRefused e b 9 s
      else match s.answerOf e b a with
        | .refuse r => entryRefused e b r s
        | .delay us =>
          if 3 ≤ e.asked then entryRefused e b 0xA s
          else setEntry (some { e with asked := e.asked + 1, retryAt := some (s.tm.now + min us 10000 * cyclesPerUs) }) s
        | .ready =>
          let e := { e with blocks := bs, stopped := b :: e.stopped, asked := 0, since := s.tm.now }
          let s := blockStops e b (setEntry (some e) s)
          if bs = [] then enterState e s else s

/-- The delay that a block named is over, and it is asked again (R731). -/
def blockDelayOver (s : State) : State :=
  match s.pw.entry with
  | none => s
  | some e => match e.retryAt with
    | some t => if s.tm.now < t then s else setEntry (some { e with retryAt := none, since := s.tm.now }) s
    | none => s

/-- A block has not answered within 1 ms (R731). -/
def blockSilent (s : State) : State :=
  match s.pw.entry with
  | none => s
  | some e => match e.blocks with
    | b :: _ => if e.retryAt.isSome || decide (s.tm.now < e.since + cyclesPerMs) then s else entryRefused e b 9 s
    | [] => s

/-! ### Wakes (R728, R734 to R736) -/

/-- The states that a source wakes from (R728), with the parameter that enables it. -/
def State.wakes (s : State) (source : Nat) : Bool :=
  let doze := decide (s.pw.state = .doze)
  let standby := decide (s.pw.state = .standby)
  match source with
  | 1 | 2 => doze
  | 3 => standby && decide (s.parN P.HSP_WAKE_ON_SEL 0 = 1)
  | 4 => (doze || standby) && (List.range 2).any fun p => decide (s.parN P.ETH_WAKE_EN p = 1)
  | 5 => standby && (List.range 4).any fun n => decide ((s.ctl n).state = .sleep)
  | 6 => (doze || standby) && decide (s.parN P.PWR_WAKE_IN_MASK 0 ≠ 0)
  | 7 => (doze || standby || decide (s.pw.state = .off)) && decide (s.parN P.PWR_WAKE_TIME 0 ≠ 0xFFFF)
  | 8 => standby
  | _ => false

/-- A wake begins (R728, R734, R736): from OFF as a WARM start; a new set of tries no sooner than 1 s after the last try. No
wake begins during an entry handshake (DESIGN CHOICE, notes/assumptions/71.md). -/
def wakeBegin (source : Nat) (slot : Option Nat) (s : State) : State :=
  if s.pw.wake.isSome || s.pw.held || s.pw.entry.isSome || !s.wakes source then s else
  let due : Option Nat := match s.pw.lastTry with
    | some t => if s.tm.now < t + cyclesPerS then some (t + cyclesPerS) else none
    | none => none
  let w : WakeSt := { source := source, left := s.pw.state, step := 1, tries := 0, began := s.tm.now, stepFrom := s.tm.now
                      retryAt := if s.pw.state = .standby then due else none, slot := slot }
  if s.pw.state = .off then
    let s := resetModule false 0 s
    { s with pw := { s.pw with wake := some w } }
  else { s with pw := { s.pw with wake := some w } }

/-- POWER_STATE (R729, R730, R733, R438). -/
def cmdPowerState (c : Cmd) (s : State) : Res × State :=
  let n := fld c.args 0 1
  let target := powerOf n
  if 3 < n then (.fail stParamRange, s)
  else if target = s.pw.state then (.ok, s)
  else if s.pw.wake.isSome || s.pw.entry.isSome then (.fail stWrongState, s)
  else if n = 0 then (.pending, wakeBegin 1 (some c.slot) s)
  else (.pending, setEntry (some { slot := c.slot, session := c.session, seq := c.seq, target := target, blocks := entryBlocks target
                                   stopped := [], asked := 0, since := s.tm.now, retryAt := none }) s)

/-- RUN is reached (R734, R735): recorded, WAKE_DONE, and a POWER_STATE 0 completed. -/
def wakeDone (w : WakeSt) (s : State) : State :=
  let s := { s with pw := { s.pw with wake := none, state := .run } }
  let s := if w.left = .standby then
      let s := servoFree { s with tm := { s.tm with t := 0 } }
      let s := stepTo (s.tm.coarseNs.getD 0) 3 s
      let s := (List.range 16).foldl (fun s p => pinRefresh p s) (apwmStart (canWakeAll (fieldStart (fbWake s))))
      { s with pw := { s.pw with ready := true } }
    else outRefresh { s with fd := { s.fd with va := {}, vb := {} } }
  let s := (s.irq 6).report 0xE 1 3 (b1 w.source ++ b1 (powerCode w.left) ++ b4 ((s.tm.now - w.began) / cyclesPerUs))
  let s := wakeFailMoved s
  match w.slot with
  | some k => s.finish k .ok
  | none => s

/-- The kept regions of the scrubber's record as a mask, and their errors (R760). -/
def State.lostRegions (s : State) : Nat × Nat :=
  s.mm.lost.foldl (fun (x : Nat × Nat) e => (x.1 + 2 ^ e.1, x.2 + e.2)) (0, 0)

/-- A kept region cleared (R757, R760). -/
def clearRegion (k : Nat) (s : State) : State :=
  match k with
  | 0 => s.clearRange 0 0x80000
  | 1 => let s := s.clearRange commonsBase (commonsBase + 0x200000)
         { s with rg := { s.rg with tablesKept := false } }
  | 4 => { s.clearRange captureBase (captureBase + 0x200000) with cp := {} }
  | _ => s

/-- Step 5 of a wake (R734, R760): regions in the scrubber's record are cleared; without its TCM the module starts WARM. -/
def wakeCheck (w : WakeSt) (s : State) : State :=
  let (mask, count) := s.lostRegions
  if mask = 0 then s else
  let data := b2 mask ++ b4 count
  if mask.testBit 0 then
    let s := resetModule false 0 s
    { s with
      mm := { s.mm with lost := [], lostAddrs := [] }
      pw := { s.pw with wake := some w, owed := s.pw.owed ++ [(0x10, 2, 3, data)] } }
  else
    let s := s.mm.lost.foldl (fun s e => clearRegion e.1 s) s
    { s with mm := { s.mm with lost := [], lostAddrs := [] } }.report 0x10 2 3 data

/-- A wake step completes (R734); a wake from DOZE has one. -/
def wakeStepDone (s : State) : State :=
  match s.pw.wake with
  | none => s
  | some w =>
    if w.retryAt.isSome || s.pw.held then s
    else if w.left = .doze ∨ 6 ≤ w.step then wakeDone w s
    else
      let w' := { w with step := w.step + 1, stepFrom := s.tm.now }
      let s := { s with pw := { s.pw with wake := some w' } }
      if w.step = 5 then wakeCheck w' s else s

/-- The timeout of a wake step, in microseconds (R734). -/
def stepTimeout (step : Nat) : Nat :=
  match step with
  | 2 => 5000
  | 3 => 2000
  | 4 => 100
  | 5 => 3000
  | _ => 1000

/-- A wake step reaches its timeout (R736): a new try after 10 ms; after three the set has failed. -/
def wakeStepTimeout (s : State) : State :=
  match s.pw.wake with
  | none => s
  | some w =>
    if w.retryAt.isSome || s.pw.held || decide (w.left ≠ .standby ∨ w.step < 2 ∨ s.tm.now < w.stepFrom + stepTimeout w.step * cyclesPerUs) then s
    else if w.tries < 2 then
      { s with pw := { s.pw with wake := some { w with tries := w.tries + 1, retryAt := some (s.tm.now + 10 * cyclesPerMs) } } }
    else
      let sets := s.pw.wakeSets + 1
      { s with pw := { s.pw with wake := none, wakeSets := sets, wakeFail := some (w.step, 3, sets), lastTry := some s.tm.now } }.driveFault 1

/-- The controller tries again (R736). -/
def wakeRetry (s : State) : State :=
  match s.pw.wake with
  | none => s
  | some w => match w.retryAt with
    | some t => if s.tm.now < t then s else
      { s with pw := { s.pw with wake := some { w with step := if w.tries = 0 then 1 else 2, stepFrom := s.tm.now, retryAt := none } } }
    | none => s

/-- A wake source (R728, R623, R624); the select and the WAKE bit are recorded as the host's requests (R647). -/
def wakeSource (source : Nat) (s : State) : State :=
  if !s.wakes source || source = 1 || s.pw.wake.isSome || s.pw.entry.isSome || s.pw.held then s else
  let s := if source = 2 ∨ source = 3 then s.report 0xA 0 4 (b1 (source - 1)) else s
  wakeBegin source none s

/-- The minute of its TAI day that the coarse count, or T, shows. -/
def State.minuteOfDay (s : State) : Nat := s.reportNs.1 % dayNs / (60 * nsPerS)

/-- WAKE_TIME_REACHED (R728). -/
def wakeTime (s : State) : State := if s.minuteOfDay = s.parN P.PWR_WAKE_TIME 0 then wakeSource 7 s else s

/-- WAKE_FRAME (R643). -/
def wakeFrame (port destMac : Nat) (fcsOk : Bool) (payload : List Nat) (s : State) : State :=
  let hears := decide (s.pw.state = .standby) || (decide (s.pw.state = .doze) && s.portRuns port)
  if 2 ≤ port || !hears || s.parN P.ETH_WAKE_EN port ≠ 1 || !fcsOk || !decide (destMac = portMac port ∨ destMac = macBroadcast) ||
      payload.take 2 ≠ [1, 0x7F] || fld payload 2 8 ≠ Config.serial % 2 ^ 64 || fld payload 10 4 ≠ s.parN P.ETH_WAKE_CODE 0 ||
      fld payload 14 2 ≠ 0 || s.pw.wake.isSome || s.pw.entry.isSome || s.pw.held then s
  else wakeBegin 4 none (s.report 0xB 1 7 (b1 port))

/-- A wake frame of CAN_WAKE_MODE 2 (R677). -/
def State.canWakeMatch (s : State) (n ident : Nat) (data : List Nat) : Bool :=
  let im := s.parN P.CAN_WAKE_ID_MASK n
  let dm := s.parN P.CAN_WAKE_DATA_MASK n
  decide (ident &&& im = s.parN P.CAN_WAKE_ID n &&& im ∧ data.length = s.parN P.CAN_WAKE_DLC n ∧
    ofLe data &&& dm = s.parN P.CAN_WAKE_DATA n &&& dm)

/-- CAN_WAKE (R677): 1 dominant phase, 2 wake frame, 3 frame errors. -/
def canWake (n : Nat) (cause : CanWakeCause) (s : State) : State :=
  if 4 ≤ n || s.pw.state ≠ .standby || (s.ctl n).state ≠ .sleep || s.pw.wake.isSome || s.pw.held then s else
  let mode := s.parN P.CAN_WAKE_MODE n
  let code : Option Nat := match cause with
    | .dominant => if mode = 1 then some 1 else none
    | .frame ident data => if mode = 2 ∧ s.canWakeMatch n ident data then some 2 else if mode = 1 then some 1 else none
    | .frameErrors => if mode = 2 then some 3 else none
  match code with
  | none => s
  | some k => wakeBegin 5 none ((s.updCtl n fun c => { c with wakeSeen := true }).report 0xC 1 7 (b1 n ++ b1 k))

/-! ### Commands -/

/-- POWER_BLOCK_ANSWER (R731). -/
def execPowerBlockAnswer (dt : Nat) (answer : BlockAnswer) (s : State) : Out := .next (blockAnswer answer (s.elapse dt))
/-- POWER_BLOCK_DELAY_EXPIRED (R731). -/
def execPowerBlockDelayExpired (dt : Nat) (s : State) : Out := .next (blockDelayOver (s.elapse dt))
/-- POWER_BLOCK_NO_ANSWER (R731). -/
def execPowerBlockNoAnswer (dt : Nat) (s : State) : Out := .next (blockSilent (s.elapse dt))
/-- WAKE_SOURCE (R728). -/
def execWakeSource (dt source : Nat) (s : State) : Out := .next (wakeSource source (s.elapse dt))
/-- WAKE_STEP_DONE (R734). -/
def execWakeStepDone (dt : Nat) (s : State) : Out := .next (wakeStepDone (s.elapse dt))
/-- WAKE_STEP_TIMEOUT (R736). -/
def execWakeStepTimeout (dt : Nat) (s : State) : Out := .next (wakeStepTimeout (s.elapse dt))
/-- WAKE_RETRY (R736). -/
def execWakeRetry (dt : Nat) (s : State) : Out := .next (wakeRetry (s.elapse dt))
/-- WAKE_TIME_REACHED (R728). -/
def execWakeTimeReached (dt : Nat) (s : State) : Out := .next (wakeTime (s.elapse dt))
/-- WAKE_FRAME (R643). -/
def execWakeFrame (dt port destMac : Nat) (fcsOk : Bool) (payload : List Nat) (s : State) : Out :=
  .next (wakeFrame port destMac fcsOk payload (s.elapse dt))
/-- CAN_WAKE (R677). -/
def execCanWake (dt ctrl : Nat) (cause : CanWakeCause) (s : State) : Out := .next (canWake ctrl cause (s.elapse dt))

end Sys2Proof.Machine
end

