-- ==== Sys2Proof/Machine/Upkeep.lean ====
section
/-!
DEFINITION. Sys2Proof/Machine/Upkeep.lean: the debug port (R724 to R726), the ageing controller (R742 to R749), ECC and the scrubber (R755 to
R764), the counting records (R647, R662) and reports of blocks to the Cairn journal (R544, R561).
-/
namespace Sys2Proof.Machine

/-! ### Debug port (R724 to R726) -/

/-- The debug port rewritten. -/
def setDebug (d : DebugSt) (s : State) : State := { s with pw := { s.pw with dbg := d } }

/-- The tester reads a challenge within 10 min of the write of PWR_DEBUG_ALLOW (R725): 16 free bytes. -/
def debugChallenge (s : State) : State :=
  let d := s.pw.dbg
  match d.allowed with
  | none => s
  | some (t, _) =>
    if s.pw.mode ≠ .service || !s.clocked || decide (t + 600 * cyclesPerS < s.tm.now) || d.unlocked.isSome then s else
    let (c, s) := s.takeBytes 16
    setDebug { s.pw.dbg with challenge := some c } s

/-- The answer that unlocks (R725): the first 16 bytes of HMAC-SHA-256 over "DBG", the challenge and the serial number. -/
def State.debugAnswer (s : State) (c : List Nat) : List Nat :=
  (hmac s.kDev ([0x44, 0x42, 0x47] ++ c ++ le 8 (Config.serial % 2 ^ 64))).take 16

/-- The tester writes an answer (R725, R750): the third wrong one voids the challenge until PWR_DEBUG_ALLOW is written again. -/
def debugTry (answer : List Nat) (s : State) : State :=
  let d := s.pw.dbg
  match d.allowed, d.challenge with
  | some (t, session), some c =>
    if s.pw.mode ≠ .service || !s.clocked || decide (t + 600 * cyclesPerS < s.tm.now) then s
    else if answer = s.debugAnswer c then
      (setDebug { d with unlocked := some s.tm.now, challenge := none, wrong := 0 } s).report 0xF 2 9 (b2 session ++ b1 (modeCode s.pw.mode))
    else if 2 ≤ d.wrong then setDebug { d with allowed := none, challenge := none, wrong := 0 } s
    else setDebug { d with wrong := d.wrong + 1 } s
  | _, _ => s

/-- The port locks 8 h after the unlock (R725). -/
def debugExpire (s : State) : State :=
  match s.pw.dbg.unlocked with
  | some t => if s.tm.now < t + 8 * 3600 * cyclesPerS then s else debugLock 2 s
  | none => s

/-- EXTEST, CLAMP and debug access are available in the present service mode (R724). -/
def State.debugOpen (s : State) : Bool := decide (s.pw.mode ≠ .service) || s.pw.dbg.unlocked.isSome

/-- The Ridge is STOPPED and every group in STO with GD_EN off (R726). -/
def State.scanSafe (s : State) : Bool :=
  !s.framesRun && (List.range 4).all fun g => decide ((s.group g).mode = .sto) && !(s.group g).gdEn

/-- The code of an instruction that acts: 0 BYPASS, 1 IDCODE, 2 SAMPLE/PRELOAD, 3 EXTEST, 4 CLAMP, 5 debug access. -/
def State.debugActs (s : State) (i : DebugIns) : Nat :=
  match i with
  | .bypass => 0
  | .idcode => 1
  | .sample => 2
  | .extest => if s.debugOpen && s.scanSafe then 3 else 0
  | .clamp => if s.debugOpen && s.scanSafe then 4 else 0
  | .debugAccess => if s.debugOpen then 5 else 0

/-- An instruction is loaded; one that is not available acts as BYPASS (R724, R726). -/
def debugInstruction (i : DebugIns) (s : State) : State := setDebug { s.pw.dbg with instruction := s.debugActs i } s

/-! ### Core voltage (R742, R743) -/

/-- A spur in service (R743). -/
def State.spurServes (s : State) (k : Nat) : Bool := decide (k < s.spurs) && !s.rg.retired.testBit k

/-- The least slack among the spurs in service. -/
def State.leastSlack (s : State) : Option Int :=
  ((List.range 8).filter s.spurServes).foldl (fun (m : Option Int) k =>
    let x := s.ag.slack.getD k 0
    match m with | some y => some (min x y) | none => some x) none

/-- A slack measurement of CPR_0 to CPR_7 (R743). -/
def slackMeasure (slack : List Int) (s : State) : State :=
  if !s.clocked then s else
  let s := { s with ag := { s.ag with slack := gen (fun i => slack.getD i 0) 8 } }
  let target : Int := s.parN P.AGE_SLACK_TARGET 0
  match s.leastSlack with
  | none => s
  | some x =>
    if x < target then
      { s with ag := { s.ag with voltage := min 900 (s.ag.voltage + 5), highFrom := none } }
    else if x ≤ target + 20 then { s with ag := { s.ag with highFrom := none } }
    else
      let from_ := s.ag.highFrom.getD s.tm.now
      if from_ + 24 * 3600 * cyclesPerS ≤ s.tm.now ∧ !s.ag.heldMax then
        { s with ag := { s.ag with voltage := max 750 (s.ag.voltage - 5), highFrom := some s.tm.now } }
      else { s with ag := { s.ag with highFrom := some from_ } }

/-! ### Reserves (R744 to R748) -/

/-- An element in service (R744). -/
def State.elementServes (s : State) (e : Nat) : Bool := decide (e < 14) && (decide (8 ≤ e) || s.spurServes e)

/-- The reserve of an element in a band (R744); a first value at 0.90 V leaves it open: a free value. -/
def State.bandReserve (s : State) (b e : Nat) : Option Nat :=
  match Store.read none s.ag.need (b * 16 + e), Store.read none s.ag.first (b * 16 + e) with
  | some v, some f =>
    if f = 900 then some (Config.freeNat (900 + v) % 101) else
    some (clampI 0 255 ((100 * (900 - (v : Int)) : Rat) / (900 - (f : Int)) : Rat).floor).toNat
  | _, _ => none

/-- The reserve of an element: its lowest in any band; 100 with no recorded value. -/
def State.elementReserve (s : State) (e : Nat) : Nat :=
  ((List.range 4).filterMap fun b => s.bandReserve b e).foldl (fun (m : Option Nat) r =>
    match m with | some y => some (min r y) | none => some r) none |>.getD 100

/-- The module reserve and the weakest element (R744). -/
def State.moduleReserve (s : State) : Nat × Nat :=
  ((List.range 14).filter s.elementServes).foldl (fun (m : Nat × Nat) e =>
    let r := s.elementReserve e
    if r < m.1 then (r, e) else m) (256, 0) |> fun m => if m.1 = 256 then (100, 0) else m

/-- The measured needs recorded for a band (R744). -/
def needsTake (need : List (Nat × Nat)) (s : State) : State :=
  need.foldl (fun s x =>
    if !s.elementServes x.1 then s else
    let key := s.ag.band * 16 + x.1
    { s with ag := { s.ag with
      need := Store.write none s.ag.need key (some x.2)
      first := if (Store.read none s.ag.first key).isSome then s.ag.first else Store.write none s.ag.first key (some x.2) } }) s

/-- The reserve of the present day (R745): one per day, for the last AGE_TREND_DAYS days. -/
def dayTake (s : State) : State :=
  let days := s.ag.daily.filter fun d => decide (d.2 / dayNs ≠ s.busNs / dayNs)
  let days := days ++ [(s.ag.reserve, s.busNs)]
  { s with ag := { s.ag with daily := days.drop (days.length - s.parN P.AGE_TREND_DAYS 0) } }

/-- Slope (per ns) and mean point of the least-squares line through the daily reserves (R748); none with fewer than two days. -/
def AgeingSt.line (g : AgeingSt) : Option (Rat × Rat × Rat) :=
  let n : Rat := g.daily.length
  let tm := (g.daily.foldl (fun (x : Rat) d => x + (d.2 : Rat)) 0) / max 1 n
  let rm := (g.daily.foldl (fun (x : Rat) d => x + (d.1 : Rat)) 0) / max 1 n
  let sxy := g.daily.foldl (fun (x : Rat) d => x + ((d.2 : Rat) - tm) * ((d.1 : Rat) - rm)) 0
  let sxx := g.daily.foldl (fun (x : Rat) d => x + ((d.2 : Rat) - tm) * ((d.2 : Rat) - tm)) 0
  if sxx = 0 then none else some (sxy / sxx, tm, rm)

/-- The expected exhaustion date in ns (R748). -/
def AgeingSt.exhaustion (g : AgeingSt) : Option Nat :=
  match g.line with
  | some (b, tm, rm) => if g.daily.length < 30 ∨ 0 ≤ b then none else some (tm - rm / b).floor.toNat
  | none => none

/-- The trend in 0.01 % per year of 365.25 days (R749). -/
def AgeingSt.trend (g : AgeingSt) : Int :=
  match g.line with
  | some (b, _, _) => satI 16 (roundRat (b * 100 * 31557600 * nsPerS))
  | none => 0

/-- Retirement of spur `k` is possible (R746, R747). -/
def State.mayRetire (s : State) (k : Nat) : Bool :=
  decide (k < 8) && s.hasVariant k && decide (s.parN P.AGE_RETIRE 0 = 1) &&
    (List.range 8).all fun j => decide (j = k) || !s.spurOut j

/-- What a re-plan does at the module reserve (R746); notices once per crossing. -/
def reserveActs (s : State) : State :=
  let r := s.ag.reserve
  let w := s.ag.weakest
  let had (b : Nat) : Bool := s.ag.flags.testBit b
  let now (b n : Nat) (f : Nat) : Nat := setBitN f b (decide (r ≤ n))
  let before := s.ag.flags
  let s := { s with ag := { s.ag with flags := now 1 10 (now 0 25 before) } }
  let s := if r ≤ 25 ∧ !had 0 then s.report 0x11 1 2 (b1 r ++ b1 w) else s
  let s := if r ≤ 10 ∧ !had 1 then
      s.report 0x11 2 3 (b1 r ++ b1 w ++ b4 (match s.ag.exhaustion with | some n => n / nsPerS % 2 ^ 32 | none => 0xFFFFFFFF)) else s
  if r ≠ 0 then { s with ag := { s.ag with flags := setBitN s.ag.flags 2 false, heldMax := false } }
  else if s.mayRetire w then
    if s.rg.retireReq.any fun e => decide (e.1 = w) then s else
    { s with rg := { s.rg with retireReq := s.rg.retireReq ++ [(w, s.tm.now + 24 * 3600 * cyclesPerS)] } }.report 0x11 2 5
      (b1 w ++ leI 2 (satI 16 (s.ag.slack.getD w 0)))
  else
    let told := s.ag.flags.testBit 2
    let s := { s with ag := { s.ag with voltage := 900, heldMax := true, flags := setBitN s.ag.flags 2 true } }
    if told then s else s.report 0x11 3 4 (b1 w ++ b2 s.ag.voltage)

/-- A re-plan with the voltages that the elements need, in mV (R744 to R746). -/
def replan (need : List (Nat × Nat)) (s : State) : State :=
  if !s.clocked then s else
  let s := needsTake need s
  let (r, w) := s.moduleReserve
  let s := dayTake { s with ag := { s.ag with reserve := r, weakest := w, lastPlan := some s.busNs } }
  reserveActs (s.report 0x11 0 1 (b1 r ++ b1 w ++ b2 s.ag.voltage ++ b1 s.ag.band))

/-- The case temperature crosses into another band (R745). -/
def bandCross (band : Nat) (need : List (Nat × Nat)) (s : State) : State :=
  if 4 ≤ band ∨ band = s.ag.band ∨ !s.clocked then s else replan need { s with ag := { s.ag with band := band } }

/-! ### AGEING_REPORT (R749) -/

/-- Section 0. -/
def State.ageingSummary (s : State) : List Nat :=
  let g := s.ag
  [min 255 g.reserve, g.weakest] ++ le 2 g.voltage ++ stampOpt g.exhaustion ++ leI 2 g.trend ++ [g.band, g.flags] ++
    gen s.elementReserve 14 ++ (gen (fun k => leI 2 (satI 16 (g.slack.getD k 0))) 8).flatten ++ leI 4 (satI 32 g.drift) ++
    leI 4 (satI 32 (g.firstDrift.getD 0)) ++ [s.rg.retired % 256, 0] ++ stampOpt g.lastPlan ++
    le 4 (g.runCycles / (3600 * cyclesPerS))

/-- The wear of a 4 KB sector: the writes of its most-written line in 0.01 % of 10⁹. -/
def State.sectorWear (s : State) (k : Nat) : Nat :=
  satN 16 (((s.mm.wear.filter fun e => decide (e.1 / 64 = k)).foldl (fun (m : Nat) e => max m e.2) 0) / 100000)

/-- Section 2: switchings and faults of OUT_0 to OUT_15 and SOUT_0 to SOUT_3. -/
def State.ageingCounters (s : State) : List Nat :=
  (gen (fun n => le 4 (Store.read 0 s.fd.switched n) ++ le 4 (Store.read 0 s.fd.faults n)) 20).flatten

/-- AGEING_REPORT (R749). Sectors beyond the last one, and what does not fit the link, are not returned. -/
def cmdAgeingReport (c : Cmd) (s : State) : Res × State :=
  match fld c.args 0 1 with
  | 0 => (.ok s.ageingSummary, s)
  | 1 =>
    let first := fld c.args 1 2
    let n := fld c.args 3 2
    if 2047 < first ∨ 1024 < n then (.fail stParamRange, s) else
    let n := min (min n (2048 - first)) (replyRoom c.link (s.session c.session) / 2)
    (.ok (gen (fun i => le 2 (s.sectorWear (first + i))) n).flatten, s)
  | 2 => (.ok s.ageingCounters, s)
  | _ => (.fail stParamRange, s)

/-! ### Memories (R755 to R764) -/

/-- The code of a reader in MEM_ECC_UNCORRECTABLE (DESIGN CHOICE, notes/assumptions/73.md). -/
def readerCode : MemReader → Nat
  | .scrubber => 0
  | .supervisor => 1
  | .dma => 2
  | .capture => 3
  | .captureRead => 4
  | .monitor => 5
  | .spur k => 8 + k

/-- The bank of an MRAM address (R761). -/
def mramBank (a : Nat) : Nat :=
  if a < 0x40180000 then 0
  else if a < 0x40300000 then 1
  else if a < 0x40380000 then 0
  else if a < 0x40400000 then 1
  else if a < 0x40440000 then 0
  else if a < 0x40480000 then 1
  else if a < 0x40500000 then 0
  else if a < 0x40580000 then 1
  else if a < 0x40680000 then 0
  else if a < 0x40780000 then 1
  else if a < 0x407A0000 then 0
  else if a < 0x407C0000 then 1
  else if a < 0x407E0000 then 0 else 1

/-- A bank fails (R417, R764): the journal and the ring go on in the other. -/
def bankFails (bank count a : Nat) (s : State) : State :=
  if s.mm.bankFailed.testBit bank then s else
  let ring := Store.keep (fun k => decide ((k < 32768) ↔ bank = 1)) s.cn.ring
  let s := { s with
    mm := { s.mm with bankFailed := setBitN s.mm.bankFailed bank true }
    cn := { s.cn with ring := ring }
    jn := { s.jn with fail0 := s.jn.fail0 || decide (bank = 0), fail1 := s.jn.fail1 || decide (bank = 1) } }
  let s := s.report 0x10 3 4 (b1 bank ++ b4 count)
  if 0x40480000 ≤ a ∧ a < 0x40580000 then s.report 1 3 7 (b1 bank ++ b2 (a % 0x80000 / 64)) else s

/-- An uncorrectable error in MRAM: the seventeenth address of a bank within 24 h fails it (R764). -/
def mramError (a : Nat) (s : State) : State :=
  let bank := mramBank a
  let errs := (s.mm.mramErrs.filter fun (e : Nat × Nat × Nat) => decide (s.tm.now < e.2.2 + 24 * 3600 * cyclesPerS ∧ e.2.1 ≠ a)) ++ [(bank, a, s.tm.now)]
  let n := (errs.filter fun (e : Nat × Nat × Nat) => decide (e.1 = bank)).length
  let s := { s with mm := { s.mm with mramErrs := errs } }
  if 16 < n then bankFails bank n a s else s

/-- The effects of an uncorrectable error by its reader (R756, R760). -/
def eccEffect (region a : Nat) (reader : MemReader) (s : State) : State :=
  let s := if region = 8 then mramError a s else s
  match reader with
  | .spur k => spurFails k 5 s.frameCycle s
  | .supervisor => supervisorReset 2 s
  | .monitor => if region = 7 then monitorFault 2 a s else s
  | .capture => { s with cp := { s.cp with block := { s.cp.block with flags := s.cp.block.flags ||| 1 } } }
  | .captureRead => { s with mm := { s.mm with capBad := s.mm.capBad ++ [a] } }
  | .dma => s
  | .scrubber =>
    if s.pw.state ≠ .standby ∨ !decide (region = 0 ∨ region = 1 ∨ region = 4) then s else
    { s with mm := { s.mm with
      lost := Store.upd 0 s.mm.lost region fun n => n + 1
      lostAddrs := if s.mm.lostAddrs.length < 16 then s.mm.lostAddrs ++ [a] else s.mm.lostAddrs } }

/-- A word read with its ECC (R755, R756, R759): a correctable error is corrected, counted and recorded, an uncorrectable one recorded with its
effects. -/
def eccRead (region a : Nat) (result : EccResult) (reader : MemReader) (s : State) : State :=
  if 8 < region || s.pw.state = .off || s.pw.held then s else
  match result with
  | .clean => s
  | .corrected =>
    let s := eccCount region s
    s.report 0x10 0 1 (b1 region ++ b4 a ++ b4 (Store.read 0 s.mm.corrected region))
  | .uncorrectable => eccEffect region a reader (s.report 0x10 3 2 (b1 region ++ b4 a ++ b1 (readerCode reader)))

/-! ### Counting records and reports (R544, R561, R647, R662) -/

/-- COUNTING_RECORD: each counting record whose counts are not 0, at most once per second. -/
def countingRecord (s : State) : State :=
  let early := match s.hp.countedAt with | some t => decide (s.tm.now < t + cyclesPerS) | none => false
  if early || !s.clocked then s else
  let s := if s.hp.errors.any fun n => decide (n ≠ 0) then
      { s with hp := { s.hp with errors := [0, 0, 0, 0, 0] } }.report 0xA 1 1 (s.hp.errors.flatMap fun n => b2 (satN 16 n)) else s
  let s := (List.range 2).foldl (fun s p =>
    let e := s.port p
    if e.fcsErrors = 0 ∧ e.discarded = 0 then s else
    (s.updPort p fun e => { e with fcsErrors := 0, discarded := 0 }).report 0xB 1 8 (b1 p ++ b4 e.fcsErrors ++ b4 e.discarded)) s
  let s := (List.range 4).foldl (fun s n =>
    let c := s.ctl n
    if c.rxLost = c.rxLostTold then s else
    (s.updCtl n fun c => { c with rxLostTold := c.rxLost }).report 0xC 2 5 (b1 n ++ b4 c.rxLost)) s
  { s with hp := { s.hp with countedAt := some s.tm.now } }

/-- CAIRN_REPORT (R544, R561): a block's report, its compact stamps moved by the steps since they were taken. Severity 4 is the safety monitor's
alone and goes to its queue (R560). -/
def cairnReport (r : CairnRep) (s : State) : State :=
  if s.pw.held || s.pw.state = .off then s else
  let data := moveCompacts (stepsSince s 256 (r.epoch % 256)) r.compacts (padTo 12 r.data)
  if r.source = 7 ∧ r.level = 4 then monReport 4 r.code data s
  else if 4 ≤ r.level then s
  else s.report (r.source % 256) r.level (r.code % 2 ^ 16) data

/-! ### Commands -/

/-- DEBUG_CHALLENGE_READ (R725). -/
def execDebugChallengeRead (dt : Nat) (s : State) : Out := .next (debugChallenge (s.elapse dt))
/-- DEBUG_UNLOCK_ANSWER (R725). -/
def execDebugUnlockAnswer (dt : Nat) (answer : List Nat) (s : State) : Out := .next (debugTry answer (s.elapse dt))
/-- DEBUG_UNLOCK_TIMEOUT (R725). -/
def execDebugUnlockTimeout (dt : Nat) (s : State) : Out := .next (debugExpire (s.elapse dt))
/-- DEBUG_PORT_INSTRUCTION (R724). -/
def execDebugPortInstruction (dt : Nat) (ins : DebugIns) (s : State) : Out := .next (debugInstruction ins (s.elapse dt))
/-- AGEING_SLACK_MEASURE (R743). -/
def execAgeingSlackMeasure (dt : Nat) (slack : List Int) (s : State) : Out := .next (slackMeasure slack (s.elapse dt))
/-- AGEING_REPLAN (R746). -/
def execAgeingReplan (dt : Nat) (need : List (Nat × Nat)) (s : State) : Out := .next (replan need (s.elapse dt))
/-- TEMPERATURE_BAND_CROSSING (R745). -/
def execTemperatureBandCrossing (dt band : Nat) (need : List (Nat × Nat)) (s : State) : Out := .next (bandCross band need (s.elapse dt))
/-- SCRUB_TICK (R759). -/
def execScrubTick (dt region addr : Nat) (result : EccResult) (reader : MemReader) (s : State) : Out :=
  .next (eccRead region addr result reader (s.elapse dt))
/-- COUNTING_RECORD (R647). -/
def execCountingRecord (dt : Nat) (s : State) : Out := .next (countingRecord (s.elapse dt))
/-- CAIRN_REPORT (R561). -/
def execCairnReport (dt : Nat) (rep : CairnRep) (s : State) : Out := .next (cairnReport rep (s.elapse dt))

end Sys2Proof.Machine
end

