-- ==== Sys2Proof/Machine/Receive.lean ====
section
/-!
DEFINITION. Sys2Proof/Machine/Receive.lean: the receipt of a command packet (R391 to R411): the opcode tables, the checks of R398, session
control, queries, acceptance, the start of accepted commands, and packets as bytes on a link.
-/
namespace Sys2Proof.Machine

/-! ### The opcode tables (R393, R410, R432 to R438) -/

/-- Query, session control or sequenced (R410). -/
inductive OpKind where
  | query | control | sequenced
deriving DecidableEq, Repr

/-- The row of an opcode: its kind, the target kinds it takes, and the least and greatest LENGTH without a start stamp. -/
def opRow (op : Nat) : Option (OpKind × List Nat × Nat × Nat) :=
  match op / 256, op % 256 with
  | 1, 0 => some (.control, [0], 4, 4)
  | 1, 1 => some (.control, [0], 0, 0)
  | 1, 2 => some (.control, [0], 5, 5)
  | 1, 3 => some (.control, [0], 4, 4)
  | 1, 4 => some (.query, [0], 0, 64)
  | 1, 5 => some (.control, [0], 32, 32)
  | 2, 0 => some (.query, [0], 0, 0)
  | 2, 1 => some (.query, [0, 1, 2, 3, 4, 5, 7], 0, 0)
  | 2, 2 => some (.query, [0], 5, 5)
  | 2, 3 => some (.sequenced, [0], 12, 12)
  | 2, 4 => some (.query, [0], 4, 4)
  | 3, 0 => some (.sequenced, [0xA], 0, 0)
  | 3, 1 => some (.sequenced, [0xA], 14, 3074)
  | 3, 2 => some (.sequenced, [0xA], 0, 0)
  | 3, 3 => some (.sequenced, [0xA], 2, 12)
  | 3, 4 => some (.sequenced, [0xA], 0, 0)
  | 3, 5 => some (.query, [0xA], 4, 4)
  | 4, 0 => some (.sequenced, [2], 0, 0)
  | 4, 1 => some (.sequenced, [2], 0, 0)
  | 4, 2 => some (.sequenced, [3], 1, 1)
  | 4, 3 => some (.sequenced, [2], 0, 0)
  | 5, 0 => some (.sequenced, [1], 4, 4)
  | 5, 1 => some (.sequenced, [1], 0, 0)
  | 5, 2 => some (.sequenced, [1], 8, 8)
  | 5, 3 => some (.sequenced, [1], 8, 8)
  | 5, 4 => some (.sequenced, [1], 4, 4)
  | 5, 5 => some (.sequenced, [1], 8, 8)
  | 5, 6 => some (.sequenced, [1], 16, 16)
  | 5, 7 => some (.sequenced, [1], 1, 1)
  | 5, 8 => some (.sequenced, [1], 0, 0)
  | 5, 9 => some (.sequenced, [6], 16, 4076)
  | 5, 10 => some (.sequenced, [6], 0, 0)
  | 5, 11 => some (.sequenced, [1], 1, 1)
  | 5, 12 => some (.sequenced, [1], 1, 1)
  | 5, 13 => some (.sequenced, [0], 6, 518)
  | 5, 14 => some (.sequenced, [4], 8, 128)
  | 5, 15 => some (.sequenced, [5], 2, 2)
  | 6, 0 => some (.query, [0, 7], 0, 0)
  | 6, 1 => some (.sequenced, [0, 7], 1, 1)
  | 6, 2 => some (.sequenced, [0, 7], 0, 0)
  | 6, 3 => some (.sequenced, [0, 7], 14, 3074)
  | 6, 4 => some (.sequenced, [0, 7], 0, 0)
  | 6, 5 => some (.sequenced, [0, 7], 4, 4)
  | 6, 6 => some (.sequenced, [0, 7], 8, 8)
  | 7, 0 => some (.query, [0], 5, 5)
  | 7, 1 => some (.sequenced, [0], 14, 14)
  | 7, 2 => some (.query, [0], 0, 0)
  | 7, 3 => some (.sequenced, [0], 10, 10)
  | 7, 0x10 => some (.sequenced, [0], 194, 194)
  | 7, 0x11 => some (.sequenced, [0], 6, 6)
  | 7, 0x12 => some (.query, [0], 8, 8)
  | 7, 0x13 => some (.query, [0], 0, 0)
  | 8, 0 => some (.sequenced, [0], 1, 1)
  | 8, 1 => some (.sequenced, [0], 2, 2)
  | 8, 2 => some (.query, [0], 1, 5)
  | 9, 0 => some (.sequenced, [9], 4, 4)
  | 9, 1 => some (.sequenced, [9], 4, 4076)
  | 9, 2 => some (.sequenced, [9], 0, 0)
  | 9, 3 => some (.sequenced, [9], 0, 0)
  | 9, 4 => some (.query, [0], 0, 0)
  | 10, 0 => some (.query, [0], 0, 0)
  | 10, 1 => some (.sequenced, [0], 4, 6)
  | 10, 2 => some (.sequenced, [8], 12, 76)
  | 10, 3 => some (.sequenced, [8], 1, 1)
  | 10, 4 => some (.sequenced, [8], 1, 1)
  | _, _ => none

/-- The payload has a shape that its opcode has (R279, R369, R424, R667, R692, R749, R808). -/
def shapeOk (op : Nat) (a : List Nat) : Bool :=
  match op / 256, op % 256 with
  | 3, 1 => decide (1 ≤ fld a 0 2 ∧ fld a 0 2 ≤ 256 ∧ a.length = 2 + 12 * fld a 0 2)
  | 6, 3 => decide (1 ≤ fld a 0 2 ∧ fld a 0 2 ≤ 256 ∧ a.length = 2 + 12 * fld a 0 2)
  | 3, 3 => decide (a.length = 2 ∨ a.length = 12)
  | 5, 9 => decide (a.length % 4 = 0)
  | 5, 13 => decide (a.length = 6 + (if fld a 1 1 = 4 then 2 * fld a 4 2 else 0))
  | 5, 14 => decide (a.length % 8 = 0)
  | 8, 2 => decide (a.length = if fld a 0 1 = 1 then 5 else 1)
  | 10, 1 => decide (a.length = 4 ∨ a.length = 6)
  | 10, 2 => decide (a.length = 12 + fld a 6 1)
  | _, _ => true

/-- The kind of a packet: GET_STATUS of a latch is sequenced, because it removes captures (R410). -/
def Packet.kind (p : Packet) (k : OpKind) : OpKind :=
  if p.opcode = 0x201 ∧ p.target / 4096 = 5 then .sequenced else k

/-- The instance that TARGET names exists in the part (R1, R76, R156, R393, R423, R718). -/
def State.present (s : State) (op target : Nat) : Bool :=
  let i := target % 4096
  match target / 4096 with
  | 0 => decide (i = 0)
  | 1 => decide (i < s.axes)
  | 2 => decide (i < s.stages)
  | 3 => decide (i < s.machines)
  | 4 => decide (i < s.channels)
  | 5 => decide (i < 8)
  | 6 => decide (i < 4)
  | 7 => decide (i < (s.stages + 5) / 6)
  | 8 => decide (i < 4)
  | 9 => decide (i < 4) || (decide (i = 0x100 ∨ i = 0x101) && decide (op ≤ 0x903))
  | 0xA => decide (i < 4) || (decide (i = 0xFFF) && decide (op = 0x300))
  | _ => false

/-- TIMED is set, and the payload begins with a full start stamp (R392). -/
def Packet.timed (p : Packet) : Bool := p.flags.testBit 2

/-- The payload after the start stamp. -/
def Packet.args (p : Packet) : List Nat := if p.timed then p.payload.drop 10 else p.payload

/-- Step 4 of R398: the DETAIL of the first check that fails, in the order in which the rule lists them. -/
def State.headerCheck (s : State) (p : Packet) : Option Nat :=
  if p.version ≠ 1 then some 2
  else if 8 ≤ p.flags % 256 then some 3
  else match opRow p.opcode with
  | none => some 1
  | some (k, kinds, lo, hi) =>
    let k := p.kind k
    let q := p.flags.testBit 1
    let n := p.args.length
    if !kinds.contains (p.target / 4096) || (decide (p.opcode / 256 = 1) && decide (p.target ≠ 0)) then some 4
    else if !s.present p.opcode p.target then some 5
    else if (q && decide (k ≠ .query)) || (!q && decide (k = .query ∧ p.session = 0)) then some 6
    else if p.timed && !decide (0x500 ≤ p.opcode ∧ p.opcode ≤ 0x50C) then some 7
    else if (p.timed && decide (p.payload.length < 10)) || decide (n < lo ∨ hi < n) || !shapeOk p.opcode p.args then some 8
    else if k = .sequenced ∧ p.seq = 0 then some 9
    else none

/-! ### Sessions and tags (R400 to R406) -/

/-- Step 5 of R398: the session is open, or HELLO opens it, or R400 permits a query without one. -/
def State.sessionOk (s : State) (p : Packet) (k : OpKind) : Bool :=
  if p.opcode = 0x100 then decide (p.session ≠ 0)
  else if p.session = 0 then decide (k = .query) && (match p.link with
    | .udp _ _ _ => decide (p.opcode = 0x104 ∨ p.opcode = 0x200)
    | .host => true
    | .can _ => true)
  else (s.session p.session).isSome

/-- The bytes that TAG covers (R403). -/
def Packet.tagged (p : Packet) : List Nat :=
  le 2 0x5A57 ++ [p.version, p.flags] ++ le 2 p.session ++ le 4 p.seq ++ le 2 p.opcode ++ le 2 p.payload.length ++ le 2 p.target ++
    p.payload

/-- A tag or AUTH failure of a session: the third in succession discards its key and challenge (R404). -/
def authFailed (l : Link) (x : Session) (s : State) : State :=
  if x.fails < 2 then s.updSession x.id fun y => { y with fails := x.fails + 1 }
  else (s.updSession x.id fun y => { y with fails := 0, key := none, challenge := none }).report 1 2 3
    (b2 x.id ++ b1 (linkCode l) ++ b1 3)

/-- Step 6 of R398: a tag where R403 requires one. HELLO in mode 1 is taken without (DEDUCED, notes/assumptions/80.md). -/
def tagCheck (p : Packet) (s : State) : Bool × State :=
  match s.session p.session with
  | none => (true, s)
  | some x =>
    if p.opcode = 0x100 ∧ fld p.payload 0 1 = 1 then (true, s)
    else if !x.authed then (match p.link with | .udp _ _ _ => false | .host => true | .can _ => true, s)
    else match x.key with
    | none => (decide (p.opcode = 0x105), s)
    | some k =>
      if p.flags.testBit 0 && decide (p.tag = (hmac k p.tagged).take 16) then
        (true, s.updSession x.id fun y => { y with fails := 0 })
      else (false, authFailed p.link x s)

/-- HELLO (R402, R403, R432, R619). -/
def hello (p : Packet) (s : State) : State :=
  let mode := fld p.payload 0 1
  let req := (fld p.payload 1 1).testBit 0
  let old := s.session p.session
  if 1 < mode then s.refuse p stParamRange
  else if decide (mode = 0) == old.isSome then s.refuse p stBadSession
  else if p.link = .host ∧ !req ∧ s.parN P.HSP_AUTH_REQUIRED 0 = 1 then s.refuse p stNotAuth
  else if mode = 0 ∧ 8 ≤ s.jn.sessions.length then s.refuse p stWrongState
  else
    let udp : Bool := match p.link with | .udp _ _ _ => true | .host => false | .can _ => false
    let x := old.getD { id := p.session }
    let authed := x.authed || udp || req
    let (c, s) := if authed then s.takeBytes 16 else (List.replicate 16 0, s)
    let y : Session := { x with authed := authed, key := none, challenge := if authed then some c else none, fails := 0
                                link := p.link, maxPacket := fld p.payload 2 2 }
    let rest := s.jn.sessions.filter fun z => decide (z.id ≠ p.session)
    let s := { s with jn := { s.jn with sessions := rest ++ [y] } }
    let s := if mode = 0 then s.report 1 0 1 (b2 p.session ++ b1 (linkCode p.link) ++ b1 (b2n authed)) else s
    s.reply p stOk 0 0 none none (c ++ le 4 y.lastSeq ++ le 2 (linkLargest p.link))

/-- AUTH (R403, R404, R636): while the key is unset every AUTH fails. -/
def auth (p : Packet) (s : State) : State :=
  match s.session p.session with
  | none => s
  | some x =>
    let r := p.payload
    match x.challenge with
    | some c =>
      if s.keySet && decide (r = hmac s.kDev (c ++ le 2 x.id)) then
        (s.updSession x.id fun y => { y with
          key := some (hmac s.kDev ([0x53, 0x45, 0x53, 0x53] ++ c ++ r)), challenge := none, fails := 0 }).refuse p stOk
      else (authFailed p.link x s).refuse p stNotAuth
    | none => (authFailed p.link x s).refuse p stNotAuth

/-- The held entries of a session with their slots. -/
def State.entriesOf (s : State) (sess : Nat) : List (Nat × JEntry) := s.heldEntries.filter fun e => decide (e.2.session = sess)

/-- BYE (R405): the reply leaves before the session is forgotten. -/
def bye (p : Packet) (s : State) : State :=
  match s.session p.session with
  | none => s
  | some x =>
    if s.entriesOf x.id ≠ [] then s.refuse p stWrongState else
    let s := (s.refuse p stOk).report 1 0 2 (b2 x.id ++ b4 x.lastSeq)
    { s with jn := { s.jn with sessions := s.jn.sessions.filter fun y => decide (y.id ≠ x.id) } }

/-- How far sequence `q` lies beyond `first` in the circle of R407. -/
def seqFrom (first q : Nat) : Nat := (q % (2 ^ 32 - 1) + (2 ^ 32 - 1) - first % (2 ^ 32 - 1)) % (2 ^ 32 - 1)

/-- An entry put in its place by sequence. -/
def insertEntry (first : Nat) (e : JEntry) : List JEntry → List JEntry
  | [] => [e]
  | x :: xs => if seqFrom first e.seq < seqFrom first x.seq then e :: x :: xs else x :: insertEntry first e xs

/-- A record of RESUME (R422). -/
def JEntry.resumeBytes (e : JEntry) : List Nat :=
  le 4 e.seq ++ le 2 e.opcode ++ le 2 e.status ++ [e.outcome, 0] ++ le 2 e.detail ++ stampOpt e.accept ++ stampOpt e.complete

/-- RESUME's replies: `per` records each, MORE while more follow. -/
def resumeReplies (p : Packet) (last per : Nat) : Nat → List JEntry → State → State
  | 0, _, s => s
  | n + 1, es, s =>
    let now := es.take per
    let rest := es.drop per
    let s := s.reply p stOk 0 0 none none (le 4 last ++ [now.length] ++ now.flatMap JEntry.resumeBytes) (decide (rest ≠ []))
    if rest = [] then s else resumeReplies p last per n rest s

/-- RESUME (R422): at most as many records to a reply as asked for and as its link carries. -/
def resume (p : Packet) (s : State) : State :=
  match s.session p.session with
  | none => s
  | some x =>
    let first := fld p.payload 0 4
    let most := fld p.payload 4 1
    if most = 0 ∨ 40 < most then s.refuse p stParamRange else
    let es := ((s.entriesOf x.id).map (·.2)).filter fun e => decide (seqFrom first e.seq < 2 ^ 31)
    let es := es.foldl (fun out e => insertEntry first e out) []
    let per := max 1 (min most ((replyRoom p.link (some x) - 5) / 32))
    (resumeReplies p x.lastSeq per 8192 es s).report 1 1 10 (b2 x.id ++ b4 x.lastSeq ++ b2 es.length)

/-- ACK_OUTCOMES (R415, R421): a report that still waits leaves before its entry is released. -/
def ackOutcomes (p : Packet) (s : State) : State :=
  match s.session p.session with
  | none => s
  | some x =>
    let n := fld p.payload 0 4
    let slots := ((s.entriesOf x.id).filter fun e => decide (e.2.state = 3) && seqBehind n e.2.seq).map (·.1)
    let due := s.jn.done.filter fun d => slots.contains d.slot
    let s := { s with jn := { s.jn with done := s.jn.done.filter fun d => !slots.contains d.slot } }
    let s := due.foldl (fun s d => s.reportOne d) s
    let s := slots.foldl (fun s k => s.putEntry k { s.entry k with state := 4 }) s
    let s := if slots = [] then s else { s with jn := { s.jn with sessions := s.jn.sessions.map fun y => { y with fullTold := false } } }
    let left := (s.entriesOf x.id).map (·.2)
    let oldest := left.foldl (fun (b : Nat × Nat) e =>
      let d := seqFrom e.seq x.lastSeq
      if b.1 = 0 ∨ b.2 < d then (e.seq, d) else b) (0, 0)
    s.reply p stOk 0 0 none none (le 4 oldest.1 ++ le 2 left.length)

/-- Session control (R410, R432). -/
def control (p : Packet) (s : State) : State :=
  match p.opcode % 256 with
  | 0 => hello p s
  | 1 => bye p s
  | 2 => resume p s
  | 3 => ackOutcomes p s
  | _ => auth p s

/-! ### Queries (R410, R432 to R434) -/

/-- GET_IDENTITY (R5, R433). Without an active slot CONTRACT_ID and CONFIG_ID are 0 (DEDUCED, notes/assumptions/80.md). -/
def State.identity (s : State) : List Nat :=
  let fw := Config.firmware (s.pw.running.getD 2)
  let ids := match s.image with | some im => le 4 im.contractId ++ le 4 im.configId | none => le 8 0
  [0x5A] ++ le 2 s.part ++ [s.stepping] ++ le 8 Config.serial ++ [fw / 65536 % 256, fw / 256 % 256, fw % 256] ++
    [s.activeSlot.getD 255] ++ ids

/-- GET_STATUS of the module (R434); the state codes are those of R438 and R621 (DEDUCED, notes/assumptions/80.md). -/
def State.moduleStatus (s : State) : List Nat :=
  [powerCode s.pw.state, match s.rg.state with | .stopped => 0 | .running => 1 | .fallback => 2,
   match s.pw.mode with | .commissioning => 0 | .service => 1 | .recovery => 2, s.rg.variant.getD 255] ++
  le 4 s.rg.frame ++ stampOpt s.rg.frameNs ++ le 4 s.rg.frameLength ++
  [s.jn.sessions.length, b2n (s.jn.fail0 || s.jn.fail1) + b2n s.pw.warning 1] ++ le 2 s.unacked ++ le 2 s.pm.gen ++ le 4 s.jn.badCrc

/-- GET_STATUS of an axis (R375, R434); states in the order of R299 (DEDUCED, notes/assumptions/80.md). -/
def State.axisStatus (s : State) (a : Nat) : List Nat :=
  let x := s.axis a
  [match x.mode with | .disabled => 0 | .holding => 1 | .moving => 2 | .stopping => 3 | .fault => 4, b2n x.obs.flag, x.cause, 0] ++
    leI 8 x.pos ++ leI 8 x.pcmd ++ leI 4 x.vel ++ leI 4 x.torque

/-- GET_STATUS of a machine (R434). A torque-unavailable machine has no torque (R108). -/
def State.machineStatus (s : State) (m : Nat) : List Nat :=
  let un := (s.machine m).unavailable.isSome
  let mask := (s.machineStages m).foldl (fun (n : Nat) k =>
    if (s.stage k).mode = .driving then n + 2 ^ s.parN P.STG_SET k else n) 0
  [b2n un, mask, 0, 0] ++ leI 4 (if un then 0 else roundRat (s.torqueLimit m))

/-- GET_STATUS of every target but a latch (R434). -/
def State.status (s : State) (target : Nat) : List Nat :=
  let i := target % 4096
  match target / 4096 with
  | 0 => s.moduleStatus
  | 1 => s.axisStatus i
  | 2 => le 4 (s.stageStatus i) ++ le 4 (s.tripLatch i) ++ le 4 (s.stage i).stamp
  | 3 => s.machineStatus i
  | 4 => (s.chan i).snap.flatMap (le 4)
  | _ => s.safetyGroup i

/-- What the recovery loader executes (R719). -/
def State.loaderRuns (s : State) (l : Link) (op target : Nat) : Bool :=
  let keysOnly := (s.draft (target % 4096)).writes.all fun e => isKeyParam e.1 || decide (e.1 = P.PWR_SERVICE_MODE)
  match op / 256 with
  | 1 => true
  | 2 => decide (op = 0x200 ∨ op = 0x201)
  | 3 => decide (l = .host) && (decide (target % 4096 = 0xFFF) || keysOnly)
  | 7 => decide (op = 0x700)
  | 8 => decide (op = 0x801 ∨ op = 0x802)
  | 9 => decide (op ≤ 0x903 ∧ 0x100 ≤ target % 4096)
  | _ => false

/-- A query's status, DETAIL and reply data (R410). -/
def query (c : Cmd) (s : State) : Res × State :=
  match c.opcode / 256, c.opcode % 256 with
  | 1, _ => (.ok c.args, s)
  | 2, 0 => (.ok s.identity, s)
  | 2, 1 => (.ok (s.status c.target), s)
  | 2, 2 => cmdGetParam c s
  | 2, _ => cmdGetParamInfo c s
  | 3, _ => cmdStageRead c s
  | 6, _ => (.ok (if c.target / 4096 = 0 then s.safetyModule else s.safetyGroup (c.target % 4096)), s)
  | 7, 0 => cmdJournalRead c s
  | 7, 2 => cmdTimeGet c s
  | 7, 0x12 => cmdCaptureRead c s
  | 7, _ => cmdCaptureStatus c s
  | 8, _ => cmdAgeingReport c s
  | 9, _ => cmdImageList c s
  | _, _ => cmdIoRead c s

/-! ### Starting accepted commands (R418, R419) -/

/-- CAPTURE_ARM starts; while no frames run sampling begins at once. -/
def startArm (c : Cmd) (s : State) : Res × State :=
  match cmdCaptureArm c s with
  | (.pending, s) => (.pending, armIdle s)
  | r => r

/-- The command of a started packet, by its opcode. -/
def startOf (c : Cmd) (s : State) : Res × State :=
  match c.opcode / 256, c.opcode % 256 with
  | 2, 1 => let (bs, s) := takeCaptures (c.target % 4096) s; (.ok bs, s)
  | 2, _ => cmdSetParamLive c s
  | 3, 0 => cmdStageOpen c s
  | 3, 1 => cmdStageWrite c s
  | 3, 2 => cmdStageCheck c s
  | 3, 3 => cmdStageCommit c s
  | 3, _ => cmdStageDiscard c s
  | 4, 0 => cmdStageEnable c s
  | 4, 1 => cmdStageDisable c s
  | 4, 2 => cmdMachineIdentify c s
  | 4, _ => cmdTripClear c s
  | 5, 9 => cmdPath c s
  | 5, 10 => cmdPath c s
  | 5, 13 => cmdLearn c s
  | 5, 14 => cmdCompareLoad c s
  | 5, 15 => cmdLatchArm c s
  | 5, _ => cmdAxis c s
  | 6, _ => cmdSafety c s
  | 7, 1 => cmdJournalMark c s
  | 7, 3 => cmdTimeSet c s
  | 7, 0x10 => startArm c s
  | 7, _ => cmdCaptureStop c s
  | 8, 0 => cmdPowerState c s
  | 8, _ => cmdResetRequest c s
  | 9, 0 => cmdImageBegin c s
  | 9, 1 => cmdImageData c s
  | 9, 2 => cmdImageEnd c s
  | 9, _ => cmdImageActivate c s
  | _, 1 => cmdIoWrite c s
  | _, 2 => cmdCanSend c s
  | _, 3 => cmdCanCancel c s
  | _, _ => cmdCanRead c s

/-- A command starts: its entry becomes started, then it acts; in RECOVERY most complete with WRONG_STATE (R414, R419, R719). -/
def startCmd (c : Cmd) (s : State) : State :=
  let s := s.markStarted c
  if s.pw.mode = .recovery ∧ !s.loaderRuns c.link c.opcode c.target then s.finish c.slot (.fail stWrongState) else
  let (r, s) := startOf c s
  s.finish c.slot r

/-- COMMAND_START (R418, R419): the first waiting command starts. -/
def startNext (s : State) : State :=
  if !s.pw.ready then s else
  match s.jn.queue with
  | [] => s
  | c :: cs => startCmd c { s with jn := { s.jn with queue := cs } }

/-! ### Acceptance (R398 steps 8 to 11, R407 to R412) -/

/-- The command that an accepted packet carries. -/
def Packet.cmd (p : Packet) (slot accept gen : Nat) : Cmd :=
  { slot := slot, link := p.link, session := p.session, seq := p.seq, opcode := p.opcode, target := p.target
    start := if p.timed then some (fld p.payload 0 6 * nsPerS + fld p.payload 6 4) else none
    args := p.args, accept := accept, gen := gen }

/-- Commands accepted and not completed. -/
def State.open_ (s : State) : Nat := (s.heldEntries.filter fun e => decide (e.2.state < 3)).length

/-- A packet behind its session's sequence (R407, R409). -/
def duplicate (p : Packet) (s : State) : State :=
  match s.findEntry p.session p.seq with
  | none => s.reply p stDuplicate 5 0 none none []
  | some (_, e) =>
    if e.digest = p.digest then s.reply p stDuplicate e.outcome e.detail e.accept e.complete (le 2 e.status ++ le 4 e.result)
    else s.refuse p stSeqConflict

/-- Step 11 of R398: the entry in both copies, and the command in the queue (R412, R413, R425). -/
def acceptEntry (p : Packet) (slot : Nat) (s : State) : State :=
  let gen := if p.opcode = 0x203 then (s.pm.gen + 1) % 2 ^ 32 else s.pm.gen
  let s := s.putEntry slot { valid := true, session := p.session, opcode := p.opcode, seq := p.seq, target := p.target, state := 1
                             outcome := 1, digest := p.digest, accept := some s.ns, complete := none, status := stAccepted }
  let s := { s with pm := { s.pm with gen := gen }
                    jn := { s.jn with lastSlot := slot, queue := s.jn.queue ++ [p.cmd slot s.ns gen] } }
  s.updSession p.session fun x => { x with lastSeq := p.seq }

/-- The reply data of a command that goes on: CAN_SEND's names the transmit buffer that holds its frame (R667). -/
def State.goesOn (s : State) (p : Packet) (slot : Nat) : List Nat :=
  if p.opcode = 0xA02 then (((s.ctl (p.target % 4096)).tx.find? fun e => decide (e.2.slot = some slot)).map (·.1)).toList else []

/-- The reply to an accepted packet (R396, R412): its entry as it stands, or the final outcome where the command has completed. -/
def acceptReply (p : Packet) (slot : Nat) (s : State) : State :=
  match s.jn.done.find? fun d => decide (d.slot = slot) with
  | some d =>
    let s := { s with jn := { s.jn with done := s.jn.done.filter fun d => decide (d.slot ≠ slot) } }
    let s := if 3 ≤ (s.entry slot).state then s else s.complete slot d.outcome d.status d.detail d.result (some d.ns)
    s.reply p d.status d.outcome d.detail (s.entry slot).accept (some d.ns) d.data
  | none =>
    let e := s.entry slot
    s.reply p e.status e.outcome e.detail e.accept e.complete (s.goesOn p slot)

/-- Steps 8 to 11 for a sequenced packet of an open session; `answer` is false for a setpoint, which is no packet and has no reply. -/
def acceptPacket (answer : Bool) (p : Packet) (s : State) : State :=
  match s.session p.session with
  | none => s
  | some x =>
    let refuse (st : Nat) (s : State) : State := if answer then s.refuse p st else s
    let d := seqDelta x.lastSeq p.seq
    if 2 ≤ d ∧ d < 2 ^ 31 then refuse stSeqGap s
    else if d ≠ 1 then (if answer then duplicate p s else s)
    else if 1024 ≤ s.open_ then refuse stBusy s
    else match if s.jn.fail0 && s.jn.fail1 then none else s.freeSlot with
    | none =>
      let s := if x.fullTold then s else
        (s.updSession x.id fun y => { y with fullTold := true }).report 1 2 8 (b2 x.id ++ b4 p.seq)
      refuse stJournalFull s
    | some slot =>
      let first := decide (s.jn.queue = [])
      let s := acceptEntry p slot s
      let s := if p.deferred || !first then s else startNext s
      if answer then acceptReply p slot s else s

/-! ### Receipt (R398 to R400, R719) -/

/-- A link brings packets: the host port and the ports while they run, a controller that carries packets while ACTIVE; in RECOVERY
the host port and ETH_0 alone (R605, R674, R719). -/
def State.linkServes (s : State) (l : Link) : Bool :=
  match l with
  | .host => s.hostServed
  | .udp p _ _ => s.portRuns p && (decide (s.pw.mode ≠ .recovery) || decide (p = 0))
  | .can n => decide (n < 4) && decide ((s.ctl n).state = .active) && decide (s.parN P.CAN_CMD_ID n ≠ 0) && decide (s.pw.mode ≠ .recovery)

/-- A packet that has passed steps 1 to 6 (R398 step 7, R410, R733). -/
def passed (p : Packet) (k : OpKind) (s : State) : State :=
  let s := s.updSession p.session fun x => { x with link := p.link }
  if s.pw.warning || (decide (k = .sequenced) && s.pw.entry.isSome) then s.refuse p stBusy else
  match k with
  | .control => control p s
  | .sequenced => acceptPacket true p s
  | .query =>
    if s.pw.mode = .recovery ∧ !s.loaderRuns p.link p.opcode p.target then s.refuse p stWrongState else
    match query (p.cmd 0 0 0) s with
    | (.done _ st d _ data, s) => s.reply p st 0 d none none data
    | (.pending, s) => s

/-- A packet is received (R398, R399). -/
def receive (p : Packet) (s : State) : State :=
  if !p.magicOk || !s.pw.ready || !s.linkServes p.link then s
  else if !p.lenOk || decide (linkLargest p.link < 20 + p.payload.length + (if p.flags.testBit 0 then 16 else 0)) then
    s.refuse p stBadLength
  else if !p.crcOk then
    let s := { s with jn := { s.jn with badCrc := s.jn.badCrc + 1 } }
    if p.link = .host then s.refuse p stBadCrc else s
  else match s.headerCheck p with
  | some d => s.refuse p stBadOpcode d
  | none =>
    match opRow p.opcode with
    | none => s
    | some (k, _) =>
      let k := p.kind k
      if !s.sessionOk p k then s.refuse p stBadSession else
      match tagCheck p s with
      | (false, s) => s.refuse p stNotAuth
      | (true, s) => passed p k s

/-! ### Packets as bytes (R391, R618, R631, R674) -/

/-- The packet that bytes spell. Bytes too few for a header are no packet. -/
def parsePacket (l : Link) (bs : List Nat) : Packet :=
  let n := fld bs 12 2
  let tag := if (fld bs 3 1).testBit 0 then 16 else 0
  { link := l, magicOk := decide (16 ≤ bs.length ∧ fld bs 0 2 = 0x5A57), lenOk := decide (bs.length = 20 + n + tag)
    crcOk := decide (fld bs (16 + n + tag) 4 = crc32c (bs.take (16 + n + tag))), version := fld bs 2 1, flags := fld bs 3 1
    session := fld bs 4 2, seq := fld bs 6 4, opcode := fld bs 10 2, target := fld bs 14 2, payload := sub bs 16 n
    tag := sub bs (16 + n) tag, deferred := false }

/-- The bytes of a mailbox packet without the zeros that fill its last word (R617). -/
def trimPacket (bs : List Nat) : List Nat := bs.take (20 + fld bs 12 2 + (if (fld bs 3 1).testBit 0 then 16 else 0))

/-- The supervisor takes whole packets from MBX_IN, `n` at most (R618). -/
def mbxServe : Nat → State → State
  | 0, s => s
  | n + 1, s =>
    match mbxTake s with
    | (some bs, s) => mbxServe n (receive (parsePacket .host (trimPacket bs)) s)
    | (none, s) => s

end Sys2Proof.Machine
end

