-- ==== Sys2Proof/Machine/PacketRows.lean ====
section
/-!
DEFINITION. Sys2Proof/Machine/PacketRows.lean: the rows of the opcode table that bring a command packet: each lays out its payload as
chapters 9 to 16 give it and hands the packet to the supervisor. Then the rows of the links that carry packets as bytes, the start of
waiting commands and the reports of finished ones.
-/
namespace Sys2Proof.Machine

/-! ### Payloads -/

/-- The writes of STAGE_WRITE (R394, R435). -/
def writeBytes (ws : List (Nat × Int)) : List Nat := le 2 ws.length ++ ws.flatMap fun w => le 4 w.1 ++ leI 8 w.2

/-- A segment of PATH_APPEND (R321). -/
def segBytes (g : PathSeg) : List Nat :=
  le 2 g.duration ++ [g.flags, g.reserved] ++ g.ends.flatMap fun e => leI 8 e.1 ++ leI 4 e.2

/-- LEARN_CONTROL (R369). -/
def learnBytes (table op first count : Nat) (bins : List Int) : List Nat :=
  [table, op] ++ le 2 first ++ le 2 count ++ bins.flatMap (leI 2)

/-- An entry of COMPARE_LOAD (R279). -/
def compareBytes (e : CompareEntry) : List Nat := leI 4 e.position ++ [e.qual, e.pin, e.action, e.reserved]

/-- A trigger condition (R581). -/
def condBytes (c : TrigCond) : List Nat := [c.type, c.probe, c.op, c.reserved] ++ le 4 c.value

/-- A sequencer entry (R580). -/
def stateBytes (t : TrigState) : List Nat :=
  [t.logic, t.onMatch] ++ le 2 t.count ++ le 2 t.timeout ++ [t.onTimeout, t.reserved] ++ condBytes t.a ++ condBytes t.b

/-- IO_WRITE (R692). -/
def ioBytes (mask levels : Nat) (safe : Option (Nat × Nat)) : List Nat :=
  le 2 mask ++ le 2 levels ++ (match safe with | some x => [x.1, x.2] | none => [])

/-- CAN_SEND (R667). -/
def sendBytes (r : CanSendReq) : List Nat :=
  [r.buffer, r.flags] ++ le 4 r.ident ++ [r.length, r.ttMask] ++ le 2 r.ttMark ++ le 2 r.timeout ++ r.data

/-! ### Packet rows -/

/-- The packet of a row: TIMED is set exactly where there is a start stamp, which then leads the payload (R392). -/
def rowPacket (h : Hdr) (op : Nat) (args : List Nat) : Packet :=
  let (timed, lead) : Nat × List Nat := match h.start with
    | some t => (4, stampBytes t)
    | none => (0, [])
  { link := h.link, magicOk := h.magicOk, lenOk := h.lenOk, crcOk := h.crcOk, version := h.version
    flags := h.flags % 4 + timed + h.flags / 8 * 8, session := h.session, seq := h.seq, opcode := op, target := h.target
    payload := lead ++ args.map (· % 256), tag := h.tag, deferred := h.deferred }

/-- A packet arrives; a reset that it asked for follows its reply (R438). -/
def packetRow (h : Hdr) (op : Nat) (args : List Nat) (s : State) : State :=
  resetWhenDue (receive (rowPacket h op args) (s.elapse h.dt))

/-- HELLO (R402). -/
def execHello (h : Hdr) (mode reqAuth maxPacket : Nat) (s : State) : Out :=
  .next (packetRow h 0x100 ([mode, reqAuth] ++ le 2 maxPacket) s)
/-- BYE (R405). -/
def execBye (h : Hdr) (s : State) : Out := .next (packetRow h 0x101 [] s)
/-- RESUME (R422). -/
def execResume (h : Hdr) (firstSeq count : Nat) (s : State) : Out := .next (packetRow h 0x102 (le 4 firstSeq ++ [count]) s)
/-- ACK_OUTCOMES (R421). -/
def execAckOutcomes (h : Hdr) (n : Nat) (s : State) : Out := .next (packetRow h 0x103 (le 4 n) s)
/-- PING (R432). -/
def execPing (h : Hdr) (data : List Nat) (s : State) : Out := .next (packetRow h 0x104 data s)
/-- AUTH (R403). -/
def execAuth (h : Hdr) (r : List Nat) (s : State) : Out := .next (packetRow h 0x105 r s)
/-- GET_IDENTITY (R433). -/
def execGetIdentity (h : Hdr) (s : State) : Out := .next (packetRow h 0x200 [] s)
/-- GET_STATUS (R434). -/
def execGetStatus (h : Hdr) (s : State) : Out := .next (packetRow h 0x201 [] s)
/-- GET_PARAM (R433). -/
def execGetParam (h : Hdr) (id source : Nat) (s : State) : Out := .next (packetRow h 0x202 (le 4 id ++ [source]) s)
/-- GET_PARAM_INFO (R433). -/
def execGetParamInfo (h : Hdr) (id : Nat) (s : State) : Out := .next (packetRow h 0x204 (le 4 id) s)
/-- SET_PARAM_LIVE (R431). -/
def execSetParamLive (h : Hdr) (id : Nat) (value : Int) (s : State) : Out := .next (packetRow h 0x203 (le 4 id ++ leI 8 value) s)
/-- STAGE_OPEN (R435). -/
def execStageOpen (h : Hdr) (s : State) : Out := .next (packetRow h 0x300 [] s)
/-- STAGE_WRITE (R424). -/
def execStageWrite (h : Hdr) (writes : List (Nat × Int)) (s : State) : Out := .next (packetRow h 0x301 (writeBytes writes) s)
/-- STAGE_CHECK (R426). -/
def execStageCheck (h : Hdr) (s : State) : Out := .next (packetRow h 0x302 [] s)
/-- STAGE_COMMIT (R90). -/
def execStageCommit (h : Hdr) (mode : Nat) (stamp : List Nat) (s : State) : Out := .next (packetRow h 0x303 ([mode, 0] ++ stamp) s)
/-- STAGE_DISCARD (R435). -/
def execStageDiscard (h : Hdr) (s : State) : Out := .next (packetRow h 0x304 [] s)
/-- STAGE_READ (R435). -/
def execStageRead (h : Hdr) (first count : Nat) (s : State) : Out := .next (packetRow h 0x305 (le 2 first ++ le 2 count) s)
/-- STAGE_ENABLE (R187). -/
def execStageEnable (h : Hdr) (s : State) : Out := .next (packetRow h 0x400 [] s)
/-- STAGE_DISABLE (R192). -/
def execStageDisable (h : Hdr) (s : State) : Out := .next (packetRow h 0x401 [] s)
/-- MACHINE_IDENTIFY (R199). -/
def execMachineIdentify (h : Hdr) (mode : Nat) (s : State) : Out := .next (packetRow h 0x402 [mode] s)
/-- TRIP_CLEAR (R231). -/
def execTripClear (h : Hdr) (s : State) : Out := .next (packetRow h 0x403 [] s)
/-- AXIS_ENABLE (R302). -/
def execAxisEnable (h : Hdr) (preload : Int) (s : State) : Out := .next (packetRow h 0x500 (leI 4 preload) s)
/-- AXIS_DISABLE (R303). -/
def execAxisDisable (h : Hdr) (s : State) : Out := .next (packetRow h 0x501 [] s)
/-- MOVE_ABS (R314). -/
def execMoveAbs (h : Hdr) (pos : Int) (s : State) : Out := .next (packetRow h 0x502 (leI 8 pos) s)
/-- MOVE_REL (R314). -/
def execMoveRel (h : Hdr) (dist : Int) (s : State) : Out := .next (packetRow h 0x503 (leI 8 dist) s)
/-- MOVE_VEL (R315). -/
def execMoveVel (h : Hdr) (vel : Int) (s : State) : Out := .next (packetRow h 0x504 (leI 4 vel) s)
/-- RETARGET (R319). -/
def execRetarget (h : Hdr) (pos : Int) (s : State) : Out := .next (packetRow h 0x505 (leI 8 pos) s)
/-- SET_MOTION_LIMITS (R317). -/
def execSetMotionLimits (h : Hdr) (v a d j : Nat) (s : State) : Out :=
  .next (packetRow h 0x506 (le 4 v ++ le 4 a ++ le 4 d ++ le 4 j) s)
/-- STOP (R316). -/
def execStop (h : Hdr) (mode : Nat) (s : State) : Out := .next (packetRow h 0x507 [mode] s)
/-- HOME (R332). -/
def execHome (h : Hdr) (s : State) : Out := .next (packetRow h 0x508 [] s)
/-- PATH_APPEND (R323). -/
def execPathAppend (h : Hdr) (segs : List PathSeg) (s : State) : Out := .next (packetRow h 0x509 (segs.flatMap segBytes) s)
/-- PATH_START (R324). -/
def execPathStart (h : Hdr) (s : State) : Out := .next (packetRow h 0x50A [] s)
/-- GEAR_ENGAGE (R327). -/
def execGearEngage (h : Hdr) (mode : Nat) (s : State) : Out := .next (packetRow h 0x50B [mode] s)
/-- GEAR_DISENGAGE (R328). -/
def execGearDisengage (h : Hdr) (mode : Nat) (s : State) : Out := .next (packetRow h 0x50C [mode] s)
/-- LT_FREEZE (R369). -/
def execLtFreeze (h : Hdr) (table : Nat) (s : State) : Out := .next (packetRow h 0x50D (learnBytes table 0 0 0 []) s)
/-- LT_RESUME (R369). -/
def execLtResume (h : Hdr) (table : Nat) (s : State) : Out := .next (packetRow h 0x50D (learnBytes table 1 0 0 []) s)
/-- LT_CLEAR (R369). -/
def execLtClear (h : Hdr) (table : Nat) (s : State) : Out := .next (packetRow h 0x50D (learnBytes table 2 0 0 []) s)
/-- LT_READ (R369). -/
def execLtRead (h : Hdr) (table first count : Nat) (s : State) : Out := .next (packetRow h 0x50D (learnBytes table 3 first count []) s)
/-- LT_WRITE (R369). -/
def execLtWrite (h : Hdr) (table first : Nat) (bins : List Int) (s : State) : Out :=
  .next (packetRow h 0x50D (learnBytes table 4 first bins.length bins) s)
/-- LT_SAVE (R369). -/
def execLtSave (h : Hdr) (table : Nat) (s : State) : Out := .next (packetRow h 0x50D (learnBytes table 5 0 0 []) s)
/-- LT_STATUS (R369). -/
def execLtStatus (h : Hdr) (table : Nat) (s : State) : Out := .next (packetRow h 0x50D (learnBytes table 6 0 0 []) s)
/-- COMPARE_LOAD (R279). -/
def execCompareLoad (h : Hdr) (entries : List CompareEntry) (s : State) : Out :=
  .next (packetRow h 0x50E (entries.flatMap compareBytes) s)
/-- LATCH_ARM (R287). -/
def execLatchArm (h : Hdr) (edge mode : Nat) (s : State) : Out := .next (packetRow h 0x50F ([edge, mode]) s)
/-- SAFETY_STATUS (R516). -/
def execSafetyStatus (h : Hdr) (s : State) : Out := .next (packetRow h 0x600 [] s)
/-- SAFETY_RESET (R508). -/
def execSafetyReset (h : Hdr) (groups : Nat) (s : State) : Out := .next (packetRow h 0x601 [groups] s)
/-- SAFETY_CONFIG_BEGIN (R511). -/
def execSafetyConfigBegin (h : Hdr) (s : State) : Out := .next (packetRow h 0x602 [] s)
/-- SAFETY_CONFIG_WRITE (R512). -/
def execSafetyConfigWrite (h : Hdr) (writes : List (Nat × Int)) (s : State) : Out := .next (packetRow h 0x603 (writeBytes writes) s)
/-- SAFETY_CONFIG_VALIDATE (R513). -/
def execSafetyConfigValidate (h : Hdr) (s : State) : Out := .next (packetRow h 0x604 [] s)
/-- SAFETY_CONFIG_ACTIVATE (R514). -/
def execSafetyConfigActivate (h : Hdr) (crc : Nat) (s : State) : Out := .next (packetRow h 0x605 (le 4 crc) s)
/-- SAFETY_TEST_RUN kind 1 (R503). -/
def execSafetyTestRunLatent (h : Hdr) (groups : Nat) (s : State) : Out := .next (packetRow h 0x606 ([1, groups, 0, 0] ++ le 4 0) s)
/-- SAFETY_TEST_RUN kind 2 (R505). -/
def execSafetyTestRunBrake (h : Hdr) (axis outputs dir : Nat) (torque : Int) (s : State) : Out :=
  .next (packetRow h 0x606 ([2, axis, outputs, dir] ++ leI 4 torque) s)
/-- JOURNAL_READ (R566). -/
def execJournalRead (h : Hdr) (first count : Nat) (s : State) : Out := .next (packetRow h 0x700 (le 4 first ++ [count]) s)
/-- JOURNAL_MARK (R567). -/
def execJournalMark (h : Hdr) (code : Nat) (data : List Nat) (s : State) : Out := .next (packetRow h 0x701 (le 2 code ++ data) s)
/-- TIME_GET (R549). -/
def execTimeGet (h : Hdr) (s : State) : Out := .next (packetRow h 0x702 [] s)
/-- TIME_SET (R550). -/
def execTimeSet (h : Hdr) (stamp : Nat) (s : State) : Out := .next (packetRow h 0x703 (stampBytes stamp) s)
/-- CAPTURE_ARM (R600). -/
def execCaptureArm (h : Hdr) (flags : Nat) (states : List TrigState) (s : State) : Out :=
  .next (packetRow h 0x710 ([flags, 0] ++ states.flatMap stateBytes) s)
/-- CAPTURE_STOP action 0 (R600). -/
def execCaptureStop (h : Hdr) (s : State) : Out := .next (packetRow h 0x711 ([0, 0] ++ le 4 0) s)
/-- CAPTURE_STOP action 1 (R600). -/
def execCaptureReleaseUser (h : Hdr) (first last : Nat) (s : State) : Out :=
  .next (packetRow h 0x711 ([1, 0] ++ le 2 first ++ le 2 last) s)
/-- CAPTURE_STOP action 2 (R600). -/
def execCaptureReleaseEvidence (h : Hdr) (first last : Nat) (s : State) : Out :=
  .next (packetRow h 0x711 ([2, 0] ++ le 2 first ++ le 2 last) s)
/-- CAPTURE_READ (R600). -/
def execCaptureRead (h : Hdr) (segment first count : Nat) (s : State) : Out :=
  .next (packetRow h 0x712 (le 2 segment ++ le 4 first ++ le 2 count) s)
/-- CAPTURE_STATUS (R600). -/
def execCaptureStatus (h : Hdr) (s : State) : Out := .next (packetRow h 0x713 [] s)
/-- POWER_STATE (R729). -/
def execPowerState (h : Hdr) (state : Nat) (s : State) : Out := .next (packetRow h 0x800 [state] s)
/-- RESET_REQUEST kind 1 (R707). -/
def execResetRequestWarm (h : Hdr) (s : State) : Out := .next (packetRow h 0x801 ([1, 0]) s)
/-- RESET_REQUEST kind 2 (R711). -/
def execResetRequestDomain (h : Hdr) (block : Nat) (s : State) : Out := .next (packetRow h 0x801 ([2, block]) s)
/-- AGEING_REPORT section 0 (R749). -/
def execAgeingReportSummary (h : Hdr) (s : State) : Out := .next (packetRow h 0x802 [0] s)
/-- AGEING_REPORT section 1 (R749). -/
def execAgeingReportWear (h : Hdr) (first count : Nat) (s : State) : Out :=
  .next (packetRow h 0x802 ([1] ++ le 2 first ++ le 2 count) s)
/-- AGEING_REPORT section 2 (R749). -/
def execAgeingReportCounters (h : Hdr) (s : State) : Out := .next (packetRow h 0x802 [2] s)
/-- IMAGE_BEGIN (R82). -/
def execImageBegin (h : Hdr) (length : Nat) (s : State) : Out := .next (packetRow h 0x900 (le 4 length) s)
/-- IMAGE_DATA (R439). -/
def execImageData (h : Hdr) (offset : Nat) (data : List Nat) (s : State) : Out := .next (packetRow h 0x901 (le 4 offset ++ data) s)
/-- IMAGE_END (R83). -/
def execImageEnd (h : Hdr) (s : State) : Out := .next (packetRow h 0x902 [] s)
/-- IMAGE_ACTIVATE (R86). -/
def execImageActivate (h : Hdr) (s : State) : Out := .next (packetRow h 0x903 [] s)
/-- IMAGE_LIST (R438). -/
def execImageList (h : Hdr) (s : State) : Out := .next (packetRow h 0x904 [] s)
/-- IO_READ (R701). -/
def execIoRead (h : Hdr) (s : State) : Out := .next (packetRow h 0xA00 [] s)
/-- IO_WRITE (R692). -/
def execIoWrite (h : Hdr) (mask levels : Nat) (safe : Option (Nat × Nat)) (s : State) : Out :=
  .next (packetRow h 0xA01 (ioBytes mask levels safe) s)
/-- CAN_SEND (R667). -/
def execCanSend (h : Hdr) (req : CanSendReq) (s : State) : Out := .next (packetRow h 0xA02 (sendBytes req) s)
/-- CAN_CANCEL (R670). -/
def execCanCancel (h : Hdr) (buffer : Nat) (s : State) : Out := .next (packetRow h 0xA03 [buffer] s)
/-- CAN_READ (R673). -/
def execCanRead (h : Hdr) (count : Nat) (s : State) : Out := .next (packetRow h 0xA04 [count] s)

/-! ### Starts and reports (R418 to R420) -/

/-- COMMAND_START (R419). -/
def execCommandStart (dt : Nat) (s : State) : Out := .next (resetWhenDue (startNext (s.elapse dt)))
/-- COMPLETION_REPORT (R420). -/
def execCompletionReport (dt : Nat) (s : State) : Out :=
  let s := s.elapse dt
  .next (resetWhenDue (if s.pw.ready then s.reportNext else s))

/-! ### Packets as bytes -/

/-- A frame of the host port, with the packets that it completes and the wake that it asks for (R610, R618, R623). -/
def hostFrame (words : List Nat) (clocks : Nat) (underrun : Bool) (s : State) : State :=
  let (wake, s) := spiFrame words clocks underrun s
  let s := mbxServe 512 s
  resetWhenDue (if wake then wakeSource 2 s else s)

/-- A register write (R13, R41); of the host port, with the packets that a word of MBX_IN completes and the wake that PWR_REQ asks for. -/
def writeRow (master a v : Nat) (s : State) : State :=
  let s := registerWrite master a v s
  if master ≠ 3 ∨ !s.hostServed then s else
  resetWhenDue (if a = 0x1C ∧ v.testBit 0 then wakeSource 2 (mbxServe 512 s) else mbxServe 512 s)

/-- A command packet that an Ethernet frame or the last segment on CAN brings. -/
def bytesRow (p : Option (Link × List Nat)) (s : State) : State :=
  match p with
  | some (l, bs) => resetWhenDue (receive (parsePacket l bs) s)
  | none => s

/-- A setpoint of the CiA 417 drive unit (R680): a sequenced command of CAN_417_SESSION on CAN_417_AXIS, next in its sequence. The session
must be open; a setpoint is no packet, so it has no tag and no reply (DESIGN CHOICE, notes/assumptions/81.md). -/
def setpoint417 (n op : Nat) (payload : List Nat) (s : State) : State :=
  let axis := s.parN P.CAN_417_AXIS n
  let id := s.parN P.CAN_417_SESSION n
  if 4 ≤ n ∨ (s.ctl n).state ≠ .active ∨ !(s.parN P.CAN_PROFILE n).testBit 0 ∨ !s.pw.ready ∨ s.pw.mode = .recovery ∨ s.pw.warning ∨
      s.pw.entry.isSome ∨ op / 256 ≠ 5 then s else
  match s.session id with
  | none => s
  | some x =>
    let p : Packet := { link := .can n, magicOk := true, lenOk := true, crcOk := true, version := 1, flags := 0, session := id
                        seq := if x.lastSeq = 0xFFFFFFFF then 1 else x.lastSeq + 1, opcode := op, target := 0x1000 + axis
                        payload := payload.map (· % 256), tag := [], deferred := false }
    match s.headerCheck p with
    | some _ => s
    | none => acceptPacket false p s

/-- SPI_FRAME (R610). -/
def execSpiFrame (dt : Nat) (words : List Nat) (clocks : Nat) (underrun : Bool) (s : State) : Out :=
  .next (hostFrame words clocks underrun (s.elapse dt))
/-- REGISTER_WRITE (R13). -/
def execRegisterWrite (dt master addr value : Nat) (s : State) : Out := .next (writeRow master addr value (s.elapse dt))
/-- HOST_MBX_RESYNC (R618). -/
def execHostMbxResync (dt : Nat) (s : State) : Out := .next (resetWhenDue (mbxServe 512 (mbxResync (s.elapse dt))))
/-- MBX_PARTIAL_TIMEOUT (R618). -/
def execMbxPartialTimeout (dt : Nat) (s : State) : Out := .next (resetWhenDue (mbxServe 512 (mbxPartial (s.elapse dt))))
/-- ETHERNET_FRAME_RX (R628). -/
def execEthernetFrameRx (dt : Nat) (frame : EthFrame) (s : State) : Out :=
  let (p, s) := ethFrame frame (s.elapse dt)
  .next (bytesRow p s)
/-- CAN_CMD_SEGMENT (R674). -/
def execCanCmdSegment (dt ctrl : Nat) (data : List Nat) (back : Nat) (s : State) : Out :=
  let (bs, s) := cmdSegment ctrl data back (s.elapse dt)
  .next (bytesRow (bs.map fun b => (.can ctrl, b)) s)
/-- CIA417_SETPOINT (R680). -/
def execCia417Setpoint (dt ctrl opcode : Nat) (payload : List Nat) (s : State) : Out :=
  .next (setpoint417 ctrl opcode payload (s.elapse dt))

end Sys2Proof.Machine
end

