-- ==== Sys2Proof/Machine/SpurArith.lean ====
section
/-!
DEFINITION. Sys2Proof/Machine/SpurArith.lean: the meanings of the spur's control instructions but END, and of its dual-MAC,
complex, accumulator, ALU, wide-multiply and select classes (R148 to R152).
-/
namespace Sys2Proof.Machine

/-! ### Control (R137, R139, R149) -/

/-- NOP (R149). -/
def execNop (k : Fin 8) (s : State) : Out := .next <| spurReg k (fun _ w => w) s

/-- A branch to `t` after two delay slots (R137). -/
def SpurSt.branchTo (w : SpurSt) (t : Addr) : SpurSt := { w with branch := some (2, t) }

/-- BRA (R137). -/
def execBra (k : Fin 8) (t : BitVec 14) (s : State) : Out := .next <| spurReg k (fun _ w => w.branchTo t) s

/-- CALL (R137): the return address is that after the two delay slots; the stack holds four (R110). -/
def execCall (k : Fin 8) (t : BitVec 14) (s : State) : Out := .next <|
  spurReg k (fun r w => { w with stack := ((r.pc + 3) :: w.stack).take 4 }.branchTo t) s

/-- RET (R137). On an empty stack, which no checked image reaches (R155), the target is a free value. -/
def execRet (k : Fin 8) (s : State) : Out := .next <|
  spurStep k 1 (fun s r w =>
    match r.stack with
    | t :: ts => (s, { w with stack := ts }.branchTo t)
    | [] => let (x, s') := s.take (2 ^ 14); (s', w.branchTo (BitVec.ofNat 14 x))) s

/-- BFC: taken when FC AND mask equals the value (R149). -/
def execBfc (k : Fin 8) (mask value : BitVec 6) (t : BitVec 14) (s : State) : Out := .next <|
  spurReg k (fun r w => if r.fc &&& mask = value then w.branchTo t else w) s

/-- REP: a level of `n + 1` iterations from the next instruction to `last`, three deep (R139, R140, R149). -/
def execRep (k : Fin 8) (n : BitVec 12) (last : BitVec 14) (s : State) : Out := .next <|
  spurReg k (fun r w => { w with reps := ({ count := n.toNat + 1, start := r.pc + 1, last := last } :: w.reps).take 3 }) s

/-- CLRF clears PS, AV and RV (R148). -/
def execClrf (k : Fin 8) (s : State) : Out := .next <| spurReg k (fun _ w => { w with ps := false, av := false, rv := false }) s

/-! ### Dual MAC (R122 to R125, R150) -/

/-- A dual-MAC instruction: `f` combines the accumulator and the product. -/
def spurMac (k : Fin 8) (op : MacOperands) (f : Int → Int → Int) (s : State) : State :=
  spurStep k 1 (fun s r w =>
    let (x, s, w) := macSrc k false r op.x s w
    let (y, s, w) := macSrc k true r op.y s w
    let (p, ps) := fracProduct x y
    let (a, av) := sat40 (f (r.ra op.acc).toInt p)
    (s, { w.wa op.acc a with ps := w.ps || ps, av := w.av || av })) s

/-- MPY (R122, R150). -/
def execMpy (k : Fin 8) (op : MacOperands) (s : State) : Out := .next <| spurMac k op (fun _ p => p) s
/-- MAC (R124, R150). -/
def execMac (k : Fin 8) (op : MacOperands) (s : State) : Out := .next <| spurMac k op (fun a p => a + p) s
/-- MSU (R124, R150). -/
def execMsu (k : Fin 8) (op : MacOperands) (s : State) : Out := .next <| spurMac k op (fun a p => a - p) s

/-! ### Complex (R130, R151) -/

/-- The real accumulator of a pair. -/
def pairRe (pair : Bool) : Fin 4 := if pair then 2 else 0
/-- The imaginary accumulator of a pair. -/
def pairIm (pair : Bool) : Fin 4 := if pair then 3 else 1

/-- A complex instruction: `conj` multiplies by the conjugate of the Y operand, `acc` adds to the pair (R130). -/
def spurCplx (k : Fin 8) (op : CplxOperands) (conj acc : Bool) (s : State) : State :=
  spurStep k 1 (fun s r w =>
    let (x, s, w) := dualPair k false r op.x s w
    let (y, s, w) := dualPair k true r op.y s w
    let a := x.setWidth 16; let b := x.extractLsb' 16 16
    let c := y.setWidth 16; let d := y.extractLsb' 16 16
    let ac := fracProduct a c; let bd := fracProduct b d
    let ad := fracProduct a d; let bc := fracProduct b c
    let re := if conj then ac.1 + bd.1 else ac.1 - bd.1
    let im := if conj then bc.1 - ad.1 else ad.1 + bc.1
    let zr := sat40 ((if acc then (r.ra (pairRe op.pair)).toInt else 0) + re)
    let zi := sat40 ((if acc then (r.ra (pairIm op.pair)).toInt else 0) + im)
    (s, { (w.wa (pairRe op.pair) zr.1).wa (pairIm op.pair) zi.1 with
          ps := w.ps || ac.2 || bd.2 || ad.2 || bc.2, av := w.av || zr.2 || zi.2 })) s

/-- CMPY (R130). -/
def execCmpy (k : Fin 8) (op : CplxOperands) (s : State) : Out := .next <| spurCplx k op false false s
/-- CMAC (R130). -/
def execCmac (k : Fin 8) (op : CplxOperands) (s : State) : Out := .next <| spurCplx k op false true s
/-- CMPYJ (R130). -/
def execCmpyj (k : Fin 8) (op : CplxOperands) (s : State) : Out := .next <| spurCplx k op true false s
/-- CMACJ (R130). -/
def execCmacj (k : Fin 8) (op : CplxOperands) (s : State) : Out := .next <| spurCplx k op true true s

/-! ### Accumulators (R126 to R128, R133, R148) -/

/-- CLRA (R148). -/
def execClra (k : Fin 8) (a : Fin 4) (s : State) : Out := .next <| spurReg k (fun _ w => w.wa a 0) s

/-- ASH (R126). -/
def execAsh (k : Fin 8) (a : Fin 4) (sh : BitVec 5) (s : State) : Out := .next <|
  spurReg k (fun r w => let z := shiftAcc (r.ra a) sh.toInt; { w.wa a z.1 with av := w.av || z.2 }) s

/-- RND (R127). -/
def execRnd (k : Fin 8) (a : Fin 4) (d : Fin 16) (s : State) : Out := .next <|
  spurReg k (fun r w => let z := round15 (r.ra a); { w.wdL d z.1 with rv := w.rv || z.2 }) s

/-- SAT32 (R128). -/
def execSat32 (k : Fin 8) (a : Fin 4) (d : Fin 16) (s : State) : Out := .next <|
  spurReg k (fun r w => let z := sat32 (r.ra a); { w.wd d z.1 with rv := w.rv || z.2 }) s

/-- ADDA (R133). -/
def execAdda (k : Fin 8) (d a b : Fin 4) (s : State) : Out := .next <|
  spurReg k (fun r w => let z := sat40 ((r.ra a).toInt + (r.ra b).toInt); { w.wa d z.1 with av := w.av || z.2 }) s

/-- SUBA (R133). -/
def execSuba (k : Fin 8) (d a b : Fin 4) (s : State) : Out := .next <|
  spurReg k (fun r w => let z := sat40 ((r.ra a).toInt - (r.ra b).toInt); { w.wa d z.1 with av := w.av || z.2 }) s

/-- ACMP: N and Z of the exact comparison; C and V are left at 0 (R133). -/
def execAcmp (k : Fin 8) (a b : Fin 4) (s : State) : Out := .next <|
  spurReg k (fun r w =>
    let d := (r.ra a).toInt - (r.ra b).toInt
    { w with n := decide (d < 0), z := decide (d = 0), c := false, v := false }) s

/-- MOVA (R148). -/
def execMova (k : Fin 8) (d a : Fin 4) (s : State) : Out := .next <| spurReg k (fun r w => w.wa d (r.ra a)) s

/-- LDAD: a D register as Q31, sign-extended (R123, R148). -/
def execLdad (k : Fin 8) (d : Fin 4) (a : Fin 16) (s : State) : Out := .next <|
  spurReg k (fun r w => w.wa d ((r.rd a).signExtend 40)) s

/-! ### ALU (R131, R148, R152) -/

/-- A flag that an operation leaves, a free value where the spec states none. -/
def flagOf (s : State) : FlagOut → Bool × State
  | .is b => (b, s)
  | .open => let (x, s') := s.take 2; (decide (x = 1), s')

/-- An ALU operation on the first source, the second value and the shift count. -/
def spurAlu (k : Fin 8) (op : AluOp) (d a : Fin 16) (b : SpurSt → Word) (n : Nat) (s : State) : State :=
  spurStep k 1 (fun s r w =>
    let o := alu op (r.rd a) (b r) n r.c
    let (c, s) := flagOf s o.c
    let (v, s) := flagOf s o.v
    let w := match o.result with
      | some x => w.wd d x
      | none => w
    (s, { w with n := o.shown.msb, z := decide (o.shown = 0), c := c, v := v })) s

/-- ADD (R131). -/
def execAdd (k : Fin 8) (d a b : Fin 16) (s : State) : Out := .next <| spurAlu k .add d a (·.rd b) 0 s
/-- ADDC (R131). -/
def execAddc (k : Fin 8) (d a b : Fin 16) (s : State) : Out := .next <| spurAlu k .addc d a (·.rd b) 0 s
/-- ADDS (R131). -/
def execAdds (k : Fin 8) (d a b : Fin 16) (s : State) : Out := .next <| spurAlu k .adds d a (·.rd b) 0 s
/-- SUB (R131). -/
def execSub (k : Fin 8) (d a b : Fin 16) (s : State) : Out := .next <| spurAlu k .sub d a (·.rd b) 0 s
/-- SUBC (R131). -/
def execSubc (k : Fin 8) (d a b : Fin 16) (s : State) : Out := .next <| spurAlu k .subc d a (·.rd b) 0 s
/-- SUBS (R131). -/
def execSubs (k : Fin 8) (d a b : Fin 16) (s : State) : Out := .next <| spurAlu k .subs d a (·.rd b) 0 s
/-- AND (R148). -/
def execAndOp (k : Fin 8) (d a b : Fin 16) (s : State) : Out := .next <| spurAlu k .and d a (·.rd b) 0 s
/-- OR (R148). -/
def execOrOp (k : Fin 8) (d a b : Fin 16) (s : State) : Out := .next <| spurAlu k .or d a (·.rd b) 0 s
/-- XOR (R148). -/
def execXorOp (k : Fin 8) (d a b : Fin 16) (s : State) : Out := .next <| spurAlu k .xor d a (·.rd b) 0 s
/-- CMP (R148). -/
def execCmp (k : Fin 8) (a b : Fin 16) (s : State) : Out := .next <| spurAlu k .cmp 0 a (·.rd b) 0 s
/-- MIN (R148). -/
def execMinOp (k : Fin 8) (d a b : Fin 16) (s : State) : Out := .next <| spurAlu k .min d a (·.rd b) 0 s
/-- MAX (R148). -/
def execMaxOp (k : Fin 8) (d a b : Fin 16) (s : State) : Out := .next <| spurAlu k .max d a (·.rd b) 0 s
/-- ABS (R148). -/
def execAbsOp (k : Fin 8) (d a : Fin 16) (s : State) : Out := .next <| spurAlu k .abs d a (fun _ => 0) 0 s
/-- NEG (R148). -/
def execNeg (k : Fin 8) (d a : Fin 16) (s : State) : Out := .next <| spurAlu k .neg d a (fun _ => 0) 0 s
/-- SHL (R152). -/
def execShl (k : Fin 8) (d a : Fin 16) (sh : BitVec 5) (s : State) : Out := .next <| spurAlu k .shl d a (fun _ => 0) sh.toNat s
/-- SHR (R152). -/
def execShr (k : Fin 8) (d a : Fin 16) (sh : BitVec 5) (s : State) : Out := .next <| spurAlu k .shr d a (fun _ => 0) sh.toNat s
/-- ASR (R152). -/
def execAsr (k : Fin 8) (d a : Fin 16) (sh : BitVec 5) (s : State) : Out := .next <| spurAlu k .asr d a (fun _ => 0) sh.toNat s

/-- A class 0x4 operation with the signed 12-bit immediate as second source; a shift takes its low five bits (R148, R152). -/
def execAluImmediate (k : Fin 8) (op : AluOp) (d a : Fin 16) (imm : BitVec 12) (s : State) : Out := .next <|
  spurAlu k op d a (fun _ => imm.signExtend 32) (imm.toNat % 32) s

/-! ### Wide multiply (R132) -/

/-- A wide multiply of the value `f` of the first source into the register pair 2p, 2p + 1. -/
def spurWide (k : Fin 8) (p : Fin 8) (f : Word → Int) (a b : Fin 16) (s : State) : State :=
  spurStep k 2 (fun s r w =>
    let z := BitVec.ofInt 64 (f (r.rd a) * (r.rdL b).toInt)
    (s, (w.wd ⟨2 * p.val, by omega⟩ (z.setWidth 32)).wd ⟨2 * p.val + 1, by omega⟩ (z.extractLsb' 32 32))) s

/-- MULW.SS (R132). -/
def execMulwSs (k : Fin 8) (p : Fin 8) (a b : Fin 16) (s : State) : Out := .next <| spurWide k p (·.toInt) a b s
/-- MULW.US (R132). -/
def execMulwUs (k : Fin 8) (p : Fin 8) (a b : Fin 16) (s : State) : Out := .next <| spurWide k p (fun x => (x.toNat : Int)) a b s

/-! ### Select (R152) -/

/-- CSEL (R152). -/
def execCsel (k : Fin 8) (d a b : Fin 16) (cd : SelCond) (s : State) : Out := .next <|
  spurReg k (fun r w => w.wd d (if selHolds cd r.n r.z r.c r.v then r.rd a else r.rd b)) s
/-- CMOV (R152). -/
def execCmov (k : Fin 8) (d a : Fin 16) (cd : SelCond) (s : State) : Out := .next <|
  spurReg k (fun r w => if selHolds cd r.n r.z r.c r.v then w.wd d (r.rd a) else w) s
/-- ACSEL (R152). -/
def execAcsel (k : Fin 8) (d a b : Fin 4) (cd : SelCond) (s : State) : Out := .next <|
  spurReg k (fun r w => w.wa d (if selHolds cd r.n r.z r.c r.v then r.ra a else r.ra b)) s

end Sys2Proof.Machine
end

