-- ==== Sys2Proof/Machine/SpurMemory.lean ====
section
/-!
DEFINITION. Sys2Proof/Machine/SpurMemory.lean: the meanings of the spur's load, store, dual-load, address, immediate and status
classes (R148, R152, R153).
-/
namespace Sys2Proof.Machine

/-- A load of `words` words: `f` makes the late write of what lies at the operand's address (R136, R153). -/
def spurLoad (k : Fin 8) (m : MemOperand) (words : Nat) (f : State → Addr → Delayed) (s : State) : State :=
  spurStep k 1 (fun s r w =>
    let x := f s (r.rp m.p)
    let (s, w) := applyPost s r w m.p words (lsForm m.mod)
    (s, w.delay x)) s

/-- LD.16: sign-extended (R153). -/
def execLd16 (k : Fin 8) (d : Fin 16) (m : MemOperand) (s : State) : Out := .next <|
  spurLoad k m 1 (fun s a => .d d ((s.ld16 k m.bankY a).signExtend 32)) s
/-- LD.16H: the high half; the low half stays (R153). -/
def execLd16h (k : Fin 8) (d : Fin 16) (m : MemOperand) (s : State) : Out := .next <|
  spurLoad k m 1 (fun s a => .dHigh d (s.ld16 k m.bankY a)) s
/-- LD.32 (R118, R153). -/
def execLd32 (k : Fin 8) (d : Fin 16) (m : MemOperand) (s : State) : Out := .next <|
  spurLoad k m 2 (fun s a => .d d (s.ld32 k m.bankY a)) s
/-- LDA.32: a Q31 word with sign extension (R153). -/
def execLda32 (k : Fin 8) (a : Fin 4) (m : MemOperand) (s : State) : Out := .next <|
  spurLoad k m 2 (fun s x => .a a ((s.ld32 k m.bankY x).signExtend 40)) s

/-- ST.16: the low half (R153). -/
def execSt16 (k : Fin 8) (d : Fin 16) (m : MemOperand) (s : State) : Out := .next <|
  spurStep k 1 (fun s r w => applyPost (s.st16 k m.bankY (r.rp m.p) (r.rdL d)) r w m.p 1 (lsForm m.mod)) s
/-- ST.32 (R118, R153). -/
def execSt32 (k : Fin 8) (d : Fin 16) (m : MemOperand) (s : State) : Out := .next <|
  spurStep k 1 (fun s r w => applyPost (s.st32 k m.bankY (r.rp m.p) (r.rd d)) r w m.p 2 (lsForm m.mod)) s
/-- STR: RND and store of the 16-bit result (R127, R148). -/
def execStr (k : Fin 8) (a : Fin 4) (m : MemOperand) (s : State) : Out := .next <|
  spurStep k 1 (fun s r w =>
    let z := round15 (r.ra a)
    applyPost (s.st16 k m.bankY (r.rp m.p) z.1) r { w with rv := w.rv || z.2 } m.p 1 (lsForm m.mod)) s
/-- STS: SAT32 and store of the 32-bit result (R128, R148). -/
def execSts (k : Fin 8) (a : Fin 4) (m : MemOperand) (s : State) : Out := .next <|
  spurStep k 1 (fun s r w =>
    let z := sat32 (r.ra a)
    applyPost (s.st32 k m.bankY (r.rp m.p) z.1) r { w with rv := w.rv || z.2 } m.p 2 (lsForm m.mod)) s

/-- Dual load: a pair from X and a pair from Y (R148); into one and the same register the result is a free value. -/
def execDualLoad (k : Fin 8) (dx : Fin 16) (x : DualAddr) (dy : Fin 16) (y : DualAddr) (s : State) : Out := .next <|
  spurStep k 1 (fun s r w =>
    let (vx, s, w) := dualPair k false r x s w
    let (vy, s, w) := dualPair k true r y s w
    if dx = dy then
      let (z, s) := s.take (2 ^ 32)
      (s, w.delay (.d dx (BitVec.ofNat 32 z)))
    else (s, (w.delay (.d dx vx)).delay (.d dy vy))) s

/-- LDP (R136, R152). -/
def execLdp (k : Fin 8) (p : Fin 8) (addr : BitVec 14) (s : State) : Out := .next <| spurReg k (fun _ w => w.delay (.p p addr)) s
/-- ADDP: a signed step, modulo 16 384 (R136, R152). -/
def execAddp (k : Fin 8) (p : Fin 8) (step : BitVec 16) (s : State) : Out := .next <|
  spurReg k (fun r w => w.delay (.p p (r.rp p + step.setWidth 14))) s
/-- MOVP (R110, R152). -/
def execMovp (k : Fin 8) (p : Fin 8) (d : Fin 16) (s : State) : Out := .next <|
  spurReg k (fun r w => w.delay (.p p ((r.rd d).setWidth 14))) s
/-- LDML: the low half of a modifier (R152). -/
def execLdml (k : Fin 8) (m : Fin 4) (imm : BitVec 16) (s : State) : Out := .next <| spurReg k (fun _ w => w.delay (.mLow m imm)) s
/-- LDMH: the high half of a modifier (R152). -/
def execLdmh (k : Fin 8) (m : Fin 4) (imm : BitVec 16) (s : State) : Out := .next <| spurReg k (fun _ w => w.delay (.mHigh m imm)) s
/-- MOVM (R152). -/
def execMovm (k : Fin 8) (m : Fin 4) (d : Fin 16) (s : State) : Out := .next <| spurReg k (fun r w => w.delay (.m m (r.rd d))) s

/-- LDI.L: the low half of a D register (R148, R152). -/
def execLdiL (k : Fin 8) (d : Fin 16) (imm : BitVec 16) (s : State) : Out := .next <| spurReg k (fun _ w => w.wdL d imm) s
/-- LDI.H: the high half of a D register (R148, R152). -/
def execLdiH (k : Fin 8) (d : Fin 16) (imm : BitVec 16) (s : State) : Out := .next <| spurReg k (fun _ w => w.wdH d imm) s
/-- MOV (R148). -/
def execMov (k : Fin 8) (d a : Fin 16) (s : State) : Out := .next <| spurReg k (fun r w => w.wd d (r.rd a)) s

/-- RDSR (R111, R148). -/
def execRdsr (k : Fin 8) (d : Fin 16) (s : State) : Out := .next <| spurReg k (fun r w => w.wd d r.status) s
/-- WRSR: flags and W1C bits (R111, R148). -/
def execWrsr (k : Fin 8) (a : Fin 16) (s : State) : Out := .next <| spurReg k (fun r w => w.writeStatus (r.rd a)) s
/-- RDFC (R148). -/
def execRdfc (k : Fin 8) (d : Fin 16) (s : State) : Out := .next <| spurReg k (fun r w => w.wd d (r.fc.setWidth 32)) s

end Sys2Proof.Machine
end

