-- ==== Sys2Proof/Machine/Dispatch.lean ====
section
/-!
DEFINITION. Sys2Proof/Machine/Dispatch.lean: one arm per command of spec/opcode_table.json: the call of its meaning.
-/
namespace Sys2Proof.Machine

/-- The effect of command `i` on the block. -/
def exec (i : Instr) (s : State) : Host.Outcome State Fault Refusal :=
  match i with
  | .hello h mode reqAuth maxPacket => Sys2Proof.Machine.execHello h mode reqAuth maxPacket s
  | .bye h => Sys2Proof.Machine.execBye h s
  | .resume h firstSeq count => Sys2Proof.Machine.execResume h firstSeq count s
  | .ackOutcomes h n => Sys2Proof.Machine.execAckOutcomes h n s
  | .ping h data => Sys2Proof.Machine.execPing h data s
  | .auth h r => Sys2Proof.Machine.execAuth h r s
  | .getIdentity h => Sys2Proof.Machine.execGetIdentity h s
  | .getStatus h => Sys2Proof.Machine.execGetStatus h s
  | .getParam h id source => Sys2Proof.Machine.execGetParam h id source s
  | .getParamInfo h id => Sys2Proof.Machine.execGetParamInfo h id s
  | .setParamLive h id value => Sys2Proof.Machine.execSetParamLive h id value s
  | .stageOpen h => Sys2Proof.Machine.execStageOpen h s
  | .stageWrite h writes => Sys2Proof.Machine.execStageWrite h writes s
  | .stageCheck h => Sys2Proof.Machine.execStageCheck h s
  | .stageCommit h mode stamp => Sys2Proof.Machine.execStageCommit h mode stamp s
  | .commitBanksPrepared dt readbackOk => Sys2Proof.Machine.execCommitBanksPrepared dt readbackOk s
  | .commitMarkerWritten dt => Sys2Proof.Machine.execCommitMarkerWritten dt s
  | .stageDiscard h => Sys2Proof.Machine.execStageDiscard h s
  | .stageRead h first count => Sys2Proof.Machine.execStageRead h first count s
  | .stageEnable h => Sys2Proof.Machine.execStageEnable h s
  | .stageDisable h => Sys2Proof.Machine.execStageDisable h s
  | .machineIdentify h mode => Sys2Proof.Machine.execMachineIdentify h mode s
  | .identifyComplete dt machine result => Sys2Proof.Machine.execIdentifyComplete dt machine result s
  | .tripClear h => Sys2Proof.Machine.execTripClear h s
  | .axisEnable h preload => Sys2Proof.Machine.execAxisEnable h preload s
  | .axisEnableRemoteTimeout dt axis => Sys2Proof.Machine.execAxisEnableRemoteTimeout dt axis s
  | .axisDisable h => Sys2Proof.Machine.execAxisDisable h s
  | .moveAbs h pos => Sys2Proof.Machine.execMoveAbs h pos s
  | .moveRel h dist => Sys2Proof.Machine.execMoveRel h dist s
  | .moveVel h vel => Sys2Proof.Machine.execMoveVel h vel s
  | .retarget h pos => Sys2Proof.Machine.execRetarget h pos s
  | .setMotionLimits h v a d j => Sys2Proof.Machine.execSetMotionLimits h v a d j s
  | .stop h mode => Sys2Proof.Machine.execStop h mode s
  | .home h => Sys2Proof.Machine.execHome h s
  | .pathAppend h segs => Sys2Proof.Machine.execPathAppend h segs s
  | .pathStart h => Sys2Proof.Machine.execPathStart h s
  | .gearEngage h mode => Sys2Proof.Machine.execGearEngage h mode s
  | .gearDisengage h mode => Sys2Proof.Machine.execGearDisengage h mode s
  | .ltFreeze h table => Sys2Proof.Machine.execLtFreeze h table s
  | .ltResume h table => Sys2Proof.Machine.execLtResume h table s
  | .ltClear h table => Sys2Proof.Machine.execLtClear h table s
  | .ltRead h table first count => Sys2Proof.Machine.execLtRead h table first count s
  | .ltWrite h table first bins => Sys2Proof.Machine.execLtWrite h table first bins s
  | .ltSave h table => Sys2Proof.Machine.execLtSave h table s
  | .ltStatus h table => Sys2Proof.Machine.execLtStatus h table s
  | .compareLoad h entries => Sys2Proof.Machine.execCompareLoad h entries s
  | .latchArm h edge mode => Sys2Proof.Machine.execLatchArm h edge mode s
  | .safetyStatus h => Sys2Proof.Machine.execSafetyStatus h s
  | .safetyReset h groups => Sys2Proof.Machine.execSafetyReset h groups s
  | .safetyConfigBegin h => Sys2Proof.Machine.execSafetyConfigBegin h s
  | .safetyConfigWrite h writes => Sys2Proof.Machine.execSafetyConfigWrite h writes s
  | .safetyConfigValidate h => Sys2Proof.Machine.execSafetyConfigValidate h s
  | .safetyConfigActivate h crc => Sys2Proof.Machine.execSafetyConfigActivate h crc s
  | .safetyTestRunLatent h groups => Sys2Proof.Machine.execSafetyTestRunLatent h groups s
  | .safetyTestRunBrake h axis outputs dir torque => Sys2Proof.Machine.execSafetyTestRunBrake h axis outputs dir torque s
  | .brakeTestStep dt => Sys2Proof.Machine.execBrakeTestStep dt s
  | .journalRead h first count => Sys2Proof.Machine.execJournalRead h first count s
  | .journalMark h code data => Sys2Proof.Machine.execJournalMark h code data s
  | .timeGet h => Sys2Proof.Machine.execTimeGet h s
  | .timeSet h stamp => Sys2Proof.Machine.execTimeSet h stamp s
  | .captureArm h flags states => Sys2Proof.Machine.execCaptureArm h flags states s
  | .captureStop h => Sys2Proof.Machine.execCaptureStop h s
  | .captureReleaseUser h first last => Sys2Proof.Machine.execCaptureReleaseUser h first last s
  | .captureReleaseEvidence h first last => Sys2Proof.Machine.execCaptureReleaseEvidence h first last s
  | .captureRead h segment first count => Sys2Proof.Machine.execCaptureRead h segment first count s
  | .captureStatus h => Sys2Proof.Machine.execCaptureStatus h s
  | .powerState h state => Sys2Proof.Machine.execPowerState h state s
  | .powerBlockAnswer dt answer => Sys2Proof.Machine.execPowerBlockAnswer dt answer s
  | .powerBlockDelayExpired dt => Sys2Proof.Machine.execPowerBlockDelayExpired dt s
  | .powerBlockNoAnswer dt => Sys2Proof.Machine.execPowerBlockNoAnswer dt s
  | .resetRequestWarm h => Sys2Proof.Machine.execResetRequestWarm h s
  | .resetRequestDomain h block => Sys2Proof.Machine.execResetRequestDomain h block s
  | .domainResetRelease dt block deferred => Sys2Proof.Machine.execDomainResetRelease dt block deferred s
  | .ageingReportSummary h => Sys2Proof.Machine.execAgeingReportSummary h s
  | .ageingReportWear h first count => Sys2Proof.Machine.execAgeingReportWear h first count s
  | .ageingReportCounters h => Sys2Proof.Machine.execAgeingReportCounters h s
  | .imageBegin h length => Sys2Proof.Machine.execImageBegin h length s
  | .imageData h offset data => Sys2Proof.Machine.execImageData h offset data s
  | .imageEnd h => Sys2Proof.Machine.execImageEnd h s
  | .imageActivate h => Sys2Proof.Machine.execImageActivate h s
  | .imageList h => Sys2Proof.Machine.execImageList h s
  | .ioRead h => Sys2Proof.Machine.execIoRead h s
  | .ioWrite h mask levels safe => Sys2Proof.Machine.execIoWrite h mask levels safe s
  | .ioWriteApplied dt ok => Sys2Proof.Machine.execIoWriteApplied dt ok s
  | .canSend h req => Sys2Proof.Machine.execCanSend h req s
  | .canCancel h buffer => Sys2Proof.Machine.execCanCancel h buffer s
  | .canRead h count => Sys2Proof.Machine.execCanRead h count s
  | .commandStart dt => Sys2Proof.Machine.execCommandStart dt s
  | .completionReport dt => Sys2Proof.Machine.execCompletionReport dt s
  | .spiFrame dt words clocks underrun => Sys2Proof.Machine.execSpiFrame dt words clocks underrun s
  | .hostMbxResync dt => Sys2Proof.Machine.execHostMbxResync dt s
  | .mbxPartialTimeout dt => Sys2Proof.Machine.execMbxPartialTimeout dt s
  | .hostReportDropped dt => Sys2Proof.Machine.execHostReportDropped dt s
  | .lowWordReadLatch dt master addr => Sys2Proof.Machine.execLowWordReadLatch dt master addr s
  | .registerWrite dt master addr value => Sys2Proof.Machine.execRegisterWrite dt master addr value s
  | .unmappedAccess dt master addr write => Sys2Proof.Machine.execUnmappedAccess dt master addr write s
  | .loadAllWrite dt group => Sys2Proof.Machine.execLoadAllWrite dt group s
  | .cwWrAdvance dt w n => Sys2Proof.Machine.execCwWrAdvance dt w n s
  | .cwRdAdvance dt w n => Sys2Proof.Machine.execCwRdAdvance dt w n s
  | .cwProducerWrite dt w offset data => Sys2Proof.Machine.execCwProducerWrite dt w offset data s
  | .cwConsumerRead dt w offset n => Sys2Proof.Machine.execCwConsumerRead dt w offset n s
  | .cwStatusWrite dt w value => Sys2Proof.Machine.execCwStatusWrite dt w value s
  | .canBufferLock dt ctrl buffer master => Sys2Proof.Machine.execCanBufferLock dt ctrl buffer master s
  | .canBufferRelease dt ctrl buffer master => Sys2Proof.Machine.execCanBufferRelease dt ctrl buffer master s
  | .canLockTimeout dt ctrl buffer => Sys2Proof.Machine.execCanLockTimeout dt ctrl buffer s
  | .rmStatusClear dt rm value => Sys2Proof.Machine.execRmStatusClear dt rm value s
  | .debugChallengeRead dt => Sys2Proof.Machine.execDebugChallengeRead dt s
  | .debugUnlockAnswer dt answer => Sys2Proof.Machine.execDebugUnlockAnswer dt answer s
  | .debugUnlockTimeout dt => Sys2Proof.Machine.execDebugUnlockTimeout dt s
  | .debugHalt dt spur => Sys2Proof.Machine.execDebugHalt dt spur s
  | .frameStart dt => Sys2Proof.Machine.execFrameStart dt s
  | .fallbackTakesEffect dt => Sys2Proof.Machine.execFallbackTakesEffect dt s
  | .ridgeStart dt passed => Sys2Proof.Machine.execRidgeStart dt passed s
  | .spurCheckFailed dt spur check => Sys2Proof.Machine.execSpurCheckFailed dt spur check s
  | .spurRetirementEffect dt spur => Sys2Proof.Machine.execSpurRetirementEffect dt spur s
  | .spurEccCorrected dt spur addr => Sys2Proof.Machine.execSpurEccCorrected dt spur addr s
  | .tripNotice dt spur => Sys2Proof.Machine.execTripNotice dt spur s
  | .frameAbort dt spur => Sys2Proof.Machine.execFrameAbort dt spur s
  | .failoverHalt dt spur => Sys2Proof.Machine.execFailoverHalt dt spur s
  | .nop k => Sys2Proof.Machine.execNop k s
  | .bra k target => Sys2Proof.Machine.execBra k target s
  | .call k target => Sys2Proof.Machine.execCall k target s
  | .ret k => Sys2Proof.Machine.execRet k s
  | .bfc k mask value target => Sys2Proof.Machine.execBfc k mask value target s
  | .rep k n last => Sys2Proof.Machine.execRep k n last s
  | .endOp k => Sys2Proof.Machine.execEndOp k s
  | .clrf k => Sys2Proof.Machine.execClrf k s
  | .mpy k op => Sys2Proof.Machine.execMpy k op s
  | .mac k op => Sys2Proof.Machine.execMac k op s
  | .msu k op => Sys2Proof.Machine.execMsu k op s
  | .cmpy k op => Sys2Proof.Machine.execCmpy k op s
  | .cmac k op => Sys2Proof.Machine.execCmac k op s
  | .cmpyj k op => Sys2Proof.Machine.execCmpyj k op s
  | .cmacj k op => Sys2Proof.Machine.execCmacj k op s
  | .clra k a => Sys2Proof.Machine.execClra k a s
  | .ash k a sh => Sys2Proof.Machine.execAsh k a sh s
  | .rnd k a d => Sys2Proof.Machine.execRnd k a d s
  | .sat32 k a d => Sys2Proof.Machine.execSat32 k a d s
  | .adda k d a b => Sys2Proof.Machine.execAdda k d a b s
  | .suba k d a b => Sys2Proof.Machine.execSuba k d a b s
  | .acmp k a b => Sys2Proof.Machine.execAcmp k a b s
  | .mova k d a => Sys2Proof.Machine.execMova k d a s
  | .ldad k d a => Sys2Proof.Machine.execLdad k d a s
  | .add k d a b => Sys2Proof.Machine.execAdd k d a b s
  | .addc k d a b => Sys2Proof.Machine.execAddc k d a b s
  | .adds k d a b => Sys2Proof.Machine.execAdds k d a b s
  | .sub k d a b => Sys2Proof.Machine.execSub k d a b s
  | .subc k d a b => Sys2Proof.Machine.execSubc k d a b s
  | .subs k d a b => Sys2Proof.Machine.execSubs k d a b s
  | .andOp k d a b => Sys2Proof.Machine.execAndOp k d a b s
  | .orOp k d a b => Sys2Proof.Machine.execOrOp k d a b s
  | .xorOp k d a b => Sys2Proof.Machine.execXorOp k d a b s
  | .cmp k a b => Sys2Proof.Machine.execCmp k a b s
  | .minOp k d a b => Sys2Proof.Machine.execMinOp k d a b s
  | .maxOp k d a b => Sys2Proof.Machine.execMaxOp k d a b s
  | .absOp k d a => Sys2Proof.Machine.execAbsOp k d a s
  | .neg k d a => Sys2Proof.Machine.execNeg k d a s
  | .shl k d a sh => Sys2Proof.Machine.execShl k d a sh s
  | .shr k d a sh => Sys2Proof.Machine.execShr k d a sh s
  | .asr k d a sh => Sys2Proof.Machine.execAsr k d a sh s
  | .aluImmediate k op d a imm => Sys2Proof.Machine.execAluImmediate k op d a imm s
  | .mulwSs k p a b => Sys2Proof.Machine.execMulwSs k p a b s
  | .mulwUs k p a b => Sys2Proof.Machine.execMulwUs k p a b s
  | .csel k d a b cond => Sys2Proof.Machine.execCsel k d a b cond s
  | .cmov k d a cond => Sys2Proof.Machine.execCmov k d a cond s
  | .acsel k d a b cond => Sys2Proof.Machine.execAcsel k d a b cond s
  | .ld16 k d m => Sys2Proof.Machine.execLd16 k d m s
  | .ld16h k d m => Sys2Proof.Machine.execLd16h k d m s
  | .ld32 k d m => Sys2Proof.Machine.execLd32 k d m s
  | .lda32 k a m => Sys2Proof.Machine.execLda32 k a m s
  | .st16 k d m => Sys2Proof.Machine.execSt16 k d m s
  | .st32 k d m => Sys2Proof.Machine.execSt32 k d m s
  | .str k a m => Sys2Proof.Machine.execStr k a m s
  | .sts k a m => Sys2Proof.Machine.execSts k a m s
  | .dualLoad k dx x dy y => Sys2Proof.Machine.execDualLoad k dx x dy y s
  | .ldp k p addr => Sys2Proof.Machine.execLdp k p addr s
  | .addp k p step => Sys2Proof.Machine.execAddp k p step s
  | .movp k p d => Sys2Proof.Machine.execMovp k p d s
  | .ldml k m imm => Sys2Proof.Machine.execLdml k m imm s
  | .ldmh k m imm => Sys2Proof.Machine.execLdmh k m imm s
  | .movm k m d => Sys2Proof.Machine.execMovm k m d s
  | .xch k index bankY addr => Sys2Proof.Machine.execXch k index bankY addr s
  | .ldiL k d imm => Sys2Proof.Machine.execLdiL k d imm s
  | .ldiH k d imm => Sys2Proof.Machine.execLdiH k d imm s
  | .mov k d a => Sys2Proof.Machine.execMov k d a s
  | .rdsr k d => Sys2Proof.Machine.execRdsr k d s
  | .wrsr k a => Sys2Proof.Machine.execWrsr k a s
  | .rdfc k d => Sys2Proof.Machine.execRdfc k d s
  | .reservedEncoding k => Sys2Proof.Machine.execReservedEncoding k s
  | .stageReload dt stage valley => Sys2Proof.Machine.execStageReload dt stage valley s
  | .loadAllProxy dt group => Sys2Proof.Machine.execLoadAllProxy dt group s
  | .pwmIntervalEdge dt stage switch on => Sys2Proof.Machine.execPwmIntervalEdge dt stage switch on s
  | .tripInputLatch dt stage active samples => Sys2Proof.Machine.execTripInputLatch dt stage active samples s
  | .sinc2Result dt input raw rawV => Sys2Proof.Machine.execSinc2Result dt input raw rawV s
  | .sinc3Result dt input raw => Sys2Proof.Machine.execSinc3Result dt input raw s
  | .modulatorStuck dt input run => Sys2Proof.Machine.execModulatorStuck dt input run s
  | .carrierWatchdog dt stage => Sys2Proof.Machine.execCarrierWatchdog dt stage s
  | .apwmIntervalEnd dt ch sense => Sys2Proof.Machine.execApwmIntervalEnd dt ch sense s
  | .apwmTimeout dt ch => Sys2Proof.Machine.execApwmTimeout dt ch s
  | .apwmPickEnd dt ch => Sys2Proof.Machine.execApwmPickEnd dt ch s
  | .quadEdge dt ch aLeads => Sys2Proof.Machine.execQuadEdge dt ch aLeads s
  | .illegalTransition dt ch => Sys2Proof.Machine.execIllegalTransition dt ch s
  | .indexEvent dt ch gate => Sys2Proof.Machine.execIndexEvent dt ch gate s
  | .hallChange dt ch code => Sys2Proof.Machine.execHallChange dt ch code s
  | .stepDirEdge dt ch dirHigh dirChanged => Sys2Proof.Machine.execStepDirEdge dt ch dirHigh dirChanged s
  | .cmpPulseEnd dt pin => Sys2Proof.Machine.execCmpPulseEnd dt pin s
  | .serialTransactionEnd dt ch frame => Sys2Proof.Machine.execSerialTransactionEnd dt ch frame s
  | .serialPollTimer dt => Sys2Proof.Machine.execSerialPollTimer dt s
  | .serialReadyTransfer dt ch => Sys2Proof.Machine.execSerialReadyTransfer dt ch s
  | .fbAlarmInput dt ch active => Sys2Proof.Machine.execFbAlarmInput dt ch active s
  | .latchEdge dt latch rising => Sys2Proof.Machine.execLatchEdge dt latch rising s
  | .axisSample dt axis => Sys2Proof.Machine.execAxisSample dt axis s
  | .followingErrorFault dt axis => Sys2Proof.Machine.execFollowingErrorFault dt axis s
  | .torqueInterruptExpired dt machine => Sys2Proof.Machine.execTorqueInterruptExpired dt machine s
  | .remoteLost dt axis => Sys2Proof.Machine.execRemoteLost dt axis s
  | .moveInPosition dt axis => Sys2Proof.Machine.execMoveInPosition dt axis s
  | .gearBroken dt axis => Sys2Proof.Machine.execGearBroken dt axis s
  | .obsResidual dt axis => Sys2Proof.Machine.execObsResidual dt axis s
  | .obsResidualCleared dt axis => Sys2Proof.Machine.execObsResidualCleared dt axis s
  | .obsSettleEnd dt axis => Sys2Proof.Machine.execObsSettleEnd dt axis s
  | .rmStepEmit dt rm => Sys2Proof.Machine.execRmStepEmit dt rm s
  | .rmStale dt rm => Sys2Proof.Machine.execRmStale dt rm s
  | .safetyCycle dt inp => Sys2Proof.Machine.execSafetyCycle dt inp s
  | .discrepancy dt pair => Sys2Proof.Machine.execDiscrepancy dt pair s
  | .heartbeatLost dt => Sys2Proof.Machine.execHeartbeatLost dt s
  | .heartbeatDomainReset dt => Sys2Proof.Machine.execHeartbeatDomainReset dt s
  | .ss1TimeExpired dt axis => Sys2Proof.Machine.execSs1TimeExpired dt axis s
  | .slsGraceExpired dt axis => Sys2Proof.Machine.execSlsGraceExpired dt axis s
  | .plausibilityFault dt axis => Sys2Proof.Machine.execPlausibilityFault dt axis s
  | .slipFault dt axis => Sys2Proof.Machine.execSlipFault dt axis s
  | .slipAnchor dt axis => Sys2Proof.Machine.execSlipAnchor dt axis s
  | .safeOutputOffPulse dt output below2V => Sys2Proof.Machine.execSafeOutputOffPulse dt output below2V s
  | .inputTestPulse dt pair chB noVoltage => Sys2Proof.Machine.execInputTestPulse dt pair chB noVoltage s
  | .outputTestFault dt output readback => Sys2Proof.Machine.execOutputTestFault dt output readback s
  | .gdFbFault dt group => Sys2Proof.Machine.execGdFbFault dt group s
  | .sbcOutputOff dt output => Sys2Proof.Machine.execSbcOutputOff dt output s
  | .latentTestDue dt group => Sys2Proof.Machine.execLatentTestDue dt group s
  | .latentTestEnd dt group failedStep => Sys2Proof.Machine.execLatentTestEnd dt group failedStep s
  | .latentTestOverdue dt group => Sys2Proof.Machine.execLatentTestOverdue dt group s
  | .safetyResetInput dt active => Sys2Proof.Machine.execSafetyResetInput dt active s
  | .safeCfgEnFall dt => Sys2Proof.Machine.execSafeCfgEnFall dt s
  | .safetyDraftTimeout dt => Sys2Proof.Machine.execSafetyDraftTimeout dt s
  | .monitorStart dt selfTestOk => Sys2Proof.Machine.execMonitorStart dt selfTestOk s
  | .monitorFault dt kind detail => Sys2Proof.Machine.execMonitorFault dt kind detail s
  | .clockCrossCheckFail dt => Sys2Proof.Machine.execClockCrossCheckFail dt s
  | .pllLockLost dt => Sys2Proof.Machine.execPllLockLost dt s
  | .timeMeasurement dt source offset => Sys2Proof.Machine.execTimeMeasurement dt source offset s
  | .ppsEdge dt => Sys2Proof.Machine.execPpsEdge dt s
  | .timeSourceLost dt => Sys2Proof.Machine.execTimeSourceLost dt s
  | .cairnReport dt rep => Sys2Proof.Machine.execCairnReport dt rep s
  | .cairnRecordWrite dt => Sys2Proof.Machine.execCairnRecordWrite dt s
  | .screeRelease dt => Sys2Proof.Machine.execScreeRelease dt s
  | .journalFlushed dt => Sys2Proof.Machine.execJournalFlushed dt s
  | .captureIdleTick dt => Sys2Proof.Machine.execCaptureIdleTick dt s
  | .captureEvent dt type value => Sys2Proof.Machine.execCaptureEvent dt type value s
  | .captureOverflow dt cause => Sys2Proof.Machine.execCaptureOverflow dt cause s
  | .captureRearm dt => Sys2Proof.Machine.execCaptureRearm dt s
  | .captureStreamSend dt => Sys2Proof.Machine.execCaptureStreamSend dt s
  | .ethernetFrameRx dt frame => Sys2Proof.Machine.execEthernetFrameRx dt frame s
  | .arpRequestRx dt port senderMac senderIp targetIp => Sys2Proof.Machine.execArpRequestRx dt port senderMac senderIp targetIp s
  | .arpResolveFail dt port ip => Sys2Proof.Machine.execArpResolveFail dt port ip s
  | .icmpEcho dt port senderMac senderIp data => Sys2Proof.Machine.execIcmpEcho dt port senderMac senderIp data s
  | .ptpMessage dt port msg => Sys2Proof.Machine.execPtpMessage dt port msg s
  | .ptpMasterSend dt port announce => Sys2Proof.Machine.execPtpMasterSend dt port announce s
  | .linkDown dt port => Sys2Proof.Machine.execLinkDown dt port s
  | .linkUp dt port speed duplex => Sys2Proof.Machine.execLinkUp dt port speed duplex s
  | .dxSetpointSend dt late => Sys2Proof.Machine.execDxSetpointSend dt late s
  | .dxReply dt payload => Sys2Proof.Machine.execDxReply dt payload s
  | .wakeFrame dt port destMac fcsOk payload => Sys2Proof.Machine.execWakeFrame dt port destMac fcsOk payload s
  | .canFrameRx dt ctrl frame => Sys2Proof.Machine.execCanFrameRx dt ctrl frame s
  | .canFrameTxDone dt ctrl buffer result tec recErr => Sys2Proof.Machine.execCanFrameTxDone dt ctrl buffer result tec recErr s
  | .canSendTimeout dt ctrl buffer => Sys2Proof.Machine.execCanSendTimeout dt ctrl buffer s
  | .canTtTimeMark dt ctrl buffer busIdle => Sys2Proof.Machine.execCanTtTimeMark dt ctrl buffer busIdle s
  | .canRecovered dt ctrl => Sys2Proof.Machine.execCanRecovered dt ctrl s
  | .canCmdSegment dt ctrl data back => Sys2Proof.Machine.execCanCmdSegment dt ctrl data back s
  | .canCmdPartialTimeout dt ctrl => Sys2Proof.Machine.execCanCmdPartialTimeout dt ctrl s
  | .canTtReferenceSend dt ctrl => Sys2Proof.Machine.execCanTtReferenceSend dt ctrl s
  | .canTtReferenceRx dt ctrl data back => Sys2Proof.Machine.execCanTtReferenceRx dt ctrl data back s
  | .canTtRefLost dt ctrl => Sys2Proof.Machine.execCanTtRefLost dt ctrl s
  | .canWake dt ctrl cause => Sys2Proof.Machine.execCanWake dt ctrl cause s
  | .canopenSyncSend dt ctrl => Sys2Proof.Machine.execCanopenSyncSend dt ctrl s
  | .canopenTpdo dt ctrl node status pos => Sys2Proof.Machine.execCanopenTpdo dt ctrl node status pos s
  | .canopenHbLost dt ctrl node => Sys2Proof.Machine.execCanopenHbLost dt ctrl node s
  | .canopenSdoRequest dt ctrl data => Sys2Proof.Machine.execCanopenSdoRequest dt ctrl data s
  | .canopenEmcy dt ctrl node code reg => Sys2Proof.Machine.execCanopenEmcy dt ctrl node code reg s
  | .canopenHeartbeatSend dt ctrl => Sys2Proof.Machine.execCanopenHeartbeatSend dt ctrl s
  | .cia417Setpoint dt ctrl opcode payload => Sys2Proof.Machine.execCia417Setpoint dt ctrl opcode payload s
  | .canopenDoor dt ctrl door state => Sys2Proof.Machine.execCanopenDoor dt ctrl door state s
  | .fieldInputSample dt raw cfgEn => Sys2Proof.Machine.execFieldInputSample dt raw cfgEn s
  | .outFaultSet dt output cause => Sys2Proof.Machine.execOutFaultSet dt output cause s
  | .fieldLinkLostB dt => Sys2Proof.Machine.execFieldLinkLostB dt s
  | .fieldLinkLost dt => Sys2Proof.Machine.execFieldLinkLost dt s
  | .fieldSupplyMeasure dt va vb => Sys2Proof.Machine.execFieldSupplyMeasure dt va vb s
  | .operationCounterSave dt => Sys2Proof.Machine.execOperationCounterSave dt s
  | .powerOn dt alwaysOnKept => Sys2Proof.Machine.execPowerOn dt alwaysOnKept s
  | .vinResetLevel dt => Sys2Proof.Machine.execVinResetLevel dt s
  | .supplyFault dt supply mv => Sys2Proof.Machine.execSupplyFault dt supply mv s
  | .vaonBkLow dt mv => Sys2Proof.Machine.execVaonBkLow dt mv s
  | .resetNLow dt ns => Sys2Proof.Machine.execResetNLow dt ns s
  | .stuckReset dt seconds => Sys2Proof.Machine.execStuckReset dt seconds s
  | .startSequence dt boot => Sys2Proof.Machine.execStartSequence dt boot s
  | .supervisorWatchdog dt => Sys2Proof.Machine.execSupervisorWatchdog dt s
  | .supplyWarning dt vin => Sys2Proof.Machine.execSupplyWarning dt vin s
  | .supplyDip dt lowest => Sys2Proof.Machine.execSupplyDip dt lowest s
  | .wakeSource dt source => Sys2Proof.Machine.execWakeSource dt source s
  | .wakeStepDone dt => Sys2Proof.Machine.execWakeStepDone dt s
  | .wakeStepTimeout dt => Sys2Proof.Machine.execWakeStepTimeout dt s
  | .wakeRetry dt => Sys2Proof.Machine.execWakeRetry dt s
  | .wakeTimeReached dt => Sys2Proof.Machine.execWakeTimeReached dt s
  | .scrubTick dt region addr result reader => Sys2Proof.Machine.execScrubTick dt region addr result reader s
  | .ageingSlackMeasure dt slack => Sys2Proof.Machine.execAgeingSlackMeasure dt slack s
  | .ageingReplan dt need => Sys2Proof.Machine.execAgeingReplan dt need s
  | .temperatureBandCrossing dt band need => Sys2Proof.Machine.execTemperatureBandCrossing dt band need s
  | .commitStampReached dt => Sys2Proof.Machine.execCommitStampReached dt s
  | .fieldLinkRestored dt sideB => Sys2Proof.Machine.execFieldLinkRestored dt sideB s
  | .debugPortInstruction dt ins => Sys2Proof.Machine.execDebugPortInstruction dt ins s
  | .holdoverTimeout dt => Sys2Proof.Machine.execHoldoverTimeout dt s
  | .countingRecord dt => Sys2Proof.Machine.execCountingRecord dt s
  | .arpCacheEntryExpired dt port ip => Sys2Proof.Machine.execArpCacheEntryExpired dt port ip s
  | .ptpAnnounceTimeout dt port => Sys2Proof.Machine.execPtpAnnounceTimeout dt port s
  | .ptpDelayReqSend dt port => Sys2Proof.Machine.execPtpDelayReqSend dt port s

end Sys2Proof.Machine
end

