-- ==== Sys2Proof/Safety.lean ====
section
/-!
DEFINITION. Sys2Proof/Safety.lean: what counts as a safe state and a safe run of the block, and what an operation may
change, in the terms claims use.
-/
namespace Sys2Proof.Machine

/-- The memory keeps its canonical form: addresses rising, no byte equal to what an unlisted address reads as. -/
def State.memWf (s : State) : Bool := Store.wf (0 : BitVec 8) s.mem

/-- A step that goes on: neither a fault nor a refusal. -/
def Safe (s : State) : Prop := ∃ t, step s = .next t

/-- The parts of the state a frame names; the part code, the stepping and the queue of commands are in no frame. -/
inductive Part where
  /-- timebase (chapter 11) -/
  | tm
  /-- Cairn journal (chapter 11) -/
  | cn
  /-- command journal and sessions (chapter 9) -/
  | jn
  /-- parameter sets and drafts (chapters 0 and 9) -/
  | pm
  /-- Ridge (chapter 2) -/
  | rg
  /-- spurs (chapter 3) -/
  | sp
  /-- stages (chapters 4 and 5) -/
  | st
  /-- modulator inputs (chapter 4) -/
  | md
  /-- machines (chapter 4) -/
  | mc
  /-- auxiliary PWM channels (chapter 5) -/
  | ap
  /-- PWM of the STO groups (chapter 5) -/
  | gp
  /-- feedback channels (chapter 6) -/
  | fb
  /-- event inputs (chapter 6) -/
  | ev
  /-- latches (chapter 6) -/
  | la
  /-- rate multipliers (chapter 7) -/
  | rm
  /-- axis contexts (chapter 7) -/
  | ax
  /-- path groups (chapter 7) -/
  | pg
  /-- learning tables (chapter 8) -/
  | lt
  /-- safety monitor (chapter 10) -/
  | sf
  /-- capture engine (chapter 12) -/
  | cp
  /-- field inputs and outputs (chapter 15) -/
  | fd
  /-- SPI host port (chapter 13) -/
  | hp
  /-- Ethernet ports (chapter 13) -/
  | eth
  /-- drive exchange (chapter 13) -/
  | dx
  /-- CAN controllers (chapter 14) -/
  | can
  /-- reset, power, boot and debug (chapter 16) -/
  | pw
  /-- ageing controller (chapter 16) -/
  | ag
  /-- bookkeeping of the memories (chapter 17) -/
  | mm
  /-- bytes of the memories (R39) -/
  | mem
  /-- what the module put on its wires -/
  | sent
  /-- the model's counter of free values -/
  | free
deriving DecidableEq, Repr

/-- Two states agree on one part. -/
def Part.same (p : Part) (s t : State) : Prop :=
  match p with
  | .tm => t.tm = s.tm
  | .cn => t.cn = s.cn
  | .jn => t.jn = s.jn
  | .pm => t.pm = s.pm
  | .rg => t.rg = s.rg
  | .sp => t.sp = s.sp
  | .st => t.st = s.st
  | .md => t.md = s.md
  | .mc => t.mc = s.mc
  | .ap => t.ap = s.ap
  | .gp => t.gp = s.gp
  | .fb => t.fb = s.fb
  | .ev => t.ev = s.ev
  | .la => t.la = s.la
  | .rm => t.rm = s.rm
  | .ax => t.ax = s.ax
  | .pg => t.pg = s.pg
  | .lt => t.lt = s.lt
  | .sf => t.sf = s.sf
  | .cp => t.cp = s.cp
  | .fd => t.fd = s.fd
  | .hp => t.hp = s.hp
  | .eth => t.eth = s.eth
  | .dx => t.dx = s.dx
  | .can => t.can = s.can
  | .pw => t.pw = s.pw
  | .ag => t.ag = s.ag
  | .mm => t.mm = s.mm
  | .mem => t.mem = s.mem
  | .sent => t.sent = s.sent
  | .free => t.free = s.free

/-- `t` differs from `s` in the listed parts only: the part code, the stepping, the queue of commands and every other part
are the same. -/
def OnlyChanges (ps : List Part) (s t : State) : Prop :=
  (t.part = s.part ∧ t.stepping = s.stepping ∧ t.pending = s.pending) ∧ ∀ p : Part, p ∉ ps → p.same s t

/-! ### Spurs -/

/-- The spur whose instruction a command is, none for every other command. -/
def spurOf : Instr → Option (Fin 8)
  | .nop k | .bra k _ | .call k _ | .ret k | .bfc k _ _ _ | .rep k _ _ | .endOp k | .clrf k => some k
  | .mpy k _ | .mac k _ | .msu k _ | .cmpy k _ | .cmac k _ | .cmpyj k _ | .cmacj k _ => some k
  | .clra k _ | .ash k _ _ | .rnd k _ _ | .sat32 k _ _ | .adda k _ _ _ | .suba k _ _ _ | .acmp k _ _ | .mova k _ _
  | .ldad k _ _ => some k
  | .add k _ _ _ | .addc k _ _ _ | .adds k _ _ _ | .sub k _ _ _ | .subc k _ _ _ | .subs k _ _ _ | .andOp k _ _ _
  | .orOp k _ _ _ | .xorOp k _ _ _ | .cmp k _ _ | .minOp k _ _ _ | .maxOp k _ _ _ | .absOp k _ _ | .neg k _ _
  | .shl k _ _ _ | .shr k _ _ _ | .asr k _ _ _ | .aluImmediate k _ _ _ _ => some k
  | .mulwSs k _ _ _ | .mulwUs k _ _ _ | .csel k _ _ _ _ | .cmov k _ _ _ | .acsel k _ _ _ _ => some k
  | .ld16 k _ _ | .ld16h k _ _ | .ld32 k _ _ | .lda32 k _ _ | .st16 k _ _ | .st32 k _ _ | .str k _ _ | .sts k _ _
  | .dualLoad k _ _ _ _ => some k
  | .ldp k _ _ | .addp k _ _ | .movp k _ _ | .ldml k _ _ | .ldmh k _ _ | .movm k _ _ | .xch k _ _ _ => some k
  | .ldiL k _ _ | .ldiH k _ _ | .mov k _ _ | .rdsr k _ | .wrsr k _ | .rdfc k _ | .reservedEncoding k => some k
  | _ => none

/-- Spur `k` starts an instruction: it runs its frame program and is not halted (R60, R144). -/
def State.spurExecutes (s : State) (k : Fin 8) : Prop := (s.spur k).live = true ∧ (s.spur k).halted = false

/-- The command completes, and `P` holds of the spur before and after it. -/
def SpurDoes (i : Instr) (k : Fin 8) (s : State) (P : SpurSt → SpurSt → Prop) : Prop :=
  ∃ t, exec i s = .next t ∧ P (s.spur k) (t.spur k)

/-- An integer that a signed field of `w` bits holds. -/
def Fits (w : Nat) (i : Int) : Prop := -(2 ^ (w - 1) : Int) ≤ i ∧ i < 2 ^ (w - 1)

/-- The nearest value to `i` in a signed field of `w` bits. -/
def nearest (w : Nat) (i : Int) : Int := max (-(2 ^ (w - 1) : Int)) (min (2 ^ (w - 1) - 1) i)

/-- The flags N, Z, C and V after an operation with the result `x` (R111). -/
def SpurSt.FlagsAre (w : SpurSt) (x : Word) (c v : Prop) : Prop :=
  (w.n = true ↔ x.toInt < 0) ∧ (w.z = true ↔ x = 0) ∧ (w.c = true ↔ c) ∧ (w.v = true ↔ v)

/-- The flags N and Z after an operation with the result `x`; what C and V become the spec does not state. -/
def SpurSt.SignAre (w : SpurSt) (x : Word) : Prop := (w.n = true ↔ x.toInt < 0) ∧ (w.z = true ↔ x = 0)

/-- What an operation of classes 0x4 and 0x5 leaves in D`d` and the flags, from the first source `x`, the second `y` and the shift
count `n`: `r` is the spur before, `w` after (R131, R148, R152). -/
def AluGives (op : AluOp) (d : Fin 16) (x y : Word) (n : Nat) (r w : SpurSt) : Prop :=
  let c : Nat := if r.c then 1 else 0
  match op with
  | .add => w.rd d = x + y ∧ w.FlagsAre (x + y) (2 ^ 32 ≤ x.toNat + y.toNat) (¬ Fits 32 (x.toInt + y.toInt))
  | .addc => w.rd d = x + y + BitVec.ofNat 32 c ∧
      w.FlagsAre (x + y + BitVec.ofNat 32 c) (2 ^ 32 ≤ x.toNat + y.toNat + c) (¬ Fits 32 (x.toInt + y.toInt + c))
  | .adds => (w.rd d).toInt = nearest 32 (x.toInt + y.toInt) ∧
      w.FlagsAre (w.rd d) (2 ^ 32 ≤ x.toNat + y.toNat) (¬ Fits 32 (x.toInt + y.toInt))
  | .sub => w.rd d = x - y ∧ w.FlagsAre (x - y) (x.toNat < y.toNat) (¬ Fits 32 (x.toInt - y.toInt))
  | .subc => w.rd d = x - y - BitVec.ofNat 32 c ∧
      w.FlagsAre (x - y - BitVec.ofNat 32 c) (x.toNat < y.toNat + c) (¬ Fits 32 (x.toInt - y.toInt - c))
  | .subs => (w.rd d).toInt = nearest 32 (x.toInt - y.toInt) ∧
      w.FlagsAre (w.rd d) (x.toNat < y.toNat) (¬ Fits 32 (x.toInt - y.toInt))
  | .and => (∀ i, (w.rd d).getLsbD i = (x.getLsbD i && y.getLsbD i)) ∧ w.SignAre (w.rd d)
  | .or => (∀ i, (w.rd d).getLsbD i = (x.getLsbD i || y.getLsbD i)) ∧ w.SignAre (w.rd d)
  | .xor => (∀ i, (w.rd d).getLsbD i = (x.getLsbD i ^^ y.getLsbD i)) ∧ w.SignAre (w.rd d)
  | .cmp => (∀ j, w.rd j = r.commit.rd j) ∧ w.FlagsAre (x - y) (x.toNat < y.toNat) (¬ Fits 32 (x.toInt - y.toInt))
  | .min => (w.rd d).toInt = min x.toInt y.toInt ∧ w.SignAre (w.rd d)
  | .max => (w.rd d).toInt = max x.toInt y.toInt ∧ w.SignAre (w.rd d)
  | .abs => (w.rd d).toNat = x.toInt.natAbs ∧ w.SignAre (w.rd d) ∧ (w.v = true ↔ ¬ Fits 32 (-x.toInt))
  | .neg => w.rd d = -x ∧ w.FlagsAre (-x) (0 < x.toNat) (¬ Fits 32 (-x.toInt))
  | .shl => (w.rd d).toNat = x.toNat * 2 ^ n % 2 ^ 32 ∧ w.SignAre (w.rd d)
  | .shr => (w.rd d).toNat = x.toNat / 2 ^ n ∧ w.SignAre (w.rd d)
  | .asr => (w.rd d).toInt = x.toInt / 2 ^ n ∧ w.SignAre (w.rd d)

/-- The value of the fractional product of two Q15 words (R122). -/
def q31 (x y : BitVec 16) : Int := if x = 0x8000#16 ∧ y = 0x8000#16 then 0x7FFFFFFF else 2 * (x.toInt * y.toInt)

/-- The operand of the dual-MAC class: the low half of a D register, or the word of the bank at its P register (R117, R150). -/
def State.macWord (s : State) (k : Fin 8) (bankY : Bool) : MacSrc → BitVec 16
  | .reg d => ((s.spur k).rd d).setWidth 16
  | .mem a => s.ld16 k bankY ((s.spur k).rp (dualReg bankY a))

/-- P`i` after an access of `n` words (R120): unchanged, or advanced by the access, or as `postMod` computes where R121 defines it. -/
def PostGives (r w : SpurSt) (i : Fin 8) (n : Nat) : PostForm → Prop
  | .keep => w.rp i = r.commit.rp i
  | .inc => w.rp i = r.rp i + BitVec.ofNat 14 n
  | .by j => ∀ a, postMod (r.rp i) (r.rm j) = some a → w.rp i = a

/-- The post-modification of an operand of the dual-MAC class (R150). -/
def MacPost (r w : SpurSt) (bankY : Bool) : MacSrc → Prop
  | .reg _ => True
  | .mem a => PostGives r w (dualReg bankY a) 1 (dualForm bankY a.mod)

/-- The bytes a store of a 16-bit word goes to: the first of two, none where the bank has no word (R115). -/
def State.wordByte (s : State) (k : Fin 8) (bankY : Bool) (a : Addr) : Option Nat :=
  (s.physWord bankY a).map fun n => bankBase k bankY + 2 * n

/-- What a store of `v` at spur word address `a` leaves: the two bytes hold it, lowest first, and every byte that neither of the
listed word addresses reaches is as before. -/
def State.Holds16 (s t : State) (k : Fin 8) (bankY : Bool) (a : Addr) (v : BitVec 16) : Prop :=
  ∀ b, s.wordByte k bankY a = some b → t.rd8 b = v.toNat % 256 ∧ t.rd8 (b + 1) = v.toNat / 256

/-- Every byte of memory but those of the listed spur words is as before. -/
def State.MemKeeps (s t : State) (k : Fin 8) (bankY : Bool) (as : List Addr) : Prop :=
  ∀ x, (∀ a ∈ as, ∀ b, s.wordByte k bankY a = some b → x ≠ b ∧ x ≠ b + 1) → t.rd8 x = s.rd8 x

/-- The cycles of a spur instruction (R148), of every one but END, XCH and a reserved encoding. -/
def cyclesOf : Instr → Nat
  | .mulwSs .. | .mulwUs .. => 2
  | _ => 1

/-- The instructions of a spur that run to the next one: all but END, XCH and a reserved encoding. -/
def plainSpurOf (i : Instr) : Option (Fin 8) :=
  match i with
  | .endOp _ | .xch .. | .reservedEncoding _ => none
  | _ => spurOf i

/-- The D registers a spur instruction writes. -/
def writesD : Instr → List (Fin 16)
  | .rnd _ _ d | .sat32 _ _ d | .add _ d _ _ | .addc _ d _ _ | .adds _ d _ _ | .sub _ d _ _ | .subc _ d _ _ | .subs _ d _ _
  | .andOp _ d _ _ | .orOp _ d _ _ | .xorOp _ d _ _ | .minOp _ d _ _ | .maxOp _ d _ _ | .absOp _ d _ | .neg _ d _
  | .shl _ d _ _ | .shr _ d _ _ | .asr _ d _ _ | .csel _ d _ _ _ | .cmov _ d _ _ | .ldiL _ d _ | .ldiH _ d _
  | .mov _ d _ | .rdsr _ d | .rdfc _ d => [d]
  | .aluImmediate _ op d _ _ => if op = .cmp then [] else [d]
  | .mulwSs _ p _ _ | .mulwUs _ p _ _ => [⟨2 * p.val, by omega⟩, ⟨2 * p.val + 1, by omega⟩]
  | _ => []

/-- The accumulators a spur instruction writes. -/
def writesA : Instr → List (Fin 4)
  | .mpy _ op | .mac _ op | .msu _ op => [op.acc]
  | .cmpy _ op | .cmac _ op | .cmpyj _ op | .cmacj _ op => [pairRe op.pair, pairIm op.pair]
  | .clra _ a | .ash _ a _ | .adda _ a _ _ | .suba _ a _ _ | .mova _ a _ | .ldad _ a _ | .acsel _ a _ _ _ => [a]
  | _ => []

/-- The address register that a dual-MAC operand post-modifies. -/
def macP (bankY : Bool) : MacSrc → List (Fin 8)
  | .reg _ => []
  | .mem a => [dualReg bankY a]

/-- The address registers a spur instruction's addressing updates. -/
def writesP : Instr → List (Fin 8)
  | .mpy _ op | .mac _ op | .msu _ op => macP false op.x ++ macP true op.y
  | .cmpy _ op | .cmac _ op | .cmpyj _ op | .cmacj _ op => [dualReg false op.x, dualReg true op.y]
  | .dualLoad _ _ x _ y => [dualReg false x, dualReg true y]
  | .ld16 _ _ m | .ld16h _ _ m | .ld32 _ _ m | .lda32 _ _ m | .st16 _ _ m | .st32 _ _ m | .str _ _ m | .sts _ _ m => [m.p]
  | _ => []

/-- A spur instruction that sets N, Z, C and V. -/
def setsFlags : Instr → Bool
  | .add .. | .addc .. | .adds .. | .sub .. | .subc .. | .subs .. | .andOp .. | .orOp .. | .xorOp .. | .cmp .. | .minOp ..
  | .maxOp .. | .absOp .. | .neg .. | .shl .. | .shr .. | .asr .. | .aluImmediate .. | .acmp .. | .wrsr .. => true
  | _ => false

/-- A spur instruction that may set a sticky bit, or clear one: PS, AV, RV (R111). -/
def setsSticky : Instr → Bool
  | .mpy .. | .mac .. | .msu .. | .cmpy .. | .cmac .. | .cmpyj .. | .cmacj .. | .ash .. | .rnd .. | .sat32 .. | .adda .. | .suba ..
  | .str .. | .sts .. | .clrf .. | .wrsr .. => true
  | _ => false

/-- A spur instruction that stores to a bank. -/
def storesMem : Instr → Bool
  | .st16 .. | .st32 .. | .str .. | .sts .. => true
  | _ => false

/-! ### Command packets -/

/-- A packet that passes steps 1 to 7 of R398 as one of kind `k`, outside the supply warning, a power entry, RECOVERY and a reset in
progress (R398, R719, R733): a link that serves brings it whole, its header and its session are in order and its tag is where one is
required. -/
def State.hears (s : State) (p : Packet) (k : OpKind) : Prop :=
  (p.magicOk = true ∧ p.lenOk = true ∧ p.crcOk = true) ∧ s.pw.ready = true ∧ s.linkServes p.link = true ∧
    20 + p.payload.length + (if p.flags.testBit 0 then 16 else 0) ≤ linkLargest p.link ∧ s.headerCheck p = none ∧
    (∃ r, opRow p.opcode = some r ∧ p.kind r.1 = k) ∧ s.sessionOk p k = true ∧ (tagCheck p s).1 = true ∧
    s.pw.warning = false ∧ s.pw.entry = none ∧ s.pw.mode ≠ .recovery ∧ s.pw.resetDue = none

/-- The state after the tag check: the session speaks from the packet's link from now on (R406). -/
def State.heard (s : State) (p : Packet) : State :=
  (tagCheck p s).2.updSession p.session fun x => { x with link := p.link }

/-- A packet that is accepted into journal slot `slot` and starts at once (R398 steps 8 to 11, R407, R415, R418, R419): it is next in
its session's sequence, fewer than 1 024 commands are open, a copy of the journal serves, the slot is the next free one, nothing in progress
or finished still holds it, and no command waits. -/
def State.accepts (s : State) (p : Packet) (slot : Nat) : Prop :=
  s.hears p .sequenced ∧ p.deferred = false ∧ s.jn.queue = [] ∧
    (∃ x, s.session p.session = some x ∧ seqDelta x.lastSeq p.seq = 1) ∧ s.open_ < 1024 ∧
    (s.jn.fail0 && s.jn.fail1) = false ∧ s.freeSlot = some slot ∧ (∀ d ∈ s.jn.done, d.slot ≠ slot) ∧
    ∀ c ∈ s.jn.running, c.slot ≠ slot

/-- The command that an accepted packet carries (R412, R425). -/
def State.cmdOf (s : State) (p : Packet) (slot : Nat) : Cmd :=
  p.cmd slot s.ns (if p.opcode = 0x203 then (s.pm.gen + 1) % 2 ^ 32 else s.pm.gen)

/-- The state in which an accepted command acts: its entry is in the journal and started (R412, R414, R419). -/
def State.starting (s : State) (p : Packet) (slot : Nat) : State :=
  let a := acceptEntry p slot (s.heard p)
  { a with jn := { a.jn with queue := [] } }.markStarted (s.cmdOf p slot)

/-- The row `i`, a packet of opcode `op` with the arguments `args`, completes wherever it is accepted and starts (R398) and `pre` holds of
its command and of the state in which that acts: `P` holds of the command, of that state and of the next. -/
def Commands (i : Instr) (h : Hdr) (op : Nat) (args : List Nat) (pre : Cmd → State → Prop) (P : Cmd → State → State → Prop) : Prop :=
  ∀ s slot, let e := s.elapse h.dt
    let p := rowPacket h op args
    let c := e.cmdOf p slot
    let b := e.starting p slot
    e.accepts p slot → pre c b → ∃ t, exec i s = .next t ∧ P c b t

/-- The row `i`, a query or a session-control packet of opcode `op` with the arguments `args`, completes wherever it is heard and `pre`
holds of the state after the tag check: `P` holds of the packet, of that state and of the next. -/
def Answers (i : Instr) (h : Hdr) (op : Nat) (args : List Nat) (pre : Packet → State → Prop) (P : Packet → State → State → Prop) : Prop :=
  ∀ s k, let e := s.elapse h.dt
    let p := rowPacket h op args
    let b := e.heard p
    e.hears p k → k ≠ .sequenced → pre p b → ∃ t, exec i s = .next t ∧ P p b t

/-- The command is finished with the outcome `o`, the status `st` and the detail `dt`: its entry is completed so, and the last thing
the module does is the reply to its packet, which says so and carries `data` (R395, R412, R414). -/
def State.Reports (t : State) (c : Cmd) (o st dt : Nat) (data : List Nat) : Prop :=
  (∃ e, e = t.entry c.slot ∧ e.state = 3 ∧ e.outcome = o ∧ e.status = st ∧ e.detail = dt) ∧ t.runningCmd c.slot = none ∧
    ∃ (u : State) (ns : Nat), t = u.deliver c.link c.session c.seq (u.modulePacket c.session c.seq c.opcode c.target 0
      (replyBlock st o dt (some c.accept) (some ns) ++ data))

/-- The command is in progress: its entry is started, and its outcome is still to come (R414, R419). -/
def State.InProgress (t : State) (c : Cmd) : Prop :=
  (∃ e, e = t.entry c.slot ∧ e.state = 2 ∧ e.outcome = 1 ∧ e.session = c.session ∧ e.seq = c.seq ∧ e.opcode = c.opcode) ∧
    t.runningCmd c.slot = some c

/-- The parts that the completion of a command in its reply touches: the journal, the links and the wear of the MRAM. -/
def replyTouches : List Part := [.jn, .hp, .eth, .can, .mm, .sent]

/-- The parts that the reply to a command in progress touches: the links. -/
def linkTouches : List Part := [.hp, .eth, .can, .sent]

/-- The command completes with status `st` and detail 0, and changes nothing but its entry and the links. -/
def State.Refuses (b t : State) (c : Cmd) (st : Nat) : Prop := t.Reports c 2 st 0 [] ∧ OnlyChanges replyTouches b t

/-- The row that brings a command packet: its header, its opcode and its arguments as bytes. -/
def packetOf : Instr → Option (Hdr × Nat × List Nat)
  | .hello h mode req most => some (h, 0x100, [mode, req] ++ le 2 most)
  | .bye h => some (h, 0x101, [])
  | .resume h first count => some (h, 0x102, le 4 first ++ [count])
  | .ackOutcomes h n => some (h, 0x103, le 4 n)
  | .ping h data => some (h, 0x104, data)
  | .auth h r => some (h, 0x105, r)
  | .getIdentity h => some (h, 0x200, [])
  | .getStatus h => some (h, 0x201, [])
  | .getParam h id source => some (h, 0x202, le 4 id ++ [source])
  | .getParamInfo h id => some (h, 0x204, le 4 id)
  | .setParamLive h id value => some (h, 0x203, le 4 id ++ leI 8 value)
  | .stageOpen h => some (h, 0x300, [])
  | .stageWrite h ws => some (h, 0x301, writeBytes ws)
  | .stageCheck h => some (h, 0x302, [])
  | .stageCommit h mode stamp => some (h, 0x303, [mode, 0] ++ stamp)
  | .stageDiscard h => some (h, 0x304, [])
  | .stageRead h first count => some (h, 0x305, le 2 first ++ le 2 count)
  | .stageEnable h => some (h, 0x400, [])
  | .stageDisable h => some (h, 0x401, [])
  | .machineIdentify h mode => some (h, 0x402, [mode])
  | .tripClear h => some (h, 0x403, [])
  | .axisEnable h preload => some (h, 0x500, leI 4 preload)
  | .axisDisable h => some (h, 0x501, [])
  | .moveAbs h pos => some (h, 0x502, leI 8 pos)
  | .moveRel h dist => some (h, 0x503, leI 8 dist)
  | .moveVel h vel => some (h, 0x504, leI 4 vel)
  | .retarget h pos => some (h, 0x505, leI 8 pos)
  | .setMotionLimits h v a d j => some (h, 0x506, le 4 v ++ le 4 a ++ le 4 d ++ le 4 j)
  | .stop h mode => some (h, 0x507, [mode])
  | .home h => some (h, 0x508, [])
  | .pathAppend h segs => some (h, 0x509, segs.flatMap segBytes)
  | .pathStart h => some (h, 0x50A, [])
  | .gearEngage h mode => some (h, 0x50B, [mode])
  | .gearDisengage h mode => some (h, 0x50C, [mode])
  | .ltFreeze h l => some (h, 0x50D, learnBytes l 0 0 0 [])
  | .ltResume h l => some (h, 0x50D, learnBytes l 1 0 0 [])
  | .ltClear h l => some (h, 0x50D, learnBytes l 2 0 0 [])
  | .ltRead h l first count => some (h, 0x50D, learnBytes l 3 first count [])
  | .ltWrite h l first bins => some (h, 0x50D, learnBytes l 4 first bins.length bins)
  | .ltSave h l => some (h, 0x50D, learnBytes l 5 0 0 [])
  | .ltStatus h l => some (h, 0x50D, learnBytes l 6 0 0 [])
  | .compareLoad h es => some (h, 0x50E, es.flatMap compareBytes)
  | .latchArm h edge mode => some (h, 0x50F, [edge, mode])
  | .safetyStatus h => some (h, 0x600, [])
  | .safetyReset h groups => some (h, 0x601, [groups])
  | .safetyConfigBegin h => some (h, 0x602, [])
  | .safetyConfigWrite h ws => some (h, 0x603, writeBytes ws)
  | .safetyConfigValidate h => some (h, 0x604, [])
  | .safetyConfigActivate h crc => some (h, 0x605, le 4 crc)
  | .safetyTestRunLatent h groups => some (h, 0x606, [1, groups, 0, 0] ++ le 4 0)
  | .safetyTestRunBrake h axis outputs dir torque => some (h, 0x606, [2, axis, outputs, dir] ++ leI 4 torque)
  | .journalRead h first count => some (h, 0x700, le 4 first ++ [count])
  | .journalMark h code data => some (h, 0x701, le 2 code ++ data)
  | .timeGet h => some (h, 0x702, [])
  | .timeSet h stamp => some (h, 0x703, stampBytes stamp)
  | .captureArm h flags states => some (h, 0x710, [flags, 0] ++ states.flatMap stateBytes)
  | .captureStop h => some (h, 0x711, [0, 0] ++ le 4 0)
  | .captureReleaseUser h first last => some (h, 0x711, [1, 0] ++ le 2 first ++ le 2 last)
  | .captureReleaseEvidence h first last => some (h, 0x711, [2, 0] ++ le 2 first ++ le 2 last)
  | .captureRead h seg first count => some (h, 0x712, le 2 seg ++ le 4 first ++ le 2 count)
  | .captureStatus h => some (h, 0x713, [])
  | .powerState h state => some (h, 0x800, [state])
  | .resetRequestWarm h => some (h, 0x801, [1, 0])
  | .resetRequestDomain h block => some (h, 0x801, [2, block])
  | .ageingReportSummary h => some (h, 0x802, [0])
  | .ageingReportWear h first count => some (h, 0x802, [1] ++ le 2 first ++ le 2 count)
  | .ageingReportCounters h => some (h, 0x802, [2])
  | .imageBegin h length => some (h, 0x900, le 4 length)
  | .imageData h offset data => some (h, 0x901, le 4 offset ++ data)
  | .imageEnd h => some (h, 0x902, [])
  | .imageActivate h => some (h, 0x903, [])
  | .imageList h => some (h, 0x904, [])
  | .ioRead h => some (h, 0xA00, [])
  | .ioWrite h mask levels safe => some (h, 0xA01, ioBytes mask levels safe)
  | .canSend h req => some (h, 0xA02, sendBytes req)
  | .canCancel h buffer => some (h, 0xA03, [buffer])
  | .canRead h count => some (h, 0xA04, [count])
  | _ => none

/-- The row `i` is accepted and starts, `pre` holds of its command and of the state in which that acts, and it completes: `P` holds of
the command, of that state and of the next. -/
def Runs (i : Instr) (pre : Cmd → State → Prop) (P : Cmd → State → State → Prop) : Prop :=
  ∃ h op args, packetOf i = some (h, op, args) ∧ Commands i h op args pre P

/-- The same of a query or a session-control row that is heard. -/
def Replies (i : Instr) (pre : Packet → State → Prop) (P : Packet → State → State → Prop) : Prop :=
  ∃ h op args, packetOf i = some (h, op, args) ∧ Answers i h op args pre P

/-! ### Events -/

/-- The row `i` completes from every state of which, once `dt` cycles have passed, `pre` holds: `P` holds of that state and of the next. -/
def Acts (i : Instr) (dt : Nat) (pre : State → Prop) (P : State → State → Prop) : Prop :=
  ∀ s, let e := s.elapse dt
    pre e → ∃ t, exec i s = .next t ∧ P e t

/-- The row `i` is not due where `pre` holds: it leaves the state as time has made it. -/
def Idles (i : Instr) (dt : Nat) (pre : State → Prop) : Prop := Acts i dt pre fun e t => t = e

/-- The state after the reports `rs` to the Cairn journal, in order: source, level, code and data of each (R559 to R565). -/
def State.told (s : State) (rs : List (Nat × Nat × Nat × List Nat)) : State :=
  rs.foldl (fun s r => s.report r.1 r.2.1 r.2.2.1 r.2.2.2) s

/-- The Cairn journal and the capture engine are as the reports `rs` leave them. -/
def State.Tells (e t : State) (rs : List (Nat × Nat × Nat × List Nat)) : Prop := t.cn = (e.told rs).cn ∧ t.cp = (e.told rs).cp

/-- The same of a step of T by `d` ns with its cause, whose record takes the stamp of the new time (R542). -/
def State.TellsStep (e t : State) (rs : List (Nat × Nat × Nat × List Nat)) (d : Int) (cause : Nat) : Prop :=
  let u : State := { e.told rs with tm := t.tm }
  t.cn = (u.report 8 2 1 (leI 8 d ++ b1 t.tm.stepEpoch ++ b1 cause)).cn ∧ t.cp = (u.report 8 2 1 (leI 8 d ++ b1 t.tm.stepEpoch ++ b1 cause)).cp

/-- What a report touches: the Cairn journal, the capture engine's trigger, the interrupt flags and the wear of the MRAM. -/
def reportTouches : List Part := [.cn, .cp, .hp, .mm]

/-- The command at journal slot `k`, if it is in progress, ends: its outcome, COMPLETED with status `st`, waits for its report (R420). -/
def State.Ends (e t : State) (k st : Nat) : Prop :=
  t.runningCmd k = none ∧
    ((e.runningCmd k).isSome = true → ∃ d ∈ t.jn.done, d.slot = k ∧ d.outcome = 2 ∧ d.status = st)

/-- A failure of spur `k` that is the first since the Ridge's start, with a variant for it in the image and no commit in progress. -/
def State.firstLoss (s : State) (k : Nat) : Prop :=
  s.spurRuns k = true ∧ s.rg.failure = none ∧ s.rg.variant = none ∧ s.hasVariant k = true ∧ s.rg.commit = none

/-- What that failure does at frame cycle `cyc` (R92, R94, R96, R98, R101): recorded, the spur excluded and its halt requested, its stages to
high impedance at the first reload that begins 8 cycles later or after, its machines torque-interrupted. -/
def State.LosesSpur (s t : State) (k check cyc : Nat) : Prop :=
  t.rg.failure = some (k, s.rg.frame) ∧ t.rg.excluded.testBit k = true ∧
    ((t.spur k).halted = true ∨ (t.spur k).has .failover = true) ∧
    (∀ m ∈ s.hosted k, (∀ j ∈ s.machineStages m, (t.stage j).hizFrom = some (s.rg.frameStart + cyc + 8) ∧ (t.stage j).driveFrom = none) ∧
      ((s.machine m).on = true → (t.machine m).interrupted = some 0)) ∧
    (∃ l, s.Tells t ((2, 3, 3, b1 k ++ b1 check ++ b4 s.rg.frame ++ b2 cyc) :: l)) ∧ t.rg.state = s.rg.state ∧ t.rg.frame = s.rg.frame

/-- A latch of stage `k` sets with `cause` (R222, R227, R228): the outputs go to high impedance; nothing is stamped or counted anew where the stage
was latched already. -/
def State.Latches (e t : State) (k cause : Nat) : Prop :=
  (t.stage k).causes.testBit cause = true ∧ ((e.stage k).causes.testBit cause = false →
    (t.stage k).mode = .latched ∧ (t.stage k).hiz = true ∧ (t.stage k).switches = 0 ∧
    ((e.stage k).causes = 0 → (t.stage k).stamp = compact e.ns ∧ (t.stage k).latchedAt = e.tm.now) ∧
    ((e.stage k).causes ≠ 0 → (t.stage k).stamp = (e.stage k).stamp ∧ (t.stage k).count = (e.stage k).count))

/-! ### Safety monitor -/

/-- The monitor works: it has its supply and has not failed (R466, R502). -/
def State.monitors (s : State) : Prop := s.monPowered = true ∧ s.sf.mode ≠ .faulted

/-- What a decision of the monitor touches. -/
def monTouches : List Part := [.cn, .jn, .mc, .ax, .sf, .cp, .hp, .mm]

/-- Cause `c` is latched in every group of `mask`; a group in which it is new, or in which it acts for each of several pairs or machines,
leaves RELEASED and SS1 for STO, and holds its safe outputs `outs` off (R471, R473, R476, R477). -/
def State.Demands (e t : State) (c mask : Nat) (outs : Nat → Nat) : Prop :=
  (∀ g, g < 4 → mask.testBit g = true → (t.group g).causes.testBit c = true) ∧
  ∀ g, g < 4 → mask.testBit g = true → ((e.group g).causes.testBit c = false ∨ sharedCause c = true) →
    (t.group g).mode = (if (e.group g).mode = .testing then .testing else .sto) ∧
    ∀ n, n < 4 → (outs g).testBit n = true → (t.group g).sbc.testBit n = true ∧ (t.sout n).held = true

/-- The monitor's own queue, with what waits for it, holds a record of severity 4 (R560). -/
def State.MonLogs (t : State) (code : Nat) (data : List Nat) : Prop :=
  ∃ r ∈ t.cn.monQ ++ t.cn.monHeld, r.source = 7 ∧ r.level = 4 ∧ r.code = code ∧ r.data = padTo 12 data

end Sys2Proof.Machine
end

