-- ==== Sys2Proof/Certificates/Slice0/Obligations.lean ====
section
/-!
DEFINITION. Sys2Proof/Certificates/Slice0/Obligations.lean: the statements for the provers.
-/
open Sys2Proof Sys2Proof.Machine

/-- A step with a command at the front of the queue is that command's effect on the state with the queue's rest. -/
def Obligations.StepRunsFrontCommand : Prop :=
  ∀ (c : Instr) (rest : List Instr) (s : State),
    Machine.step { s with pending := c :: rest } = Machine.exec c { s with pending := rest }

/-- The machine after reset, with nothing in its queue and nothing written to its memories; that a step on an empty queue changes nothing, and that no
word of the table spells a command, are the model's choices (notes/assumptions/1.md). -/
def Obligations.ResetState : Prop :=
  let s := State.reset
  (s.pending = [] ∧ s.mem = [] ∧ s.memWf = true ∧ s.rg.state = .stopped ∧ s.tm.servo = .free ∧ s.activeSlot = none ∧ s.jn.sessions = [] ∧
    s.pm.gen = 0 ∧ s.image = none) ∧
  (∀ k, (s.stage k).mode = .disabled) ∧ (∀ g, (s.group g).mode = .sto ∧ (s.group g).gdEn = false) ∧
  (∀ u : State, u.pending = [] → Machine.step u = .next u) ∧
  ∀ (u : State) nbits w, Sys2Proof.decodeTableWord nbits w = none ∧ u.withFetchWord nbits w = u

/-- Every command completes from every state, and leaves the part code, the stepping and the queue of waiting commands alone; so every step goes on,
and takes from the queue its first command and no other (R1, log entry 1). -/
def Obligations.EveryCommandCompletes : Prop :=
  (∀ (i : Instr) (s : State), ∃ t, exec i s = .next t ∧ t.part = s.part ∧ t.stepping = s.stepping ∧ t.pending = s.pending) ∧
  ∀ s : State, Safe s ∧ ∀ t, Machine.step s = .next t → t.pending = s.pending.tail ∧ t.part = s.part ∧ t.stepping = s.stepping

/-- The memory of the address map keeps its canonical form at every step: addresses rising, no byte listed that equals what an unlisted address reads
as (the form is the model's, notes/assumptions/2.md). -/
def Obligations.MemoryStaysCanonical : Prop :=
  ∀ s t : State, s.memWf = true → Machine.step s = .next t → t.memWf = true

/-- R131: the 32-bit integer operations of the spur, with their flags. -/
def Obligations.SpurIntegerArithmetic : Prop :=
  ∀ (k : Fin 8) (s : State), s.spurExecutes k → ∀ d a b : Fin 16,
    let x := (s.spur k).rd a
    let y := (s.spur k).rd b
    SpurDoes (.add k d a b) k s (AluGives .add d x y 0) ∧ SpurDoes (.addc k d a b) k s (AluGives .addc d x y 0) ∧
    SpurDoes (.adds k d a b) k s (AluGives .adds d x y 0) ∧ SpurDoes (.sub k d a b) k s (AluGives .sub d x y 0) ∧
    SpurDoes (.subc k d a b) k s (AluGives .subc d x y 0) ∧ SpurDoes (.subs k d a b) k s (AluGives .subs d x y 0)

/-- R148, R152: the logic, comparison and shift operations, and every class 0x4 operation with the signed 12-bit immediate as its second source. A
shift of the immediate class takes the low five bits of the immediate (the model's reading, notes/assumptions/22.md). -/
def Obligations.SpurLogicShiftsAndImmediates : Prop :=
  ∀ (k : Fin 8) (s : State), s.spurExecutes k → ∀ (d a b : Fin 16) (sh : BitVec 5) (op : AluOp) (imm : BitVec 12),
    let x := (s.spur k).rd a
    let y := (s.spur k).rd b
    SpurDoes (.andOp k d a b) k s (AluGives .and d x y 0) ∧ SpurDoes (.orOp k d a b) k s (AluGives .or d x y 0) ∧
    SpurDoes (.xorOp k d a b) k s (AluGives .xor d x y 0) ∧ SpurDoes (.cmp k a b) k s (AluGives .cmp d x y 0) ∧
    SpurDoes (.minOp k d a b) k s (AluGives .min d x y 0) ∧ SpurDoes (.maxOp k d a b) k s (AluGives .max d x y 0) ∧
    SpurDoes (.absOp k d a) k s (AluGives .abs d x 0 0) ∧ SpurDoes (.neg k d a) k s (AluGives .neg d x 0 0) ∧
    SpurDoes (.shl k d a sh) k s (AluGives .shl d x 0 sh.toNat) ∧ SpurDoes (.shr k d a sh) k s (AluGives .shr d x 0 sh.toNat) ∧
    SpurDoes (.asr k d a sh) k s (AluGives .asr d x 0 sh.toNat) ∧
    SpurDoes (.aluImmediate k op d a imm) k s (AluGives op d x (imm.signExtend 32) (imm.toNat % 32))

/-- R122, R124, R126 to R128, R130, R133: products, accumulations, comparisons of accumulators, the complex operations on a pair of words from X and
one from Y into an accumulator pair; shifting, rounding and narrowing of an accumulator. The saturation of R124 replaces a sum outside 40 bits by the
nearest limit and sets AV. -/
def Obligations.SpurAccumulators : Prop :=
  ((∀ (k : Fin 8) (s : State), s.spurExecutes k → ∀ (op : MacOperands) (d a b : Fin 4),
        let x := s.macWord k false op.x
        let y := s.macWord k true op.y
        let acc := ((s.spur k).ra op.acc).toInt
        let p := ((s.spur k).ra a).toInt
        let q := ((s.spur k).ra b).toInt
        let posts (r w : SpurSt) : Prop := MacPost r w false op.x ∧ MacPost r w true op.y ∧
          (w.ps = true ↔ r.ps = true ∨ (x = 0x8000#16 ∧ y = 0x8000#16))
        let sums (j : Fin 4) (i : Int) (r w : SpurSt) : Prop := (w.ra j).toInt = nearest 40 i ∧ (w.av = true ↔ r.av = true ∨ ¬ Fits 40 i)
        SpurDoes (.mpy k op) k s (fun r w => (w.ra op.acc).toInt = q31 x y ∧ w.av = r.av ∧ posts r w) ∧
        SpurDoes (.mac k op) k s (fun r w => sums op.acc (acc + q31 x y) r w ∧ posts r w) ∧
        SpurDoes (.msu k op) k s (fun r w => sums op.acc (acc - q31 x y) r w ∧ posts r w) ∧
        SpurDoes (.adda k d a b) k s (sums d (p + q)) ∧ SpurDoes (.suba k d a b) k s (sums d (p - q)) ∧
        SpurDoes (.acmp k a b) k s (fun _ w => (w.n = true ↔ p < q) ∧ (w.z = true ↔ p = q) ∧ w.c = false ∧ w.v = false)) ∧
    (∀ (k : Fin 8) (s : State), s.spurExecutes k → ∀ op : CplxOperands,
        let px := (s.spur k).rp (dualReg false op.x)
        let py := (s.spur k).rp (dualReg true op.y)
        let a := s.ld16 k false (evenAddr px)
        let b := s.ld16 k false (evenAddr px + 1)
        let c := s.ld16 k true (evenAddr py)
        let d := s.ld16 k true (evenAddr py + 1)
        let gives (keep : Int) (re im : Int) (r w : SpurSt) : Prop :=
          let i := keep * (r.ra (pairRe op.pair)).toInt + re
          let j := keep * (r.ra (pairIm op.pair)).toInt + im
          (w.ra (pairRe op.pair)).toInt = nearest 40 i ∧ (w.ra (pairIm op.pair)).toInt = nearest 40 j ∧
          (w.av = true ↔ r.av = true ∨ ¬ Fits 40 i ∨ ¬ Fits 40 j) ∧
          (w.ps = true ↔ r.ps = true ∨ ((a = 0x8000#16 ∨ b = 0x8000#16) ∧ (c = 0x8000#16 ∨ d = 0x8000#16))) ∧
          PostGives r w (dualReg false op.x) 2 (dualForm false op.x.mod) ∧ PostGives r w (dualReg true op.y) 2 (dualForm true op.y.mod)
        SpurDoes (.cmpy k op) k s (gives 0 (q31 a c - q31 b d) (q31 a d + q31 b c)) ∧
        SpurDoes (.cmac k op) k s (gives 1 (q31 a c - q31 b d) (q31 a d + q31 b c)) ∧
        SpurDoes (.cmpyj k op) k s (gives 0 (q31 a c + q31 b d) (q31 b c - q31 a d)) ∧
        SpurDoes (.cmacj k op) k s (gives 1 (q31 a c + q31 b d) (q31 b c - q31 a d)))) ∧
  (∀ (k : Fin 8) (s : State), s.spurExecutes k → ∀ (a : Fin 4) (d : Fin 16) (sh : BitVec 5),
      let v := ((s.spur k).ra a).toInt
      SpurDoes (.ash k a sh) k s (fun r w =>
        (sh.toInt < 0 → (w.ra a).toInt = v / 2 ^ (-sh.toInt).toNat ∧ w.av = r.av) ∧
        (0 ≤ sh.toInt → (w.ra a).toInt = nearest 40 (v * 2 ^ sh.toInt.toNat) ∧
          (w.av = true ↔ r.av = true ∨ ¬ Fits 40 (v * 2 ^ sh.toInt.toNat)))) ∧
      SpurDoes (.rnd k a d) k s (fun r w => (w.rdL d).toInt = nearest 16 ((v + 0x8000) / 65536) ∧
        (w.rd d).extractLsb' 16 16 = (r.commit.rd d).extractLsb' 16 16 ∧
        (w.rv = true ↔ r.rv = true ∨ ¬ Fits 16 ((v + 0x8000) / 65536))) ∧
      SpurDoes (.sat32 k a d) k s (fun r w => (w.rd d).toInt = nearest 32 v ∧ (w.rv = true ↔ r.rv = true ∨ ¬ Fits 32 v)))

/-- R132: the wide multiplies write a register pair, take two cycles and set no flag. -/
def Obligations.SpurWideMultiply : Prop :=
  ∀ (k : Fin 8) (s : State), s.spurExecutes k → ∀ (p : Fin 8) (a b : Fin 16),
    let gives (z : Int) (r w : SpurSt) : Prop :=
      ((w.rd ⟨2 * p.val + 1, by omega⟩) ++ (w.rd ⟨2 * p.val, by omega⟩) : BitVec 64).toInt = z ∧ w.cycle = r.cycle + 2 ∧
      w.n = r.n ∧ w.z = r.z ∧ w.c = r.c ∧ w.v = r.v ∧ w.ps = r.ps ∧ w.av = r.av ∧ w.rv = r.rv
    SpurDoes (.mulwSs k p a b) k s (gives (((s.spur k).rd a).toInt * ((s.spur k).rdL b).toInt)) ∧
    SpurDoes (.mulwUs k p a b) k s (gives (((s.spur k).rd a).toNat * ((s.spur k).rdL b).toInt))

/-- R111, R136, R148, R152: moves between registers, immediates, selects and the status class; writes to address and modifier registers, which the
second executed instruction after them sees. -/
def Obligations.SpurMovesSelectsStatusAndAddressRegisters : Prop :=
  (∀ (k : Fin 8) (s : State), s.spurExecutes k → ∀ (d a b : Fin 16) (u v x : Fin 4) (imm : BitVec 16) (cd : SelCond),
      let r := s.spur k
      let holds : Prop := match cd with
        | .eq => r.z = true
        | .ne => r.z = false
        | .lt => r.n ≠ r.v
        | .ge => r.n = r.v
        | .gt => r.z = false ∧ r.n = r.v
        | .le => r.z = true ∨ r.n ≠ r.v
        | .lo => r.c = true
        | .hs => r.c = false
        | .al => True
      SpurDoes (.clra k u) k s (fun _ w => w.ra u = 0) ∧ SpurDoes (.mova k u v) k s (fun r w => w.ra u = r.ra v) ∧
      SpurDoes (.ldad k u a) k s (fun r w => (w.ra u).toInt = (r.rd a).toInt) ∧ SpurDoes (.mov k d a) k s (fun r w => w.rd d = r.rd a) ∧
      SpurDoes (.ldiL k d imm) k s (fun r w => w.rd d = (r.commit.rd d).extractLsb' 16 16 ++ imm) ∧
      SpurDoes (.ldiH k d imm) k s (fun r w => w.rd d = imm ++ r.commit.rdL d) ∧
      SpurDoes (.csel k d a b cd) k s (fun r w => (holds → w.rd d = r.rd a) ∧ (¬ holds → w.rd d = r.rd b)) ∧
      SpurDoes (.cmov k d a cd) k s (fun r w => (holds → w.rd d = r.rd a) ∧ (¬ holds → w.rd d = r.commit.rd d)) ∧
      SpurDoes (.acsel k u v x cd) k s (fun r w => (holds → w.ra u = r.ra v) ∧ (¬ holds → w.ra u = r.ra x)) ∧
      SpurDoes (.clrf k) k s (fun _ w => w.ps = false ∧ w.av = false ∧ w.rv = false) ∧
      SpurDoes (.rdfc k d) k s (fun r w => (w.rd d).toNat = r.fc.toNat) ∧
      SpurDoes (.rdsr k d) k s (fun r w => r.stack.length ≤ 4 → r.reps.length ≤ 3 →
        (w.rd d).extractLsb' 26 6 = r.fc ∧ (w.rd d).getLsbD 19 = r.trn ∧ (w.rd d).getLsbD 15 = r.rv ∧ (w.rd d).getLsbD 14 = r.av ∧
        (w.rd d).getLsbD 13 = r.ps ∧ (w.rd d).extractLsb' 8 2 = BitVec.ofNat 2 r.reps.length ∧
        (w.rd d).extractLsb' 5 3 = BitVec.ofNat 3 r.stack.length ∧ (w.rd d).getLsbD 3 = r.n ∧ (w.rd d).getLsbD 2 = r.z ∧
        (w.rd d).getLsbD 1 = r.c ∧ (w.rd d).getLsbD 0 = r.v ∧ (w.rd d).extractLsb' 20 6 = 0 ∧ (w.rd d).extractLsb' 16 3 = 0 ∧
        (w.rd d).extractLsb' 10 3 = 0 ∧ (w.rd d).getLsbD 4 = false) ∧
      SpurDoes (.wrsr k a) k s (fun r w => w.n = (r.rd a).getLsbD 3 ∧ w.z = (r.rd a).getLsbD 2 ∧ w.c = (r.rd a).getLsbD 1 ∧
        w.v = (r.rd a).getLsbD 0 ∧ w.rv = (r.rv && !(r.rd a).getLsbD 15) ∧ w.av = (r.av && !(r.rd a).getLsbD 14) ∧
        w.ps = (r.ps && !(r.rd a).getLsbD 13) ∧ (r.has .trip = false → w.trn = (r.trn && !(r.rd a).getLsbD 19)))) ∧
  (∀ (k : Fin 8) (s : State), s.spurExecutes k → ∀ (p : Fin 8) (m : Fin 4) (d : Fin 16) (addr : BitVec 14) (imm : BitVec 16),
      let late (P : SpurSt → SpurSt → Prop) (r w : SpurSt) : Prop :=
        (∀ j, w.rp j = r.commit.rp j) ∧ (∀ j, w.rm j = r.commit.rm j) ∧ P r.commit w.commit
      SpurDoes (.ldp k p addr) k s (late fun _ w => w.rp p = addr) ∧
      SpurDoes (.addp k p imm) k s (fun r w => late (fun _ w => w.rp p = r.rp p + imm.setWidth 14) r w) ∧
      SpurDoes (.movp k p d) k s (fun r w => late (fun _ w => w.rp p = (r.rd d).setWidth 14) r w) ∧
      SpurDoes (.ldml k m imm) k s (late fun r w => w.rm m = (r.rm m).extractLsb' 16 16 ++ imm) ∧
      SpurDoes (.ldmh k m imm) k s (late fun r w => w.rm m = imm ++ (r.rm m).setWidth 16) ∧
      SpurDoes (.movm k m d) k s (fun r w => late (fun _ w => w.rm m = r.rd d) r w))

/-- R115, R118, R120, R127, R128, R136, R153: a load brings its value to the second executed instruction after it; the next one sees the old value. A
dual load brings a pair from X and a pair from Y; what it leaves where both go to one register the spec does not state. What a store leaves in its
bank, which bytes it reaches, and the address register after it: a store into the hole of bank X has no effect. -/
def Obligations.SpurLoadsAndStores : Prop :=
  (∀ (k : Fin 8) (s : State), s.spurExecutes k → ∀ (d : Fin 16) (a : Fin 4) (m : MemOperand) (dx dy : Fin 16) (x y : DualAddr),
      let at_ := (s.spur k).rp m.p
      let pair (bankY : Bool) (p : Addr) : Word := s.ld16 k bankY (evenAddr p + 1) ++ s.ld16 k bankY (evenAddr p)
      let loads (n : Nat) (P : SpurSt → Prop) (r w : SpurSt) : Prop :=
        (∀ j, w.rd j = r.commit.rd j) ∧ (∀ j, w.ra j = r.commit.ra j) ∧ P w.commit ∧ PostGives r w m.p n (lsForm m.mod)
      SpurDoes (.ld16 k d m) k s (loads 1 fun w => (w.rd d).toInt = (s.ld16 k m.bankY at_).toInt) ∧
      SpurDoes (.ld16h k d m) k s (fun r w => loads 1 (fun w => w.rd d = s.ld16 k m.bankY at_ ++ r.commit.rdL d) r w) ∧
      SpurDoes (.ld32 k d m) k s (loads 2 fun w => w.rd d = pair m.bankY at_) ∧
      SpurDoes (.lda32 k a m) k s (loads 2 fun w => (w.ra a).toInt = (pair m.bankY at_).toInt) ∧
      (dx ≠ dy → SpurDoes (.dualLoad k dx x dy y) k s (fun r w => (∀ j, w.rd j = r.commit.rd j) ∧
        w.commit.rd dx = pair false (r.rp (dualReg false x)) ∧ w.commit.rd dy = pair true (r.rp (dualReg true y)) ∧
        PostGives r w (dualReg false x) 2 (dualForm false x.mod) ∧ PostGives r w (dualReg true y) 2 (dualForm true y.mod))) ∧
      (dx = dy → SpurDoes (.dualLoad k dx x dy y) k s (fun r w => (∀ j, w.rd j = r.commit.rd j) ∧ (∀ j, j ≠ dx → w.commit.rd j = r.commit.rd j) ∧
        PostGives r w (dualReg false x) 2 (dualForm false x.mod) ∧ PostGives r w (dualReg true y) 2 (dualForm true y.mod)))) ∧
  (∀ (k : Fin 8) (s : State), s.spurExecutes k → ∀ (d : Fin 16) (a : Fin 4) (m : MemOperand),
      let p := (s.spur k).rp m.p
      let e := evenAddr p
      let v := ((s.spur k).ra a).toInt
      let one (i : Instr) (val : BitVec 16) (P : SpurSt → SpurSt → Prop) : Prop :=
        ∃ t, exec i s = .next t ∧ s.Holds16 t k m.bankY p val ∧ s.MemKeeps t k m.bankY [p] ∧
          PostGives (s.spur k) (t.spur k) m.p 1 (lsForm m.mod) ∧ P (s.spur k) (t.spur k)
      let two (i : Instr) (val : Word) (P : SpurSt → SpurSt → Prop) : Prop :=
        ∃ t, exec i s = .next t ∧ s.Holds16 t k m.bankY e (val.setWidth 16) ∧ s.Holds16 t k m.bankY (e + 1) (val.extractLsb' 16 16) ∧
          s.MemKeeps t k m.bankY [e, e + 1] ∧ PostGives (s.spur k) (t.spur k) m.p 2 (lsForm m.mod) ∧ P (s.spur k) (t.spur k)
      one (.st16 k d m) ((s.spur k).rdL d) (fun r w => w.rv = r.rv) ∧
      two (.st32 k d m) ((s.spur k).rd d) (fun r w => w.rv = r.rv) ∧
      one (.str k a m) (BitVec.ofInt 16 (nearest 16 ((v + 0x8000) / 65536)))
        (fun r w => w.rv = true ↔ r.rv = true ∨ ¬ Fits 16 ((v + 0x8000) / 65536)) ∧
      two (.sts k a m) (BitVec.ofInt 32 (nearest 32 v)) (fun r w => w.rv = true ↔ r.rv = true ∨ ¬ Fits 32 v))

/-- R110, R137, R138, R139, R140, R149: where execution goes. `plain` is an instruction outside a branch delay slot that ends no repeat block. -/
def Obligations.SpurControlFlow : Prop :=
  ∀ (k : Fin 8) (s : State), s.spurExecutes k → ∀ (t last : BitVec 14) (mask value : BitVec 6) (n : BitVec 12),
    let r := s.spur k
    let plain : Prop := r.branch = none ∧ ∀ l ∈ r.reps.head?, l.last ≠ r.pc
    let to_ (t : Addr) (w : SpurSt) : Prop := w.pc = r.pc + 1 ∧ w.branch = some (2, t) ∧ w.reps = r.reps
    let through (w : SpurSt) : Prop := w.pc = r.pc + 1 ∧ w.branch = none ∧ w.reps = r.reps
    (plain → SpurDoes (.nop k) k s (fun _ w => through w) ∧ SpurDoes (.bra k t) k s (fun _ w => to_ t w) ∧
      SpurDoes (.call k t) k s (fun _ w => to_ t w ∧ (r.stack.length < 4 → w.stack = (r.pc + 3) :: r.stack)) ∧
      SpurDoes (.ret k) k s (fun _ w => ∀ u us, r.stack = u :: us → to_ u w ∧ w.stack = us) ∧
      SpurDoes (.bfc k mask value t) k s (fun _ w =>
        (r.fc &&& mask = value → to_ t w) ∧ (r.fc &&& mask ≠ value → through w)) ∧
      SpurDoes (.rep k n last) k s (fun _ w => w.pc = r.pc + 1 ∧ w.branch = none ∧ (r.reps.length < 3 →
        w.reps = { count := n.toNat + 1, start := r.pc + 1, last := last } :: r.reps))) ∧
    (∀ u, r.branch = some (2, u) → SpurDoes (.nop k) k s (fun _ w => w.pc = r.pc + 1 ∧ w.branch = some (1, u))) ∧
    (∀ u, r.branch = some (1, u) → SpurDoes (.nop k) k s (fun _ w => w.pc = u ∧ w.branch = none)) ∧
    (∀ l ls, r.branch = none → r.reps = l :: ls → l.last = r.pc → SpurDoes (.nop k) k s (fun _ w =>
      if 1 < l.count then w.pc = l.start ∧ w.reps = { l with count := l.count - 1 } :: ls else w.pc = r.pc + 1 ∧ w.reps = ls))

/-- Every instruction of a spur but END, XCH and a reserved encoding completes, and changes no more than its destination registers, the flags it sets,
its address registers and the bytes it stores (R111, R137, R145, R146, R148). What a debug halt taken at the boundary does to the stages is left to
its own statement. -/
def Obligations.SpurInstructionFrame : Prop :=
  ∀ (i : Instr) (k : Fin 8), plainSpurOf i = some k → ∀ s : State, s.spurExecutes k → ∃ t, exec i s = .next t ∧
    let r := s.spur k
    let w := t.spur k
    (∀ j, j ≠ k.val → t.spur j = s.spur j) ∧ (∀ d, d ∉ writesD i → w.rd d = r.commit.rd d) ∧
    (∀ a, a ∉ writesA i → w.ra a = r.commit.ra a) ∧ (∀ p, p ∉ writesP i → w.rp p = r.commit.rp p) ∧ (∀ m, w.rm m = r.commit.rm m) ∧
    (setsFlags i = false → w.n = r.n ∧ w.z = r.z ∧ w.c = r.c ∧ w.v = r.v) ∧
    (setsSticky i = false → w.ps = r.ps ∧ w.av = r.av ∧ w.rv = r.rv) ∧
    w.fc = r.fc ∧ w.live = true ∧ w.cycle = r.cycle + cyclesOf i ∧ w.sig = crcFlow r.sig (be 2 r.pc.toNat) ∧
    (storesMem i = false → ∀ x, t.rd8 x = s.rd8 x) ∧
    OnlyChanges [.cn, .sp, .st, .mc, .cp, .hp, .mm, .mem, .free] s t ∧
    (r.has .dbg = false → OnlyChanges [.sp, .mem, .free] s t)

/-- R69, R92, R94, R96, R98, R101, R147: what the first failure of a check does, wherever it is found: by a comparison of the Ridge, at the end
marker, at an exchange slot issued at another cycle than its entry's, or at a reserved encoding, which halts the spur at once. -/
def Obligations.SpurFailureSequence : Prop :=
  (∀ dt k check, Acts (.spurCheckFailed dt k check) dt (fun e => e.firstLoss k ∧ (e.spur k).has .dbg = false)
    fun e t => e.LosesSpur t k check e.frameCycle) ∧
  ∀ (k : Fin 8) (s : State), s.spurExecutes k → s.firstLoss k → (s.spur k).has .dbg = false →
    let r := s.spur k
    let key := k.val * 64 + s.rg.frame % 64
    (∃ t, exec (.reservedEncoding k) s = .next t ∧ s.LosesSpur t k 1 r.cycle ∧ (t.spur k).halted = true) ∧
    (∀ sc, s.sched = some sc → Store.read none sc.sigs key ≠ some (crcFlow r.sig (be 2 r.pc.toNat)) →
      ∃ t, exec (.endOp k) s = .next t ∧ s.LosesSpur t k 1 r.cycle) ∧
    (∀ sc, s.sched = some sc → Store.read none sc.sigs key = some (crcFlow r.sig (be 2 r.pc.toNat)) → Store.read 0 sc.ends key ≠ r.cycle →
      ∃ t, exec (.endOp k) s = .next t ∧ s.LosesSpur t k 3 r.cycle) ∧
    ∀ (index : BitVec 12) (bankY : Bool) (addr : BitVec 14), s.slotAt k index.toNat r.cycle = none →
      ∃ t, exec (.xch k index bankY addr) s = .next t ∧ s.LosesSpur t k 2 r.cycle

/-- R60, R69, R115, R154, R215, R239, R272, R289, R575: the end marker idles the spur; an exchange slot issued at its cycle moves its words, low word
first, and takes 2 cycles and one more for each four words. Which words a filter slot reads, and that an export is filed under its TARGET, is the
model's reading (notes/assumptions/20.md). -/
def Obligations.SpurEndMarkerAndExchangeSlots : Prop :=
  ∀ (k : Fin 8) (s : State), s.spurExecutes k → (s.spur k).has .dbg = false →
    let r := s.spur k
    (∀ sc, s.sched = some sc → Store.read none sc.sigs (k.val * 64 + s.rg.frame % 64) = some (crcFlow r.sig (be 2 r.pc.toNat)) →
      Store.read 0 sc.ends (k.val * 64 + s.rg.frame % 64) = r.cycle →
      ∃ t, exec (.endOp k) s = .next t ∧ (t.spur k).live = false ∧ (∀ d, (t.spur k).rd d = r.commit.rd d) ∧
        (∀ a, (t.spur k).ra a = r.commit.ra a) ∧ (∀ j, j ≠ k.val → t.spur j = s.spur j) ∧ OnlyChanges [.sp] s t) ∧
    ∀ (index : BitVec 12) (bankY : Bool) (addr : BitVec 14) (e : SlotEntry), s.slotAt k index.toNat r.cycle = some e → e.words ≤ 256 →
      let at_ (i : Nat) : Addr := addr + BitVec.ofNat 14 i
      let w (i : Nat) : Nat := if i < e.words then (s.ld16 k bankY (at_ i)).toNat else 0
      let c := e.target * 65536 + e.targetLo
      let l := s.latch (e.target - 32)
      ∃ t, exec (.xch k index bankY addr) s = .next t ∧ (t.spur k).cycle = r.cycle + 2 + (e.words + 3) / 4 ∧
        (e.kind ≤ 3 → OnlyChanges [.sp, .mem, .free] s t ∧
          s.MemKeeps t k bankY ((List.range e.words).map at_) ∧
          ∀ i, i < e.words →
            (e.kind = 1 → s.Holds16 t k bankY (at_ i) (BitVec.ofNat 16 (s.modWord (e.target + i)))) ∧
            (e.kind = 2 → (e.target < 32 ∨ 40 ≤ e.target) → s.Holds16 t k bankY (at_ i)
              (BitVec.ofNat 16 ((s.chan e.target).snap.getD (i / 2) 0 / 65536 ^ (i % 2)))) ∧
            (e.kind = 2 → 32 ≤ e.target → e.target < 40 → ∀ x xs, l.queue = x :: xs → s.Holds16 t k bankY (at_ i)
              (BitVec.ofNat 16 (fld (leI 4 x.count ++ stampBytes x.ns ++ [0, 0] ++ le 4 (l.status (some x)) ++ le 4 l.queue.length) (2 * i) 2))) ∧
            (e.kind = 3 → s.Holds16 t k bankY (at_ i) (BitVec.ofNat 16 (s.rd8 (c + 2 * i) + 256 * s.rd8 (c + 2 * i + 1))))) ∧
        (3 < e.kind → s.spurOut k = true → OnlyChanges [.sp] s t) ∧
        (s.spurOut k = false →
          (e.kind = 4 → commonsBase ≤ c → c + 2 * e.words ≤ commonsBase + 0x200000 → OnlyChanges [.sp, .mem] s t ∧
            (∀ i, i < e.words → t.rd8 (c + 2 * i) = w i % 256 ∧ t.rd8 (c + 2 * i + 1) = w i / 256) ∧
            ∀ x, x < c ∨ c + 2 * e.words ≤ x → t.rd8 x = s.rd8 x) ∧
          (e.kind = 5 → e.target < s.stages → s.openLoop (groupOf e.target) = false → OnlyChanges [.sp, .st] s t ∧
            (∀ j, j ≠ e.target → t.stage j = s.stage j) ∧ (1 ≤ e.words → (t.stage e.target).dutyU = w 0) ∧
            (2 ≤ e.words → (t.stage e.target).dutyV = w 1) ∧ (3 ≤ e.words → (t.stage e.target).dutyW = w 2)) ∧
          (e.kind = 5 → s.stages ≤ e.target → 24 ≤ e.target → e.target < 32 → OnlyChanges [.sp, .ap] s t ∧
            (t.apwm (e.target - 24)).ridgeOn = w 0 + 65536 * w 1 ∧ (t.apwm (e.target - 24)).ridgeOff = w 2 + 65536 * w 3 ∧
            (t.apwm (e.target - 24)).ridgeLevel = sx 16 (w 4)) ∧
          (e.kind = 6 → e.target < 4 → s.openLoop e.target = false → OnlyChanges [.sp, .st] s t ∧
            ∀ j, groupOf j = e.target → j < s.stages → (t.stage j).pending = true) ∧
          (e.kind = 7 → OnlyChanges [.sp, .rm] s t ∧ (e.target < 8 → t.rate e.target =
            (rmWrite e.target (sx 40 (w 0 + 65536 * w 1 + 2 ^ 32 * (w 2 % 256))) s).rate e.target)) ∧
          (e.kind = 8 → OnlyChanges [.sp, .cp] s t ∧ Store.read none t.cp.exports e.target = some (s.rg.frame, w 0 + 65536 * w 1)))

/-- R66, R142 to R144, R234: requests to a spur are taken at its next yield point, at once where it stands at one, in the order failover, frame abort,
debug halt, trip notice. A debug halt freezes the stages that the spur hosts in SERVICE mode; in every other mode they go to high impedance. -/
def Obligations.SpurRequestsAtYieldPoints : Prop :=
  let taken (r w : SpurSt) : Prop :=
    let one (q : SpurRequest) : Prop := w.has q = false ∧ ∀ x, x ≠ q → w.has x = r.has x
    if r.halted = true ∨ r.atYield = false then w = r
    else if r.has .failover = true then w.halted = true ∧ one .failover ∧ w.trn = r.trn
    else if r.has .abort = true then w.halted = true ∧ one .abort ∧ w.trn = r.trn
    else if r.has .dbg = true then w.halted = true ∧ one .dbg ∧ w.trn = r.trn
    else if r.has .trip = true then w.halted = false ∧ one .trip ∧ w.trn = true
    else w = r
  let asks (i : Nat → Nat → Instr) (q : SpurRequest) (ok : Nat → State → Prop) : Prop := ∀ dt k,
    Acts (i dt k) dt (fun e => k < e.spurs ∧ ok k e) fun e t =>
      let r := e.spur k
      let r' := if r.has q = true then r else { r with requests := r.requests ++ [q] }
      taken r' (t.spur k) ∧ (∀ j, j ≠ k → t.spur j = e.spur j) ∧ ((t.spur k).has .dbg = r'.has .dbg → OnlyChanges [.sp] e t)
  asks .tripNotice .trip (fun _ _ => True) ∧ asks .frameAbort .abort (fun _ _ => True) ∧ asks .failoverHalt .failover (fun k e => e.spurOut k = true) ∧
  asks .debugHalt .dbg (fun _ e => e.pw.mode ≠ .service ∨ e.pw.dbg.unlocked.isSome = true) ∧
  (∀ dt k, Idles (.debugHalt dt k) dt fun e => e.pw.mode = .service ∧ e.pw.dbg.unlocked = none) ∧
  ∀ dt k, Acts (.debugHalt dt k) dt
    (fun e => k < e.spurs ∧ (e.spur k).halted = false ∧ (e.spur k).atYield = true ∧ (e.spur k).has .failover = false ∧
      (e.spur k).has .abort = false ∧ (e.pw.mode ≠ .service ∨ e.pw.dbg.unlocked.isSome = true))
    fun e t => (t.spur k).halted = true ∧ OnlyChanges [.sp, .cn, .st, .mc, .cp, .hp, .mm] e t ∧ ∀ m ∈ e.hosted k,
      (e.pw.mode ≠ .service → (t.machine m).on = false) ∧ ∀ j ∈ e.machineStages m,
        (e.pw.mode = .service → (t.stage j).frozen = true ∧ (t.stage j).switches = (e.stage j).switches ∧ (t.stage j).hiz = (e.stage j).hiz) ∧
        (e.pw.mode ≠ .service → (t.stage j).hiz = true ∧ (t.stage j).switches = 0 ∧ (t.stage j).mode ≠ .driving)

/-- R56, R57, R59, R93, R95, R96, R99, R101 to R103, R113: the Ridge leaves STOPPED with the primary schedule where every spur that the image uses is
in service, with the variant of the one that is out, or not at all; a spur that fails its built-in test is excluded. The variant takes effect four
frames after the failure; a retirement acts as a failure in the frame before; an error that ECC corrects is counted and recorded and is no failure. -/
def Obligations.RidgeStartFallbackAndRetirement : Prop :=
  (∀ dt passed, let may (e : State) (im : Image) : Prop := e.framesRun = false ∧ e.clocked = true ∧ e.pw.ready = true ∧ e.pw.state = .run ∧
        e.pw.mode ≠ .recovery ∧ e.pw.entry = none ∧ e.image = some im ∧ e.slotHashOk (e.activeSlot.getD 0) im.length = true
      let used (e : State) (im : Image) (k : Nat) : Prop := k < e.spurs ∧ im.usesSpur k = true
      let begun (e t : State) (im : Image) (v : Option Nat) : Prop := t.rg.state = (if v.isSome then .fallback else .running) ∧ t.rg.variant = v ∧
        t.rg.fresh = true ∧ t.rg.failure = none ∧ t.rg.frameLength = im.frameLength ∧ (∀ k, t.spur k = {}) ∧
        OnlyChanges [.cn, .rg, .sp, .st, .md, .mc, .ap, .ax, .lt, .sf, .cp, .hp, .mm, .mem] e t
      let stays (e t : State) (cause : Nat) : Prop := t.rg.state = .stopped ∧ t.rg.stopCause = cause ∧ OnlyChanges [.cn, .rg, .cp, .hp, .mm] e t
      (∀ im, Acts (.ridgeStart dt passed) dt
        (fun e => may e im ∧ ∀ k, used e im k → e.spurOut k = false ∧ passed.contains k = true) fun e t => begun e t im none) ∧
      (∀ im k, Acts (.ridgeStart dt passed) dt
        (fun e => may e im ∧ used e im k ∧ e.spurOut k = true ∧ ∀ j, j ≠ k → used e im j → e.spurOut j = false ∧ passed.contains j = true)
        fun e t => (im.variantMask.testBit k = true → begun e t im (some k)) ∧ (im.variantMask.testBit k = false → stays e t 4)) ∧
      (∀ im k, Acts (.ridgeStart dt passed) dt
        (fun e => may e im ∧ used e im k ∧ e.spurOut k = false ∧ passed.contains k = false ∧ (∀ j, j ≠ k → used e im j →
          e.spurOut j = false ∧ passed.contains j = true))
        fun e t => t.rg.excluded.testBit k = true ∧ Store.read 0 t.rg.failCounts k = Store.read 0 e.rg.failCounts k + 1 ∧
          (im.variantMask.testBit k = true → begun e t im (some k)) ∧ (im.variantMask.testBit k = false → stays e t 4)) ∧
      (∀ im j k, Acts (.ridgeStart dt passed) dt
        (fun e => may e im ∧ j ≠ k ∧ used e im j ∧ used e im k ∧ (e.spurOut j = true ∨ passed.contains j = false) ∧
          (e.spurOut k = true ∨ passed.contains k = false)) fun e t => stays e t 3) ∧
      Idles (.ridgeStart dt passed) dt fun e => e.framesRun = true ∨ e.pw.state ≠ .run ∨ e.pw.mode = .recovery ∨ e.image = none) ∧
  ((∀ dt k n, Acts (.fallbackTakesEffect dt) dt
      (fun e => e.framesRun = true ∧ e.clocked = true ∧ e.rg.fresh = false ∧ e.rg.frameStart + e.rg.frameLength ≤ e.tm.now ∧ e.rg.retireReq = [] ∧
        e.rg.failure = some (k, n) ∧ (e.rg.frame + 1) % 2 ^ 32 = (n + 4) % 2 ^ 32)
      fun e t => t.rg.state = .fallback ∧ t.rg.variant = some k ∧ t.rg.failure = none ∧ t.rg.frame = (n + 4) % 2 ^ 32 ∧
        ∀ m ∈ e.hosted k, (e.machine m).disables = [] →
          let v : State := { e with rg := { e.rg with variant := some k } }
          (v.machineHeld m = false → (t.machine m).unavailable.isSome = true) ∧
          (v.machineHeld m = true → ∀ j ∈ e.machineStages m, (e.stage j).mode = .driving →
            (t.stage j).hiz = true ∧ (t.stage j).switches = 0 ∧ (t.stage j).driveFrom = some (e.rg.frameStart + 2 * e.rg.frameLength))) ∧
    (∀ dt, Idles (.fallbackTakesEffect dt) dt fun e => ∀ k n, e.rg.failure = some (k, n) → (e.rg.frame + 1) % 2 ^ 32 ≠ (n + 4) % 2 ^ 32) ∧
    (∀ dt k d, Acts (.spurRetirementEffect dt k) dt
      (fun e => e.rg.retireReq.find? (fun x => decide (x.1 = k)) = some (k, d) ∧ e.retireDue k d = true ∧ e.spurRuns k = false)
      fun e t => t.rg.retired.testBit k = true ∧ (∀ x ∈ t.rg.retireReq, x.1 ≠ k) ∧ e.Tells t [(2, 2, 6, b1 k ++ b1 2)] ∧
        OnlyChanges (.rg :: reportTouches) e t) ∧
    (∀ dt k, Idles (.spurRetirementEffect dt k) dt fun e => ∀ d, (k, d) ∈ e.rg.retireReq → e.retireDue k d = false) ∧
    (∀ dt k addr, Acts (.spurEccCorrected dt k addr) dt (fun e => k < e.spurs)
      fun e t => let region := if addr % 0x100000 < 0x80000 then 2 else 3
        Store.read 0 t.mm.corrected region = Store.read 0 e.mm.corrected region + 1 ∧ e.Tells t [(2, 0, 0xB, b1 k ++ b4 addr)] ∧
        OnlyChanges reportTouches e t))

/-- R22, R26, R60, R112, R146: a frame start counts the frame, and every spur of the running schedule begins its frame program; a failed, halted or
unused one idles. A frame start that is not due is none. -/
def Obligations.FrameStartBeginsPrograms : Prop :=
  ∀ dt, (Acts (.frameStart dt) dt
      (fun e => e.framesRun = true ∧ e.clocked = true ∧ (e.rg.fresh = false → e.rg.frameStart + e.rg.frameLength ≤ e.tm.now) ∧
        e.rg.retireReq = [] ∧ e.rg.failure = none ∧ e.rg.commit = none ∧ e.pm.live = [])
      fun e t => t.rg.frame = (if e.rg.fresh then 0 else (e.rg.frame + 1) % 2 ^ 32) ∧ t.rg.fresh = false ∧ t.rg.state = e.rg.state ∧
        t.rg.frameStart = (if e.rg.fresh then e.tm.now else e.rg.frameStart + e.rg.frameLength) ∧
        ∀ sc, e.sched = some sc → ∀ k, k < e.spurs →
          let r := e.spur k
          let w := t.spur k
          let entry := sc.entries.find? fun x => decide (x.1 = k)
          if r.halted = true ∨ e.spurOut k = true ∨ entry = none then w.live = false else
          w.live = true ∧ w.cycle = 16 ∧ w.sig = 0xFFFFFFFF ∧ (∀ x ∈ entry, w.pc = BitVec.ofNat 14 x.2) ∧ w.fc = BitVec.ofNat 6 t.rg.frame ∧
          w.ps = false ∧ w.av = false ∧ w.rv = false ∧ w.stack = [] ∧ w.reps = [] ∧ w.branch = none ∧ (∀ d, w.rd d = r.commit.rd d) ∧
          (∀ a, w.ra a = r.commit.ra a) ∧ (∀ p, w.rp p = r.commit.rp p) ∧ (∀ m, w.rm m = r.commit.rm m)) ∧
    Idles (.frameStart dt) dt fun e => e.framesRun = false ∨ e.clocked = false ∨
      (e.rg.fresh = false ∧ e.tm.now < e.rg.frameStart + e.rg.frameLength)

/-- R187, R189, R192: STAGE_ENABLE is refused at the first failing check and else waits for a frame start; STAGE_DISABLE waits for one too, or
completes at once where nothing drives. -/
def Obligations.StageEnableAndDisable : Prop :=
  ∀ h : Hdr,
    Runs (.stageEnable h) (fun _ _ => True) (fun c b t =>
      (b.machineOf (c.target % 4096) = none → b.Refuses t c 0x300) ∧
      ∀ m, b.machineOf (c.target % 4096) = some m →
        let ks := b.machineStages m
        let held : Prop := b.framesRun = true ∧ b.machineHeld m = true
        let gone : Prop := b.causeGone m = true
        let quiet : Prop := b.inDemand (b.machineGroup m) = false
        let calibrated : Prop := ∀ k ∈ ks, (b.stage k).calibrated = true
        let link : Prop := ∀ k ∈ ks, let x := b.mod (48 + b.parN P.STG_DC_CHANNEL k)
          x.measured = true ∧ b.par P.STG_DC_VMIN (b.parN P.STG_DC_CHANNEL k) ≤ x.main
        let trips : Prop := (b.latchedOf m).length ≤ 1 ∧ (ks.length = 1 → b.latchedOf m = [])
        let drop : Prop := (b.machine m).dropBank ≠ none → (b.machine m).on = true → b.axisIdle m = true
        (¬ held → b.Refuses t c 0x300) ∧ (held → ¬ gone → b.Refuses t c 0x300) ∧ (held → gone → ¬ quiet → b.Refuses t c 0x304) ∧
        (held → gone → quiet → ¬ calibrated → b.Refuses t c 0x300) ∧ (held → gone → quiet → calibrated → ¬ link → b.Refuses t c 0x300) ∧
        (held → gone → quiet → calibrated → link → ¬ trips → b.Refuses t c 0x303) ∧
        (held → gone → quiet → calibrated → link → trips → ¬ drop → b.Refuses t c 0x300) ∧
        (held → gone → quiet → calibrated → link → trips → drop → t.InProgress c ∧ OnlyChanges (.mc :: linkTouches) b t ∧
          (∀ j, j ≠ m → t.machine j = b.machine j) ∧ (t.machine m).enables = (b.machine m).enables ++ [c.slot] ∧
          (t.machine m).on = (b.machine m).on)) ∧
    Runs (.stageDisable h) (fun _ _ => True) (fun c b t =>
      (b.machineOf (c.target % 4096) = none ∨ b.framesRun = false → b.Refuses t c 0) ∧
      ∀ m, b.machineOf (c.target % 4096) = some m → b.framesRun = true →
        (b.axisIdle m = false → b.Refuses t c 0x300) ∧
        (b.axisIdle m = true → t.InProgress c ∧ OnlyChanges (.mc :: linkTouches) b t ∧ (∀ j, j ≠ m → t.machine j = b.machine j) ∧
          (t.machine m).disables = (b.machine m).disables ++ [c.slot] ∧ (t.machine m).on = (b.machine m).on))

/-- R193, R199, R231, R232: TRIP_CLEAR on an active cause is refused and recorded, else it clears the latch; MACHINE_IDENTIFY starts where its mode's
preconditions hold. That a second MACHINE_IDENTIFY is refused BUSY is the rule of the chapter's status table. -/
def Obligations.TripClearAndIdentify : Prop :=
  ∀ h : Hdr,
    Runs (.tripClear h) (fun _ _ => True) (fun c b t =>
      let k := c.target % 4096
      let act := b.stageStatus k / 16 % 16
      let inh := (b.group (groupOf k)).inhibit
      (act ≠ 0 ∨ inh = true → t.Reports c 2 0x303 0 [] ∧ t.stage k = b.stage k ∧
        b.Tells t [(4, 1, 2, b1 k ++ b1 act ++ b1 (if inh then 1 else 0))] ∧ OnlyChanges (replyTouches ++ reportTouches) b t) ∧
      (act = 0 → inh = false → (b.stage k).causes = 0 → b.Refuses t c 0) ∧
      (act = 0 → inh = false → (b.stage k).causes ≠ 0 → t.Reports c 2 0 0 [] ∧ (t.stage k).causes = 0 ∧ (t.stage k).mode = .disabled ∧
        (t.stage k).hiz = (b.stage k).hiz ∧ (∀ j, j ≠ k → t.stage j = b.stage j) ∧
        b.Tells t [(4, 1, 1, b1 k ++ b1 ((b.stage k).causes / 2))] ∧ OnlyChanges (.st :: replyTouches ++ reportTouches) b t)) ∧
    ∀ mode, Runs (.machineIdentify h mode) (fun _ _ => True) (fun c b t =>
      let m := c.target % 4096
      let n := mode % 256
      let ks := b.machineStages m
      let starts : Prop := t.InProgress c ∧ OnlyChanges (.mc :: linkTouches) b t ∧ (∀ j, j ≠ m → t.machine j = b.machine j) ∧
        ∃ i, (t.machine m).ident = some i ∧ i.slot = c.slot ∧ i.mode = n ∧ i.began = b.tm.now ∧ i.frames = 4096
      let fits : Prop := if n = 1 then (∀ k ∈ ks, (b.stage k).mode = .disabled) ∧ (b.group (b.machineGroup m)).gdEn = true
        else b.drivingOf m ≠ [] ∧ b.axisIdle m = true
      (n < 1 ∨ 3 < n → b.Refuses t c 0x201) ∧
      (1 ≤ n → n ≤ 3 → (b.machine m).ident ≠ none → b.Refuses t c 0x301) ∧
      (1 ≤ n → n ≤ 3 → (b.machine m).ident = none → ¬ (b.framesRun = true ∧ ks ≠ [] ∧ fits) → b.Refuses t c 0x300) ∧
      (1 ≤ n → n ≤ 3 → (b.machine m).ident = none → b.framesRun = true → ks ≠ [] → fits → starts))

/-- R199, R200, R201, R305: an identification that has lasted its time becomes a commit of its results or fails; a machine torque-interrupted for more
than 8 frames becomes torque-unavailable and asks the monitor for cause 18. -/
def Obligations.IdentifyCompletesAndInterruptExpires : Prop :=
  ∀ dt m, let free (e : State) : Prop := e.rg.commit = none ∧ e.rg.flipped = none
    let fails (i : IdentSt) (code : Nat) (e t : State) : Prop := (t.machine m).ident = none ∧ e.Ends t i.slot 0x700 ∧
      e.Tells t [(3, 2, 8, b1 m ++ b1 i.mode ++ b1 code)] ∧ OnlyChanges (.mc :: .jn :: reportTouches) e t
    let commits (i : IdentSt) (e t : State) (vals : CommitSt → Prop) : Prop := (t.machine m).ident = none ∧ OnlyChanges [.mc, .rg] e t ∧
      ∃ c, t.rg.commit = some c ∧ c.slot = i.slot ∧ c.draft = none ∧ c.phase = .preparing ∧ vals c
    (∀ i uv, Acts (.identifyComplete dt m (.offset uv)) dt
      (fun e => (e.machine m).ident = some i ∧ i.mode = 1 ∧ i.frames = 0 ∧ free e ∧ ∀ p ∈ uv, p.1.natAbs ≤ 1638 ∧ p.2.natAbs ≤ 1638)
      fun e t => commits i e t fun c => ∀ k ∈ e.machineStages m,
        let p := uv.getD (e.parN P.STG_SET k) (0, 0)
        Store.read none c.values (P.STG_OFFSET_U + k * 65536) = some p.1 ∧ Store.read none c.values (P.STG_OFFSET_V + k * 65536) = some p.2) ∧
    (∀ i uv p, Acts (.identifyComplete dt m (.offset uv)) dt
      (fun e => (e.machine m).ident = some i ∧ i.mode = 1 ∧ i.frames = 0 ∧ p ∈ uv ∧ (1638 < p.1.natAbs ∨ 1638 < p.2.natAbs)) (fails i 1)) ∧
    (∀ i code, Acts (.identifyComplete dt m (.failed code)) dt (fun e => (e.machine m).ident = some i) (fails i code)) ∧
    (∀ i angle quality second, Acts (.identifyComplete dt m (.align angle quality second)) dt
      (fun e => (e.machine m).ident = some i ∧ (i.mode = 2 ∨ i.mode = 3) ∧ free e ∧
        (if i.mode = 2 then 1400 else 120) * cyclesPerMs ≤ e.tm.now - i.began)
      fun e t => commits i e t fun c =>
        Store.read none c.values (P.MAC_ANGLE_OFFSET + m * 65536) = some (angle % 65536 : Nat) ∧
        Store.read none c.values (P.MAC_ANGLE_OFFSET_2 + m * 65536) =
          (if i.secondOk then second.map fun a => ((a % 65536 : Nat) : Int) else none)) ∧
    (∀ r, Idles (.identifyComplete dt m r) dt fun e => (e.machine m).ident = none) ∧
    Acts (.torqueInterruptExpired dt m) dt (fun e => (e.machine m).unavailable = none ∧ ∃ n, (e.machine m).interrupted = some n ∧ 8 < n)
      (fun e t => (t.machine m).unavailable = some 4 ∧ (t.machine m).interrupted = none ∧ (18, m) ∈ t.sf.requests ∧
        e.Tells t [(3, 3, 4, b1 m ++ b1 4 ++ b4 e.rg.frame)] ∧ OnlyChanges (.mc :: .sf :: reportTouches) e t) ∧
    Idles (.torqueInterruptExpired dt m) dt fun e => ∀ n, (e.machine m).interrupted = some n → n ≤ 8

/-- R166, R167, R169 to R173, R222, R227, R228: what a filter result of a modulator input leaves, the comparators on the fast results, and the faults
of an input. -/
def Obligations.ModulatorResultsAndComparators : Prop :=
  (∀ dt k raw rawV, Acts (.sinc2Result dt (2 * k) raw rawV) dt (fun e => e.clocked = true ∧ k < e.stages ∧ k < 24) (fun e t =>
    let n := 2 * log2Dec (e.parN P.STG_FAST_DEC k)
    let u := toQ15 raw n
    let v := toQ15 rawV n
    let beyond : Prop := e.parN P.STG_OC_LEVEL k ≤ u.natAbs ∨ e.parN P.STG_OC_LEVEL k ≤ v.natAbs ∨ e.parN P.STG_OC_LEVEL k ≤ (u + v).natAbs
    (t.mod (2 * k)).fast = u ∧ (t.mod (2 * k + 1)).fast = v ∧
      (¬ beyond → (t.stage k).ocRun = 0 ∧ (t.stage k).causes = (e.stage k).causes ∧ OnlyChanges [.md, .st] e t) ∧
      (beyond → (t.stage k).ocRun = (e.stage k).ocRun + 1 ∧
        ((e.stage k).ocRun + 1 < e.parN P.STG_OC_COUNT k → (t.stage k).causes = (e.stage k).causes ∧ OnlyChanges [.md, .st] e t) ∧
        (e.parN P.STG_OC_COUNT k ≤ (e.stage k).ocRun + 1 → e.Latches t k 2)))) ∧
  (∀ dt c raw rawV, Acts (.sinc2Result dt (48 + c) raw rawV) dt (fun e => e.clocked = true ∧ c < 8) (fun e t =>
    let v := toQ15 raw (2 * log2Dec (e.parN P.STG_DC_FAST_DEC c))
    (t.mod (48 + c)).fast = v ∧
      (v < e.par P.STG_DC_OV_LEVEL c → (t.mod (48 + c)).ovRun = 0 ∧ OnlyChanges [.md] e t) ∧
      (e.par P.STG_DC_OV_LEVEL c ≤ v → (t.mod (48 + c)).ovRun = (e.mod (48 + c)).ovRun + 1 ∧
        ((e.mod (48 + c)).ovRun = 0 → OnlyChanges [.md] e t) ∧
        (1 ≤ (e.mod (48 + c)).ovRun → ∀ k, k < e.stages → e.parN P.STG_DC_CHANNEL k = c → e.Latches t k 3)))) ∧
  (∀ dt i raw, Acts (.sinc3Result dt i raw) dt (fun e => e.framesRun = true ∧ e.clocked = true ∧ i < 48 ∧ i / 2 < e.stages) (fun e t =>
    let r := clampI (-32767) 32767 (toQ15 raw (3 * log2Dec (e.mod i).dec) -
      (if i % 2 = 0 then e.par P.STG_OFFSET_U (i / 2) else e.par P.STG_OFFSET_V (i / 2)))
    (t.mod i).main = r ∧ (t.mod i).measured = true ∧ (t.mod i).dec = e.parN P.STG_SINC3_DEC (i / 2) ∧
      (r.natAbs ≤ 32766 → (t.mod i).satRun = 0 ∧ (t.mod i).overrange = false ∧ OnlyChanges [.md] e t) ∧
      (r.natAbs = 32767 → (t.mod i).overrange = true ∧ (t.mod i).satRun = (e.mod i).satRun + 1 ∧
        (1 ≤ (e.mod i).satRun → e.Latches t (i / 2) 5)))) ∧
  (∀ dt c raw, Acts (.sinc3Result dt (48 + c) raw) dt (fun e => e.framesRun = true ∧ e.clocked = true ∧ c < 8) (fun e t =>
    let r := clampI (-32767) 32767 (toQ15 raw (3 * log2Dec (e.mod (48 + c)).dec) - e.par P.STG_DC_OFFSET c)
    let low : Prop := r < e.par P.STG_DC_VMIN c
    (t.mod (48 + c)).main = r ∧ (t.mod (48 + c)).measured = true ∧ ((t.mod (48 + c)).lowTold = true ↔ low) ∧
      (low → (e.mod (48 + c)).lowTold = false → e.Tells t [(3, 2, 9, b1 c ++ leI 2 r ++ b4 e.rg.frame)]) ∧
      (¬ low ∨ (e.mod (48 + c)).lowTold = true → OnlyChanges [.md] e t))) ∧
  (∀ dt i run, Acts (.modulatorStuck dt i run) dt (fun e => e.clocked = true ∧ i < 48 ∧ i / 2 < e.stages) (fun e t =>
    ((t.mod i).stuck = true ↔ e.parN P.STG_STUCK_RUN (i / 2) < run) ∧
      (e.parN P.STG_STUCK_RUN (i / 2) < run → e.Latches t (i / 2) 4) ∧ (run ≤ e.parN P.STG_STUCK_RUN (i / 2) → OnlyChanges [.md] e t))) ∧
  ∀ dt c run, Acts (.modulatorStuck dt (48 + c) run) dt (fun e => e.clocked = true ∧ c < 8) (fun e t =>
    ((t.mod (48 + c)).stuck = true ↔ e.parN P.STG_DC_STUCK_RUN c < run) ∧
      (e.parN P.STG_DC_STUCK_RUN c < run → ∀ k, k < e.stages → e.parN P.STG_DC_CHANNEL k = c → e.Latches t k 6) ∧
      (run ≤ e.parN P.STG_DC_STUCK_RUN c → OnlyChanges [.md] e t))

/-- R94, R189, R192, R210, R211, R215 to R217, R219: LOAD_ALL, the proxy for a failed spur, and a reload, which takes the shadows of the cycle before
where the load-pending flag was set before it, and leaves or enters high impedance where that is due. -/
def Obligations.LoadAllAndReloads : Prop :=
  (∀ dt g, Acts (.loadAllWrite dt g) dt (fun _ => g < 4)
    (fun e t => (∀ k, k < e.stages → groupOf k = g → (t.stage k).pending = true) ∧ (∀ k, groupOf k ≠ g → t.stage k = e.stage k) ∧
      OnlyChanges [.st] e t)) ∧
  (∀ dt g k n, Acts (.loadAllProxy dt g) dt
    (fun e => g < 4 ∧ e.rg.failure = some (k, n) ∧ ∃ sc, e.sched = some sc ∧ ∃ x ∈ sc.slots, x.kind = 6 ∧ x.spur = k ∧ x.target = g)
    (fun e t => (∀ j, j < e.stages → groupOf j = g → (t.stage j).pending = true) ∧ (Store.read {} t.gp g).proxy = some k ∧
      ((Store.read {} e.gp g).told = false → e.Tells t [(4, 2, 4, b1 g ++ b1 k ++ b4 e.rg.frame)]) ∧
      OnlyChanges ([.st, .gp] ++ reportTouches) e t)) ∧
  (∀ dt g, Idles (.loadAllProxy dt g) dt fun e => e.rg.failure = none) ∧
  (∀ dt k valley, Acts (.stageReload dt k valley) dt
    (fun e => k < e.stages ∧ e.framesRun = true ∧ (e.stage k).frozen = false ∧
      (valley = true → 2 ≤ e.parN P.PWM_ALIGN (groupOf k) ∨ e.parN P.PWM_UPDATE (groupOf k) = 1))
    (fun e t =>
      let a := e.stage k
      let b := t.stage k
      let now := e.tm.now
      let took : Prop := a.pending = true ∧ a.loadAt ≠ now
      let was (new old : Nat) : Nat := if a.dutyAt = now then old else new
      let c := compareOf (e.centred k) (e.period k)
      (took → b.pending = false ∧ b.loaded = true ∧ b.compU = c (was a.dutyU a.oldU) ∧ b.compV = c (was a.dutyV a.oldV) ∧
        b.compW = c (was a.dutyW a.oldW) ∧ b.lastLoaded = now) ∧
      (¬ took → b.loaded = false ∧ b.compU = a.compU ∧ b.compV = a.compV ∧ b.compW = a.compW ∧ b.pending = a.pending) ∧
      b.deadTime = e.parN P.PWM_DEADTIME k ∧ b.causes = a.causes ∧ b.mode = a.mode ∧
      (∀ f, a.hizFrom = some f → f ≤ now → a.driveFrom = none → b.hiz = true ∧ b.switches = 0) ∧
      (∀ f, a.driveFrom = some f → f ≤ now → a.mode = .driving → b.hiz = false) ∧
      (a.hizFrom = none → a.driveFrom = none → b.hiz = a.hiz) ∧ (∀ j, j ≠ k → t.stage j = e.stage j) ∧ OnlyChanges [.st, .mc] e t)) ∧
  (∀ dt k valley, Idles (.stageReload dt k valley) dt fun e => e.framesRun = false ∨ (e.stage k).frozen = true ∨
    (valley = true ∧ e.parN P.PWM_ALIGN (groupOf k) < 2 ∧ e.parN P.PWM_UPDATE (groupOf k) ≠ 1)) ∧
  ∀ u p, u < 32768 → let h := (2 * u * p + 32767) / 65534
    compareOf true p u = (p - h) / 2 ∧ compareOf false p u = h ∧ compareOf true p (u + 32768) = p / 2 ∧ compareOf false p (u + 32768) = 0

/-- R212 to R214, R222 to R224, R227, R228, R233, R236 to R240: an interval of a switch that would last 40 cycles starts and its end is fixed; with a
dead time the two switches of a leg are never on together; a trip input latches its stage; the carrier watchdog inhibits the group. The intervals of
an auxiliary channel: ended by time, by the sense condition or by the timeout, of which the sixteenth in succession sends the channel to OFF; the end
of the pick time. -/
def Obligations.PwmIntervalsTripsAndWatchdog : Prop :=
  ((∀ dt k sw on, Acts (.pwmIntervalEdge dt k sw on) dt
      (fun e => let a := e.stage k
        let p := e.period k
        let other := if sw % 2 = 0 then sw + 1 else sw - 1
        k < e.stages ∧ sw < 6 ∧ a.hiz = false ∧ a.frozen = false ∧ a.mode = .driving ∧ e.framesRun = true ∧
        Store.read 0 a.until_ sw ≤ e.tm.now ∧ a.switches.testBit sw ≠ on ∧ (on = true → a.deadTime ≠ 0 → a.switches.testBit other = false) ∧
        40 ≤ (e.edgeEnd k (sw / 2) (decide (sw % 2 = 1)) on + 2 * p - e.carrier k) % p)
      (fun e t => let a := e.stage k
        let b := t.stage k
        let p := e.period k
        let other := if sw % 2 = 0 then sw + 1 else sw - 1
        b.switches.testBit sw = on ∧ (on = true → b.switches.testBit other = false) ∧
        (∀ j, j ≠ sw → j ≠ other → b.switches.testBit j = a.switches.testBit j) ∧
        Store.read 0 b.until_ sw = e.tm.now + (e.edgeEnd k (sw / 2) (decide (sw % 2 = 1)) on + 2 * p - e.carrier k) % p ∧
        b.blankTo = e.tm.now + e.parN P.TRP_BLANK k ∧ (∀ j, j ≠ k → t.stage j = e.stage j) ∧ OnlyChanges [.st] e t)) ∧
    (∀ dt k sw on, Idles (.pwmIntervalEdge dt k sw on) dt
      (fun e => let a := e.stage k
        let p := e.period k
        a.hiz = true ∨ a.mode ≠ .driving ∨ e.tm.now < Store.read 0 a.until_ sw ∨
        (on = true ∧ a.deadTime ≠ 0 ∧ a.switches.testBit (if sw % 2 = 0 then sw + 1 else sw - 1) = true) ∨
        (0 < (e.edgeEnd k (sw / 2) (decide (sw % 2 = 1)) on + 2 * p - e.carrier k) % p ∧
          (e.edgeEnd k (sw / 2) (decide (sw % 2 = 1)) on + 2 * p - e.carrier k) % p < 40))) ∧
    (∀ dt k n, Acts (.tripInputLatch dt k true n) dt (fun e => k < e.stages ∧ e.clocked = true ∧ (e.stage k).blankTo + n ≤ e.tm.now ∧ 0 < n)
      (fun e t => (t.stage k).tripCount = (e.stage k).tripCount + n ∧
        (e.parN P.TRP_FILTER k + 1 ≤ (e.stage k).tripCount + n → e.Latches t k 1) ∧
        ((e.stage k).tripCount + n < e.parN P.TRP_FILTER k + 1 → (t.stage k).causes = (e.stage k).causes ∧ OnlyChanges [.st] e t))) ∧
    (∀ dt k n, Acts (.tripInputLatch dt k false n) dt (fun e => k < e.stages ∧ e.clocked = true ∧ (e.stage k).blankTo < e.tm.now ∧ 0 < n)
      (fun e t => (t.stage k).tripCount = 0 ∧ (t.stage k).causes = (e.stage k).causes ∧ OnlyChanges [.st] e t)) ∧
    (∀ dt k, Acts (.carrierWatchdog dt k) dt
      (fun e => k < e.stages ∧ (e.stage k).hiz = false ∧ (e.stage k).lastLoaded + 2 * e.period k ≤ e.tm.now)
      (fun e t => let g := groupOf k
        (t.group g).inhibit = true ∧ (t.group g).gdEn = false ∧
        (∀ j, groupOf j = g → (t.stage j).hiz = true ∧ (t.stage j).switches = 0 ∧ (t.stage j).mode ≠ .driving) ∧
        (Store.wf {} e.st = true → ∀ j, groupOf j ≠ g → t.stage j = e.stage j) ∧
        e.Tells t [(4, 3, 3, b1 g ++ b1 k ++ b4 e.rg.frame ++ b4 (compact e.ns))] ∧ OnlyChanges ([.st, .mc, .sf] ++ reportTouches) e t)) ∧
    ∀ dt k, Idles (.carrierWatchdog dt k) dt fun e => (e.stage k).hiz = true ∨ e.tm.now < (e.stage k).lastLoaded + 2 * e.period k) ∧
  (∀ dt n, n < 8 →
      let runs (e : State) : Prop := (e.apwm n).hiz = false ∧ (e.framesRun = true ∨ e.parN P.APWM_STOP_ACTION n = 1)
      let sensed (a : ApwmSt) : Prop := (a.mode = 2 ∧ a.high = false) ∨ (a.mode = 3 ∧ a.high = true) ∨
        (a.mode = 4 ∧ a.picking = false ∧ a.high = true)
      let timed (a : ApwmSt) : Prop := (a.mode = 2 ∧ a.high = true) ∨ (a.mode = 3 ∧ a.high = false) ∨
        (a.mode = 4 ∧ a.picking = false ∧ a.high = false)
      let holds (e : State) (x : Bool) : Prop :=
        let a := e.apwm n
        match a.src with
        | 0 => x = true
        | 1 => x = false
        | 2 => a.level ≤ (e.mod a.input).fast
        | _ => (e.mod a.input).fast < a.level
      let begins (e t : State) (b : ApwmSt) : Prop := b.from_ = e.tm.now ∧ b.owner = e.parN P.APWM_OWNER n ∧
        (b.owner = 1 → b.tOn = (e.apwm n).ridgeOn ∧ b.tOff = (e.apwm n).ridgeOff ∧ b.level = (e.apwm n).ridgeLevel) ∧
        (b.owner ≠ 1 → b.tOn = e.parN P.APWM_T_ON n ∧ b.tOff = e.parN P.APWM_T_OFF n ∧ b.level = e.par P.APWM_MOD_LEVEL n) ∧
        ∀ j, j ≠ n → t.apwm j = e.apwm j
      let spent (e : State) : Nat := e.tm.now - (e.apwm n).from_
      (∀ x, Acts (.apwmIntervalEnd dt n x) dt (fun e => runs e ∧ sensed (e.apwm n) ∧ holds e x ∧ e.parN P.APWM_T_MIN n ≤ spent e)
        (fun e t => begins e t (t.apwm n) ∧ (t.apwm n).high = !(e.apwm n).high ∧ (t.apwm n).timeouts = 0 ∧ OnlyChanges [.ap] e t)) ∧
      (∀ x, Acts (.apwmIntervalEnd dt n x) dt
        (fun e => runs e ∧ timed (e.apwm n) ∧ max 40 (if (e.apwm n).high then (e.apwm n).tOn else (e.apwm n).tOff) ≤ spent e)
        (fun e t => begins e t (t.apwm n) ∧ (t.apwm n).high = !(e.apwm n).high ∧ OnlyChanges [.ap] e t)) ∧
      (∀ x, Acts (.apwmIntervalEnd dt n x) dt
        (fun e => (sensed (e.apwm n) ∧ (¬ holds e x ∨ spent e < e.parN P.APWM_T_MIN n)) ∨
          (timed (e.apwm n) ∧ spent e < max 40 (if (e.apwm n).high then (e.apwm n).tOn else (e.apwm n).tOff)))
        (fun e t => t.apwm n = { e.apwm n with sense := x } ∧ OnlyChanges [.ap] e t)) ∧
      Acts (.apwmTimeout dt n) dt
        (fun e => runs e ∧ sensed (e.apwm n) ∧ e.parN P.APWM_T_MAX n ≠ 0 ∧ e.parN P.APWM_T_MAX n ≤ spent e ∧ (e.apwm n).timeouts < 15)
        (fun e t => begins e t (t.apwm n) ∧ (t.apwm n).high = !(e.apwm n).high ∧ (t.apwm n).timeouts = (e.apwm n).timeouts + 1 ∧
          (t.apwm n).mode = (e.apwm n).mode ∧ e.Tells t [(4, 1, 6, b1 n ++ b1 ((e.apwm n).timeouts + 1))] ∧
          OnlyChanges (.ap :: reportTouches) e t) ∧
      Acts (.apwmTimeout dt n) dt
        (fun e => runs e ∧ sensed (e.apwm n) ∧ e.parN P.APWM_T_MAX n ≠ 0 ∧ e.parN P.APWM_T_MAX n ≤ spent e ∧ (e.apwm n).timeouts = 15)
        (fun e t => (t.apwm n).mode = 0 ∧ (t.apwm n).high = false ∧ (t.apwm n).faulted = true ∧
          e.Tells t [(4, 1, 6, b1 n ++ b1 16), (4, 3, 7, b1 n ++ b1 (e.apwm n).mode ++ b4 (compact e.ns))] ∧
          OnlyChanges (.ap :: reportTouches) e t) ∧
      Idles (.apwmTimeout dt n) dt (fun e => e.parN P.APWM_T_MAX n = 0 ∨ spent e < e.parN P.APWM_T_MAX n ∨ timed (e.apwm n)) ∧
      Acts (.apwmPickEnd dt n) dt
        (fun e => runs e ∧ (e.apwm n).mode = 4 ∧ (e.apwm n).picking = true ∧ e.parN P.APWM_T_PICK n * cyclesPerUs ≤ spent e)
        (fun e t => begins e t (t.apwm n) ∧ (t.apwm n).picking = false ∧ (t.apwm n).high = false ∧ OnlyChanges [.ap] e t) ∧
      Idles (.apwmPickEnd dt n) dt fun e => (e.apwm n).picking = false ∨ spent e < e.parN P.APWM_T_PICK n * cyclesPerUs)

/-- R247, R250, R256, R258, R268, R282, R283: a counted edge of a quadrature, step or Hall channel changes the count by one, stamps the edge and fires
the armed compare entries that the new count reaches in their direction. A channel with a load waiting for its frame cycle has its own statement. -/
def Obligations.CountedEdges : Prop :=
  ∀ dt c,
    let hit (e : State) (n : Int) (up : Bool) (i : Nat) : Prop := let x := Store.read {} (e.chan c).cmp i
      i < 16 ∧ x.state = .armed ∧ (if up then x.qual % 2 = 1 else 2 ≤ x.qual) ∧ x.position = n
    let counts (i : Instr) (given : State → Prop) (ahead : Bool) : Prop := Acts i dt
      (fun e => given e ∧ e.counting c = true ∧ (e.chan c).loads = [])
      (fun e t =>
        let up : Bool := if e.parN P.FB_DIR_INVERT c = 1 then !ahead else ahead
        let n := wrap32 ((e.chan c).count + (if up then 1 else -1))
        (t.chan c).count = n ∧ (t.chan c).dirNeg = (!up) ∧ (t.chan c).edged = true ∧
        (t.chan c).last = some { count := n, ns := e.nsBack (e.parN P.FB_GLITCH c + 3) } ∧
        (t.chan c).posValid = (e.chan c).posValid ∧ (t.chan c).fault = (e.chan c).fault ∧
        (∀ i, hit e n up i → (Store.read {} (t.chan c).cmp i).state = .fired ∧ (Store.read {} (t.chan c).cmp i).stamp = compact e.ns) ∧
        (∀ i, ¬ hit e n up i → Store.read {} (t.chan c).cmp i = Store.read {} (e.chan c).cmp i) ∧
        (∀ i, hit e n up i → (∀ j, j ≠ i → ¬ hit e n up j) → let x := Store.read {} (e.chan c).cmp i
          e.parN P.CMP_EVT_FUNC x.pin = 1 → (t.evt x.pin).level = some (match x.action with
            | 0 => decide (e.parN P.CMP_EVT_IDLE x.pin ≠ 1)
            | 1 => true
            | 2 => false
            | _ => !e.pinLevel x.pin) ∧ (x.action = 0 → (e.evt x.pin).pulseTo = none →
              (t.evt x.pin).pulseTo = some (e.tm.now + e.parN P.CMP_PULSE c))) ∧
        ((∀ i, ¬ hit e n up i) → OnlyChanges [.fb] e t) ∧ (∀ j, j ≠ c → t.chan j = e.chan j) ∧ OnlyChanges [.fb, .ev] e t)
    let pairs : List (Nat × Nat) := [(1, 3), (3, 2), (2, 6), (6, 4), (4, 5), (5, 1)]
    (∀ a, counts (.quadEdge dt c a) (fun e => e.fbMode c = 1) a) ∧ (∀ d, counts (.stepDirEdge dt c d false) (fun e => e.fbMode c = 5) d) ∧
    (∀ x y, (x, y) ∈ pairs → counts (.hallChange dt c y) (fun e => e.fbMode c = 2 ∧ (e.chan c).hallKnown = true ∧ (e.chan c).hall = x) true ∧
      counts (.hallChange dt c x) (fun e => e.fbMode c = 2 ∧ (e.chan c).hallKnown = true ∧ (e.chan c).hall = y) false) ∧
    (∀ a, Idles (.quadEdge dt c a) dt fun e => e.fbMode c ≠ 1) ∧ (∀ a b, Idles (.stepDirEdge dt c a b) dt fun e => e.fbMode c ≠ 5) ∧
    ∀ x, x < 8 → Idles (.hallChange dt c x) dt fun e => e.fbMode c ≠ 2 ∨ ((e.chan c).hallKnown = true ∧ (e.chan c).hall = x)

/-- R188, R251 to R256, R274, R276, R277: illegal transitions, index events and the alarm input. A third illegal transition within 1 ms, and an index
event away from its distance, are faults that end the channel's position and the alignment of machines on it. -/
def Obligations.FeedbackFaultsAndIndex : Prop :=
  ∀ dt c,
    let loses (e t : State) (bit : Nat) : Prop := (t.chan c).fault.testBit bit = true ∧ (t.chan c).posValid = false ∧
      (e.channelAbsolute c = false → ∀ m, (e.parN P.MAC_FB_PRIMARY m = c → (t.machine m).aligned = false) ∧
        (e.parN P.MAC_FB_SECOND m = c → (t.machine m).aligned2 = false))
    let skips (i : Instr) (given : State → Prop) : Prop := Acts i dt (fun e => given e ∧ e.counting c = true) (fun e t =>
      (t.chan c).illegal = min 65535 ((e.chan c).illegal + 1) ∧ (t.chan c).count = (e.chan c).count ∧ (t.chan c).ref = none ∧
      (∀ a b l, (e.chan c).illegalAt = a :: b :: l → e.tm.now ≤ b + cyclesPerMs → loses e t 0) ∧
      ((∀ a b l, (e.chan c).illegalAt = a :: b :: l → b + cyclesPerMs < e.tm.now) → OnlyChanges [.fb] e t) ∧
      OnlyChanges (.fb :: .mc :: reportTouches) e t)
    let index (mode : Nat) (more : State → Prop) (Q : State → State → Prop) : Prop := ∀ gate, Acts (.indexEvent dt c gate) dt
      (fun e => e.counting c = true ∧ e.fbMode c = 1 ∧ (e.parN P.FB_INDEX_GATE c = 1 → gate = true) ∧ e.parN P.FB_INDEX_MODE c = mode ∧ more e)
      (fun e t => (t.chan c).indexSeen = true ∧ Q e t)
    let captured (e t : State) : Prop := (t.chan c).indexCount = (e.chan c).count ∧
      (t.chan c).indexStamp = compact (e.nsBack (e.parN P.FB_GLITCH c + 3))
    skips (.illegalTransition dt c) (fun e => e.fbMode c = 1 ∨ e.fbMode c = 5) ∧
    (∀ d, skips (.stepDirEdge dt c d true) (fun e => e.fbMode c = 5)) ∧
    (∀ x y, x < 8 → (x, y) ∈ [(1, 6), (6, 1), (3, 4), (4, 3), (2, 5), (5, 2), (0, 1), (7, 3)] →
      skips (.hallChange dt c x) (fun e => e.fbMode c = 2 ∧ (e.chan c).hallKnown = true ∧ (e.chan c).hall = y)) ∧
    (∀ x, x < 8 → Acts (.hallChange dt c x) dt (fun e => e.counting c = true ∧ e.fbMode c = 2 ∧ (e.chan c).hallKnown = false)
      (fun e t => (t.chan c).hall = x ∧ (t.chan c).hallKnown = true ∧ (t.chan c).count = (e.chan c).count ∧ OnlyChanges [.fb] e t)) ∧
    index 0 (fun _ => True) (fun e t => (t.chan c).count = (e.chan c).count ∧ (t.chan c).indexCount = (e.chan c).indexCount ∧ OnlyChanges [.fb] e t) ∧
    index 1 (fun _ => True) (fun e t => captured e t ∧ (t.chan c).count = (e.chan c).count ∧ OnlyChanges [.fb] e t) ∧
    index 2 (fun e => (e.chan c).indexSet = true) (fun e t => captured e t ∧ (t.chan c).count = wrap32 (e.par P.FB_INDEX_VALUE c) ∧
      (t.chan c).posValid = true ∧ (t.chan c).indexSet = false ∧ (t.chan c).speed = (e.chan c).speed ∧ OnlyChanges [.fb] e t) ∧
    index 2 (fun e => (e.chan c).indexSet = false) (fun e t => captured e t ∧ (t.chan c).count = (e.chan c).count ∧ OnlyChanges [.fb] e t) ∧
    (∀ p, index 3 (fun e => (e.chan c).indexPrev = some p) (fun e t => captured e t ∧ (t.chan c).count = (e.chan c).count ∧
      let d : Int := (wrap32 ((e.chan c).count - p)).natAbs - (e.parN P.FB_COUNTS_REV c : Int)
      (e.parN P.FB_INDEX_TOL c < d.natAbs → loses e t 1) ∧ (d.natAbs ≤ e.parN P.FB_INDEX_TOL c → OnlyChanges [.fb] e t))) ∧
    (∀ gate, Idles (.indexEvent dt c gate) dt fun e => e.counting c = false ∨ e.fbMode c ≠ 1 ∨ (e.parN P.FB_INDEX_GATE c = 1 ∧ gate = false)) ∧
    Acts (.fbAlarmInput dt c true) dt (fun e => e.counting c = true ∧ e.fbMode c ≠ 0 ∧ e.parN P.FB_ALARM c ≠ 0)
      (fun e t => (t.chan c).fault.testBit 10 = true ∧ (t.chan c).present.testBit 10 = true ∧
        ((e.chan c).fault.testBit 10 = false → ∃ d, e.Tells t [(5, 3, 1, b1 c ++ d)]) ∧ OnlyChanges (.fb :: reportTouches) e t) ∧
    Acts (.fbAlarmInput dt c false) dt (fun _ => True)
      (fun e t => (t.chan c).fault = (e.chan c).fault ∧ (t.chan c).present.testBit 10 = false ∧ OnlyChanges [.fb] e t)

/-- R279, R280, R283, R286 to R288, R410: COMPARE_LOAD waits for its frame start, a compare pulse ends, a latch is armed, captures an edge and gives
its captures up to GET_STATUS. -/
def Obligations.CompareLoadsAndLatches : Prop :=
  (∀ h es, Runs (.compareLoad h es) (fun _ _ => True) (fun c b t => let ch := c.target % 4096
    ((∃ x ∈ es, 4 ≤ x.qual % 256 ∨ 15 < x.pin % 256 ∨ 3 < x.action % 256 ∨ x.reserved % 256 ≠ 0) → b.Refuses t c 0x201) ∧
    ((∀ x ∈ es, x.qual < 4 ∧ x.pin ≤ 15 ∧ x.action ≤ 3 ∧ x.reserved = 0 ∧ Fits 32 x.position) → t.InProgress c ∧
      (t.chan ch).loads = (b.chan ch).loads ++ [{ slot := c.slot, entries := es, due := if b.framesRun then none else some b.tm.now }] ∧
      (t.chan ch).cmp = (b.chan ch).cmp ∧ (∀ j, j ≠ ch → t.chan j = b.chan j) ∧ OnlyChanges (.fb :: linkTouches) b t))) ∧
  (∀ dt p n, Acts (.cmpPulseEnd dt p) dt (fun e => (e.evt p).pulseTo = some n ∧ n ≤ e.tm.now)
    (fun e t => (t.evt p).level = some (decide (e.parN P.CMP_EVT_IDLE p = 1)) ∧ (t.evt p).pulseTo = none ∧
      (∀ j, j ≠ p → t.evt j = e.evt j) ∧ OnlyChanges [.ev] e t)) ∧
  (∀ dt p, Idles (.cmpPulseEnd dt p) dt fun e => ∀ n, (e.evt p).pulseTo = some n → e.tm.now < n) ∧
  (∀ h edge mode, Runs (.latchArm h edge mode) (fun c b => (b.latch (c.target % 4096)).slot ≠ some c.slot) (fun c b t =>
    let k := c.target % 4096
    let l := t.latch k
    let bad : Prop := edge % 256 < 1 ∨ 3 < edge % 256 ∨ 1 < mode % 256
    let armed : Prop := l.armed = true ∧ l.edge = edge % 256 ∧ l.queue = [] ∧ l.overflow = false ∧ (∀ j, j ≠ k → t.latch j = b.latch j)
    (bad → b.Refuses t c 0x201) ∧ (¬ bad → b.latchReserved k = true → b.Refuses t c 0x301) ∧
    (¬ bad → b.latchReserved k = false → mode % 256 = 0 → t.InProgress c ∧ armed ∧ l.cont = false ∧ l.slot = some c.slot ∧
      (∀ x, (b.latch k).slot = some x → b.Ends t x 0x11) ∧ OnlyChanges (.la :: .jn :: linkTouches) b t) ∧
    (¬ bad → b.latchReserved k = false → mode % 256 = 1 → t.Reports c 2 0 0 [] ∧ armed ∧ l.cont = true ∧ l.slot = none ∧
      OnlyChanges (.la :: replyTouches) b t))) ∧
  (∀ dt k r, Acts (.latchEdge dt k r) dt (fun e => k < 8 ∧ e.clocked = true ∧ e.parN P.LAT_CHANNEL k < e.channels) (fun e t =>
    let a := e.latch k
    let l := t.latch k
    let ch := e.parN P.LAT_CHANNEL k
    let takes : Prop := a.armed = true ∧ a.edge.testBit (if r then 0 else 1) = true
    ∃ x : Latched, x.ns = e.nsBack (e.parN P.LAT_FILTER k + 3) ∧ x.posValid = (e.chan ch).posValid ∧ (x.fault = true ↔ (e.chan ch).fault ≠ 0) ∧
      (e.fbSerial ch = false → x.count = (e.chan ch).count ∧ x.interp = false) ∧
      (¬ takes → l.queue = a.queue ∧ l.armed = a.armed ∧ OnlyChanges [.la] e t) ∧
      (takes → a.cont = true → a.queue.length < 4 → l.queue = a.queue ++ [x] ∧ l.armed = true ∧ OnlyChanges [.la] e t) ∧
      (takes → a.cont = true → 4 ≤ a.queue.length → l.queue = a.queue ∧ l.overflow = true ∧
        (a.overflow = false → e.Tells t [(5, 1, 6, b1 k ++ b1 ch)])) ∧
      (takes → a.cont = false → l.armed = false ∧ l.slot = none ∧ ∀ i, a.slot = some i → e.Ends t i 0))) ∧
  ∀ h, h.target / 4096 = 5 → Runs (.getStatus h) (fun _ _ => True) (fun c b t => let k := c.target % 4096
    t.Reports c 2 0 0 ((b.latch k).queue.flatMap fun x => leI 4 x.count ++ stampBytes x.ns ++ le 4 ((b.latch k).status (some x))) ∧
    (t.latch k).queue = [] ∧ (t.latch k).armed = (b.latch k).armed ∧ OnlyChanges (.la :: replyTouches) b t)

/-- R259 to R266, R271, R272, R274: serial transactions: the checks of SSI and BiSS-C in their order, what a good value gives, when it enters the
snapshot, and the poll while no frames run. -/
def Obligations.SerialFeedback : Prop :=
  ∀ dt c,
    let ends (r : SerialFrame) (mode : Nat) (pre : State → Prop) (Q : State → State → Prop) : Prop :=
      Acts (.serialTransactionEnd dt c r) dt (fun e => e.counting c = true ∧ e.fbMode c = mode ∧ pre e)
        (fun e t => (t.chan c).serEnded = true ∧ (t.chan c).serRaw = r.word % 2 ^ 32 ∧ Q e t)
    let bad (bit : Nat) (e t : State) : Prop := (t.chan c).fault.testBit bit = true ∧ (t.chan c).present.testBit bit = true ∧
      (t.chan c).count = (e.chan c).count ∧ (t.chan c).serGood = (e.chan c).serGood ∧ (t.chan c).serPrev = (e.chan c).serPrev ∧
      OnlyChanges (.fb :: reportTouches) e t
    let bits (e : State) : Nat := e.parN P.FB_SER_BITS c
    let running (e : State) : Prop := e.framesRun = true ∧ e.clocked = true
    let step (e : State) (p q : Nat) : Int := sx (bits e) ((p + 2 ^ bits e - q % 2 ^ bits e) % 2 ^ bits e)
    let good (p : State → Nat) (e t : State) : Prop := (t.chan c).serPrev = some (p e) ∧
      ((e.chan c).serPrev = none → running e → (t.chan c).serGood = some (wrap32 (p e)) ∧ (t.chan c).count = (e.chan c).count) ∧
      (∀ q, (e.chan c).serPrev = some q → (step e (p e) q).natAbs ≤ e.parN P.FB_SER_JUMP c → running e → bits e ≠ 32 →
        (t.chan c).serGood = some (wrap32 ((e.chan c).count + step e (p e) q)) ∧ (t.chan c).count = (e.chan c).count) ∧
      (∀ q, (e.chan c).serPrev = some q → (step e (p e) q).natAbs ≤ e.parN P.FB_SER_JUMP c → e.framesRun = false → bits e ≠ 32 →
        (e.chan c).loads = [] → (t.chan c).count = wrap32 ((e.chan c).count + step e (p e) q) ∧ (t.chan c).age = false) ∧
      (∀ q, (e.chan c).serPrev = some q → e.parN P.FB_SER_JUMP c < (step e (p e) q).natAbs →
        (t.chan c).fault.testBit 7 = true ∧ (t.chan c).count = (e.chan c).count ∧ (t.chan c).serGood = (e.chan c).serGood)
    let started (e : State) (r : SerialFrame) : Prop := ∃ n, r.startClocks = some n ∧ n ≤ e.parN P.FB_ACK_MAX c
    let crc (e : State) (r : SerialFrame) : Prop := r.crc % 64 = bissCrc (bits e) r
    (∀ r, r.idleHigh = false ∨ r.trailerLow = false → ends r 3 (fun _ => True) (bad 3)) ∧
    (∀ r, r.idleHigh = true → r.trailerLow = true → ends r 3 (fun _ => True)
      (good fun e => if e.parN P.FB_SER_CODE c = 1 then ofGray (bits e) (r.word % 2 ^ bits e) else r.word % 2 ^ bits e)) ∧
    (∀ r, r.idleHigh = false → ends r 4 (fun _ => True) (bad 9)) ∧
    (∀ r, r.idleHigh = true → ends r 4 (fun e => ¬ started e r) (bad 4)) ∧
    (∀ r, r.idleHigh = true → ends r 4 (fun e => started e r ∧ ¬ crc e r) (fun e t => (t.chan c).crcErr = true ∧
      (t.chan c).count = (e.chan c).count ∧ (t.chan c).serGood = (e.chan c).serGood ∧ ((e.chan c).crcErr = true → bad 5 e t) ∧
      ((e.chan c).crcErr = false → (t.chan c).fault = (e.chan c).fault ∧ OnlyChanges [.fb] e t))) ∧
    (∀ r, r.idleHigh = true → ends r 4 (fun e => started e r ∧ crc e r) (fun e t => good (fun e => r.word % 2 ^ bits e) e t ∧
      (t.chan c).crcErr = false ∧ (r.nE = false → (t.chan c).fault.testBit 6 = true ∧ (t.chan c).warn = (e.chan c).warn) ∧
      (r.nE = true → (t.chan c).warn = (!r.nW)))) ∧
    Acts (.serialReadyTransfer dt c) dt (fun e => e.counting c = true ∧ e.fbSerial c = true ∧ e.framesRun = true ∧ (e.chan c).serTaken = false ∧
        e.parN P.FB_SER_READY c ≤ e.frameCycle ∧ (e.chan c).loads = [])
      (fun e t => (t.chan c).serTaken = true ∧
        (∀ v, (e.chan c).serGood = some v → (t.chan c).count = v ∧ (t.chan c).age = false ∧ (t.chan c).serGood = none ∧ (t.chan c).serLate = 0 ∧
          (t.chan c).snap.head? = some (tc 32 v) ∧ ((e.chan c).serSeen = false → (t.chan c).posValid = true)) ∧
        ((e.chan c).serGood = none → (t.chan c).count = (e.chan c).count ∧ (t.chan c).age = (e.chan c).age ∧
          (t.chan c).snap.head? = some (tc 32 (e.chan c).count) ∧
          ((e.chan c).serEnded = true → (t.chan c).serLate = 0) ∧ ((e.chan c).serEnded = false → (t.chan c).serLate = (e.chan c).serLate + 1 ∧
            (1 ≤ (e.chan c).serLate → (t.chan c).fault.testBit 8 = true))) ∧ OnlyChanges (.fb :: .ev :: reportTouches) e t) ∧
    Idles (.serialReadyTransfer dt c) dt (fun e => e.fbSerial c = false ∨ e.framesRun = false ∨ (e.chan c).serTaken = true ∨
      e.frameCycle < e.parN P.FB_SER_READY c) ∧
    Acts (.serialPollTimer dt) dt (fun e => (e.framesRun = false ∨ e.clocked = false) ∧ e.pw.held = false)
      (fun e t => OnlyChanges (.fb :: reportTouches) e t ∧ (c < e.channels → (e.chan c).stopped = false →
        (t.chan c).count = (e.chan c).count ∧ (t.chan c).snapNs = e.ns ∧ (t.chan c).snap.head? = some (tc 32 (e.chan c).count) ∧
        (e.fbSerial c = true → e.counting c = true → (t.chan c).serEnded = false ∧ (t.chan c).age = (!(e.chan c).serEnded)))) ∧
    Idles (.serialPollTimer dt) dt fun e => (e.framesRun = true ∧ e.clocked = true) ∨ e.pw.held = true

/-- R297, R300, R301, R419: an axis or a path command that starts waits in the queue of its axis, or of its group's first member, for the sample that
takes it; an axis the image does not run, and an OBSERVED axis for all but AXIS_ENABLE, AXIS_DISABLE and HOME, answers WRONG_STATE. -/
def Obligations.MotionCommandsJoinTheirQueues : Prop :=
  ∀ h : Hdr,
    let far (c : Cmd) : Prop := ∃ n, c.start = some n ∧ c.accept + 86400 * nsPerS < n
    let waits (a : Nat) (c : Cmd) (b t : State) : Prop := t.InProgress c ∧ (t.axis a).queue = (b.axis a).queue ++ [c] ∧
      (t.axis a).mode = (b.axis a).mode ∧ (t.axis a).profile = (b.axis a).profile ∧ (∀ j, j ≠ a → t.axis j = b.axis j) ∧
      OnlyChanges (.ax :: linkTouches) b t
    let joins (i : Instr) (observed : Bool) : Prop := Runs i (fun _ _ => True) fun c b t =>
      let a := c.target % 4096
      let has : Prop := b.axisRuns a = true ∧ (observed = true ∨ b.axisType a ≠ 3)
      (¬ has → b.Refuses t c 0x300) ∧ (has → far c → b.Refuses t c 0x201) ∧ (has → ¬ far c → waits a c b t)
    let group (i : Instr) : Prop := Runs i (fun _ _ => True) fun c b t =>
      let ms := (b.members (c.target % 4096)).filter b.axisRuns
      (ms = [] → b.Refuses t c 0x300) ∧ ∀ a as, ms = a :: as → c.target % 4096 < 4 →
        (far c → b.Refuses t c 0x201) ∧ (¬ far c → waits a c b t)
    (∀ preload, joins (.axisEnable h preload) true) ∧ joins (.axisDisable h) true ∧ (∀ p, joins (.moveAbs h p) false) ∧
    (∀ d, joins (.moveRel h d) false) ∧ (∀ v, joins (.moveVel h v) false) ∧ (∀ p, joins (.retarget h p) false) ∧
    (∀ v a d j, joins (.setMotionLimits h v a d j) false) ∧ (∀ m, joins (.stop h m) false) ∧ joins (.home h) true ∧
    (∀ m, joins (.gearEngage h m) false) ∧ (∀ m, joins (.gearDisengage h m) false) ∧ (∀ ss, group (.pathAppend h ss)) ∧ group (.pathStart h)

/-- R302, R303, R306, R316, R333: what AXIS_ENABLE, AXIS_DISABLE, STOP and HOME at the present position do at the sample that takes them, outside a
running path. -/
def Obligations.StateCommandsAtTheirSample : Prop :=
  ∀ (a : Nat) (c : Cmd) (s : State),
    let x := s.axis a
    let r := takeOne a c s
    let y := r.2.axis a
    let refuses (st : Nat) : Prop := r = (.fail st, s)
    let ms := s.axisMachines a
    let ready : Prop := x.mode = .disabled ∧ x.enabling = none ∧ s.causePresent a = false ∧ ∀ m ∈ ms, s.drivingOf m ≠ [] ∧ s.isAligned m = true
    let quiet : Prop := ∀ m ∈ ms, s.inDemand (s.machineGroup m) = false
    (s.axisDemand a = true → c.opcode ∈ [0x502, 0x503, 0x504, 0x505, 0x508, 0x50B] → refuses 0x304) ∧
    (c.opcode = 0x500 → ¬ ready → refuses 0x300) ∧ (c.opcode = 0x500 → ready → ¬ quiet → refuses 0x304) ∧
    (c.opcode = 0x500 → ready → quiet → s.axisType a = 1 → r.1 = .pending ∧ y.enabling = some (c.slot, s.tm.now) ∧ y.mode = .disabled) ∧
    (c.opcode = 0x500 → ready → quiet → s.axisType a ≠ 1 → r.1 = .ok ∧ y.mode = .holding ∧ y.cause = 0 ∧ y.limits = none ∧
      y.pcmd = (if s.axisType a = 2 ∨ s.axisType a = 4 then x.pcmd else x.pos) ∧ y.vcmd = 0 ∧ y.gear = none ∧ y.profile = none ∧
      (∀ l : Rat, l = r.2.axisLimit a → -l ≤ (fldI c.args 0 4 : Rat) → (fldI c.args 0 4 : Rat) ≤ l → y.integ = (fldI c.args 0 4 : Rat)) ∧
      s.Tells r.2 [(6, 0, 1, b1 a ++ leI 4 (fldI c.args 0 4) ++ b4 s.rg.frame)]) ∧
    (c.opcode = 0x501 → x.mode = .moving ∨ x.mode = .stopping → refuses 0x300) ∧
    (c.opcode = 0x501 → x.mode ≠ .moving → x.mode ≠ .stopping → r.1 = .ok ∧ y.mode = .disabled ∧ y.torque = 0 ∧ y.motion = .none ∧
      (∀ m ∈ ms, (r.2.machine m).demand = 0) ∧ s.Tells r.2 [(6, 0, 2, b1 a ++ b4 s.rg.frame)]) ∧
    (c.opcode = 0x507 → fld c.args 0 1 ≤ 1 → x.mode = .disabled ∨ x.mode = .fault → refuses 0x300) ∧
    (c.opcode = 0x507 → fld c.args 0 1 ≤ 1 → x.mode = .holding → r = (.ok, s)) ∧
    (c.opcode = 0x507 → fld c.args 0 1 ≤ 1 → x.mode = .moving ∨ x.mode = .stopping → s.pathOf a = none → r.1 = .pending ∧ y.mode = .stopping ∧
      y.motion = .stop ∧ y.stops = x.stops ++ [c.slot] ∧ y.gear = none ∧ y.quick = decide (fld c.args 0 1 = 1) ∧
      ∀ k, x.slot = some k → s.Ends r.2 k 0x11) ∧
    (c.opcode = 0x508 → s.axisDemand a = false → x.mode ≠ .holding → refuses 0x300) ∧
    (c.opcode = 0x508 → s.axisDemand a = false → x.mode = .holding → s.parN P.HOM_METHOD a = 5 → y.mode = .holding ∧ y.home = none ∧
      y.pos = s.par P.HOM_OFFSET a ∧ y.pcmd = x.pcmd + (s.par P.HOM_OFFSET a - x.pos) ∧ y.offset = x.offset + (s.par P.HOM_OFFSET a - x.pos) ∧
      s.Ends r.2 c.slot 0 ∧ ∀ f, s.axisChan a = some f → (r.2.chan f).posValid = true)

/-- R313 to R315, R318, R319, R323, R324, R327, R328, R336: what the motion commands do at the sample that takes them, outside a safety demand and
outside a running path. -/
def Obligations.MovesAtTheirSample : Prop :=
  ∀ (a : Nat) (c : Cmd) (s : State), s.axisDemand a = false → s.pathOf a = none →
    let x := s.axis a
    let r := takeOne a c s
    let y := r.2.axis a
    let refuses (st : Nat) : Prop := r = (.fail st, s)
    let l := s.activeLimits a
    let op (n : Nat) (p q : Prop) : Prop := c.opcode = n → p → q
    let blocked (t : Int) : Prop := s.inSoftLimits a t = false ∨ s.hwLimit a (sgnI (t - x.pcmd)) = true
    let move (t : Int) (m : Motion) : Prop := (blocked t → refuses 0x400) ∧ (¬ blocked t → r.1 = .pending ∧ y.mode = .moving ∧ y.motion = m ∧
      y.slot = some c.slot ∧ (s.inPP a = true → y.pcmd = t) ∧ (s.inPP a = false → y.pcmd = x.pcmd ∧ ∃ f, y.profile = some f ∧ f.target = some t))
    let w := fldI c.args 0 4
    let vel : Prop := x.mode = .moving ∧ x.motion = .vel
    let posn : Prop := x.mode = .moving ∧ (x.motion = .abs ∨ x.motion = .rel)
    let test (q : Int) (d j : Nat) : Retarget := retargetTest ((q : Rat) / 65536) (s.kin a) d j
    let n : Limits := { v := fld c.args 0 4, a := fld c.args 4 4, d := fld c.args 8 4, j := fld c.args 12 4 }
    let within : Prop := (0 < n.v ∧ n.v ≤ s.parN P.AX_VMAX a) ∧ (0 < n.a ∧ n.a ≤ s.parN P.AX_AMAX a) ∧ (0 < n.d ∧ n.d ≤ s.parN P.AX_DMAX a) ∧
      0 < n.j ∧ n.j ≤ s.parN P.AX_JMAX a
    let g := c.target % 4096
    let ms := s.members g
    let segs := parsePath ms.length 400 c.args
    let mode := fld c.args 0 1
    let m := s.parN P.GR_MASTER a
    let slave : Prop := s.inPP a = false ∧ (x.mode = .holding ∨ vel) ∧ m ≠ a ∧ s.masterLost a = false ∧ s.axisRuns m = true
    (op 0x502 (x.mode ≠ .holding ∨ s.axisPosValid a = false) (refuses 0x300)) ∧
    (op 0x502 (x.mode = .holding ∧ s.axisPosValid a = true) (move (fldI c.args 0 8) .abs)) ∧
    (op 0x503 (x.mode ≠ .holding) (refuses 0x300)) ∧ (op 0x503 (x.mode = .holding) (move (x.pcmd + fldI c.args 0 8) .rel)) ∧
    (op 0x504 (s.inPP a = true ∨ (x.mode ≠ .holding ∧ ¬ vel)) (refuses 0x300)) ∧
    (op 0x504 (s.inPP a = false ∧ (x.mode = .holding ∨ vel)) ((l.v < w.natAbs → refuses 0x400) ∧
      (w.natAbs ≤ l.v → vel → w * x.vcmd < 0 → refuses 0x401) ∧
      (w.natAbs ≤ l.v → ¬ (vel ∧ w * x.vcmd < 0) → s.hwLimit a (sgnI w) = true → refuses 0x400) ∧
      (w.natAbs ≤ l.v → ¬ (vel ∧ w * x.vcmd < 0) → s.hwLimit a (sgnI w) = false → r.1 = .pending ∧ y.mode = .moving ∧ y.motion = .vel ∧
        y.velSet = w * 2 ^ 32 ∧ y.slot = some c.slot ∧ ∀ k, x.slot = some k → s.Ends r.2 k 0x11))) ∧
    (op 0x505 (s.inPP a = true ∨ ¬ posn) (refuses 0x300)) ∧
    (op 0x505 (s.inPP a = false ∧ posn) (let q := fldI c.args 0 8
      (blocked q → refuses 0x400) ∧ (¬ blocked q → test q l.d l.j = .behind → refuses 0x401) ∧
      (∀ z, ¬ blocked q → test q l.d l.j = .unreachable z → r = (.fail 0x402 0 (leI 8 z), s)) ∧
      (¬ blocked q → test q l.d l.j = .accept → r.1 = .ok ∧ y.motion = x.motion ∧ y.mode = .moving ∧ y.slot = x.slot ∧
        ∃ f, y.profile = some f ∧ f.target = some q))) ∧
    (op 0x506 (¬ within) (refuses 0x400)) ∧
    (op 0x506 (within ∧ (s.inPP a = true ∨ x.mode ≠ .moving)) (r.1 = .ok ∧ y = { x with limits := some n })) ∧
    (∀ f q, op 0x506 (within ∧ s.inPP a = false ∧ posn ∧ x.profile = some f ∧ f.target = some q)
      ((∀ z, test q n.d n.j = .unreachable z → r = (.fail 0x402 0 (leI 8 z), s)) ∧
       ((∀ z, test q n.d n.j ≠ .unreachable z) → r.1 = .ok ∧ y.limits = some n ∧ y.slot = x.slot ∧
         ∃ f', y.profile = some f' ∧ f'.target = some q))) ∧
    (op 0x509 (c.args = [] ∨ c.args.length % (4 + 12 * ms.length) ≠ 0 ∨ ∃ z ∈ segs, z.duration = 0 ∨ z.flags ≠ 0 ∨ z.reserved ≠ 0) (refuses 0x201)) ∧
    (op 0x509 (c.args ≠ [] ∧ c.args.length % (4 + 12 * ms.length) = 0 ∧ ∀ z ∈ segs, z.duration ≠ 0 ∧ z.flags = 0 ∧ z.reserved = 0)
      (let p := s.path g
       let ok := s.segmentsOk ms segs (if p.segs = [] then none else p.tail)
       (256 < p.segs.length + segs.length → refuses 0x403) ∧ (p.segs.length + segs.length ≤ 256 → ok = false → refuses 0x400) ∧
       (p.segs.length + segs.length ≤ 256 → ok = true → r.1 = .ok (le 2 (p.segs.length + segs.length)) ∧
         (r.2.path g).segs = p.segs ++ segs ∧ (r.2.path g).slot = p.slot ∧ OnlyChanges [.pg] s r.2))) ∧
    (op 0x50A ((s.path g).slot ≠ none ∨ (s.path g).segs = [] ∨ ∃ k ∈ ms, s.axisRuns k = false ∨ (s.axis k).mode ≠ .holding) (refuses 0x300)) ∧
    (op 0x50A ((s.path g).slot = none ∧ (s.path g).segs ≠ [] ∧ ∀ k ∈ ms, s.axisRuns k = true ∧ (s.axis k).mode = .holding ∧ s.inPP k = false ∧
        s.axisType k ≠ 3 ∧ s.axisDemand k = false)
      (let ok := s.segmentsOk ms ((s.path g).segs.take 1) (some (ms.map fun k => ((s.axis k).pcmd, 0)))
       (ok = false → refuses 0x400) ∧ (ok = true → r.1 = .pending ∧ (r.2.path g).slot = some c.slot ∧ (r.2.path g).segs = (s.path g).segs ∧
         ∀ k ∈ ms, (r.2.axis k).mode = .moving ∧ (r.2.axis k).motion = .path ∧ (r.2.axis k).pcmd = (s.axis k).pcmd))) ∧
    (op 0x50B (mode ≤ 1 ∧ ¬ slave) (refuses 0x300)) ∧
    (op 0x50B (mode = 0 ∧ slave ∧ (x.vcmd ≠ 0 ∨ (s.masterValue a).2 ≠ 0)) (refuses 0x300)) ∧
    (op 0x50B (mode = 0 ∧ slave ∧ x.vcmd = 0 ∧ (s.masterValue a).2 = 0) (r.1 = .ok ∧ y.mode = .moving ∧ y.motion = .gear ∧ y.profile = none ∧
      y.gear = some { rem := 0, master := (s.masterValue a).1, pending := none } ∧ y.pcmd = x.pcmd)) ∧
    (op 0x50B (mode = 1 ∧ slave) (r.1 = .pending ∧ y.mode = .moving ∧ y.motion = .gear ∧ y.profile ≠ none ∧
      y.gear = some { rem := 0, master := (s.masterValue a).1, pending := some c.slot })) ∧
    (op 0x50C (x.motion ≠ .gear ∨ x.mode ≠ .moving) (refuses 0x300)) ∧
    (op 0x50C (x.motion = .gear ∧ x.mode = .moving ∧ mode = 1) (r.1 = .ok ∧ y.gear = none ∧ y.motion = .stop ∧ y.mode = .stopping)) ∧
    (op 0x50C (x.motion = .gear ∧ x.mode = .moving ∧ mode = 0) (r.1 = .ok ∧ y.gear = none ∧ y.motion = .vel ∧ y.mode = .moving ∧ y.velSet = x.vcmd))

/-- R298, R299, R301, R302, R304, R308, R310, R328: the sample of an axis, and the ends of a motion that come between or at samples. -/
def Obligations.AxisSampleAndEnds : Prop :=
  ∀ dt a,
    Acts (.axisSample dt a) dt (fun e => e.sampleDue a = true) (fun e t =>
      let x := e.axis a
      let y := t.axis a
      y.sampled = some e.rg.frameStart ∧ y.samples = x.samples + 1 ∧
      (∀ c cs, x.queue = c :: cs → (∃ n, c.start = some n ∧ e.valley < n) → y.queue = x.queue) ∧
      (∀ c, x.queue = [c] → (∀ n, c.start = some n → n ≤ e.valley) → y.queue = []) ∧
      (x.queue = [] → y.queue = []) ∧
      (x.queue = [] → x.mode = .disabled → y.mode = .disabled ∧ y.vcmd = 0 ∧ y.limits = x.limits ∧ y.offset = x.offset ∧
        (e.axisType a = 0 → y.torque = 0) ∧
        (e.axisType a ≠ 2 → e.axisType a ≠ 4 → y.pcmd = y.pos) ∧ (∀ m ∈ e.axisMachines a, (t.machine m).demand = 0) ∧
        ∀ c, e.axisChan a = some c →
          let n := sx 32 ((e.chan c).snap.getD 0 0)
          y.prev = some n ∧ (x.prev = none → y.ext = n) ∧ (∀ p, x.prev = some p → y.ext = x.ext + sx 32 (tc 32 (n - p))) ∧
          y.pos = y.ext * e.parN P.AX_SCALE_NUM a * 65536 / (e.parN P.AX_SCALE_DEN a : Int) + x.offset)) ∧
    Idles (.axisSample dt a) dt (fun e => e.framesRun = false ∨ e.axisRuns a = false ∨ (e.axis a).sampled = some e.rg.frameStart) ∧
    (∀ k n, Acts (.axisEnableRemoteTimeout dt a) dt (fun e => (e.axis a).enabling = some (k, n) ∧ n + cyclesPerS ≤ e.tm.now)
      (fun e t => e.Ends t k 0x700 ∧ (t.axis a).enabling = none ∧ (t.axis a).mode = (e.axis a).mode ∧ OnlyChanges [.ax, .jn] e t)) ∧
    Idles (.axisEnableRemoteTimeout dt a) dt (fun e => ∀ k n, (e.axis a).enabling = some (k, n) → e.tm.now < n + cyclesPerS) ∧
    (∀ n, Acts (.followingErrorFault dt a) dt
      (fun e => (e.axis a).followFrom = some n ∧ n + e.parN P.AX_FOLLOW_TIME a * cyclesPerMs ≤ e.tm.now ∧ (e.axis a).mode ≠ .fault ∧
        (e.axis a).mode ≠ .disabled ∧ (e.axis a).home = none)
      (fun e t => (t.axis a).mode = .fault ∧ (t.axis a).cause = 1 ∧ (t.axis a).motion = .stop ∧ (t.axis a).quick = true ∧
        (∀ k, (e.axis a).slot = some k → e.Ends t k 0x400) ∧
        e.Tells t [(6, 3, 3, b1 a ++ b1 1 ++ posHigh (e.axis a).pos ++ b4 e.rg.frame)])) ∧
    Idles (.followingErrorFault dt a) dt
      (fun e => ∀ n, (e.axis a).followFrom = some n → e.tm.now < n + e.parN P.AX_FOLLOW_TIME a * cyclesPerMs) ∧
    Acts (.remoteLost dt a) dt
      (fun e => e.axisType a = 1 ∧ (e.parN P.AX_REMOTE_MISS a ≤ (e.axis a).misses ∨ (e.axis a).driveFault = true) ∧ (e.axis a).mode ≠ .fault ∧
        (e.axis a).mode ≠ .disabled ∧ (e.axis a).home = none)
      (fun e t => (t.axis a).mode = .fault ∧ (t.axis a).cause = 4 ∧ (t.axis a).halt = true ∧ (t.axis a).profile = none ∧
        (∀ k, (e.axis a).slot = some k → e.Ends t k 0x700) ∧
        e.Tells t [(6, 3, 3, b1 a ++ b1 4 ++ posHigh (e.axis a).pos ++ b4 e.rg.frame)]) ∧
    Idles (.remoteLost dt a) dt
      (fun e => e.axisType a ≠ 1 ∨ ((e.axis a).misses < e.parN P.AX_REMOTE_MISS a ∧ (e.axis a).driveFault = false)) ∧
    (∀ n f, Acts (.moveInPosition dt a) dt
      (fun e => (e.axis a).windowFrom = some n ∧ n + e.parN P.AX_INPOS_TIME a * cyclesPerMs ≤ e.tm.now ∧ (e.axis a).mode = .moving ∧
        ((e.axis a).motion = .abs ∨ (e.axis a).motion = .rel) ∧ (e.axis a).profile = some f ∧ f.ended = true)
      (fun e t => (t.axis a).mode = .holding ∧ (t.axis a).motion = .none ∧ (t.axis a).pcmd = (e.axis a).pcmd ∧
        (∀ k, (e.axis a).slot = some k → e.Ends t k 0) ∧ OnlyChanges [.ax, .jn] e t)) ∧
    Idles (.moveInPosition dt a) dt (fun e => ∀ n, (e.axis a).windowFrom = some n →
      e.tm.now < n + e.parN P.AX_INPOS_TIME a * cyclesPerMs ∨ (e.axis a).mode ≠ .moving ∨ ∀ f, (e.axis a).profile = some f → f.ended = false) ∧
    Acts (.gearBroken dt a) dt (fun e => (e.axis a).motion = .gear ∧ (e.axis a).mode = .moving ∧ 2 ≤ (e.axis a).fast)
      (fun e t => (t.axis a).gear = none ∧ (t.axis a).motion = .stop ∧ (t.axis a).mode = .stopping ∧ (t.axis a).quick = false ∧
        e.Tells t [(6, 2, 0xB, b1 a ++ b1 (e.parN P.GR_MASTER a) ++ b1 1)] ∧ (∀ j, j ≠ a → t.axis j = e.axis j) ∧
        OnlyChanges (.ax :: reportTouches) e t) ∧
    Idles (.gearBroken dt a) dt (fun e => (e.axis a).motion ≠ .gear ∨ (e.axis a).mode ≠ .moving ∨ (e.axis a).fast < 2)

/-- R326, R341 to R343, R345, R346: the sum of a gear's steps is the floor of the ratio, a rate multiplier emits one pending step where its period and
its direction allow it, and what a write, a lack of writes and RM_STATUS do to it. -/
def Obligations.GearsAndRateMultipliers : Prop :=
  (∀ (a : Nat) (g : GearSt) (s : State), 0 < s.parN P.GR_DEN a → ∃ g', ((gearStep a g s).axis a).gear = some g' ∧
    g'.master = (s.masterValue a).1 ∧ g'.rem < s.parN P.GR_DEN a ∧
    (((gearStep a g s).axis a).pcmd - (s.axis a).pcmd) * s.parN P.GR_DEN a + g'.rem =
      (g'.master - g.master) * s.par P.GR_NUM a + g.rem) ∧
  ∀ dt k,
    let now (e : State) : Int := (e.rate k).ext + (e.rate k).w * ((e.tm.now - (e.rate k).from_ : Nat) : Int)
    let pend (e : State) : Int := now e / 2 ^ 40 - (e.rate k).emitted
    let soon (e : State) : Prop := ∃ n, (e.rate k).lastStep = some n ∧ e.tm.now < n + e.parN P.RM_MIN_PERIOD k
    let ready (e : State) (neg : Bool) : Prop := e.parN P.RM_MODE k = 1 →
      (e.rate k).dirNeg = neg ∧ (e.rate k).dirFrom + e.parN P.RM_DIR_SETUP k ≤ e.tm.now
    let on (e : State) : Prop := k < 8 ∧ e.clocked = true
    let keeps (e t : State) : Prop := (t.rate k).ext = now e ∧ (t.rate k).w = (e.rate k).w ∧ (∀ j, j ≠ k → t.rate j = e.rate j) ∧ OnlyChanges [.rm] e t
    (∀ neg : Bool, Acts (.rmStepEmit dt k) dt (fun e => on e ∧ pend e ≠ 0 ∧ (neg = true ↔ pend e < 0) ∧ ¬ soon e ∧ ready e neg)
      (fun e t => (t.rate k).emitted = (e.rate k).emitted + (if neg then -1 else 1) ∧ (t.rate k).dirNeg = neg ∧
        (t.rate k).lastStep = some e.tm.now ∧ keeps e t)) ∧
    Acts (.rmStepEmit dt k) dt (fun e => on e ∧ (pend e = 0 ∨ soon e ∨ ¬ ready e (decide (pend e < 0))))
      (fun e t => (t.rate k).emitted = (e.rate k).emitted ∧ (t.rate k).lastStep = (e.rate k).lastStep ∧ keeps e t) ∧
    Idles (.rmStepEmit dt k) dt (fun e => ¬ on e) ∧
    (∀ n, Acts (.rmStale dt k) dt (fun e => k < 8 ∧ (e.rate k).lastWrite = some n ∧ n + 2 * e.feedCycles k ≤ e.tm.now)
      (fun e t => (t.rate k).w = 0 ∧ (t.rate k).stale = true ∧ (t.rate k).ext = now e ∧ (t.rate k).emitted = (e.rate k).emitted ∧
        e.Tells t [(6, 2, 0xE, b1 k ++ b4 e.rg.frame)] ∧ OnlyChanges (.rm :: reportTouches) e t)) ∧
    Acts (.rmStale dt k) dt (fun e => k < 8 ∧ ∀ n, (e.rate k).lastWrite = some n → e.tm.now < n + 2 * e.feedCycles k)
      (fun e t => (t.rate k).stale = (e.rate k).stale ∧ keeps e t) ∧
    (∀ v, Acts (.rmStatusClear dt k v) dt (fun _ => k < 8) (fun e t => (t.rate k).stale = ((e.rate k).stale && !v.testBit 2) ∧
      (t.rate k).sat = ((e.rate k).sat && !v.testBit 1) ∧ (t.rate k).w = (e.rate k).w ∧ (t.rate k).emitted = (e.rate k).emitted ∧
      (∀ j, j ≠ k → t.rate j = e.rate j) ∧ OnlyChanges [.rm] e t)) ∧
    ∀ (w : Int) (s : State), let lim : Int := 2 ^ 40 / s.parN P.RM_MIN_PERIOD k
      let r := (rmWrite k w s).rate k
      (w.natAbs ≤ lim → r.w = w ∧ r.sat = (s.rate k).sat) ∧ (lim < w → r.w = lim ∧ r.sat = true) ∧ (w < -lim → r.w = -lim ∧ r.sat = true) ∧
        r.ext = now s ∧ r.lastWrite = some s.tm.now

/-- R366 to R370: the operations of LEARN_CONTROL. All but SAVE and STATUS wait for a frame start while frames run; where none run they act at once.
That a command to a table that no part has, and a READ or WRITE of bins that no table has, answer PARAM_RANGE is the rule of R411's code. -/
def Obligations.LearnControl : Prop :=
  ∀ (h : Hdr) (l : Nat),
    let n := l % 256
    let tgt (b : State) : Nat := b.parN P.LT_TARGET_AXIS n
    let holds (b : State) : Prop := (∃ m ∈ b.axisMachines (tgt b), b.inDemand (b.machineGroup m) = true ∨ (b.machine m).dropBank ≠ none ∨
      (b.machine m).unavailable ≠ none) ∨ b.axisPosValid (b.parN P.LT_INDEX_AXIS n) = false
    let others (b t : State) : Prop := ∀ j, j ≠ n → t.table j = b.table j
    let acts (i : Instr) (range : State → Prop) (bad : State → Prop) (data : State → List Nat) (Q : State → State → Prop) : Prop :=
      Runs i (fun _ _ => True) fun c b t =>
        (16 ≤ n ∨ ¬ range b → b.Refuses t c 0x201) ∧
        (n < 16 → range b → b.framesRun = true → t.InProgress c ∧ (t.table n).ops = (b.table n).ops ++ [c] ∧ (t.table n).mode = (b.table n).mode ∧
          (t.table n).bins = (b.table n).bins ∧ others b t ∧ OnlyChanges (.lt :: linkTouches) b t) ∧
        (n < 16 → range b → b.framesRun = false → bad b → b.Refuses t c 0x300) ∧
        (n < 16 → range b → b.framesRun = false → ¬ bad b → t.Reports c 2 0 0 (data b) ∧ others b t ∧ Q b t ∧
          OnlyChanges (.lt :: replyTouches ++ reportTouches) b t)
    let off (b : State) : Prop := (b.table n).mode = .off
    let size (b : State) : Nat := b.parN P.LT_NBINS n
    acts (.ltFreeze h l) (fun _ => True) off (fun _ => []) (fun b t => (t.table n).bins = (b.table n).bins ∧
      (t.table n).causes.testBit 0 = true ∧ (t.table n).mode = if (b.table n).mode = .blanked then .blanked else .frozen) ∧
    acts (.ltResume h l) (fun _ => True) (fun b => off b ∨ holds b) (fun _ => []) (fun b t => (t.table n).bins = (b.table n).bins ∧
      (t.table n).causes = 0 ∧ (t.table n).mode = .active) ∧
    acts (.ltClear h l) (fun _ => True) off (fun _ => []) (fun b t => (∀ k, (t.table n).bin (size b) k = 0) ∧
      ((b.table n).mode = .blanked → (t.table n).mode = .frozen ∧ (t.table n).causes.testBit 0 = true) ∧
      ((b.table n).mode ≠ .blanked → (t.table n).mode = (b.table n).mode ∧ (t.table n).causes = (b.table n).causes)) ∧
    (∀ first count, first < 65536 → count < 65536 →
      acts (.ltRead h l first count) (fun b => count ≤ 256 ∧ first < size b) (fun _ => False)
        (fun b => (gen (fun i => leI 2 ((b.table n).bin (size b) (first + i))) count).flatten) (fun b t => t.table n = b.table n)) ∧
    (∀ first (bins : List Int), first < 65536 → bins.length < 65536 → (∀ x ∈ bins, Fits 16 x) →
      acts (.ltWrite h l first bins) (fun b => bins.length ≤ 256 ∧ first < size b) (fun b => (b.table n).mode ≠ .frozen) (fun _ => [])
        (fun b t => (t.table n).mode = .frozen ∧ (t.table n).causes = (b.table n).causes ∧ (bins.length ≤ size b →
          (∀ i x, bins[i]? = some x → (t.table n).bin (size b) (first + i) = x) ∧
          ∀ k, k < size b → (∀ i, i < bins.length → k ≠ (first + i) % size b) → (t.table n).bin (size b) k = (b.table n).bin (size b) k))) ∧
    Runs (.ltSave h l) (fun _ _ => True) (fun c b t => (16 ≤ n → b.Refuses t c 0x201) ∧ (n < 16 → off b → b.Refuses t c 0x300) ∧
      (n < 16 → ¬ off b → t.Reports c 2 0 0 [] ∧ (t.table n).saved = some (b.ltParams n, (b.table n).bins) ∧
        (t.table n).bins = (b.table n).bins ∧ (t.table n).mode = (b.table n).mode ∧ others b t)) ∧
    Runs (.ltStatus h l) (fun _ _ => True) (fun c b t => (16 ≤ n → b.Refuses t c 0x201) ∧
      (n < 16 → t.Reports c 2 0 0 ([tableCode (b.table n).mode, (b.table n).causes, if (b.table n).learned then 1 else 0] ++
        le 4 (b.table n).updates ++ le 2 (b.table n).peak) ∧ OnlyChanges replyTouches b t))

/-- R308, R330, R362, R363, R367, R368, R374, R375, R378, R382: what a cause does to a table, that a sample learns one bin within its limit or none,
that the velocity loop's integrator and torque stay within the torque limit and the torque is shared by weight; the observer's residual is recorded
and flagged once it has lasted its time, and with OBS_ACTION 1 stops the axis; the flag clears, and a suspension ends, each at its time. -/
def Obligations.LearningLawTorqueLoopAndObserver : Prop :=
  ((∀ (bit l : Nat) (s : State), bit ≤ 5 → let x := s.table l
      let y := (ltCause bit l s).table l
      y.bins = x.bins ∧ (∀ j, j ≠ l → (ltCause bit l s).table j = s.table j) ∧
      (x.mode = .off → ltCause bit l s = s) ∧
      (x.mode ≠ .off → (∀ k, y.causes.testBit k = (x.causes.testBit k || decide (k = bit))) ∧
        (y.mode = if x.mode = .blanked ∨ bit = 3 ∨ bit = 4 then .blanked else .frozen))) ∧
    (∀ (a l : Nat) (s : State), let x := s.table l
      let y := (ltUpdate a l s).table l
      y.mode = x.mode ∧ y.updates = (x.updates + 1) % 2 ^ 32 ∧ y.learned = true ∧ OnlyChanges [.lt] s (ltUpdate a l s) ∧
      ∃ u, (0 < s.parN P.LT_NBINS l → u < s.parN P.LT_NBINS l) ∧
        (∀ k, k ≠ u → Store.read 0 y.bins k = Store.read 0 x.bins k) ∧ (Store.read 0 y.bins u).natAbs ≤ s.parN P.LT_OUT_MAX l) ∧
    (∀ (a : Nat) (s : State), (∀ l, l < 16 → s.ltLearns a l = false ∨ (s.table l).wasLimited = true) → ∀ lim l,
      ((ltLearn a lim s).table l).bins = (s.table l).bins ∧ ((ltLearn a lim s).table l).updates = (s.table l).updates) ∧
    (∀ (a : Nat) (s : State) (l : Nat), ((ltLearn a true s).table l).bins = (s.table l).bins) ∧
    ∀ (a : Nat) (s : State), s.axisType a = 0 → (s.axis a).mode ≠ .disabled → (s.axis a).zeroed = false → 0 ≤ s.axisLimit a →
      let t := axisLoops a s
      let x := s.axis a
      let y := t.axis a
      let l := s.axisLimit a
      let w := x.active.foldl (fun (n : Nat) m => n + s.shareWeight a m) 0
      (-l ≤ y.integ ∧ y.integ ≤ l) ∧ OnlyChanges [.ax, .mc] s t ∧ y.mode = x.mode ∧ y.pcmd = x.pcmd ∧
      ∃ q : Rat, (-l ≤ q ∧ q ≤ l) ∧ y.torque = roundRat q ∧ (y.limited = true ↔ q ≠ x.brake.elim (y.prop + y.integ + s.feedForward a) fun n => n) ∧
        (∀ m ∈ s.axisMachines a, (m ∉ x.active ∨ w = 0 → (t.machine m).demand = 0) ∧
          (m ∈ x.active → w ≠ 0 → (t.machine m).demand = roundRat (q * s.shareWeight a m / w)))) ∧
  (∀ dt a,
      let lasts (e : State) (n : Nat) : Prop := n + e.parN P.OBS_RES_TIME a * cyclesPerMs ≤ e.tm.now
      let stops (e : State) : Prop := e.parN P.OBS_ACTION a = 1 ∧ ((e.axis a).mode = .moving ∨ (e.axis a).mode = .stopping)
      (∀ n, Acts (.obsResidual dt a) dt (fun e => (e.axis a).obs.overFrom = some n ∧ lasts e n ∧ (e.axis a).obs.flag = false ∧ (e.axis a).home = none)
        (fun e t => let o := (e.axis a).obs
          (t.axis a).obs.flag = true ∧ (t.axis a).obs.rf = o.rf ∧
          e.Tells t [(6, 2, 0x25, b1 a ++ leI 4 (roundRat o.rf) ++ leI 4 (roundRat o.d) ++ b1 (e.parN P.OBS_ACTION a))] ∧
          (stops e → (t.axis a).motion = .stop ∧ (t.axis a).quick = true ∧ (t.axis a).mode = .stopping ∧
            ∀ k, (e.axis a).slot = some k → e.Ends t k 0x700) ∧
          (¬ stops e → (t.axis a).mode = (e.axis a).mode ∧ (t.axis a).motion = (e.axis a).motion ∧ OnlyChanges (.ax :: reportTouches) e t))) ∧
      Idles (.obsResidual dt a) dt (fun e => (e.axis a).obs.flag = true ∨ ∀ n, (e.axis a).obs.overFrom = some n → ¬ lasts e n) ∧
      (∀ n, Acts (.obsResidualCleared dt a) dt (fun e => (e.axis a).obs.underFrom = some n ∧ lasts e n ∧ (e.axis a).obs.flag = true)
        (fun e t => (t.axis a).obs.flag = false ∧ (t.axis a).obs.rf = (e.axis a).obs.rf ∧ e.Tells t [(6, 1, 0x26, b1 a ++ b4 e.rg.frame)] ∧
          (∀ j, j ≠ a → t.axis j = e.axis j) ∧ OnlyChanges (.ax :: reportTouches) e t)) ∧
      Idles (.obsResidualCleared dt a) dt (fun e => (e.axis a).obs.flag = false ∨ ∀ n, (e.axis a).obs.underFrom = some n → ¬ lasts e n) ∧
      Acts (.obsSettleEnd dt a) dt
        (fun e => (e.axis a).obs.suspended = true ∧ (e.axis a).mode ≠ .disabled ∧ (∀ c, e.axisChan a = some c → (e.chan c).fault = 0) ∧
          ∀ n, (e.axis a).obs.settleTo = some n → n ≤ e.tm.now)
        (fun e t => (t.axis a).obs.suspended = false ∧ (t.axis a).obs.vh = (e.axis a).vel ∧ (t.axis a).obs.rf = 0 ∧
          (t.axis a).obs.d = (e.axis a).obs.d ∧ (t.axis a).mode = (e.axis a).mode ∧ (∀ j, j ≠ a → t.axis j = e.axis j) ∧ OnlyChanges [.ax] e t) ∧
      Idles (.obsSettleEnd dt a) dt (fun e => (e.axis a).obs.suspended = false ∨ (e.axis a).mode = .disabled ∨
        (∃ c, e.axisChan a = some c ∧ (e.chan c).fault ≠ 0) ∨ ∃ n, (e.axis a).obs.settleTo = some n ∧ e.tm.now < n))

/-- R398, R399, R407, R409, R410, R415: every row that brings a command packet checks it in the order of R398 and stops at the first failure, which
leaves the state as it was but for a reply; then its sequence, the number of open commands and the journal's room. -/
def Obligations.PacketChecksInOrder : Prop :=
  ∀ i h op args, packetOf i = some (h, op, args) → ∀ s,
    let e := s.elapse h.dt
    let p := rowPacket h op args
    let whole : Prop := p.lenOk = true ∧ 20 + p.payload.length + (if p.flags.testBit 0 then 16 else 0) ≤ linkLargest p.link
    let opens (k : OpKind) : Prop := e.sessionOk p k = true
    let b := e.heard p
    e.pw.resetDue = none →
    (p.magicOk = false ∨ e.pw.ready = false ∨ e.linkServes p.link = false → exec i s = .next e) ∧
    (p.magicOk = true → e.pw.ready = true → e.linkServes p.link = true →
      (¬ whole → exec i s = .next (e.refuse p 0x101)) ∧
      (whole → p.crcOk = false → let u : State := { e with jn := { e.jn with badCrc := e.jn.badCrc + 1 } }
        exec i s = .next (if p.link = .host then u.refuse p 0x100 else u)) ∧
      (∀ d, whole → p.crcOk = true → e.headerCheck p = some d → exec i s = .next (e.refuse p 0x102 d)) ∧
      (∀ r, whole → p.crcOk = true → e.headerCheck p = none → opRow p.opcode = some r →
        (¬ opens (p.kind r.1) → exec i s = .next (e.refuse p 0x103)) ∧
        (opens (p.kind r.1) → (tagCheck p e).1 = false → exec i s = .next ((tagCheck p e).2.refuse p 0x105)) ∧
        (opens (p.kind r.1) → (tagCheck p e).1 = true →
          (e.pw.warning = true → exec i s = .next (b.refuse p 0x301)) ∧
          (∀ x, e.pw.warning = false → e.pw.entry = none → p.kind r.1 = .sequenced → b.session p.session = some x →
            let d := seqDelta x.lastSeq p.seq
            (2 ≤ d → d < 2 ^ 31 → exec i s = .next (b.refuse p 0x104)) ∧
            (d = 0 ∨ 2 ^ 31 ≤ d →
              (b.findEntry p.session p.seq = none → exec i s = .next (b.reply p 3 5 0 none none [])) ∧
              ∀ k y, b.findEntry p.session p.seq = some (k, y) →
                (y.digest = p.digest → exec i s = .next (b.reply p 3 y.outcome y.detail y.accept y.complete (le 2 y.status ++ le 4 y.result))) ∧
                (y.digest ≠ p.digest → exec i s = .next (b.refuse p 0x106))) ∧
            (d = 1 → 1024 ≤ b.open_ → exec i s = .next (b.refuse p 0x301)) ∧
            (d = 1 → b.open_ < 1024 → b.freeSlot = none → ∃ t u, exec i s = .next t ∧ t = u.refuse p 0x302 ∧
              (x.fullTold = false → b.Tells u [(1, 2, 8, b2 x.id ++ b4 p.seq)]) ∧ (x.fullTold = true → u = b) ∧
              OnlyChanges (.jn :: linkTouches ++ reportTouches) b t)))))

/-- R402 to R405, R421, R422: HELLO opens a session or starts a new authentication, AUTH gives a session its key, the third failure takes key and
challenge away, ACK_OUTCOMES releases completed entries, RESUME names those held, BYE forgets a session. -/
def Obligations.SessionControl : Prop :=
  ∀ h : Hdr,
    let others (p : Packet) (b t : State) : Prop := ∀ j, j ≠ p.session → t.session j = b.session j
    (∀ mode req most, Replies (.hello h mode req most) (fun _ _ => True) (fun p b t =>
      let m := mode % 256
      let asks : Bool := (req % 256).testBit 0
      let udp : Bool := match p.link with | .udp _ _ _ => true | .host => false | .can _ => false
      let bad : Prop := (m = 0 ∧ b.session p.session ≠ none) ∨ (m = 1 ∧ b.session p.session = none)
      let bare : Prop := p.link = .host ∧ asks = false ∧ b.parN P.HSP_AUTH_REQUIRED 0 = 1
      let opened (y : Session) (authed : Bool) (seq : Nat) : Prop := ∃ (u : State) (c : List Nat), c.length = 16 ∧ y.id = p.session ∧ y.lastSeq = seq ∧ y.authed = authed ∧
        y.key = none ∧ y.fails = 0 ∧ y.link = p.link ∧ y.maxPacket = most % 2 ^ 16 ∧ (authed = true → y.challenge = some c) ∧
        (authed = false → y.challenge = none ∧ c = List.replicate 16 0) ∧ t.session p.session = some y ∧ others p b t ∧
        t = u.reply p 0 0 0 none none (c ++ le 4 seq ++ le 2 (linkLargest p.link))
      (1 < m → t = b.refuse p 0x201) ∧ (m ≤ 1 → bad → t = b.refuse p 0x103) ∧ (m ≤ 1 → ¬ bad → bare → t = b.refuse p 0x105) ∧
      (m = 0 → ¬ bad → ¬ bare → 8 ≤ b.jn.sessions.length → t = b.refuse p 0x300) ∧
      (m = 0 → ¬ bad → ¬ bare → b.jn.sessions.length < 8 → ∃ y, opened y (udp || asks) 0 ∧
        b.Tells t [(1, 0, 1, b2 p.session ++ b1 (linkCode p.link) ++ b1 (if udp || asks then 1 else 0))]) ∧
      (∀ x, m = 1 → b.session p.session = some x → ¬ bare → ∃ y, opened y (x.authed || udp || asks) x.lastSeq ∧ t.cn = b.cn) ∧
      OnlyChanges (.jn :: .free :: linkTouches ++ reportTouches) b t)) ∧
    (∀ r, Replies (.auth h r) (fun _ _ => True) (fun p b t => ∀ x, b.session p.session = some x →
      let right (c : List Nat) : Prop := b.keySet = true ∧ p.payload = hmac b.kDev (c ++ le 2 x.id)
      (∀ c, x.challenge = some c → right c → ∃ u : State, t = u.refuse p 0 ∧ others p b t ∧ t.session p.session = some { x with
        key := some (hmac b.kDev ([0x53, 0x45, 0x53, 0x53] ++ c ++ p.payload)), challenge := none, fails := 0 }) ∧
      ((∀ c, x.challenge = some c → ¬ right c) → ∃ u : State, t = u.refuse p 0x105 ∧ others p b t ∧
        (x.fails < 2 → t.session p.session = some { x with fails := x.fails + 1 }) ∧
        (2 ≤ x.fails → t.session p.session = some { x with fails := 0, key := none, challenge := none } ∧
          b.Tells t [(1, 2, 3, b2 x.id ++ b1 (linkCode p.link) ++ b1 3)])) ∧ OnlyChanges (.jn :: linkTouches ++ reportTouches) b t)) ∧
    (∀ n, Replies (.ackOutcomes h n) (fun _ b => Store.wf {} b.bank = true) (fun p b t =>
      let ends (k : Nat) : Prop := let y := b.entry k
        y.held = true ∧ y.session = p.session ∧ y.state = 3 ∧ seqBehind (n % 2 ^ 32) y.seq = true
      (∀ k, ends k → (b.jn.fail0 && b.jn.fail1) = false → (t.entry k).held = false ∧ (t.entry k).state = 4) ∧
      (∀ k, ¬ ends k → t.entry k = b.entry k) ∧ t.jn.running = b.jn.running ∧ (∀ d ∈ b.jn.done, ¬ ends d.slot → d ∈ t.jn.done) ∧
      ∃ (u : State) (oldest left : Nat), t = u.reply p 0 0 0 none none (le 4 oldest ++ le 2 left))) ∧
    (∀ first most, Replies (.resume h first most) (fun _ _ => True) (fun p b t =>
      (most % 256 = 0 ∨ 40 < most % 256 → t = b.refuse p 0x201) ∧
      ∀ x, b.session p.session = some x → 1 ≤ most % 256 → most % 256 ≤ 40 → ∃ es : List JEntry,
        es.Perm (((b.entriesOf x.id).map (·.2)).filter fun y => decide (seqFrom (first % 2 ^ 32) y.seq < 2 ^ 31)) ∧
        es.Pairwise (fun y z => seqFrom (first % 2 ^ 32) y.seq ≤ seqFrom (first % 2 ^ 32) z.seq) ∧
        (es.length ≤ max 1 (min (most % 256) ((replyRoom p.link (some x) - 5) / 32)) →
          t = (b.reply p 0 0 0 none none (le 4 x.lastSeq ++ [es.length] ++ es.flatMap fun y =>
            le 4 y.seq ++ le 2 y.opcode ++ le 2 y.status ++ [y.outcome, 0] ++ le 2 y.detail ++ stampOpt y.accept ++ stampOpt y.complete)).report
              1 1 10 (b2 x.id ++ b4 x.lastSeq ++ b2 es.length)) ∧
        t.jn = b.jn ∧ OnlyChanges (linkTouches ++ reportTouches) b t)) ∧
    Replies (.bye h) (fun _ _ => True) (fun p b t => ∀ x, b.session p.session = some x →
      ((∃ k ∈ b.heldEntries, k.2.session = x.id) → t = b.refuse p 0x300) ∧
      ((∀ k ∈ b.heldEntries, k.2.session ≠ x.id) → t.session p.session = none ∧ others p b t ∧
        t = { (b.refuse p 0).report 1 0 2 (b2 x.id ++ b4 x.lastSeq) with
          jn := { b.jn with sessions := b.jn.sessions.filter fun y => decide (y.id ≠ x.id) } }))

/-- R400, R410, R432 to R434: PING, GET_IDENTITY, GET_STATUS, GET_PARAM and GET_PARAM_INFO are executed on receipt: they answer and change nothing
else. -/
def Obligations.QueriesAnswerAtOnce : Prop :=
  ∀ h : Hdr,
    let gives (i : Instr) (pre : State → Prop) (st : Nat) (data : State → List Nat) : Prop :=
      Replies i (fun _ b => pre b) fun p b t => t = b.reply p st 0 0 none none (data b)
    let obj := h.target % 4096
    (∀ d, gives (.ping h d) (fun _ => True) 0 fun _ => d.map (· % 256)) ∧
    (∀ k im fw, gives (.getIdentity h) (fun b => b.pw.running = some fw ∧ b.activeSlot = some k ∧ b.image = some im) 0 fun b =>
      let v := Config.firmware fw
      [0x5A] ++ le 2 b.part ++ [b.stepping] ++ le 8 Config.serial ++ [v / 65536 % 256, v / 256 % 256, v % 256] ++ [k] ++
        (le 4 im.contractId ++ le 4 im.configId)) ∧
    (∀ fw, gives (.getIdentity h) (fun b => b.pw.running = some fw ∧ b.activeSlot = none) 0 fun b =>
      let v := Config.firmware fw
      [0x5A] ++ le 2 b.part ++ [b.stepping] ++ le 8 Config.serial ++ [v / 65536 % 256, v / 256 % 256, v % 256] ++ [0xFF] ++ List.replicate 8 0) ∧
    Replies (.getIdentity h) (fun _ b => b.pw.running = none) (fun p b t => ∃ data, t = b.reply p 0 0 0 none none data) ∧
    (h.target / 4096 = 0 → Replies (.getStatus h) (fun _ _ => True) (fun p b t => ∃ rest, t = b.reply p 0 0 0 none none
      ([match b.pw.state with | .run => 0 | .doze => 1 | .standby => 2 | .off => 3,
        match b.rg.state with | .stopped => 0 | .running => 1 | .fallback => 2,
        match b.pw.mode with | .commissioning => 0 | .service => 1 | .recovery => 2, b.rg.variant.getD 255] ++ le 4 b.rg.frame ++
        stampOpt b.rg.frameNs ++ le 4 b.rg.frameLength ++ [b.jn.sessions.length] ++ rest))) ∧
    (h.target / 4096 = 1 → gives (.getStatus h) (fun _ => True) 0 fun b => let x := b.axis obj
      [match x.mode with | .disabled => 0 | .holding => 1 | .moving => 2 | .stopping => 3 | .fault => 4, if x.obs.flag then 1 else 0,
        x.cause, 0] ++ leI 8 x.pos ++ leI 8 x.pcmd ++ leI 4 x.vel ++ leI 4 x.torque) ∧
    (h.target / 4096 = 2 → gives (.getStatus h) (fun _ => True) 0 fun b => le 4 (b.stageStatus obj) ++ le 4 (b.tripLatch obj) ++
      le 4 (b.stage obj).stamp) ∧
    (h.target / 4096 = 3 → Replies (.getStatus h) (fun _ _ => True) (fun p b t => ∃ mask limit,
      t = b.reply p 0 0 0 none none ([if (b.machine obj).unavailable.isSome then 1 else 0, mask, 0, 0] ++ leI 4 limit) ∧
      ((b.machine obj).unavailable ≠ none → limit = 0))) ∧
    (h.target / 4096 = 4 → gives (.getStatus h) (fun _ => True) 0 fun b => (b.chan obj).snap.flatMap (le 4)) ∧
    (h.target / 4096 = 7 → gives (.getStatus h) (fun _ => True) 0 fun b => b.safetyGroup obj) ∧
    (∀ id src, let n := id % 2 ^ 32
      let k := src % 256
      (4 < k → gives (.getParam h id src) (fun _ => True) 0x201 fun _ => []) ∧
      (k ≤ 4 → gives (.getParam h id src) (fun b => b.paramDef n = none) 0x200 fun _ => []) ∧
      (∀ d, k = 0 → isKeyParam n = false → gives (.getParam h id src) (fun b => b.paramDef n = some d) 0 fun b =>
        le 4 n ++ [d.type, d.effect, 0, 0] ++ leI 8 (b.parId n)) ∧
      (∀ d v, 1 ≤ k → k ≤ 4 → isKeyParam n = false →
        gives (.getParam h id src) (fun b => b.paramDef n = some d ∧ Store.read none (b.draft (k - 1)).writes n = some v) 0 fun _ =>
          le 4 n ++ [d.type, d.effect, 0, 0] ++ leI 8 v) ∧
      (∀ d, k ≤ 4 → isKeyParam n = true → gives (.getParam h id src) (fun b => b.paramDef n = some d) 0 fun b =>
        le 4 n ++ [d.type, d.effect, 0, 0] ++ leI 8 (if n = P.ETH_AUTH_KEY_0 then (b.keyCheck : Int) else 0))) ∧
    (∀ id, let n := id % 2 ^ 32
      gives (.getParamInfo h id) (fun b => b.paramDef n = none) 0x200 (fun _ => []) ∧
      ∀ d, Replies (.getParamInfo h id) (fun _ b => b.paramDef n = some d) fun p b t => ∃ dflt,
        t = b.reply p 0 0 0 none none (le 4 n ++ [d.type, d.effect, if d.structural then 1 else 0, 0] ++ leI 8 d.bounds.1 ++ leI 8 d.bounds.2 ++
          leI 8 dflt ++ nameBytes d.name) ∧ (imageDefaults.contains d.base = false → dflt = d.dflt))

/-- R12, R424 to R426, R431, R435, R802: the draft commands and SET_PARAM_LIVE, which is applied at once where the Ridge is STOPPED and else waits. A
draft whose check fails is OPEN afterwards by log entry 41. -/
def Obligations.DraftsAndLiveWrites : Prop :=
  ∀ h : Hdr,
    let others (k : Nat) (b t : State) : Prop := (∀ j, j ≠ k → t.draft j = b.draft j) ∧ t.pm.run = b.pm.run ∧ OnlyChanges (.pm :: replyTouches) b t
    Runs (.stageOpen h) (fun _ _ => True) (fun c b t =>
      let i := c.target % 4096
      let fresh (k : Nat) : Prop := t.Reports c 2 0 0 [k] ∧ t.draft k = { state := .opened } ∧ others k b t
      (i ≠ 0xFFF → i < 4 → (b.draft i).state = .free → fresh i) ∧ (i ≠ 0xFFF → i < 4 → (b.draft i).state ≠ .free → b.Refuses t c 0x300) ∧
      (∀ k, i = 0xFFF → k < 4 → (b.draft k).state = .free → (∀ j, j < k → (b.draft j).state ≠ .free) → fresh k) ∧
      (i = 0xFFF → (∀ k, k < 4 → (b.draft k).state ≠ .free) → b.Refuses t c 0x300)) ∧
    (∀ ws : List (Nat × Int), 1 ≤ ws.length → ws.length ≤ 256 → Runs (.stageWrite h ws) (fun _ _ => True) (fun c b t =>
      let k := c.target % 4096
      let d := b.draft k
      let m := b.layWrites (b.writable c.link) (ws.map fun w => (w.1 % 2 ^ 32, (w.2 % 2 ^ 64).toNat)) d.writes
      (d.state = .free → b.Refuses t c 0x300) ∧ (∀ st, d.state ≠ .free → m = .error st → b.Refuses t c st) ∧
      (∀ w, d.state ≠ .free → m = .ok w → 4096 < w.length → t.Reports c 2 0x300 1 [] ∧ OnlyChanges replyTouches b t) ∧
      (∀ w, d.state ≠ .free → m = .ok w → w.length ≤ 4096 → t.Reports c 2 0 0 (le 2 w.length) ∧ (t.draft k).state = .opened ∧
        (t.draft k).writes = w ∧ others k b t))) ∧
    (∀ (s : State) (ok : ParamDef → Bool) (id raw : Nat), (∀ st, s.checkWrite ok id raw = .error st ↔
        (st = 0x200 ∧ s.paramDef id = none) ∨ (st = 0x202 ∧ ∃ d, s.paramDef id = some d ∧ ok d = false) ∨
        (st = 0x201 ∧ ∃ d, s.paramDef id = some d ∧ ok d = true ∧ ∀ v, decodeValue d.type raw = some v → d.inRange v = false)) ∧
      ∀ ws w w', s.layWrites ok ws w = .ok w' → ∀ j, (∀ x ∈ ws, x.1 ≠ j) → Store.read none w' j = Store.read none w j) ∧
    Runs (.stageCheck h) (fun _ _ => True) (fun c b t =>
      let k := c.target % 4096
      let d := b.draft k
      (d.state = .free → b.Refuses t c 0x300) ∧
      (∀ det x y, d.state ≠ .free → b.firstViolation d.writes = some (det, x, y) → t.Reports c 2 0x203 det (le 4 b.pm.gen ++ le 4 x ++ le 4 y) ∧
        (t.draft k).state = .opened ∧ (t.draft k).writes = d.writes ∧ others k b t) ∧
      (d.state ≠ .free → b.firstViolation d.writes = none → t.Reports c 2 0 0 (le 4 b.pm.gen) ∧ (t.draft k).state = .checked ∧
        (t.draft k).checkedGen = b.pm.gen ∧ (t.draft k).writes = d.writes ∧ others k b t)) ∧
    Runs (.stageDiscard h) (fun _ _ => True) (fun c b t =>
      t.Reports c 2 0 0 [] ∧ (t.draft (c.target % 4096)).state = .free ∧ (t.draft (c.target % 4096)).writes = [] ∧ others (c.target % 4096) b t) ∧
    (∀ first count, Replies (.stageRead h first count) (fun _ _ => True) (fun p b t =>
      let d := b.draft (p.target % 4096)
      let ws := (d.writes.drop (first % 2 ^ 16)).take (count % 2 ^ 16)
      (256 < count % 2 ^ 16 → t = b.reply p 0x201 0 0 none none []) ∧
      (count % 2 ^ 16 ≤ 256 → t = b.reply p 0 0 0 none none ([match d.state with | .free => 0 | .opened => 1 | .checked => 2, 0] ++
        le 2 d.writes.length ++ ws.flatMap fun e => le 4 e.1 ++ leI 8 (if isKeyParam e.1 then 0 else e.2.getD 0))))) ∧
    ∀ id value, Runs (.setParamLive h id value) (fun _ _ => True) (fun c b t =>
      let n := id % 2 ^ 32
      let raw := (value % 2 ^ 64).toNat
      let live (d : ParamDef) : Bool := decide (d.effect = 0)
      let breaks (v : Int) : Prop := ∃ x ∈ b.violations [(n, some v)], n ∈ x.2
      let clears : Prop := n / 2 ^ 24 = 0x50 ∧ n % 2 ^ 16 = P.FB_FAULT_CLEAR % 2 ^ 16
      (∀ st, b.checkWrite live n raw = .error st → b.Refuses t c st) ∧
      (∀ v, b.checkWrite live n raw = .ok v → breaks v → b.Refuses t c 0x201) ∧
      (∀ v, b.checkWrite live n raw = .ok v → ¬ breaks v → b.framesRun = true → t.InProgress c ∧ t.pm.run = b.pm.run ∧
        t.pm.live = b.pm.live ++ [{ slot := c.slot, id := n, value := v, gen := c.gen }] ∧ OnlyChanges (.pm :: linkTouches) b t) ∧
      (∀ v, b.checkWrite live n raw = .ok v → ¬ breaks v → b.framesRun = false → ¬ clears → t.Reports c 2 0 0 [] ∧
        Store.read none t.pm.run n = some v ∧ (∀ j, j ≠ n → Store.read none t.pm.run j = Store.read none b.pm.run j) ∧
        ∃ x ∈ t.pm.sets, x.marked = true ∧ c.gen ≤ x.gen ∧ x.values = t.storedValues))

/-- R90, R427 to R430, R808: STAGE_COMMIT is refused or begins; its banks are prepared, it arms or is applied without a commit frame, and its marker
makes it count. The order of the refusals is log entry 42's. -/
def Obligations.CommitSteps : Prop :=
  (∀ h mode (stamp : List Nat), stamp.length = 0 ∨ stamp.length = 10 → Runs (.stageCommit h mode stamp) (fun _ _ => True) (fun c b t =>
    let k := c.target % 4096
    let d := b.draft k
    let m := mode % 256
    let bs := stamp.map (· % 256)
    let busy : Prop := (∃ x, b.rg.commit = some x ∧ x.ident = none) ∨ ∃ x ∈ b.rg.waiting, x.ident = none
    let stale : Prop := d.state ≠ .checked ∨ d.checkedGen ≠ b.pm.gen
    let range : Prop := 2 < m ∨ (m = 2 ∧ (stamp = [] ∨ ofStamp bs = none ∨ nsPerS ≤ fld bs 6 4))
    let ends (st : Nat) : Prop := t.Reports c 4 st 0 [] ∧ OnlyChanges replyTouches b t
    (busy → ends 0x301) ∧ (¬ busy → stale → ends 0x204) ∧ (¬ busy → ¬ stale → range → ends 0x201) ∧
    (¬ busy → ¬ stale → ¬ range → b.commitForbidden c d.writes = false → b.rg.commit = none → b.rg.flipped = none →
      t.InProgress c ∧ t.draft k = d ∧ t.pm = b.pm ∧ (∃ x, t.rg.commit = some x ∧ x.slot = c.slot ∧ x.draft = some k ∧ x.mode = m ∧
        x.values = d.writes ∧ x.ident = none ∧ (b.pm.live = [] → x.phase = .preparing) ∧ (b.pm.live ≠ [] → x.phase = .waiting ∧
          x.before = b.pm.live.length)) ∧ OnlyChanges (.rg :: .mem :: .mm :: linkTouches) b t))) ∧
  (∀ dt c ok, let pre (e : State) : Prop := e.rg.commit = some c ∧ c.phase = .preparing ∧ c.ident = none ∧ e.rg.waiting = []
    let late (e : State) : Prop := ∃ n, c.mode = 2 ∧ c.stamp = some n ∧ n + e.rg.frameLength * 5 / 2 < e.ns
    let ahead (e : State) : Prop := ∃ n, c.mode = 2 ∧ c.stamp = some n ∧ e.ns < n
    let drops (st : Nat) (e t : State) : Prop := t.rg.commit = none ∧ t.rg.flipped = e.rg.flipped ∧ t.pm.run = e.pm.run ∧
      t.pm.drafts = e.pm.drafts ∧ ((e.runningCmd c.slot).isSome = true → ∃ x ∈ t.jn.done, x.slot = c.slot ∧ x.outcome = 4 ∧ x.status = st) ∧
      OnlyChanges [.rg, .jn, .pm] e t
    Acts (.commitBanksPrepared dt false) dt pre (drops 0x700) ∧
    Acts (.commitBanksPrepared dt true) dt (fun e => pre e ∧ late e) (drops 0x205) ∧
    Acts (.commitBanksPrepared dt true) dt (fun e => pre e ∧ ¬ late e ∧ (e.framesRun = true ∨ ahead e))
      (fun e t => t.rg.commit = some { c with phase := .armed } ∧ t.pm.run = e.pm.run ∧
        (∃ x ∈ t.pm.sets, x.marked = false ∧ x.gen = e.pm.gen + 1) ∧ OnlyChanges [.rg, .pm] e t) ∧
    Acts (.commitBanksPrepared dt true) dt (fun e => pre e ∧ ¬ late e ∧ e.framesRun = false ∧ ¬ ahead e)
      (fun e t => t.rg.commit = none ∧ t.rg.flipped = some { commit := c, frame := 0xFFFFFFFF, flipped := false } ∧ t.rg.bankB = e.rg.bankB) ∧
    Idles (.commitBanksPrepared dt ok) dt (fun e => ∀ x, e.rg.commit = some x → x.phase ≠ .preparing)) ∧
  (∀ dt f, Acts (.commitMarkerWritten dt) dt
    (fun e => e.rg.flipped = some f ∧ f.commit.ident = none ∧ e.rg.commit = none ∧ e.rg.waiting = [] ∧ (e.jn.fail0 && e.jn.fail1) = false)
    (fun e t => let y := t.entry f.commit.slot
      y.state = 3 ∧ y.outcome = 3 ∧ y.status = 0 ∧ y.result = f.frame ∧ (f.flipped = false → y.detail = 1) ∧
      t.pm.gen = (e.pm.gen + 1) % 2 ^ 32 ∧ t.rg.flipped = none ∧ (∀ k, f.commit.draft = some k → (t.draft k).state = .free) ∧
      (∃ x, t.pm.sets = [x] ∧ x.marked = true ∧ x.gen = t.pm.gen ∧ x.values = t.storedValues) ∧
      ((e.runningCmd f.commit.slot).isSome = true → ∃ d ∈ t.jn.done, d.slot = f.commit.slot ∧ d.outcome = 3 ∧
        d.data = le 4 f.frame ++ le 4 t.pm.gen) ∧
      e.Tells t [(1, 1, 4, b2 f.commit.session ++ b4 f.commit.seq ++ b4 t.pm.gen ++ b1 (f.commit.draft.getD 0) ++ [0])])) ∧
  (∀ dt, Idles (.commitMarkerWritten dt) dt fun e => e.rg.flipped = none) ∧
  (∀ dt c, Acts (.commitStampReached dt) dt
    (fun e => e.rg.commit = some c ∧ c.phase = .armed ∧ e.framesRun = false ∧ ∀ n, c.stamp = some n → c.mode = 2 → n ≤ e.ns)
    (fun e t => t.rg.commit = none ∧ t.rg.flipped = some { commit := c, frame := 0xFFFFFFFF, flipped := false } ∧ t.rg.bankB = e.rg.bankB)) ∧
  ∀ dt, Idles (.commitStampReached dt) dt fun e => e.framesRun = true ∨ ∀ c, e.rg.commit = some c →
    c.phase ≠ .armed ∨ ∃ n, c.stamp = some n ∧ c.mode = 2 ∧ e.ns < n

/-- R414, R418, R420: the first waiting command starts and no other, and the first finished command is journaled and reported to where its session
last spoke from. What a command then does is stated with its own row; here of the commands of groups 0x04 and 0x05. -/
def Obligations.StartsAndReports : Prop :=
  (∀ dt c cs, Acts (.commandStart dt) dt
    (fun e => e.pw.ready = true ∧ e.jn.queue = c :: cs ∧ e.pw.mode ≠ .recovery ∧ e.pw.resetDue = none ∧ (c.opcode / 256 = 4 ∨ c.opcode / 256 = 5) ∧
      e.runningCmd c.slot = none ∧ (e.jn.fail0 && e.jn.fail1) = false)
    (fun e t => t.jn.queue = cs ∧ (t.entry c.slot).state = 2 ∧ (t.entry c.slot).outcome = 1 ∧ (t.entry c.slot).status = 2 ∧
      (t.runningCmd c.slot = some c ∨ ∃ d ∈ t.jn.done, d.slot = c.slot ∧ d.outcome = 2) ∧
      ∀ k, k ≠ c.slot → t.entry k = e.entry k)) ∧
  (∀ dt, Idles (.commandStart dt) dt fun e => (e.pw.ready = false ∨ e.jn.queue = []) ∧ e.pw.resetDue = none) ∧
  (∀ dt d ds x, Acts (.completionReport dt) dt
    (fun e => e.pw.ready = true ∧ e.jn.done = d :: ds ∧ e.pw.resetDue = none ∧ e.session (e.entry d.slot).session = some x ∧
      (∀ p ip port, x.link = .udp p ip port → (e.port p).up = true) ∧ (e.jn.fail0 && e.jn.fail1) = false)
    (fun e t => let y := t.entry d.slot
      t.jn.done = ds ∧ y.state = max 3 (e.entry d.slot).state ∧ ((e.entry d.slot).state < 3 → y.outcome = d.outcome ∧ y.status = d.status ∧
        y.detail = d.detail ∧ y.result = d.result ∧ y.complete = some d.ns) ∧ (∀ k, k ≠ d.slot → t.entry k = e.entry k) ∧
      (∃ u : State, t = u.deliver x.link y.session y.seq (u.modulePacket y.session y.seq y.opcode y.target 0x10
        (replyBlock d.status d.outcome d.detail y.accept (some d.ns) ++ d.data))) ∧ OnlyChanges replyTouches e t)) ∧
  ∀ dt, Idles (.completionReport dt) dt fun e => (e.pw.ready = false ∨ e.jn.done = []) ∧ e.pw.resetDue = none

/-- R457, R462, R508, R509, R511 to R514, R516: SAFETY_STATUS answers, every other safety command waits for the monitor's next cycle, and what a
configuration command and SAFETY_RESET do in that cycle. The reply of an activation carries no CRC by R516's table (log entry 61). -/
def Obligations.SafetyCommands : Prop :=
  (∀ h : Hdr,
    (h.target / 4096 = 0 → Replies (.safetyStatus h) (fun _ _ => True) (fun p b t => let u := b.sf.pub
      t = b.reply p 0 0 0 none none ([match b.sf.mode with | .starting => 0 | .running => 1 | .configuring => 2 | .faulted => 3, 0] ++
        le 4 (b.safetyCrc []) ++ (u.status.flatMap (le 4)) ++ (u.causes.flatMap (le 4)) ++ le 2 u.demand ++ le 2 u.disc ++ [u.souts, 0] ++
        (List.range 8).flatMap fun k => leI 4 (u.speeds.getD k 0)))) ∧
    (h.target / 4096 = 7 → Replies (.safetyStatus h) (fun _ _ => True) (fun p b t => let u := b.sf.pub
      let g := h.target % 4096
      ∃ rest, t = b.reply p 0 0 0 none none (le 4 (u.status.getD g 0x203) ++ le 4 (u.causes.getD g 0) ++ stampOpt (b.group g).lastPass ++ rest))) ∧
    ∀ i, (∃ m, i = .safetyReset h m) ∨ i = .safetyConfigBegin h ∨ (∃ ws, i = .safetyConfigWrite h ws) ∨ i = .safetyConfigValidate h ∨
        (∃ crc, i = .safetyConfigActivate h crc) ∨ (∃ gs, i = .safetyTestRunLatent h gs) ∨ (∃ a o d q, i = .safetyTestRunBrake h a o d q) →
      Runs i (fun _ _ => True) fun c b t => t.InProgress c ∧ t.sf = { b.sf with mbox := b.sf.mbox ++ [c] } ∧ OnlyChanges (.sf :: linkTouches) b t) ∧
  ∀ (c : Cmd) (s : State), (s.runningCmd c.slot).isSome = true →
    let t := smExec c s
    let ends (st det : Nat) (data : List Nat) : Prop := t.runningCmd c.slot = none ∧
      ∃ d ∈ t.jn.done, d.slot = c.slot ∧ d.outcome = 2 ∧ d.status = st ∧ d.detail = det ∧ d.data = data
    let works : Prop := s.sf.mode = .running ∨ s.sf.mode = .configuring
    let causes (u : State) : List Nat := ((List.range 4).map fun g => le 4 (u.group g).causes).flatten
    let armed : Prop := ∃ n, s.fd.cfgFrom = some n ∧ n + cyclesPerS ≤ s.cycleAt
    let idle : Prop := s.sf.draft = none ∧ (∀ g, g < 4 → (s.group g).mode = .sto) ∧ ∀ a, a < s.axes → (s.axis a).mode = .disabled
    let keeps : Prop := ∀ g, t.group g = s.group g
    let ids := le 2 s.safetyIds.length
    (s.sf.mode = .starting → ends 0x300 0 [] ∧ keeps) ∧ (s.sf.mode = .faulted → ends 0x700 0 [] ∧ keeps) ∧
    (c.opcode = 0x602 → works → ¬ armed → ends 0x500 0 [] ∧ t.sf.draft = s.sf.draft) ∧
    (c.opcode = 0x602 → works → armed → ¬ idle → ends 0x300 0 [] ∧ t.sf.draft = s.sf.draft) ∧
    (c.opcode = 0x602 → works → armed → idle → ends 0 0 (le 4 (s.safetyCrc [])) ∧ t.sf.mode = .configuring ∧
      ∃ d, t.sf.draft = some d ∧ d.values = [] ∧ d.crc = none) ∧
    (c.opcode ∈ [0x603, 0x604, 0x605] → works → s.sf.draft = none → ends 0x300 0 []) ∧
    (∀ d m, c.opcode = 0x603 → works → s.sf.draft = some d →
      let w := s.layWrites (fun x => decide (x.effect = 3)) (parseWrites (fld c.args 0 2) (c.args.drop 2)) d.values
      (∀ st, w = .error st → ends st 0 [] ∧ ∃ d', t.sf.draft = some d' ∧ d'.values = d.values ∧ d'.crc = d.crc) ∧
      (w = .ok m → ends 0 0 (le 2 m.length) ∧ ∃ d', t.sf.draft = some d' ∧ d'.values = m ∧ d'.crc = none)) ∧
    (∀ d, c.opcode = 0x604 → works → s.sf.draft = some d →
      (∀ det x y, s.safetyInvalid d.values = some (det, x, y) → ends 0x203 det (le 4 0 ++ ids ++ le 4 x ++ le 4 y)) ∧
      (s.safetyInvalid d.values = none → ends 0 0 (le 4 (s.safetyCrc d.values) ++ ids) ∧
        ∃ d', t.sf.draft = some d' ∧ d'.values = d.values ∧ d'.crc = some (s.safetyCrc d.values))) ∧
    (∀ d, c.opcode = 0x605 → works → s.sf.draft = some d → let crc := fld c.args 0 4
      (s.fd.cfgEn = false → ends 0x500 0 [] ∧ keeps) ∧ (s.fd.cfgEn = true → d.crc ≠ some crc → ends 0x501 0 [] ∧ keeps) ∧
      (s.fd.cfgEn = true → d.crc = some crc → ends 0 0 [] ∧ t.sf.mode = .starting ∧ t.sf.draft = none ∧ t.sf.copyA = t.sf.copyB ∧
        t.sf.validA = true ∧ t.sf.validB = true ∧ (∀ id v, Store.wf none d.values = true → Store.read none d.values id = some v →
          Store.read none t.sf.copyA id = some v) ∧
        ∀ g, g < 4 → (t.group g).mode = .sto ∧ (t.group g).inhibit = true ∧ (t.group g).gdEn = false)) ∧
    (c.opcode = 0x601 → works → s.sf.mode ≠ .running ∨ s.pw.mode = .recovery → ends 0x300 0 [] ∧ keeps) ∧
    (c.opcode = 0x601 → s.sf.mode = .running → s.pw.mode ≠ .recovery → let m := fld c.args 0 1
      ((∃ g, g < 4 ∧ m.testBit g = true ∧ (s.group g).mode = .testing) → ends 0x301 0 (causes s) ∧ keeps) ∧
      ((∀ g, g < 4 → m.testBit g = true → (s.group g).mode ≠ .testing) →
        (∀ g b, g < 4 → (t.group g).causes.testBit b = true → (s.group g).causes.testBit b = true) ∧
        (∀ g, g < 4 → m.testBit g = false → (t.group g).causes = (s.group g).causes ∧ (t.group g).mode = (s.group g).mode) ∧
        (∀ g b, g < 4 → m.testBit g = true → b ∉ [0, 1, 8, 10] → ((t.group g).causes.testBit b = true ↔
          (s.group g).causes.testBit b = true ∧ (s.group g).present.testBit b = true)) ∧
        (∀ g, g < 4 → m.testBit g = true → (s.group g).mode = .sto → (t.group g).mode = .sto ∧ ((t.group g).causes ≠ 0 → (s.group g).releasing = false →
          (t.group g).releasing = false ∧ ∃ low, ends 0x304 low (causes t)))))

/-- R464, R465, R471 to R479, R486 to R489, R493, R501, R502, R515, R35: the start of the monitor, its own fault, and the causes it takes on an event.
-/
def Obligations.MonitorStartAndCauses : Prop :=
  ∀ dt,
    let brakes (e : State) : Nat → Nat := e.groupBrakes
    let m22 (e : State) : Store (Option Int) := if e.sf.validA then e.sf.copyA else e.sf.copyB
    let starts (e : State) : Prop := e.sf.mode = .starting ∧ e.monPowered = true
    Acts (.monitorStart dt true) dt (fun e => starts e ∧ (e.sf.validA = true ∨ e.sf.validB = true)) (fun e t => t.sf.mode = .running ∧
      t.sf.copyA = m22 e ∧ t.sf.copyB = m22 e ∧ t.sf.validA = true ∧ t.sf.validB = true ∧ t.sf.cfgBad = false ∧
      (Store.wf none (m22 e) = true → ∀ id, id / 2 ^ 24 = 0x68 → Store.read none t.pm.run id = Store.read none (m22 e) id) ∧
      ∀ g, (t.group g).mode = (e.group g).mode ∧ (t.group g).causes = (e.group g).causes) ∧
    Acts (.monitorStart dt true) dt (fun e => starts e ∧ e.sf.validA = false ∧ e.sf.validB = false)
      (fun e t => t.sf.mode = .running ∧ t.sf.cfgBad = true ∧ t.pm = e.pm ∧ e.Demands t 22 15 (brakes e)) ∧
    (∀ kind det, let faults (k d : Nat) (e t : State) : Prop := t.sf.mode = .faulted ∧ t.sf.draft = none ∧ t.pw.fault.testBit 3 = true ∧
        e.Demands t 19 15 (brakes e) ∧ t.MonLogs 0x11 (b1 k ++ b4 d) ∧ OnlyChanges (.pw :: monTouches) e t
      Acts (.monitorStart dt false) dt starts (faults 1 0) ∧ Acts (.monitorFault dt kind det) dt State.monitors (faults kind det) ∧
      Idles (.monitorFault dt kind det) dt fun e => ¬ e.monitors) ∧
    (∀ ok, Idles (.monitorStart dt ok) dt fun e => ¬ starts e) ∧
    (∀ i c, (i, c) ∈ [(Instr.heartbeatLost dt, 14), (Instr.clockCrossCheckFail dt, 16)] →
      Acts i dt State.monitors (fun e t => e.Demands t c 15 (brakes e) ∧ t.sf.mode = e.sf.mode ∧ OnlyChanges monTouches e t) ∧
      Idles i dt fun e => ¬ e.monitors) ∧
    (∀ k, let mask (e : State) : Nat := e.saGroups k
      let beyond (e : State) (from_ : Option Nat) (p : Nat) : Prop := ∃ n, from_ = some n ∧ n + e.parN p k * cyclesPerMs ≤ e.tm.now
      let fresh (e : State) (c : Nat) : Prop := ∃ g, g < 4 ∧ (mask e).testBit g = true ∧ (e.group g).causes.testBit c = false
      let rounded (q : Rat) : List Nat := leI 4 (satI 32 (roundRat q))
      Acts (.plausibilityFault dt k) dt (fun e => e.monitors ∧ beyond e (e.safeAxis k).plausFrom P.SAF_AX_PLAUS_TIME)
        (fun e t => e.Demands t 7 (mask e) (brakes e) ∧ (fresh e 7 → t.MonLogs 7 (b1 k ++ rounded (e.safeAxis k).v ++ rounded (e.safeAxis k).vEl)) ∧
          OnlyChanges monTouches e t) ∧
      Idles (.plausibilityFault dt k) dt (fun e => ¬ e.monitors ∨ ¬ beyond e (e.safeAxis k).plausFrom P.SAF_AX_PLAUS_TIME) ∧
      Acts (.slipFault dt k) dt (fun e => e.monitors ∧ beyond e (e.safeAxis k).slipFrom P.SAF_AX_SLIP_TIME)
        (fun e t => e.Demands t 8 (mask e) (brakes e) ∧
          (fresh e 8 → t.MonLogs 8 (b1 k ++ b1 2 ++ rounded ((e.safeAxis k).slipD - (e.safeAxis k).slip.getD 0))) ∧ OnlyChanges monTouches e t) ∧
      Idles (.slipFault dt k) dt (fun e => ¬ e.monitors ∨ ¬ beyond e (e.safeAxis k).slipFrom P.SAF_AX_SLIP_TIME) ∧
      Acts (.slipAnchor dt k) dt (fun e => e.monitors ∧ e.saChan P.SAF_AX_CH2 k ≠ none ∧ ∃ n, (e.safeAxis k).stillFrom = some n ∧ n + cyclesPerS ≤ e.tm.now)
        (fun e t => (t.safeAxis k).slip = some (e.safeAxis k).slipD ∧ (t.safeAxis k).v = (e.safeAxis k).v ∧ (∀ g, t.group g = e.group g) ∧
          (∀ j, j ≠ k → t.safeAxis j = e.safeAxis j) ∧ OnlyChanges [.sf] e t) ∧
      Idles (.slipAnchor dt k) dt (fun e => ¬ e.monitors ∨ e.saChan P.SAF_AX_CH2 k = none ∨
        ∀ n, (e.safeAxis k).stillFrom = some n → e.tm.now < n + cyclesPerS) ∧
      (∀ g n v, Acts (.ss1TimeExpired dt k) dt (fun e => e.monitors ∧ g < 4 ∧ (mask e).testBit g = true ∧ (e.group g).causes.testBit 5 = false ∧
          ((e.group g).mode = .ss1Ramp ∨ (e.group g).mode = .ss1Time) ∧ (e.group g).ss1 = some (k, n, v) ∧
          n + e.parN P.SAF_AX_SS1_TIME k * cyclesPerMs ≤ e.tm.now)
        (fun e t => (t.group g).mode = .sto ∧ (t.group g).ss1 = none ∧
          (∀ j, j < 4 → (e.groupBrakes g).testBit j = true → (t.group g).sbc.testBit j = true ∧ (t.sout j).held = true) ∧
          OnlyChanges monTouches e t)) ∧
      Idles (.ss1TimeExpired dt k) dt (fun e => ¬ e.monitors ∨ ∀ g, g < 4 → ∀ x, (e.group g).ss1 = some x → x.1 ≠ k) ∧
      (∀ j n, Acts (.slsGraceExpired dt k) dt (fun e => e.monitors ∧ e.saChan P.SAF_AX_CH k ≠ none ∧ j < 4 ∧ e.saFunc k (4 + j) = true ∧
          Store.read none (e.safeAxis k).slsFrom j = some n ∧ n ≤ e.tm.now ∧ (e.slsLimit k j : Rat) < absR (e.safeAxis k).v)
        (fun e t => e.Demands t 3 (mask e) (brakes e) ∧ OnlyChanges monTouches e t)) ∧
      Acts (.slsGraceExpired dt k) dt (fun e => e.monitors ∧ ∀ j, j < 4 → e.saFunc k (4 + j) = true → absR (e.safeAxis k).v ≤ e.slsLimit k j)
        (fun e t => (∀ g, t.group g = e.group g) ∧ OnlyChanges [.sf] e t) ∧
      Idles (.slsGraceExpired dt k) dt (fun e => ¬ e.monitors ∨ e.saChan P.SAF_AX_CH k = none)) ∧
    (∀ p chB d n, Acts (.discrepancy dt p) dt
      (fun e => e.monitors ∧ e.pairUsed p = true ∧ (e.pair p).disc = false ∧ (e.pair p).seen = true ∧ (e.pair p).waits = some (chB, d, n) ∧
        (if chB then (e.pairDemands p).2 else (e.pairDemands p).1) = d ∧ (if chB then (e.pairDemands p).1 else (e.pairDemands p).2) ≠ d ∧
        n + e.pairDisc p + 100000 ≤ e.tm.now)
      (fun e t => (t.pair p).disc = true ∧ (t.pair p).demand = true ∧ (∀ g, g < 4 → (e.pairGroups p).testBit g = true →
          (t.group g).causes.testBit 10 = true) ∧ t.MonLogs 5 (b1 p ++ b1 (if chB then 1 else 0) ++ b1 (if d then 1 else 2)) ∧
        OnlyChanges monTouches e t)) ∧
    (∀ p, Idles (.discrepancy dt p) dt fun e => ¬ e.monitors) ∧
    (∀ g n, Acts (.gdFbFault dt g) dt (fun e => e.monitors ∧ g < 4 ∧ (e.group g).gdFb ≠ (e.group g).gdEn ∧ (e.group g).fbFrom = some n ∧
        n + e.parN P.SAF_GRP_GDFB g * cyclesPerMs < e.tm.now)
      (fun e t => e.Demands t 13 (2 ^ g) (fun _ => 0) ∧ ((e.group g).causes.testBit 13 = false →
        t.MonLogs 0x10 (b1 g ++ b1 (if (e.group g).gdEn then 1 else 0) ++ b1 (if (e.group g).gdFb then 1 else 0))) ∧ OnlyChanges monTouches e t)) ∧
    ∀ g, Acts (.gdFbFault dt g) dt (fun e => e.monitors ∧ g < 4 ∧ (e.group g).gdFb = (e.group g).gdEn ∧ (e.group g).releasing = false)
      (fun e t => (t.group g).fbFrom = none ∧ (t.group g).causes = (e.group g).causes ∧ (t.group g).mode = (e.group g).mode ∧ OnlyChanges [.sf] e t)

/-- R459, R461, R473, R491, R496 to R499, R503 to R507, R510, R511: the monitor's cycle and its publication, the brake test, the test pulses, the
latent test, and its reset and configuration inputs. -/
def Obligations.MonitorCycleAndTests : Prop :=
  ∀ dt,
    let due (e : State) : Prop := ∀ n, e.sf.last = some n → n * 1000 + e.tsm * 999 ≤ e.tm.now * 1000
    let brakes (e : State) : Nat → Nat := e.groupBrakes
    let loses (e t : State) : Prop := t.sf.draft = none ∧ t.sf.mode = (if e.sf.mode = .configuring then .running else e.sf.mode) ∧
      ∀ g, t.group g = e.group g
    (∀ inp, Acts (.safetyCycle dt inp) dt (fun e => e.monitors ∧ due e ∧ e.sf.mbox = [])
      (fun e t => t.sf.last = some e.tm.now ∧ t.sf.pub.at_ = some e.tm.now ∧ t.sf.pub.status = (List.range 4).map (fun g => (t.group g).word) ∧
        t.sf.pub.causes = (List.range 4).map (fun g => (t.group g).causes) ∧
        (∀ g b, g < 4 → (e.group g).causes.testBit b = true → e.sf.resetEdge = false → (t.group g).causes.testBit b = true) ∧
        (e.pw.state ≠ .standby → t.sf.requests = [] ∧ ∀ m, (18, m) ∈ e.sf.requests → e.sf.resetEdge = false →
          (t.group (e.machineGroup m)).causes.testBit 18 = true)) ∧
      Idles (.safetyCycle dt inp) dt (fun e => e.monPowered = false ∨ ¬ due e)) ∧
    (∀ b, let x (e : State) : BrakeTest := brakeWatch b e
      let time (e : State) : Prop := e.brakeSpan b ≤ e.tm.now - b.stepFrom
      let holds (e : State) : Prop := 3 ≤ b.step → b.step ≤ 5 → (x e).excursion ≤ e.parN P.SAF_AX_BT_WINDOW b.axis
      let pre (e : State) : Prop := e.monitors ∧ e.sf.brake = some b
      Acts (.brakeTestStep dt) dt (fun e => pre e ∧ (¬ holds e ∨ (b.step = 4 ∧ time e ∧ (x e).peak < e.parN P.SAF_AX_BT_CURRENT b.axis)))
        (fun e t => t.sf.brake = none ∧ e.Ends t b.slot 0x700 ∧ e.Demands t 21 (e.saGroups b.axis) (brakes e) ∧
          t.MonLogs 0xD (b1 b.axis ++ b1 b.output ++ b4 (x e).excursion ++ b2 (x e).peak) ∧ OnlyChanges monTouches e t) ∧
      Acts (.brakeTestStep dt) dt (fun e => pre e ∧ holds e ∧ ¬ time e)
        (fun e t => t.sf.brake = some (x e) ∧ (b.step ≠ 3 → b.step ≠ 5 → OnlyChanges [.sf] e t) ∧
          (b.step = 3 ∨ b.step = 5 → (t.axis b.ridge).brake = some (brakeTorque (x e) (e.tm.now - b.stepFrom)) ∧ OnlyChanges [.sf, .ax] e t)) ∧
      Acts (.brakeTestStep dt) dt (fun e => pre e ∧ b.step = 1 ∧ time e)
        (fun e t => ∃ y, t.sf.brake = some y ∧ y.step = 3 ∧ y.stepFrom = e.tm.now ∧ y.hold = (e.axis b.ridge).torque ∧
          (t.axis b.ridge).brake = some y.hold ∧ OnlyChanges [.sf, .ax] e t) ∧
      Acts (.brakeTestStep dt) dt (fun e => pre e ∧ b.step = 5 ∧ holds e ∧ time e)
        (fun e t => ∃ y, t.sf.brake = some y ∧ y.step = 6 ∧ y.results = b.results ++ [(b.output, 1, (x e).excursion, (x e).peak)] ∧
          (t.axis b.ridge).brake = none ∧ (t.axis b.ridge).integ = b.hold ∧ (t.sout b.output).brakeTest = false)) ∧
    Idles (.brakeTestStep dt) dt (fun e => ¬ e.monitors ∨ e.sf.brake = none) ∧
    (∀ n, let ready (e : State) : Prop := n < 4 ∧ e.parN P.SAF_OUT_TEST n = 1 ∧ (e.sout n).on = true ∧ e.monPowered = true ∧
        (∀ k, (e.sout n).lastPulse = some k → k + e.parN P.SAF_OUT_INTERVAL 0 * cyclesPerMs ≤ e.tm.now) ∧
        ∀ m, m < 4 → m ≠ n → (e.sout m).inPulse = false ∧ ∀ k, (e.sout m).lastPulse = some k → k < e.cycleAt
      let pulsed (e t : State) : Prop := (t.sout n).lastPulse = some e.tm.now ∧ (t.sout n).inPulse = true ∧ (t.sout n).on = true
      let disagrees (e : State) (v : Nat) : Prop := if (e.sout n).on then v + 30 < e.fd.vb.volts else 20 ≤ v
      Acts (.safeOutputOffPulse dt n true) dt ready (fun e t => pulsed e t ∧ (t.sout n).pulsed = true ∧ (t.sout n).faulty = (e.sout n).faulty ∧
        (∀ m, m ≠ n → t.sout m = e.sout m) ∧ OnlyChanges [.sf] e t) ∧
      Acts (.safeOutputOffPulse dt n false) dt ready (fun e t => pulsed e t ∧ (t.sout n).faulty = true ∧ e.Demands t 12 15 (brakes e)) ∧
      (∀ below, Idles (.safeOutputOffPulse dt n below) dt fun e => 4 ≤ n ∨ e.parN P.SAF_OUT_TEST n ≠ 1 ∨ (e.sout n).on = false) ∧
      (∀ v, Acts (.outputTestFault dt n v) dt
        (fun e => e.monitors ∧ n < 4 ∧ 3 ≤ (e.sout n).bad ∧ (e.sout n).inPulse = false ∧ (e.sout n).faulty = false ∧ disagrees e v)
        (fun e t => (t.sout n).faulty = true ∧ (t.sout n).volts = v ∧ e.Demands t 12 15 (brakes e) ∧
          t.MonLogs 0xE (b1 n ++ b1 (if (e.sout n).on then 1 else 0) ++ b2 v) ∧ OnlyChanges monTouches e t)) ∧
      (∀ v, Idles (.outputTestFault dt n v) dt fun e => ¬ e.monitors ∨ 4 ≤ n ∨ (e.sout n).bad < 3) ∧
      (∀ k, Acts (.sbcOutputOff dt n) dt (fun e => n < 4 ∧ (e.sout n).on = true ∧ (e.sout n).held = true ∧ (e.sout n).offAt = some k ∧ k ≤ e.tm.now)
        (fun e t => (t.sout n).on = false ∧ (t.sout n).held = true ∧ (∀ m, m ≠ n → t.sout m = e.sout m) ∧ OnlyChanges [.sf] e t)) ∧
      Idles (.sbcOutputOff dt n) dt fun e => 4 ≤ n ∨ (e.sout n).on = false) ∧
    (∀ p chB, let src (e : State) : Nat := e.parN (if chB then P.SAF_PAIR_TSRC_B else P.SAF_PAIR_TSRC_A) p
      let at_ (e : State) (b : Bool) : Nat := Store.read 0 e.sf.pulse (2 * p + if b then 1 else 0)
      let ready (e : State) : Prop := e.pairUsed p = true ∧ src e ≤ 15 ∧ e.monPowered = true ∧
        (at_ e chB = 0 ∨ at_ e chB + 800 * cyclesPerMs ≤ e.tm.now) ∧ (at_ e (!chB) = 0 ∨ at_ e (!chB) + 400 * cyclesPerMs ≤ e.tm.now)
      Acts (.inputTestPulse dt p chB true) dt ready (fun e t => (t.pair p).testOk = (e.pair p).testOk + 1 ∧
        ((t.pair p).testBad = true ↔ (e.pair p).testBad = true ∧ (e.pair p).testOk = 0) ∧ at_ t chB = e.tm.now ∧ OnlyChanges [.sf] e t) ∧
      Acts (.inputTestPulse dt p chB false) dt ready (fun e t => (t.pair p).testOk = 0 ∧ (t.pair p).testBad = true ∧
        (∀ g, g < 4 → (e.pairGroups p).testBit g = true → (t.group g).causes.testBit 11 = true) ∧
        ((e.pair p).testBad = false → t.MonLogs 0xF (b1 p ++ b1 (if chB then 1 else 0) ++ b1 (src e))) ∧ OnlyChanges monTouches e t) ∧
      ∀ ok, Idles (.inputTestPulse dt p chB ok) dt fun e => e.pairUsed p = false ∨ 15 < src e) ∧
    (∀ g, Acts (.latentTestDue dt g) dt (fun e => g < 4 ∧ e.sf.mode = .running ∧ e.pw.state ≠ .standby ∧ e.monPowered = true ∧ e.latentOk g = true ∧
        ((e.group g).tested = false ∨ e.latentDue g = true))
      (fun e t => (t.group g).mode = .testing ∧ (t.group g).testFrom = some e.tm.now ∧ (t.group g).causes = (e.group g).causes ∧
        (∀ j, j ≠ g → t.group j = e.group j) ∧ OnlyChanges [.sf] e t) ∧
      Idles (.latentTestDue dt g) dt (fun e => 4 ≤ g ∨ e.sf.mode ≠ .running ∨ (e.group g).mode ≠ .sto ∨
        ((e.group g).tested = true ∧ e.latentDue g = false)) ∧
      Acts (.latentTestEnd dt g 0) dt (fun e => e.monitors ∧ g < 4 ∧ (e.group g).mode = .testing ∧ e.sf.latent = none)
        (fun e t => (t.group g).mode = .sto ∧ (t.group g).tested = true ∧ (t.group g).blocked = false ∧ (t.group g).lastPass = some e.busNs ∧
          (t.group g).causes = (e.group g).causes ∧ OnlyChanges (.sf :: reportTouches) e t) ∧
      (∀ k, 0 < k → Acts (.latentTestEnd dt g k) dt (fun e => e.monitors ∧ g < 4 ∧ (e.group g).mode = .testing ∧ e.sf.latent = none)
        (fun _ t => (t.group g).mode = .sto ∧ (t.group g).blocked = true ∧ (t.group g).causes.testBit 20 = true ∧
          t.MonLogs 0xA (b1 g ++ b1 k))) ∧
      (∀ k, Idles (.latentTestEnd dt g k) dt fun e => ¬ e.monitors ∨ 4 ≤ g ∨ (e.group g).mode ≠ .testing) ∧
      (∀ n, let hours (e : State) : Nat := (e.busNs - n) / hourNs
        Acts (.latentTestOverdue dt g) dt (fun e => e.monitors ∧ g < 4 ∧ (e.group g).lastPass = some n)
          (fun e t => ((t.group g).warn = true ↔ (e.group g).warn = true ∨ 48 ≤ hours e) ∧
            ((t.group g).armed = true ↔ (e.group g).armed = true ∨ 72 ≤ hours e) ∧ (t.group g).mode = (e.group g).mode ∧
            (t.group g).causes = (e.group g).causes ∧ OnlyChanges (.sf :: reportTouches) e t)) ∧
      Idles (.latentTestOverdue dt g) dt fun e => ¬ e.monitors ∨ 4 ≤ g ∨ (e.group g).lastPass = none) ∧
    (let usable (e : State) : Prop := e.parN P.SAF_RESET_INPUT 0 ≠ 255 ∧ e.pairUsed (e.parN P.SAF_RESET_INPUT 0 / 2) = false
     Acts (.safetyResetInput dt true) dt (fun e => usable e ∧ e.sf.resetFrom = none)
       (fun e t => t.sf.resetFrom = some e.tm.now ∧ t.sf.resetEdge = e.sf.resetEdge ∧ t.fd.monReset = true ∧ OnlyChanges [.sf, .fd] e t) ∧
     (∀ n, Acts (.safetyResetInput dt false) dt (fun e => usable e ∧ e.sf.resetFrom = some n)
       (fun e t => t.sf.resetFrom = none ∧ (t.sf.resetEdge = true ↔ e.sf.resetEdge = true ∨ n + 200 * cyclesPerMs ≤ e.tm.now) ∧
         t.fd.monReset = false ∧ OnlyChanges [.sf, .fd] e t)) ∧
     ∀ b, Acts (.safetyResetInput dt b) dt (fun e => ¬ usable e)
       (fun e t => t.sf.resetFrom = none ∧ t.sf.resetEdge = e.sf.resetEdge)) ∧
    Acts (.safeCfgEnFall dt) dt (fun e => e.sf.draft ≠ none) (fun e t => loses e t ∧ t.fd.cfgEn = false ∧ OnlyChanges [.sf, .fd] e t) ∧
    Acts (.safeCfgEnFall dt) dt (fun e => e.sf.draft = none) (fun e t => t.fd.cfgEn = false ∧ t.fd.cfgFrom = none ∧ t.sf = e.sf ∧ OnlyChanges [.fd] e t) ∧
    (∀ d, Acts (.safetyDraftTimeout dt) dt (fun e => e.sf.draft = some d ∧ d.lastCmd + 1800 * cyclesPerS ≤ e.tm.now)
      (fun e t => loses e t ∧ OnlyChanges [.sf] e t)) ∧
    Idles (.safetyDraftTimeout dt) dt (fun e => ∀ d, e.sf.draft = some d → e.tm.now < d.lastCmd + 1800 * cyclesPerS)

/-- R529, R535 to R543, R549 to R552: what a measurement does to the servo, the step it or TIME_SET makes, the PPS edge that becomes one, and the loss
of a source. -/
def Obligations.TimeServo : Prop :=
  let used (src : Nat) (e : State) : Prop := src ≠ 0 ∧ e.clocked = true ∧ (src = e.parN P.TIM_SOURCE 0 ∨ src = e.parN P.TIM_SOURCE_2 0)
  let far (o : Int) (e : State) : Prop := (e.tm.servo = .locked ∨ e.tm.servo = .holdover) ∧ e.parN P.TIM_STEP_MAX 0 * nsPerS < o.natAbs
  let steps (o : Int) (e : State) : Prop := e.parN P.TIM_STEP_THRESHOLD 0 < o.natAbs
  let lim (e : State) (q : Rat) : Rat := let m : Rat := e.parN P.TIM_SLEW_MAX 0
    max (-m) (min m q)
  let y4 (e : State) : List Nat := leI 4 (roundRat e.tm.y)
  let stepped (d : Int) (e t : State) : Prop := t.tm.t = e.tm.t + d * 2 ^ 32 ∧ t.tm.stepEpoch = (e.tm.stepEpoch + 1) % 256 ∧ t.tm.lastStep = d ∧
    t.tm.y = e.tm.y ∧ t.tm.servo ≠ .locked ∧ ∀ k, (t.chan k).ref = none
  (∀ dt src o,
    let whole : List Nat := leI 4 (satI 32 (o.tdiv nsPerS))
    let sw (e : State) : List (Nat × Nat × Nat × List Nat) := if src = e.tm.source then [] else [(8, 1, 4, b1 e.tm.source ++ b1 src)]
    let alarms (e : State) : Prop := src = e.tm.source ∧ e.tm.servo = .locked ∧ e.parN P.TIM_OFFSET_ALARM 0 ≠ 0 ∧
      e.parN P.TIM_OFFSET_ALARM 0 < o.natAbs
    let alarm (e : State) (told : Prop) (rs : List (Nat × Nat × Nat × List Nat)) : Prop :=
      (alarms e → ¬ told → rs = [(8, 2, 5, b1 src ++ leI 4 (satI 32 o))]) ∧ (¬ alarms e ∨ told → rs = [])
    let taken (e : State) : Prop := used src e ∧ ¬ far o e ∧ sourceTaken e src = true
    let law (e : State) (tau : Rat) (t : State) : Prop :=
      let y := lim e (e.tm.y + (e.parN P.TIM_KI 0 : Rat) / 32768 * o / tau)
      t.tm.y = y ∧ t.tm.inc = incFor (lim e (-((e.parN P.TIM_KP 0 : Rat) / 32768 * o / tau + y)))
    let inside (e : State) : Prop := o.natAbs ≤ e.parN P.TIM_LOCK_WINDOW 0
    let nIn (e : State) : Nat := if src = e.tm.source then e.tm.inWindow + 1 else 1
    let nOut (e : State) : Nat := if src = e.tm.source then e.tm.outWindow + 1 else 1
    Idles (.timeMeasurement dt src o) dt (fun e => ¬ used src e) ∧
    Acts (.timeMeasurement dt src o) dt (fun e => used src e ∧ far o e)
      (fun e t => e.Tells t [(8, 2, 6, b1 src ++ b1 1 ++ whole)] ∧ OnlyChanges reportTouches e t) ∧
    Acts (.timeMeasurement dt src o) dt (fun e => used src e ∧ ¬ far o e ∧ sourceTaken e src = false)
      (fun e t => t.tm = { e.tm with lastBySource := t.tm.lastBySource } ∧ Store.read none t.tm.lastBySource src = some e.tm.now ∧ OnlyChanges [.tm] e t) ∧
    Acts (.timeMeasurement dt src o) dt (fun e => taken e ∧ steps o e)
      (fun e t => stepped (-o) e t ∧ t.tm.inc = incFor (lim e (-e.tm.y)) ∧ t.tm.servo = .acquiring ∧ t.tm.source = src ∧ t.tm.lastOffset = o ∧
        (∃ rs, alarm e (e.tm.alarmed = true) rs ∧ e.TellsStep t (sw e ++ rs) (-o) 1) ∧ OnlyChanges (.tm :: .fb :: reportTouches) e t) ∧
    Acts (.timeMeasurement dt src o) dt (fun e => taken e ∧ ¬ steps o e)
      (fun e t => t.tm.t = e.tm.t ∧ t.tm.source = src ∧ t.tm.lastOffset = o ∧ t.tm.lastMeas = some e.tm.now ∧
        Store.read none t.tm.lastBySource src = some e.tm.now ∧
        (e.tm.servo = .free ∨ e.tm.lastMeas = none → law e 1 t) ∧
        (∀ n, e.tm.servo ≠ .free → e.tm.lastMeas = some n → law e (((e.tm.now - n : Nat) : Rat) / cyclesPerS) t) ∧
        (inside e → t.tm.inWindow = nIn e ∧ t.tm.outWindow = 0) ∧ (¬ inside e → t.tm.inWindow = 0) ∧
        (e.tm.servo = .locked → src = e.tm.source → (∃ rs, alarm e (e.tm.alarmed = true ∧ ¬ (inside e ∧ 8 ≤ nIn e)) rs ∧ e.Tells t rs) ∧
          t.tm.servo = (if ¬ inside e ∧ 8 ≤ nOut e then .acquiring else .locked)) ∧
        (e.tm.servo ≠ .locked ∨ src ≠ e.tm.source →
          (inside e → 8 ≤ nIn e → t.tm.servo = .locked ∧ t.tm.coarse = false ∧ t.tm.accepted = 0 ∧
            e.Tells t (sw e ++ [(8, 1, 2, b1 src ++ leI 4 (satI 32 o) ++ leI 4 (roundRat t.tm.y))])) ∧
          (¬ (inside e ∧ 8 ≤ nIn e) → t.tm.servo = .acquiring ∧ t.tm.coarse = e.tm.coarse ∧ e.Tells t (sw e))) ∧
        OnlyChanges (.tm :: reportTouches) e t)) ∧
  (∀ dt,
    let pps (e : State) : Prop := e.parN P.CMP_EVT_FUNC (e.parN P.TIM_PPS_PIN 0) = 3 ∧ e.clocked = true
    let off (e : State) : Int := let v : Int := (e.nsBack 11 % nsPerS : Nat) - e.par P.TIM_PPS_DELAY 0
      if v < 500000000 then v else v - 1000000000
    let odd (e : State) : Prop := ∃ p, e.tm.lastPps = some p ∧ 1000000 < ((e.nsBack 11 : Int) - p - 1000000000).natAbs
    Idles (.ppsEdge dt) dt (fun e => ¬ pps e ∨ (¬ used 3 e ∧ ¬ odd e)) ∧
    Acts (.ppsEdge dt) dt (fun e => pps e ∧ odd e)
      (fun e t => e.Tells t [(8, 2, 6, b1 3 ++ b1 2 ++ leI 4 (satI 32 ((off e).tdiv nsPerS)))] ∧ OnlyChanges reportTouches e t) ∧
    Acts (.ppsEdge dt) dt (fun e => pps e ∧ ¬ odd e ∧ used 3 e ∧ far (off e) e)
      (fun e t => e.Tells t [(8, 2, 6, b1 3 ++ b1 1 ++ leI 4 (satI 32 ((off e).tdiv nsPerS)))] ∧ OnlyChanges reportTouches e t) ∧
    Acts (.ppsEdge dt) dt (fun e => pps e ∧ ¬ odd e ∧ used 3 e ∧ ¬ far (off e) e)
      (fun e t => exec (.timeMeasurement 0 3 (off e)) { e with tm := { e.tm with lastPps := some (e.nsBack 11) } } = .next t)) ∧
  (∀ dt,
    let alt (e : State) : Nat := if e.tm.source = e.parN P.TIM_SOURCE 0 then e.parN P.TIM_SOURCE_2 0 else e.parN P.TIM_SOURCE 0
    let lost (e : State) : Prop := e.tm.source ≠ 0 ∧ sourceAlive e e.tm.source = false ∧ (e.tm.servo = .locked ∨ e.tm.servo = .acquiring)
    let other (e : State) : Prop := alt e ≠ 0 ∧ alt e ≠ e.tm.source ∧ sourceAlive e (alt e) = true
    let same (e t : State) : Prop := t.tm.t = e.tm.t ∧ t.tm.y = e.tm.y ∧ OnlyChanges (.tm :: reportTouches) e t
    Idles (.timeSourceLost dt) dt (fun e => ¬ lost e) ∧
    Acts (.timeSourceLost dt) dt (fun e => lost e ∧ other e) (fun e t => t.tm.source = alt e ∧ t.tm.servo = .acquiring ∧ t.tm.inc = e.tm.inc ∧
      same e t ∧ e.Tells t [(8, 2, 3, b1 e.tm.source ++ b1 1 ++ y4 e), (8, 1, 4, b1 e.tm.source ++ b1 (alt e))]) ∧
    Acts (.timeSourceLost dt) dt (fun e => lost e ∧ ¬ other e ∧ e.tm.servo = .locked) (fun e t => t.tm.source = e.tm.source ∧ t.tm.servo = .holdover ∧
      t.tm.inc = incFor (-e.tm.y) ∧ same e t ∧ e.Tells t [(8, 2, 3, b1 e.tm.source ++ b1 3 ++ y4 e)]) ∧
    Acts (.timeSourceLost dt) dt (fun e => lost e ∧ ¬ other e ∧ e.tm.servo = .acquiring) (fun e t => t.tm.source = e.tm.source ∧ t.tm.servo = .free ∧
      t.tm.inc = 0x500000000 ∧ same e t ∧ e.Tells t [(8, 2, 3, b1 e.tm.source ++ b1 0 ++ y4 e)]) ∧
    Idles (.holdoverTimeout dt) dt (fun e => e.tm.servo ≠ .holdover) ∧
    Acts (.holdoverTimeout dt) dt (fun e => e.tm.servo = .holdover) (fun e t => t.tm.servo = .free ∧ t.tm.inc = incFor (-e.tm.y) ∧ same e t ∧
      e.Tells t [(8, 2, 3, b1 e.tm.source ++ b1 0 ++ y4 e)])) ∧
  ∀ h : Hdr,
    Replies (.timeGet h) (fun _ _ => True) (fun p b t => t = b.reply p 0 0 0 none none (stampBytes b.busNs ++
      [match b.tm.servo with | .free => 0 | .acquiring => 1 | .locked => 2 | .holdover => 3, b.tm.source] ++ leI 4 (satI 32 b.tm.lastOffset) ++ y4 b ++
      [b.tm.stepEpoch, 0] ++ leI 8 b.tm.lastStep ++ stampOpt b.tm.lastStepNs ++ le 4 b.tm.accepted)) ∧
    ∀ stamp, stamp / nsPerS < 2 ^ 48 → Runs (.timeSet h stamp) (fun _ _ => True) (fun c b t =>
      let held : Prop := (b.tm.source = 1 ∨ b.tm.source = 2) ∧ (b.tm.servo = .acquiring ∨ b.tm.servo = .locked)
      (held → b.Refuses t c 0x300) ∧
      (¬ held → t.Reports c 2 0 0 (stampBytes b.busNs ++ stampBytes stamp) ∧ t.busNs = stamp ∧ t.tm.inc = b.tm.inc ∧ t.tm.y = b.tm.y ∧
        t.tm.stepEpoch = (b.tm.stepEpoch + 1) % 256 ∧ t.tm.lastStep = (stamp : Int) - b.busNs ∧ t.tm.servo ≠ .locked ∧ (∀ k, (t.chan k).ref = none) ∧
        b.TellsStep t [] ((stamp : Int) - b.busNs) 2 ∧ OnlyChanges (.tm :: .fb :: replyTouches ++ reportTouches) b t))

/-- R544, R553 to R567: how a report to the front queue is handled, its way to the MRAM ring and back to the host, the marks, and what a supply
warning flushes. -/
def Obligations.CairnJournal : Prop :=
  let alive (e : State) : Prop := e.pw.held = false ∧ e.pw.state ≠ .off
  let inRing (t : State) (q : Nat) (r : CairnRec) : Prop := Store.read none t.cn.ring (t.ringSlot q) = some (q, r)
  let joins (e t : State) (r : CairnRec) : Prop := t.cn.front = e.cn.front ∧ ∃ x ∈ t.cn.screes, x.source = r.source ∧ (x.code = r.code ∨ x.code = 0xFFFF) ∧
    1 ≤ x.count ∧ r.level ≤ x.level ∧ x.last = r.ns
  (∀ dt (rep : CairnRep), rep.level < 4 → rep.code < 2 ^ 16 → rep.source < 256 → rep.data.length = 12 →
    let made (e : State) (data : List Nat) : CairnRec :=
      { ns := e.reportNs.1, coarse := e.reportNs.2, scree := false, source := rep.source, level := rep.level, code := rep.code, data := data }
    let now (e : State) : Prop := alive e ∧ rep.compacts = []
    let loud (e : State) : Prop := e.parN P.JNL_MIN_SEVERITY 0 ≤ rep.level
    let n (e : State) : Nat := e.cn.front.length
    let flushing (e : State) : Prop := e.pw.warning = true ∧ e.cn.flushFrom = none
    let seen (e t : State) : Prop := t.cp.reports = e.cp.reports ++ [(rep.source, rep.code, rep.level, e.reportNs.1)] ∧ OnlyChanges reportTouches e t
    Idles (.cairnReport dt rep) dt (fun e => ¬ alive e) ∧
    Acts (.cairnReport dt rep) dt (fun e => now e ∧ ¬ loud e) (fun e t => t.cn = e.cn ∧ seen e t) ∧
    Acts (.cairnReport dt rep) dt (fun e => now e ∧ loud e ∧ ¬ flushing e ∧ (n e < 960 ∨ (n e < 1024 ∧ rep.level = 3)))
      (fun e t => (∃ l, t.cn.front = e.cn.front ++ made e rep.data :: l) ∧ t.cn.ring = e.cn.ring ∧ seen e t) ∧
    Acts (.cairnReport dt rep) dt (fun e => now e ∧ loud e ∧ ((flushing e ∧ rep.level < 3) ∨ (¬ flushing e ∧ 960 ≤ n e ∧ (rep.level < 3 ∨ 1024 ≤ n e))))
      (fun e t => joins e t (made e rep.data) ∧ t.cn.ring = e.cn.ring ∧ seen e t) ∧
    Acts (.cairnReport dt rep) dt (fun e => now e ∧ loud e ∧ flushing e ∧ rep.level = 3)
      (fun e t => inRing t e.cn.nextSeq (made e rep.data) ∧ t.cn.nextSeq = (e.cn.nextSeq + 1) % 2 ^ 32 ∧ seen e t) ∧
    (∀ o, o + 4 ≤ 12 → rep.compacts = [o] → Acts (.cairnReport dt rep) dt (fun e => alive e ∧ e.tm.stepEpoch = (rep.epoch + 1) % 256)
      (fun e t => e.Tells t [(rep.source, rep.level, rep.code, rep.data.take o ++
        le 4 (((fld rep.data o 4 : Int) + Store.read 0 e.tm.steps e.tm.stepEpoch) % 2 ^ 32).toNat ++ rep.data.drop (o + 4))]))) ∧
  (∀ dt (rep : CairnRep), rep.source = 7 → rep.level = 4 → rep.compacts = [] →
    Acts (.cairnReport dt rep) dt alive (fun e t => t.MonLogs rep.code (padTo 12 rep.data) ∧ t.cn.front = e.cn.front)) ∧
  (∀ dt,
    let wrote (e t : State) (r : CairnRec) : Prop := inRing t e.cn.nextSeq r ∧ t.cn.nextSeq = (e.cn.nextSeq + 1) % 2 ^ 32 ∧ t.cn.newest = some e.cn.nextSeq ∧
      (e.parN P.HSP_IRQ_LEVEL 0 ≤ r.level → t.hp.irqFlags.testBit 2 = true) ∧
      (∀ k ks c, isMark r = true → e.cn.marks = k :: ks → e.runningCmd k = some c → t.cn.marks = ks ∧ t.runningCmd k = none ∧
        ∃ d ∈ t.jn.done, d.slot = k ∧ d.outcome = 2 ∧ d.status = 0 ∧ d.data = le 4 e.cn.nextSeq) ∧
      (isMark r = false → t.cn.marks = e.cn.marks ∧ t.jn = e.jn) ∧ OnlyChanges [.cn, .jn, .hp, .mm] e t
    let first (e : State) (x : ScreeEntry) : Prop := x ∈ e.cn.screes ∧ ∀ y ∈ e.cn.screes, y ≠ x → x.first < y.first
    let packed (x : ScreeEntry) : CairnRec := { ns := x.first, coarse := x.coarse, scree := true, source := x.source, level := x.level, code := x.code,
                                                data := le 4 x.count ++ le 8 (x.last - x.first) }
    let frees (e : State) : Prop := e.cn.front.length < 512 ∧ e.pw.warning = false
    (∀ r rs, Acts (.cairnRecordWrite dt) dt (fun e => e.clocked = true ∧ e.cn.monQ = r :: rs)
      (fun e t => t.cn.monQ = rs ∧ t.cn.front = e.cn.front ∧ wrote e t r)) ∧
    (∀ r rs, Acts (.cairnRecordWrite dt) dt (fun e => e.clocked = true ∧ e.cn.monQ = [] ∧ e.cn.front = r :: rs ∧ e.cn.heldMarks = [])
      (fun e t => t.cn.front = rs ∧ wrote e t r)) ∧
    (∀ r rs m ms, rs.length < 1024 → Acts (.cairnRecordWrite dt) dt
      (fun e => e.clocked = true ∧ e.cn.monQ = [] ∧ e.cn.front = r :: rs ∧ e.cn.heldMarks = m :: ms)
      (fun e t => (∃ l, t.cn.front = rs ++ m :: l) ∧ t.cn.heldMarks = ms ∧ wrote e t r)) ∧
    Idles (.cairnRecordWrite dt) dt (fun e => e.clocked = false ∨ (e.cn.monQ = [] ∧ e.cn.front = [])) ∧
    (∀ x, Acts (.screeRelease dt) dt (fun e => frees e ∧ first e x) (fun e t => (∃ l, t.cn.front = e.cn.front ++ packed x :: l) ∧
      t.cn.screes = e.cn.screes.filter (fun y => !decide (y.source = x.source ∧ y.code = x.code)) ∧ OnlyChanges [.cn] e t)) ∧
    Idles (.screeRelease dt) dt (fun e => ¬ frees e ∨ e.cn.screes = []) ∧
    (∀ from_, Acts (.journalFlushed dt) dt (fun e => e.cn.flushFrom = some from_)
      (fun e t => let rs := e.cn.monQ ++ e.cn.monHeld ++ e.cn.front ++ e.cn.heldMarks
        t.cn.monQ = [] ∧ t.cn.monHeld = [] ∧ t.cn.front = [] ∧ t.cn.heldMarks = [] ∧ t.cn.screes = [] ∧ t.cn.flushFrom = none ∧
        (rs.length + 256 < e.ringSize → ∀ i (hi : i < rs.length), inRing t ((e.cn.nextSeq + i) % 2 ^ 32) rs[i]) ∧
        (∃ q r k, t.cn.newest = some q ∧ inRing t q r ∧ r.source = 8 ∧ r.level = 1 ∧ r.code = 0x11 ∧ e.cn.flushed + rs.length ≤ k ∧
          r.data = padTo 12 (b4 k ++ b4 ((e.tm.now - from_) / cyclesPerUs))) ∧ OnlyChanges [.cn, .jn, .hp, .mm] e t)) ∧
    Idles (.journalFlushed dt) dt (fun e => e.cn.flushFrom = none)) ∧
  ∀ h : Hdr,
    (∀ code data, data.length = 12 → Runs (.journalMark h code data) (fun _ _ => True) (fun c b t =>
      let n := code % 2 ^ 16
      let r : CairnRec := { ns := c.accept, coarse := false, scree := false, source := 1, level := 1, code := 0x8000 + n, data := data.map (· % 256) }
      let waits : Prop := t.InProgress c ∧ t.cn.marks = b.cn.marks ++ [c.slot] ∧ OnlyChanges (.cn :: linkTouches) b t
      (0x8000 ≤ n → b.Refuses t c 0x201) ∧
      (n < 0x8000 → b.cn.front.length < 1024 → b.cn.heldMarks = [] → waits ∧ ∃ l, t.cn.front = b.cn.front ++ r :: l) ∧
      (n < 0x8000 → 1024 ≤ b.cn.front.length ∨ b.cn.heldMarks ≠ [] → waits ∧ t.cn.front = b.cn.front ∧ t.cn.heldMarks = b.cn.heldMarks ++ [r]))) ∧
    ∀ first count, Replies (.journalRead h first count) (fun _ b => Store.wf none b.cn.ring = true) (fun p b t =>
      let n := count % 256
      let q := first % 2 ^ 32
      let age (newest k : Nat) : Nat := (newest + 2 ^ 32 - k) % 2 ^ 32
      let most := min n (replyRoom p.link (b.session p.session) / 32)
      let bytes (k : Nat) (r : CairnRec) : List Nat :=
        let x := stampBytes r.ns ++ [r.source, r.level + (if r.coarse then 64 else 0) + (if r.scree then 128 else 0)] ++ le 2 r.code ++ le 4 k ++ padTo 12 r.data
        x ++ le 2 (crc16 x)
      (n = 0 ∨ 100 < n → t = b.reply p 0x201 0 0 none none []) ∧
      (1 ≤ n → n ≤ 100 → b.cn.newest = none → t = b.reply p 0 0 0 none none []) ∧
      ∀ newest, 1 ≤ n → n ≤ 100 → b.cn.newest = some newest → newest < 2 ^ 32 →
        (2 ^ 31 ≤ age newest q → t = b.reply p 0 0 0 none none []) ∧
        (∀ (m : Nat) (rs : Nat → CairnRec), 1 ≤ m → m ≤ most → m ≤ 65536 → age newest q < 2 ^ 31 → (m = most ∨ (q + (m - 1)) % 2 ^ 32 = newest) →
          (∀ i, i < m → inRing b ((q + i) % 2 ^ 32) (rs i)) → (∀ i, i + 1 < m → (q + i) % 2 ^ 32 ≠ newest) →
          t = b.reply p 0 0 0 none none ((List.range m).flatMap fun i => bytes ((q + i) % 2 ^ 32) (rs i))) ∧
        ((∀ k x r, Store.read none b.cn.ring k = some (x, r) → age newest x < age newest q) → 0 < age newest q → age newest q < 2 ^ 31 →
          ∃ data, t = b.reply p 0 0 1 none none data))

/-- R579, R580, R585, R587, R600: arming, stopping, releasing and reading of captures. -/
def Obligations.CaptureCommands : Prop :=
  ∀ h : Hdr,
    let logs (e t : State) (rs : List (Nat × Nat × Nat × List Nat)) : Prop := t.cn = (e.told rs).cn
    let heads (e : State) : Nat → Prop := fun k => k < e.userSegs ∧ (e.seg k).held = false ∧ ∀ j, j < k → (e.seg j).held = true
    (∀ flags (states : List TrigState), states.length = 8 →
      (∀ x ∈ states, x.logic < 256 ∧ x.onMatch < 256 ∧ x.count < 2 ^ 16 ∧ x.timeout < 2 ^ 16 ∧ x.onTimeout < 256 ∧ x.reserved < 256 ∧
        ∀ y, y = x.a ∨ y = x.b → y.type < 256 ∧ y.probe < 256 ∧ y.op < 256 ∧ y.reserved < 256 ∧ y.value < 2 ^ 32) →
      Runs (.captureArm h flags states) (fun _ _ => True) (fun c b t =>
        let all : Prop := flags % 256 = 1
        let bad : Prop := 1 < flags % 256 ∨ ∃ x ∈ states, entryOk x = false
        let taken : Prop := b.capRuns = true ∨ b.cp.arming ≠ none ∨ (b.parN P.CAP_MODE 0 = 0 ∧ b.framesRun = false)
        let full : Prop := if all then b.userSegs = 0 else ∀ k, k < b.userSegs → (b.seg k).held = true
        let set (g : CapConfig) : Prop := g.states = states ∧ g.probes = b.userProbes ∧ g.mode = b.parN P.CAP_MODE 0 ∧ g.decim = b.parN P.CAP_DECIM 0 ∧
          g.pre = b.parN P.CAP_PRE 0 ∧ g.post = b.parN P.CAP_POST 0 ∧ (g.rearm = true ↔ b.parN P.CAP_REARM 0 = 1) ∧
          (g.cermer = true ↔ b.parN P.CAP_CERMER 0 = 1) ∧ g.eventType = b.parN P.CAP_EVENT_TYPE 0 ∧ g.eventValue = b.parN P.CAP_EVENT_VALUE 0 ∧
          (g.stream = true ↔ b.parN P.CAP_STREAM 0 = 1)
        (bad → b.Refuses t c 0x201) ∧ (¬ bad → taken → b.Refuses t c 0x300) ∧ (¬ bad → ¬ taken → full → t.Reports c 2 0x301 0 []) ∧
        (¬ bad → ¬ taken → ¬ full → b.framesRun = true → t.InProgress c ∧ t.cp.arming = some c.slot ∧ set t.cp.cfg ∧
          (∀ k, if all ∧ k < b.userSegs then (t.seg k).held = false else t.seg k = b.seg k) ∧ OnlyChanges (.cp :: linkTouches) b t) ∧
        (∀ k, ¬ bad → ¬ taken → ¬ full → b.framesRun = false → (if all then k = 0 else heads b k) →
          let size := b.recordSize b.userProbes
          t.Reports c 2 0 0 (le 2 k ++ le 2 size ++ le 4 ((b.segSize - 64) / size)) ∧ t.cp.arming = none ∧ t.cp.segment = k ∧ set t.cp.cfg ∧
            t.cp.state = (if b.parN P.CAP_PRE 0 = 0 then .wait else .pre) ∧ t.cp.seqState = 0 ∧ (t.seg k).held = true ∧ (t.seg k).records = [] ∧
            (t.seg k).size = size ∧ (t.seg k).gen = b.pm.gen ∧ logs b t [(9, 0, 1, b2 k ++ b2 size ++ b4 b.pm.gen)] ∧
            OnlyChanges (.cp :: replyTouches ++ reportTouches) b t))) ∧
    Runs (.captureStop h) (fun c b => b.cp.arming ≠ some c.slot) (fun c b t => t.Reports c 2 0 0 [0, 0] ∧ t.cp.arming = none ∧
      (∀ k, b.cp.arming = some k → b.Ends t k 0x11) ∧
      (b.capRuns = false → t.cp.state = b.cp.state ∧ t.cp.segs = b.cp.segs ∧ t.cn = b.cn) ∧
      (b.capRuns = true → b.cp.rearming = true → t.cp.state = .stopped ∧ t.cp.rearming = false ∧ t.cp.segs = b.cp.segs ∧
        logs b t [(9, 1, 3, b2 b.cp.segment ++ b1 2)]) ∧
      (b.capRuns = true → b.cp.rearming = false → b.cp.cfg.stream = false → let k := b.cp.segment
        t.cp.state = .stopped ∧ (t.seg k).ending = 2 ∧ (t.seg k).finish = some b.ns ∧ (∀ j, j ≠ k → t.seg j = b.seg j) ∧
        (b.cp.block.count = 0 → (t.seg k).records = (b.seg k).records) ∧
        (b.cp.block.count ≠ 0 → (b.seg k).trigger ≠ none → b.cp.trig ≠ none → ∃ r, (t.seg k).records = (b.seg k).records ++ [r] ∧ r.ns = b.ns) ∧
        logs b t [(9, 1, 3, b2 k ++ b1 2)])) ∧
    (∀ i first last evid, (i, evid) ∈ [(Instr.captureReleaseUser h first last, false), (Instr.captureReleaseEvidence h first last, true)] →
      Runs i (fun _ _ => True) (fun c b t =>
        let f := first % 2 ^ 16
        let l := last % 2 ^ 16
        let bad : Prop := l < f ∨ b.parN P.CAP_SEGMENTS 0 ≤ l
        let other : Prop := if evid then f < b.userSegs else b.userSegs ≤ l
        let records : Prop := (b.capRuns = true ∧ b.cp.rearming = false ∧ f ≤ b.cp.segment ∧ b.cp.segment ≤ l) ∨
          ∃ k, b.cp.evid.segment = some k ∧ f ≤ k ∧ k ≤ l
        let goes (k : Nat) : Prop := f ≤ k ∧ k ≤ l ∧ (b.seg k).held = true
        (bad → b.Refuses t c 0x201) ∧ (¬ bad → other ∨ records → b.Refuses t c 0x300) ∧
        (¬ bad → ¬ other → ¬ records → t.Reports c 2 0 0 (le 2 ((List.range (l + 1)).filter fun k => decide (f ≤ k) && (b.seg k).held).length) ∧ (∀ k, goes k → t.seg k = {}) ∧
          (∀ k, ¬ goes k → t.seg k = b.seg k) ∧ ((∀ k, ¬ goes k) → t.cn = b.cn) ∧
          (∀ k, goes k → (∀ j, j < k → ¬ goes j) → logs b t [(9, 0, 8, b2 f ++ b2 l ++ b1 (b.seg k).kind)]) ∧
          OnlyChanges (.cp :: replyTouches ++ reportTouches) b t))) ∧
    (∀ segment first count, Replies (.captureRead h segment first count) (fun _ _ => True) (fun p b t =>
      let k := segment % 2 ^ 16
      let f := first % 2 ^ 32
      let g := b.seg k
      let room := (replyRoom p.link (b.session p.session) - 64) / max 1 g.size
      let rs := if f = 0xFFFFFFFF then [] else (g.records.drop f).take (min (count % 2 ^ 16) room)
      (b.parN P.CAP_SEGMENTS 0 ≤ k → t = b.reply p 0x201 0 0 none none []) ∧
      (k < b.parN P.CAP_SEGMENTS 0 → g.held = false → t = b.reply p 0x300 0 0 none none []) ∧
      (k < b.parN P.CAP_SEGMENTS 0 → g.held = true → b.capBroken k f rs.length = true → t = b.reply p 0x700 0 0 none none []) ∧
      (k < b.parN P.CAP_SEGMENTS 0 → g.held = true → b.capBroken k f rs.length = false → ∃ (steps flags : Nat),
        let start := if g.start = none then g.records.head?.map (·.first) else g.start
        let head := le 4 0x53473031 ++ le 2 k ++ [g.kind, g.ending] ++ stampOpt g.trigger ++ stampOpt start ++ stampOpt g.finish ++
          le 4 g.records.length ++ le 4 g.pre ++ le 2 g.size ++ [steps, g.state, g.cond, flags] ++ le 4 g.gen ++ le 2 g.offset ++ [0, 0]
        t = b.reply p 0 0 0 none none (head ++ le 4 (crc32c head) ++
          rs.flatMap fun r => le 4 (r.ns % 2 ^ 32) ++ le 2 (r.ns / 2 ^ 32 % 65536) ++ le 2 r.flags ++ r.values.flatMap fun v => le v.2 v.1)))) ∧
    Replies (.captureStatus h) (fun _ _ => True) (fun p b t => ∃ (held evid : Nat), t = b.reply p 0 0 0 none none
      ([match b.cp.state with | .idle => 0 | .pre => 1 | .wait => 2 | .post => 3 | .stopped => 4 | .overflow => 5, b.cp.seqState] ++ le 2 b.cp.segment ++
        le 2 held ++ le 2 (b.userSegs - held) ++ le 8 evid ++ le 2 b.cp.evid.missed ++
        (let size := b.recordSize (if b.capRuns then b.cp.cfg.probes else b.userProbes)
         le 2 size ++ le 4 ((b.segSize - 64) / size)) ++ le 4 (b.seg b.cp.segment).records.length ++ le 4 b.cp.datagrams) ∧
      held = ((List.range b.userSegs).filter fun k => (b.seg k).held).length ∧
      ∀ i, i < b.parN P.CAP_EVID_SEGMENTS 0 → i < 64 → evid.testBit i = (b.seg (b.userSegs + i)).held)

/-- R575 to R578, R580, R582, R583, R586, R587, R589, R590, R595: samples of a user capture in event mode, its trigger and its end, the idle pace of
the evidence channel, overflow, re-arm, and the stream's datagrams. -/
def Obligations.CaptureSamples : Prop :=
  ∀ dt,
    let logs (e t : State) (rs : List (Nat × Nat × Nat × List Nat)) : Prop := t.cn = (e.told rs).cn
    let cur (s : State) : SegSt := s.seg s.cp.segment
    let hits (type value : Nat) (e : State) : Prop := (type = 3 ∧ edgeMatches e.cp.cfg.eventValue (value % 16, (value / 16).testBit 0, e.ns) = true) ∨
      (type ≠ 3 ∧ reportMatches e.cp.cfg.eventValue (value / 2 ^ 24, value / 256 % 65536, value % 8, e.ns) = true)
    let asks (type value : Nat) (e : State) : Prop := e.clocked = true ∧ e.capRuns = true ∧ e.cp.cfg.mode = 1 ∧ e.cp.cfg.eventType = type ∧ hits type value e
    let vals (e : State) : List (Option Int) := if e.cp.frameVals = [] then e.cp.cfg.probes.map (fun _ => none) else e.cp.frameVals
    let samples (type value : Nat) (e : State) : Prop := asks type value e ∧ e.cp.rearming = false
    let quiet (e : State) : Prop := e.cp.holds = true ∨ e.cp.cfg.states[e.cp.seqState]? = none
    let last (e : State) : Prop := e.cp.cfg.decim ≤ e.cp.block.count + 1
    let others (e t : State) : Prop := ∀ j, j ≠ e.cp.segment → t.seg j = e.seg j
    (∀ type value,
      Idles (.captureEvent dt type value) dt (fun e => e.clocked = false ∨ (type ≠ 3 ∧ ¬ asks type value e)) ∧
      Acts (.captureEvent dt type value) dt (fun e => type = 3 ∧ e.clocked = true ∧ ¬ asks type value e)
        (fun e t => t = { e with cp := { e.cp with edges := e.cp.edges ++ [(value % 16, (value / 16).testBit 0, e.ns)] } }) ∧
      Acts (.captureEvent dt type value) dt (fun e => asks type value e ∧ e.cp.rearming = true ∧ e.cp.events.length < 16)
        (fun e t => t.cp.events = e.cp.events ++ [(type, value, e.ns)] ∧ t.cp.state = e.cp.state ∧ t.cp.segs = e.cp.segs ∧ OnlyChanges [.cp] e t) ∧
      Acts (.captureEvent dt type value) dt (fun e => asks type value e ∧ e.cp.rearming = true ∧ 16 ≤ e.cp.events.length)
        (fun e t => t.cp.state = .overflow ∧ (cur t).ending = 3 ∧ logs e t [(9, 2, 4, b2 e.cp.segment ++ b1 2 ++ b4 (cur e).records.length)]) ∧
      Acts (.captureEvent dt type value) dt (fun e => samples type value e ∧ quiet e ∧ ¬ last e)
        (fun e t => t.cp.block = e.cp.block.add (vals e) e.ns ∧ t.cp.block.count = e.cp.block.count + 1 ∧ t.cp.lastVals = vals e ∧
          t.cp.segs = e.cp.segs ∧ t.cp.state = e.cp.state ∧ OnlyChanges [.cp] e t) ∧
      Acts (.captureEvent dt type value) dt (fun e => samples type value e ∧ quiet e ∧ last e ∧ e.cp.trig = none ∧ (cur e).trigger = none)
        (fun e t => (∃ r, r.ns = e.ns ∧ r.first = (e.cp.block.add (vals e) e.ns).first ∧
            (cur t).records = ((cur e).records ++ [r]).drop ((cur e).records.length + 1 - e.cp.cfg.pre)) ∧ t.cp.block.count = 0 ∧
          t.cp.state = (if (cur t).records.length < e.cp.cfg.pre then .pre else .wait) ∧ others e t ∧ OnlyChanges [.cp] e t) ∧
      (∀ x, Acts (.captureEvent dt type value) dt (fun e => samples type value e ∧ e.cp.holds = false ∧ ¬ last e ∧ e.cp.cfg.cermer = false ∧
          e.cp.cfg.states[e.cp.seqState]? = some x ∧ x.logic = 0 ∧ x.a.type = 0)
        (fun e t => let hit : Prop := x.count ≤ e.cp.matches_ + 1
          (¬ hit → x.timeout = 0 → t.cp.matches_ = e.cp.matches_ + 1 ∧ t.cp.samples = e.cp.samples + 1 ∧ t.cp.seqState = e.cp.seqState ∧
            t.cp.trig = e.cp.trig ∧ t.cp.holds = false) ∧
          (hit → x.onMatch = 0x10 → t.cp.trig = some (e.cp.block.count, e.ns, e.cp.seqState, 1) ∧ t.cp.holds = true ∧ t.cp.seqState = e.cp.seqState) ∧
          (hit → 8 ≤ x.onMatch → x.onMatch < 16 → t.cp.seqState = x.onMatch - 8 ∧ t.cp.matches_ = 0 ∧ t.cp.samples = 0 ∧ t.cp.trig = e.cp.trig))) ∧
      (∀ off n st cond, Acts (.captureEvent dt type value) dt
        (fun e => samples type value e ∧ e.cp.holds = true ∧ last e ∧ e.cp.trig = some (off, n, st, cond) ∧ e.cp.cfg.stream = false)
        (fun e t => others e t ∧
          ((cur e).trigger = none → 1 < e.cp.cfg.post → t.cp.state = .post ∧ (cur t).trigger = some n ∧ (cur t).pre = (cur e).records.length ∧
            (cur t).state = st ∧ (cur t).cond = cond ∧ (cur t).offset = off ∧ ∃ r, r.ns = e.ns ∧ (cur t).records = (cur e).records ++ [r]) ∧
          ((cur e).trigger ≠ none → (∃ r, r.ns = e.ns ∧ (cur t).records = (cur e).records ++ [r]) ∧
            ((cur e).records.length + 1 < (cur e).pre + e.cp.cfg.post → t.cp.state = e.cp.state ∧ t.cn = e.cn) ∧
            ((cur e).pre + e.cp.cfg.post ≤ (cur e).records.length + 1 → (cur t).ending = 1 ∧ (cur t).finish = some e.ns ∧
              logs e t [(9, 0, 2, b2 e.cp.segment ++ b4 ((cur e).records.length + 1) ++ b4 (cur e).pre)] ∧
              (e.cp.cfg.rearm = false → t.cp.state = .stopped ∧ t.cp.rearming = e.cp.rearming) ∧
              (e.cp.cfg.rearm = true → t.cp.state = .wait ∧ t.cp.rearming = true)))))) ∧
    (let user (e : State) : Prop := e.capRuns = true ∧ e.cp.cfg.mode = 0
     let paced (e : State) : Prop := e.framesRun = false ∧ e.clocked = true ∧ ¬ user e
     let on (e : State) : Prop := e.cp.evid.runs = true ∧ e.parN P.CAP_EVID_SEGMENTS 0 ≠ 0
     let step (e : State) : BlockSt := e.cp.evid.block.add (e.valleyOf e.evidProbes) e.ns
     Idles (.captureIdleTick dt) dt (fun e => e.framesRun = true ∨ e.clocked = false) ∧
     Acts (.captureIdleTick dt) dt (fun e => paced e ∧ ¬ on e) (fun e t => t.cp.evid = e.cp.evid ∧ t.cp.segs = e.cp.segs ∧ t.cp.state = e.cp.state ∧ OnlyChanges [.cp] e t) ∧
     Acts (.captureIdleTick dt) dt (fun e => paced e ∧ on e ∧ (step e).count < e.evidBlock)
       (fun e t => t.cp.evid = { e.cp.evid with block := step e } ∧ t.cp.segs = e.cp.segs ∧ OnlyChanges [.cp] e t) ∧
     Acts (.captureIdleTick dt) dt (fun e => paced e ∧ on e ∧ e.evidBlock ≤ (step e).count ∧ e.cp.evid.segment = none)
       (fun e t => let n := e.parN P.CAP_EVID_PRE 0
         (∃ r, r.ns = e.ns ∧ t.cp.evid.ring = (e.cp.evid.ring ++ [r]).drop (e.cp.evid.ring.length + 1 - n)) ∧ t.cp.evid.block.count = 0 ∧
         t.cp.segs = e.cp.segs ∧ OnlyChanges [.cp] e t)) ∧
    (∀ cause, Idles (.captureOverflow dt cause) dt (fun e => e.capRuns = false) ∧
      Acts (.captureOverflow dt cause) dt (fun e => e.capRuns = true) (fun e t => t.cp.state = .overflow ∧ t.cp.segment = e.cp.segment ∧
        (cur t).ending = 3 ∧ (cur t).finish = some e.ns ∧ (cur t).records = (cur e).records ∧ others e t ∧ t.cp.evid = e.cp.evid ∧
        logs e t [(9, 2, 4, b2 e.cp.segment ++ b1 cause ++ b4 (cur e).records.length)] ∧ OnlyChanges reportTouches e t)) ∧
    (let held (e : State) (k : Nat) : Prop := (e.seg k).held = true
     let next (e : State) (k : Nat) : Prop := k < e.userSegs ∧ ¬ held e k ∧ ((e.cp.segment < k ∧ ∀ j, e.cp.segment < j → j < k → held e j) ∨
       (k ≤ e.cp.segment ∧ (∀ j, e.cp.segment < j → j < e.userSegs → held e j) ∧ ∀ j, j < k → held e j))
     Idles (.captureRearm dt) dt (fun e => e.cp.rearming = false) ∧
     Acts (.captureRearm dt) dt (fun e => e.cp.rearming = true ∧ ∀ k, k < e.userSegs → held e k)
       (fun e t => e.cp.events = [] → t.cp.state = .stopped ∧ t.cp.rearming = false ∧ t.cp.segs = e.cp.segs ∧
         logs e t [(9, 2, 5, b2 e.userSegs)] ∧ OnlyChanges reportTouches e t) ∧
     ∀ k, Acts (.captureRearm dt) dt (fun e => e.cp.rearming = true ∧ next e k ∧ e.cp.events = [])
       (fun e t => t.cp.segment = k ∧ t.cp.rearming = false ∧ t.cp.state = (if e.cp.cfg.pre = 0 then .wait else .pre) ∧ t.cp.seqState = 0 ∧
         t.cp.matches_ = 0 ∧ t.cp.samples = 0 ∧ t.cp.holds = false ∧ t.cp.trig = none ∧ (t.seg k).held = true ∧ (t.seg k).records = [] ∧
         (t.seg k).trigger = none ∧ (∀ j, j ≠ k → t.seg j = e.seg j) ∧ OnlyChanges [.cp] e t)) ∧
    (let port (e : State) : Nat := e.streamPort
     let hop (e : State) : Nat := e.nextHop (port e) (e.parN P.CAP_STREAM_IP 0)
     let up (e : State) : Prop := (e.port (port e)).up = true
     let due (e : State) : Prop := e.clocked = true ∧ (e.cp.stream ≠ [] ∨ e.cp.streamEnds ≠ [])
     let mac (e : State) : Option Nat := (e.port (port e)).resolve e.tm.now (hop e)
     Idles (.captureStreamSend dt) dt (fun e => ¬ due e ∨ ¬ up e) ∧
     Acts (.captureStreamSend dt) dt (fun e => due e ∧ up e ∧ mac e = none ∧ e.parN P.ETH_IP (port e) ≠ 0)
       (fun e t => t = { e with sent := e.sent ++ [.arp (port e) true 0 (hop e)] }) ∧
     ∀ k i n xs, Acts (.captureStreamSend dt) dt
       (fun e => due e ∧ up e ∧ mac e ≠ none ∧ e.cp.stream = (k, i, n) :: xs ∧ (e.seg k).size ≤ 1388 ∧
         (e.cp.stream.map (·.2.2)).foldl (· + ·) 0 ≤ (e.win 15).level)
       (fun e t => ∃ (m f : Nat) (rest : List Nat), 1 ≤ m ∧ m ≤ e.cp.stream.length ∧ m * max 1 (e.seg k).size ≤ 1388 ∧ (∀ x ∈ e.cp.stream.take m, x.1 = k) ∧
         t.cp.stream = e.cp.stream.drop m ∧ t.cp.datagrams = e.cp.datagrams + 1 ∧
         (t.win 15).level + ((e.cp.stream.take m).map (·.2.2)).foldl (· + ·) 0 = (e.win 15).level ∧
         (let body := le 2 0x5A43 ++ [1, f] ++ le 2 k ++ le 2 (e.seg k).size ++ le 4 i ++ le 2 m ++ [0, 0] ++ rest
          t.sent = e.sent ++ [.stream (port e) (e.parN P.CAP_STREAM_IP 0) (e.parN P.CAP_STREAM_PORT 0) (body ++ le 4 (crc32c body))]) ∧
         OnlyChanges [.cp, .mm, .sent] e t))

/-- R608 to R622: a frame of the SPI host port: aborted, refused, a write or a read; what it carries out and what it takes from MBX_OUT; the
resynchronisation of MBX_IN and the report that finds no room. -/
def Obligations.HostPortFrames : Prop :=
  (∀ dt (hdr chk clocks : Nat) (data : List Nat) (under : Bool),
    let n := hdr / 256 % 256 + 1
    let words := hdr :: data ++ [chk]
    let addr (i : Nat) : Nat := hdr % 256 + (if hdr.testBit 22 then i else 0)
    let write : Prop := hdr.testBit 23 = true
    let shape : Prop := data.length = n ∧ clocks = 32 * (n + 2)
    let sync : Prop := hdr / 2 ^ 24 = 0xA5 ∧ hdr / 2 ^ 16 % 64 = 0
    let check : Prop := chk = crc16 ((hdr :: data).flatMap fun w => be 4 w)
    let calm (e : State) : Prop := e.hostServed = true ∧ (mbxTake e).1 = none ∧ e.pw.resetDue = none
    let rep (e : State) : Nat := if under = true ∧ e.hp.reply ≠ [] then 64 else 0
    let beyond : Nat := if ∃ i, i < n ∧ 0x3F < addr i then 32 else 0
    let line (e t : State) : Prop := ∃ xs, t.hp.sdo = (e.hp.frameSeq * 2 ^ 24 + e.hp.status) :: xs ++ [checkWord ((e.hp.frameSeq * 2 ^ 24 + e.hp.status) :: xs)] ∧
      (under = false → clocks = 32 * (n + 2) → xs = (e.hp.reply.map (·.1)).take n ++ List.replicate (n - e.hp.reply.length) 0)
    let boxes (e t : State) : Prop := t.hp.mbxIn = e.hp.mbxIn ∧ t.hp.mbxOut = e.hp.mbxOut ∧ t.hp.waiting = e.hp.waiting
    let ends (status : Nat) (e t : State) : Prop := t.hp.status = status + rep e ∧ t.hp.frameSeq = (e.hp.frameSeq + 1) % 256 ∧ line e t ∧ OnlyChanges [.hp] e t
    let plain (e : State) : Prop := calm e ∧ e.hp.reply = [] ∧ e.hp.waiting = []
    let flags (e t : State) : Prop := t.hp.irqFlags = e.hp.irqFlags ∧ t.hp.irqMask = e.hp.irqMask
    (∀ ws, Idles (.spiFrame dt ws clocks under) dt fun e => e.hostServed = false ∧ (mbxTake e).1 = none ∧ e.pw.resetDue = none) ∧
    (∀ ws : List Nat, ¬ (ws.length = ws.headD 0 / 256 % 256 + 3 ∧ clocks = 32 * (ws.headD 0 / 256 % 256 + 3)) →
      Acts (.spiFrame dt ws clocks under) dt calm (fun e t => t.hp.status = 2 + rep e ∧ t.hp.frameSeq = e.hp.frameSeq ∧ t.hp.reply = [] ∧
        t.hp.errors.getD 0 0 = e.hp.errors.getD 0 0 + 1 ∧ boxes e t ∧ flags e t ∧ OnlyChanges [.hp] e t)) ∧
    (shape → ¬ (sync ∧ check) → Acts (.spiFrame dt words clocks under) dt calm (fun e t =>
      ends ((if check then 0 else 8) + (if sync then 0 else 4) + (if hdr.testBit 23 then 1 else 0)) e t ∧ t.hp.reply = [] ∧ boxes e t ∧ flags e t)) ∧
    (shape → sync → check → write →
      (Acts (.spiFrame dt words clocks under) dt (fun e => plain e ∧ ∀ i, i < n → addr i ∉ [0x05, 0x06, 0x08, 0x0C, 0x1C])
        (fun e t => ends (1 + beyond) e t ∧ t.hp.reply = [] ∧ boxes e t ∧ flags e t)) ∧
      (∀ v, data = [v] → hdr % 256 = 0x05 → Acts (.spiFrame dt words clocks under) dt plain (fun e t => ends 1 e t ∧ boxes e t ∧
        t.hp.irqFlags = e.hp.irqFlags &&& (0xFF - v % 256) ∧ t.hp.irqMask = e.hp.irqMask)) ∧
      (∀ v, data = [v] → hdr % 256 = 0x06 → Acts (.spiFrame dt words clocks under) dt plain (fun e t => ends 1 e t ∧ boxes e t ∧
        t.hp.irqFlags = e.hp.irqFlags ∧ t.hp.irqMask = v % 256)) ∧
      (∀ v, data = [v] → hdr % 256 = 0x0C → Acts (.spiFrame dt words clocks under) dt plain (fun e t => ends 1 e t ∧ flags e t ∧
        t.hp.mbxIn = (if v.testBit 0 then [] else e.hp.mbxIn) ∧ t.hp.mbxOut = (if v.testBit 1 then [] else e.hp.mbxOut))) ∧
      (hdr % 256 = 0x08 → hdr.testBit 22 = false →
        Acts (.spiFrame dt words clocks under) dt (fun e => plain e ∧ 2048 < e.hp.mbxIn.length + n)
          (fun e t => ends 17 e t ∧ t.hp.reply = [] ∧ boxes e t ∧ flags e t) ∧
        Acts (.spiFrame dt words clocks under) dt (fun e => plain e ∧ e.hp.mbxIn.length + n ≤ 2048 ∧
            (mbxTake { e with hp := { e.hp with mbxIn := e.hp.mbxIn ++ data.map (· % 2 ^ 32) } }).1 = none)
          (fun e t => ends 1 e t ∧ t.hp.mbxIn = e.hp.mbxIn ++ data.map (· % 2 ^ 32) ∧ t.hp.mbxOut = e.hp.mbxOut ∧ flags e t))) ∧
    (shape → sync → check → ¬ write →
      (∀ a, n = 1 → hdr % 256 = a → a ≤ 0x3F → a ≠ 0x0A → Acts (.spiFrame dt words clocks under) dt plain (fun e t =>
        ends 128 e t ∧ boxes e t ∧ flags e t ∧ (∃ v, t.hp.reply = [(v, false)] ∧
          (a = 0x00 → v = e.part * 2 ^ 16 + 0x5A * 2 ^ 8 + e.stepping) ∧ (a = 0x05 → v = e.hp.irqFlags) ∧ (a = 0x06 → v = e.hp.irqMask) ∧
          (a = 0x09 → v = 2048 - e.hp.mbxIn.length) ∧ (a = 0x12 → v = min e.unacked 0xFFFF) ∧ (a = 0x14 → v = e.busNs % nsPerS) ∧
          (a = 0x15 → v = e.hp.timeSec % 2 ^ 32) ∧ (a = 0x16 → v = e.hp.timeSec / 2 ^ 32 % 2 ^ 16) ∧ (a = 0x18 → v = e.rg.frame) ∧
          (a ∈ [0x07, 0x08, 0x0D, 0x0E, 0x0F, 0x13, 0x19, 0x1A, 0x1B] ∨ 0x1D ≤ a → v = 0)) ∧
        t.hp.timeSec = (if a = 0x14 then e.busNs / nsPerS % 2 ^ 48 else e.hp.timeSec))) ∧
      (hdr % 256 = 0x0A → hdr.testBit 22 = false → Acts (.spiFrame dt words clocks under) dt plain (fun e t => ends 128 e t ∧ boxes e t ∧ flags e t ∧
        t.hp.reply = (e.hp.mbxOut.flatten.take n).map (fun w => (w, true)) ++ List.replicate (n - e.hp.mbxOut.flatten.length) (0, false))) ∧
      (0x3F < hdr % 256 → Acts (.spiFrame dt words clocks under) dt plain (fun e t => ends (128 + 32) e t ∧ boxes e t ∧ flags e t ∧
        t.hp.reply = List.replicate n (0, false)))) ∧
    (shape → sync → check → ¬ write → hdr % 256 = 0x04 → under = false →
      Acts (.spiFrame dt words clocks under) dt (fun e => calm e ∧ e.hp.waiting = [] ∧ (∀ p ∈ e.hp.mbxOut, p ≠ []) ∧ ∀ x ∈ e.hp.reply, x.2 = true)
        (fun e t => line e t ∧ t.hp.mbxOut.flatten = e.hp.mbxOut.flatten.drop (min n e.hp.reply.length) ∧ t.hp.mbxIn = e.hp.mbxIn))) ∧
  ∀ dt,
    let calm (e : State) : Prop := (mbxTake e).1 = none ∧ e.pw.resetDue = none
    let after (k : Nat) (e : State) : State := { e with hp := { e.hp with mbxIn := e.hp.mbxIn.drop k } }
    let found (j k : Nat) (e : State) : Prop := j ≤ k ∧ (∀ i w, j ≤ i → i < k → e.hp.mbxIn[i]? = some w → w % 65536 ≠ 0x5A57) ∧
      k ≤ e.hp.mbxIn.length ∧ ∀ w, e.hp.mbxIn[k]? = some w → w % 65536 = 0x5A57
    let lost (k : Nat) (e t : State) : Prop := t.hp.mbxIn = e.hp.mbxIn.drop k ∧ t.hp.mbxOut = e.hp.mbxOut ∧
      (1024 < e.hp.mbxIn.length → e.hp.mbxIn.length ≤ 1024 + k → t.hp.irqFlags.testBit 1 = true) ∧
      e.Tells t [(0xA, 2, 2, b2 k)] ∧ OnlyChanges reportTouches e t
    let old (e : State) : Prop := ∃ c, e.hp.partialFrom = some c ∧ c + 100 * cyclesPerMs ≤ e.tm.now
    (∀ k, Acts (.hostMbxResync dt) dt (fun e => e.pw.ready = true ∧ 0 < k ∧ found 0 k e ∧ calm (after k e)) (lost k)) ∧
    Idles (.hostMbxResync dt) dt (fun e => calm e ∧ (e.pw.ready = false ∨ found 0 0 e)) ∧
    (∀ k, Acts (.mbxPartialTimeout dt) dt (fun e => e.pw.ready = true ∧ old e ∧ found 1 k e ∧ calm (after k e)) (lost k)) ∧
    Idles (.mbxPartialTimeout dt) dt (fun e => calm e ∧ (e.pw.ready = false ∨ ¬ old e ∨ e.hp.mbxIn = [])) ∧
    (∀ x xs, Acts (.hostReportDropped dt) dt (fun e => e.hp.waiting = x :: xs ∧ x.1 + cyclesPerS ≤ e.tm.now ∧ (x.2.2.2.getD 3 0).testBit 4 = true)
      (fun e t => t.hp.waiting = xs ∧ t.hp.mbxOut = e.hp.mbxOut ∧ e.Tells t [(0xA, 2, 3, b2 x.2.1 ++ b4 x.2.2.1)] ∧ OnlyChanges reportTouches e t)) ∧
    Idles (.hostReportDropped dt) dt (fun e => ∀ x ∈ e.hp.waiting, e.tm.now < x.1 + cyclesPerS)

/-- R13, R14, R39 to R42, R215, R346, R620, R763, R765 to R767: a register or memory word written or read by a master, an access that nothing answers,
and the circular windows. A word whose content the spec does not give reads as a free value, and the structured partitions of MRAM take no raw write
(notes/assumptions/74.md). -/
def Obligations.RegistersAndWindows : Prop :=
  ∀ dt,
    let bytes (v : Nat) : List Nat := [v % 256, v / 256 % 256, v / 65536 % 256, v / 16777216 % 256]
    let stores (a v : Nat) (s t : State) : Prop := (∀ i, i < 4 → t.rd8 (a + i) = (bytes v).getD i 0) ∧ ∀ x, (x < a ∨ a + 4 ≤ x) → t.rd8 x = s.rd8 x
    let last (m : Nat) (t : State) : Nat := Store.read 0 t.mm.lastRead m
    let log (e t : State) (w flag : Nat) (had : Bool) : Prop := if had then t.cn = e.cn else e.Tells t [(0x10, 1, 5, b1 w ++ b1 flag)]
    (∀ m a v, m ≠ 3 →
      let w := Instr.registerWrite dt m a v
      Idles w dt (fun e => e.responds a = false) ∧
      Idles w dt (fun e => e.region a = .identity ∨ e.region a = .mram ∧ 0x40400000 ≤ a) ∧
      Acts w dt (fun e => e.responds a = true ∧ (e.region a = .tcm ∨ e.region a = .commons ∨ e.region a = .capture ∨ ∃ k, e.region a = .spur k))
        (fun e t => stores a v e t ∧ OnlyChanges [.mem] e t) ∧
      Acts w dt (fun e => e.region a = .mram ∧ a < 0x40400000) (fun e t => stores a v e t ∧ OnlyChanges [.mem, .mm] e t) ∧
      (∀ k, Acts w dt (fun e => a = 0x50000000 + k * 0x40 ∧ k < e.stages ∧ e.responds a = true)
        (fun e t => (t.stage k).dutyU = v % 65536 ∧ (t.stage k).dutyV = (e.stage k).dutyV ∧ (t.stage k).dutyW = (e.stage k).dutyW ∧
          (t.stage k).pending = (e.stage k).pending ∧ (∀ j, j ≠ k → t.stage j = e.stage j) ∧ OnlyChanges [.st] e t)) ∧
      (∀ k, Acts w dt (fun e => a = 0x50000000 + k * 0x40 + 4 ∧ k < e.stages ∧ e.responds a = true) (fun e t => (t.stage k).dutyV = v % 65536 ∧
        (t.stage k).dutyU = (e.stage k).dutyU ∧ (t.stage k).dutyW = (e.stage k).dutyW ∧ (∀ j, j ≠ k → t.stage j = e.stage j) ∧ OnlyChanges [.st] e t)) ∧
      (∀ k, Acts w dt (fun e => a = 0x50000000 + k * 0x40 + 8 ∧ k < e.stages ∧ e.responds a = true) (fun e t => (t.stage k).dutyW = v % 65536 ∧
        (t.stage k).dutyU = (e.stage k).dutyU ∧ (t.stage k).dutyV = (e.stage k).dutyV ∧ (∀ j, j ≠ k → t.stage j = e.stage j) ∧ OnlyChanges [.st] e t)) ∧
      (∀ g, g < 4 → a = 0x50001000 + g * 0x20 → v.testBit 0 = true → ∀ s, exec w s = exec (.loadAllWrite dt g) s) ∧
      (∀ n, n < 8 → a = 0x50030000 + n * 0x20 + 0x14 → ∀ s, exec w s = exec (.rmStatusClear dt n v) s) ∧
      (∀ n, n < 16 → ∀ s, (a = 0x500A0010 + n * 0x20 → exec w s = exec (.cwWrAdvance dt n v) s) ∧
        (a = 0x500A0014 + n * 0x20 → exec w s = exec (.cwRdAdvance dt n v) s) ∧ (a = 0x500A0018 + n * 0x20 → exec w s = exec (.cwStatusWrite dt n v) s)) ∧
      (∀ b, b ∉ [0, 3, 5, 0xA] → Idles w dt (fun e => e.region a = .peripheral b)) ∧
      Acts (.unmappedAccess dt m a none) dt (fun e => e.responds a = false) (fun e t => last m t = 0 ∧ OnlyChanges [.mm] e t) ∧
      Acts (.lowWordReadLatch dt m a) dt (fun e => e.responds a = false) (fun e t => last m t = 0 ∧ OnlyChanges [.mm] e t) ∧
      Acts (.lowWordReadLatch dt m a) dt (fun e => e.responds a = true ∧ (∀ b, e.region a ≠ .peripheral b) ∧ e.wordStated a = true ∧ Store.read [] e.mm.latches (m * 2 ^ 32 + a) = [])
        (fun e t => last m t = e.rd8 a + 256 * e.rd8 (a + 1) + 65536 * e.rd8 (a + 2) + 16777216 * e.rd8 (a + 3) ∧ OnlyChanges [.mm] e t) ∧
      Acts (.lowWordReadLatch dt m a) dt (fun e => e.responds a = true ∧ e.wordStated a = false ∧ Store.read [] e.mm.latches (m * 2 ^ 32 + a) = [])
        (fun e t => last m t < 2 ^ 32 ∧ OnlyChanges [.mm, .free] e t) ∧
      (a = 0x50040000 → Acts (.lowWordReadLatch dt m a) dt (fun e => Store.read [] e.mm.latches (m * 2 ^ 32 + a) = [])
        (fun e t => last m t = e.busNs % nsPerS ∧ Store.read [] t.mm.latches (m * 2 ^ 32 + 0x50040004) = [e.busNs / nsPerS % 2 ^ 32] ∧
          Store.read [] t.mm.latches (m * 2 ^ 32 + 0x50040008) = [e.busNs / nsPerS / 2 ^ 32 % 2 ^ 16] ∧ OnlyChanges [.mm] e t)) ∧
      (∀ x, Acts (.lowWordReadLatch dt m a) dt (fun e => e.responds a = true ∧ Store.read [] e.mm.latches (m * 2 ^ 32 + a) = [x])
        (fun e t => last m t = x ∧ OnlyChanges [.mm] e t))) ∧
    (∀ m a v, Idles (.unmappedAccess dt m a (some v)) dt (fun _ => True) ∧ Idles (.unmappedAccess dt m a none) dt (fun e => e.responds a = true)) ∧
    (∀ a v, Idles (.registerWrite dt 3 a v) dt (fun e => e.hostServed = false)) ∧
    (let calm (e : State) : Prop := e.hostServed = true ∧ (mbxTake e).1 = none ∧ e.pw.resetDue = none
     ∀ v, Acts (.registerWrite dt 3 0x05 v) dt calm (fun e t => t = { e with hp := { e.hp with irqFlags := e.hp.irqFlags &&& (0xFF - v % 256) } }) ∧
       Acts (.registerWrite dt 3 0x06 v) dt calm (fun e t => t = { e with hp := { e.hp with irqMask := v % 256 } }) ∧
       Acts (.lowWordReadLatch dt 3 0x02) dt (fun _ => True) (fun e t => last 3 t = Config.serial % 2 ^ 32 ∧
         t.hp = { e.hp with serialHi := Config.serial / 2 ^ 32 % 2 ^ 32 } ∧ OnlyChanges [.hp, .mm] e t) ∧
       Acts (.lowWordReadLatch dt 3 0x14) dt (fun _ => True) (fun e t => last 3 t = e.busNs % nsPerS ∧
         t.hp = { e.hp with timeSec := e.busNs / nsPerS % 2 ^ 48 } ∧ OnlyChanges [.hp, .mm] e t)) ∧
    ∀ w, w < 16 →
      let free (e : State) : Nat := (e.win w).len - (e.win w).level
      let others (e t : State) : Prop := ∀ j, j ≠ w → t.win j = e.win j
      let at_ (e : State) (o : Nat) : Nat := 0x10000000 + (e.win w).base + o % (e.win w).len
      (∀ n, Acts (.cwWrAdvance dt w n) dt (fun e => n ≤ free e) (fun e t =>
            t.win w = { e.win w with wr := ((e.win w).wr + n) % max 1 (e.win w).len, level := (e.win w).level + n } ∧ others e t ∧ OnlyChanges [.mm] e t) ∧
        Acts (.cwWrAdvance dt w n) dt (fun e => free e < n) (fun e t => t.win w = { e.win w with ovf := true } ∧ others e t ∧ log e t w 1 (e.win w).ovf ∧
          OnlyChanges reportTouches e t) ∧
        Acts (.cwRdAdvance dt w n) dt (fun e => n ≤ (e.win w).level) (fun e t =>
            t.win w = { e.win w with rd := ((e.win w).rd + n) % max 1 (e.win w).len, level := (e.win w).level - n } ∧ others e t ∧ OnlyChanges [.mm] e t) ∧
        Acts (.cwRdAdvance dt w n) dt (fun e => (e.win w).level < n) (fun e t => t.win w = { e.win w with unf := true } ∧ others e t ∧
          log e t w 2 (e.win w).unf ∧ OnlyChanges reportTouches e t)) ∧
      (∀ (o : Nat) (data : List Nat), o < 1024 → data.length ≤ 4 →
        Acts (.cwProducerWrite dt w o data) dt (fun e => o < free e ∧ 4 ≤ (e.win w).len) (fun e t =>
          (∀ i, i < data.length → t.rd8 (at_ e ((e.win w).wr + o + i)) = data.getD i 0 % 256) ∧
          (∀ x, (∀ i, i < data.length → x ≠ at_ e ((e.win w).wr + o + i)) → t.rd8 x = e.rd8 x) ∧ OnlyChanges [.mem] e t) ∧
        Acts (.cwProducerWrite dt w o data) dt (fun e => free e ≤ o) (fun e t => t.win w = { e.win w with ovf := true } ∧ others e t ∧
          log e t w 1 (e.win w).ovf ∧ OnlyChanges reportTouches e t)) ∧
      (∀ (o n : Nat), o < 1024 → n ≤ 4 →
        Acts (.cwConsumerRead dt w o n) dt (fun e => o < (e.win w).level) (fun e t =>
          last 0 t = ofLe ((List.range n).map fun i => e.rd8 (at_ e ((e.win w).rd + o + i))) ∧ OnlyChanges [.mm] e t) ∧
        Acts (.cwConsumerRead dt w o n) dt (fun e => (e.win w).level ≤ o) (fun e t => last 0 t = 0 ∧ t.win w = { e.win w with unf := true } ∧ others e t ∧
          log e t w 2 (e.win w).unf ∧ OnlyChanges reportTouches e t)) ∧
      ∀ v, Acts (.cwStatusWrite dt w v) dt (fun _ => True) (fun e t => let c := e.win w
        let ovf := c.ovf && !v.testBit 30
        let unf := c.unf && !v.testBit 29
        t.win w = (if v.testBit 31 = true ∧ c.enable = false then { c with enable := true, wr := 0, rd := 0, level := 0, ovf := ovf, unf := unf }
          else { c with enable := v.testBit 31, ovf := ovf, unf := unf }) ∧ others e t ∧ OnlyChanges [.mm] e t)

/-- R391, R628 to R631, R644, R647: frames that a port discards or takes, ARP and ICMP with their budget of 100 answers per second, link changes and
the counting records. -/
def Obligations.EthernetPorts : Prop :=
  (∀ (l : Link) (version flags session seq opcode target : Nat) (payload : List Nat), version < 256 → flags < 256 → flags % 2 = 0 → session < 2 ^ 16 →
    seq < 2 ^ 32 → opcode < 2 ^ 16 → target < 2 ^ 16 → payload.length < 2 ^ 16 → (∀ b ∈ payload, b < 256) →
    let body := le 2 0x5A57 ++ [version, flags] ++ le 2 session ++ le 4 seq ++ le 2 opcode ++ le 2 payload.length ++ le 2 target ++ payload
    parsePacket l (body ++ le 4 (crc32c body)) = Packet.mk l true true true version flags session seq opcode target payload [] false) ∧
  (∀ dt (f : EthFrame),
    let p := f.port
    let w := Instr.ethernetFrameRx dt f
    let own : Prop := f.destMac = (Config.baseMac + p) % 2 ^ 48 ∨ f.destMac = 0xFFFFFFFFFFFF
    let bare (e : State) : Prop := f.vlan = none ∧ e.parN P.ETH_VLAN p = 0
    let whole (e : State) : Prop := e.portRuns p = true ∧ f.fcsOk = true ∧ own ∧ bare e ∧ f.payload.length ≤ 1500
    let others (e t : State) : Prop := (∀ j, j ≠ p → t.port j = e.port j) ∧ OnlyChanges [.eth] e t
    Idles w dt (fun e => e.portRuns p = false) ∧
    Acts w dt (fun e => e.portRuns p = true ∧ f.fcsOk = false) (fun e t => t.port p = { e.port p with fcsErrors := (e.port p).fcsErrors + 1 } ∧ others e t) ∧
    Acts w dt (fun e => e.portRuns p = true ∧ f.fcsOk = true ∧ ((¬ own ∧ e.parN P.ETH_PTP_MODE p ≠ 1) ∨ (f.vlan = none ∧ e.parN P.ETH_VLAN p ≠ 0) ∨
        (∃ v, f.vlan = some v ∧ e.parN P.ETH_VLAN p ≠ 0 ∧ e.parN P.ETH_VLAN p ≠ v)))
      (fun e t => t.port p = { e.port p with discarded := (e.port p).discarded + 1 } ∧ others e t) ∧
    Idles w dt (fun e => whole e ∧ f.etherType ≠ 0x0806 ∧ (f.etherType = 0x0800 → e.udpData p f.payload = none)) ∧
    (∀ ip port data, Acts w dt (fun e => whole e ∧ f.etherType = 0x0800 ∧ e.udpData p f.payload = some (ip, port, data))
      (fun e t => t = resetWhenDue (receive (parsePacket (.udp p ip port) data) e))) ∧
    (∀ (s : State) (mac ip tgt : Nat), mac < 2 ^ 48 → ip < 2 ^ 32 → tgt < 2 ^ 32 → whole (s.elapse dt) → f.etherType = 0x0806 → ∀ (hw : List Nat), hw.length = 6 →
      f.payload = [0, 1, 8, 0, 6, 4, 0, 1] ++ be 6 mac ++ be 4 ip ++ hw ++ be 4 tgt → exec w s = exec (.arpRequestRx dt p mac ip tgt) s)) ∧
  (∀ dt p mac ip tgt,
    let mine (e : State) : Nat := e.parN P.ETH_IP p
    let runs (e : State) : Prop := e.portRuns p = true ∧ mine e ≠ 0
    let fresh (e : State) : Prop := (e.port p).answersFrom + cyclesPerS ≤ e.tm.now
    let may (e : State) : Prop := fresh e ∨ (e.port p).answers < 100
    let counted (e t : State) : Prop := (t.port p).answers = (if (e.port p).answersFrom + cyclesPerS ≤ e.tm.now then 1 else (e.port p).answers + 1)
    let asked (e : State) : Prop := runs e ∧ tgt = mine e ∧ ip ≠ 0 ∧ ip ≠ mine e
    let waits (e : State) : List Sent := ((e.port p).waits.filter fun w => decide (w.ip = ip)).map fun w => .udp p w.destIp w.destPort w.bytes
    let learned (e t : State) : Prop := (t.port p).resolve e.tm.now ip = some mac ∧ (t.port p).waits = (e.port p).waits.filter (fun w => decide (w.ip ≠ ip)) ∧
      ∀ j, j ≠ p → t.port j = e.port j
    Idles (.arpRequestRx dt p mac ip tgt) dt (fun e => ¬ runs e ∨ (tgt ≠ mine e ∧ ip ≠ mine e)) ∧
    Acts (.arpRequestRx dt p mac ip tgt) dt (fun e => runs e ∧ tgt ≠ mine e ∧ ip = mine e ∧ mac ≠ portMac p)
      (fun e t => e.Tells t [(0xB, 2, 4, b1 p ++ le 6 mac)] ∧ OnlyChanges reportTouches e t) ∧
    Acts (.arpRequestRx dt p mac ip tgt) dt (fun e => asked e ∧ may e)
      (fun e t => t.sent = e.sent ++ waits e ++ [.arp p false mac ip] ∧ learned e t ∧ counted e t ∧ OnlyChanges [.eth, .sent] e t) ∧
    Acts (.arpRequestRx dt p mac ip tgt) dt (fun e => asked e ∧ ¬ may e)
      (fun e t => t.sent = e.sent ++ waits e ∧ learned e t ∧ (t.port p).answers = (e.port p).answers ∧ OnlyChanges [.eth, .sent] e t) ∧
    Acts (.arpResolveFail dt p ip) dt (fun _ => True) (fun e t => (t.port p).waits = (e.port p).waits.filter (fun w =>
      !decide (w.ip = ip ∧ w.since + 3 * cyclesPerS ≤ e.tm.now)) ∧ (t.port p).arp = (e.port p).arp ∧ (∀ j, j ≠ p → t.port j = e.port j) ∧ OnlyChanges [.eth] e t) ∧
    Acts (.arpCacheEntryExpired dt p ip) dt (fun _ => True) (fun e t => (∀ x ∈ (t.port p).arp, x.ip = ip → e.tm.now < x.expires) ∧
      (∀ x ∈ (e.port p).arp, x.ip ≠ ip → x ∈ (t.port p).arp) ∧ (t.port p).waits = (e.port p).waits ∧ (∀ j, j ≠ p → t.port j = e.port j) ∧ OnlyChanges [.eth] e t) ∧
    ∀ data, let echo := Instr.icmpEcho dt p mac ip data
      let on (e : State) : Prop := runs e ∧ e.parN P.ETH_ICMP 0 ≠ 0
      Idles echo dt (fun e => ¬ on e ∨ ¬ may e) ∧
      Acts echo dt (fun e => on e ∧ may e) (fun e t => t.sent = e.sent ++ [.icmp p mac ip data] ∧ counted e t ∧ OnlyChanges [.eth, .sent] e t)) ∧
  (∀ dt p speed duplex,
    let rises (e : State) : Prop := p < 2 ∧ (e.port p).up = false ∧ e.clocked = true ∧ e.parN P.ETH_ENABLE p ≠ 0
    Idles (.linkUp dt p speed duplex) dt (fun e => ¬ rises e) ∧
    Acts (.linkUp dt p speed duplex) dt (fun e => rises e ∧ e.parN P.ETH_PTP_MODE p ≠ 1) (fun e t => t.port p = { e.port p with up := true, speed := speed, duplex := duplex } ∧
      (∀ j, j ≠ p → t.port j = e.port j) ∧ e.Tells t [(0xB, 1, 1, b1 p ++ b1 speed ++ b1 duplex)] ∧ OnlyChanges (.eth :: reportTouches) e t) ∧
    Idles (.linkDown dt p) dt (fun e => ¬ (p < 2 ∧ (e.port p).up = true)) ∧
    Acts (.linkDown dt p) dt (fun e => p < 2 ∧ (e.port p).up = true) (fun e t => (t.port p).up = false ∧ (t.port p).waits = [] ∧ (t.port p).best = none ∧
      (t.port p).ptpState = 1 ∧ (∃ l, e.Tells t ((0xB, 2, 2, b1 p) :: l)) ∧ OnlyChanges (.eth :: reportTouches) e t)) ∧
  ∀ dt,
    let early (e : State) : Prop := ∃ n, e.hp.countedAt = some n ∧ e.tm.now < n + cyclesPerS
    Idles (.countingRecord dt) dt (fun e => early e ∨ e.clocked = false) ∧
    Acts (.countingRecord dt) dt (fun e => ¬ early e ∧ e.clocked = true) (fun e t => (∀ k, t.hp.errors.getD k 0 = 0) ∧ t.hp.countedAt = some e.tm.now ∧
      (∀ p, p < 2 → (t.port p).fcsErrors = 0 ∧ (t.port p).discarded = 0) ∧ (∀ n, n < 4 → (t.ctl n).rxLostTold = (e.ctl n).rxLost) ∧
      e.Tells t ((if e.hp.errors.any (fun n => decide (n ≠ 0)) then [(0xA, 1, 1, e.hp.errors.flatMap fun n => b2 (satN 16 n))] else []) ++
        ((List.range 2).flatMap fun p => if (e.port p).fcsErrors = 0 ∧ (e.port p).discarded = 0 then []
          else [(0xB, 1, 8, b1 p ++ b4 (e.port p).fcsErrors ++ b4 (e.port p).discarded)]) ++
        (List.range 4).flatMap fun n => if (e.ctl n).rxLost = (e.ctl n).rxLostTold then [] else [(0xC, 2, 5, b1 n ++ b4 (e.ctl n).rxLost)]) ∧
      OnlyChanges (.eth :: .can :: reportTouches) e t)

/-- R633 to R635, R639 to R641: PTP messages, of a master that the port follows and of requesters, with the PHY's delays; the messages of a master and
of the delay mechanism; Announce and its timeout on a port that runs PTP alone; the setpoint frame of drive exchange and the replies. That a master is
known by its source identity, and the module's own data set beyond R634, are the model's (notes/assumptions/51.md). -/
def Obligations.PtpAndDriveExchange : Prop :=
  (∀ dt p (m : PtpMsg),
    let w := Instr.ptpMessage dt p m
    let mine (e : State) : Prop := e.ptpRuns p = true ∧ m.domain = e.parN P.ETH_PTP_DOMAIN 0
    let slave (e : State) : Prop := mine e ∧ ((e.port p).ptpState = 8 ∨ (e.port p).ptpState = 9) ∧ ∃ r, (e.port p).best = some (r, m.source)
    let p2p (e : State) : Prop := e.parN P.ETH_PTP_DELAY 0 = 1
    let rx (e : State) : Int := (e.nsBack m.back : Int) - (if (e.port p).speed = 3 then 216 else if (e.port p).speed = 2 then 296 else 2400)
    let tx (e : State) : Nat := e.ns + (if (e.port p).speed = 3 then 152 else if (e.port p).speed = 2 then 248 else 1200)
    let asked : Prop := m.requester / 2 ^ 16 = clockIdentity
    let others (e t : State) : Prop := (∀ j, j ≠ p → t.port j = e.port j) ∧ OnlyChanges [.eth] e t
    let measures (o : Int) (e t : State) : Prop := ∃ u, exec (.timeMeasurement 0 1 (o - (e.port p).pathDelay)) u = .next t ∧
      (u.port p).syncDiff = some o ∧ (u.port p).ptpState = 9 ∧ (u.port p).best = (e.port p).best ∧ (∀ j, j ≠ p → u.port j = e.port j) ∧
      ((e.port p).ptpState = 9 → OnlyChanges [.eth] e u) ∧
      ((e.port p).ptpState = 8 → e.Tells u [(0xB, 1, 3, b1 p ++ b1 9 ++ le 8 (e.port p).grandmaster)] ∧ OnlyChanges (.eth :: reportTouches) e u)
    Idles w dt (fun e => ¬ mine e) ∧
    Idles w dt (fun e => (m.type = .sync ∨ m.type = .followUp ∨ m.type = .delayResp) ∧ ¬ slave e) ∧
    Acts w dt (fun e => m.type = .sync ∧ m.twoStep = false ∧ slave e) (fun e t => measures (rx e - m.stamp - m.correction) e t) ∧
    Acts w dt (fun e => m.type = .sync ∧ m.twoStep = true ∧ slave e)
      (fun e t => (t.port p).syncRx = some (m.seq, (rx e - m.correction).toNat) ∧ (t.port p).best = (e.port p).best ∧ others e t) ∧
    (∀ r : Nat, Acts w dt (fun e => m.type = .followUp ∧ (e.port p).syncRx = some (m.seq, r) ∧ slave e)
      (fun e t => measures ((r : Int) - m.stamp - m.correction) e t)) ∧
    Acts w dt (fun e => m.type = .delayReq ∧ mine e ∧ ¬ p2p e ∧ (e.port p).ptpState = 6)
      (fun e t => t.sent = e.sent ++ [.ptp p 9 (rx e).toNat] ∧ OnlyChanges [.sent] e t) ∧
    (∀ (t3 : Nat) (d : Int), Acts w dt (fun e => m.type = .delayResp ∧ slave e ∧ ¬ p2p e ∧ asked ∧ (e.port p).delayTx = some (m.seq, t3) ∧
        (e.port p).syncDiff = some d)
      (fun e t => (t.port p).pathDelay = (d + ((m.stamp : Int) - m.correction - t3)) / 2 ∧ (t.port p).delayTx = none ∧ others e t)) ∧
    Acts w dt (fun e => m.type = .pdelayReq ∧ mine e ∧ p2p e)
      (fun e t => t.sent = e.sent ++ [.ptp p 3 (rx e).toNat, .ptp p 0xA (tx e)] ∧ OnlyChanges [.sent] e t) ∧
    (∀ (t1 : Nat), Acts w dt (fun e => m.type = .pdelayResp ∧ mine e ∧ p2p e ∧ asked ∧ (e.port p).delayTx = some (m.seq, t1))
      (fun e t => (t.port p).delayTx = none ∧ others e t ∧ (m.twoStep = false → (t.port p).pathDelay = (rx e - t1 - m.correction) / 2) ∧
        (m.twoStep = true → (t.port p).pdelayRx = some (m.seq, rx e - t1 + m.stamp - m.correction)))) ∧
    (∀ (x : Int), Acts w dt (fun e => m.type = .pdelayRespFollowUp ∧ mine e ∧ p2p e ∧ asked ∧ (e.port p).pdelayRx = some (m.seq, x))
      (fun e t => (t.port p).pathDelay = (x - m.stamp - m.correction) / 2 ∧ (t.port p).pdelayRx = none ∧ others e t)) ∧
    Idles w dt (fun _ => m.type = .announce ∧ m.source / 2 ^ 16 = clockIdentity) ∧
    (∀ p1 cls acc var p2 gm steps, p1 < 256 → cls < 256 → acc < 256 → var < 2 ^ 16 → p2 < 256 → gm < 2 ^ 64 → steps < 2 ^ 16 →
      m.dataset = [p1, cls, acc, var, p2, gm, steps] → m.type = .announce → m.source / 2 ^ 16 ≠ clockIdentity →
      ∀ st g, Acts w dt (fun e => mine e ∧ (∀ j, j ≠ p → e.ptpRuns j = false) ∧ ((e.port p).best = none ∨ ∃ r, (e.port p).best = some (r, m.source)) ∧
          (e.port p).ptpState ≠ 8 ∧ (e.port p).ptpState ≠ 9 ∧ (e.port p).ptpState ≠ st ∧ e.parN P.ETH_PTP_PRIO1 0 < 256 ∧
          ((p1 < e.parN P.ETH_PTP_PRIO1 0 ∧ st = 8 ∧ g = gm) ∨ (e.parN P.ETH_PTP_SLAVE_ONLY 0 = 1 ∧ st = 8 ∧ g = gm) ∨
            (e.parN P.ETH_PTP_PRIO1 0 < p1 ∧ e.parN P.ETH_PTP_SLAVE_ONLY 0 ≠ 1 ∧ st = 6 ∧ g = clockIdentity)))
        (fun e t => (t.port p).ptpState = st ∧ (t.port p).grandmaster = g ∧ (∃ r, (t.port p).best = some (r, m.source)) ∧
          e.Tells t [(0xB, 1, 3, b1 p ++ b1 st ++ le 8 g)] ∧ (∀ j, j ≠ p → t.port j = e.port j) ∧ OnlyChanges (.eth :: reportTouches) e t))) ∧
  (∀ dt p st g, Acts (.ptpAnnounceTimeout dt p) dt (fun e => e.ptpRuns p = true ∧ (∀ j, j ≠ p → e.ptpRuns j = false) ∧ (e.port p).ptpState ≠ st ∧
      ((e.parN P.ETH_PTP_SLAVE_ONLY 0 = 1 ∧ st = 4 ∧ g = 0) ∨ (e.parN P.ETH_PTP_SLAVE_ONLY 0 ≠ 1 ∧ st = 6 ∧ g = clockIdentity)))
    (fun e t => (t.port p).ptpState = st ∧ (t.port p).grandmaster = g ∧ (t.port p).best = none ∧ e.Tells t [(0xB, 1, 3, b1 p ++ b1 st ++ le 8 g)] ∧
      (∀ j, j ≠ p → t.port j = e.port j) ∧ OnlyChanges (.eth :: reportTouches) e t)) ∧
  (∀ dt p announce,
    let due (e : State) : Prop := e.ptpRuns p = true ∧ (e.port p).ptpState = 6
    let tx (e : State) : Nat := e.ns + (if (e.port p).speed = 3 then 152 else if (e.port p).speed = 2 then 248 else 1200)
    Idles (.ptpMasterSend dt p announce) dt (fun e => ¬ due e) ∧ Idles (.ptpAnnounceTimeout dt p) dt (fun e => e.ptpRuns p = false) ∧
    Acts (.ptpMasterSend dt p announce) dt due (fun e t => (∀ j, j ≠ p → t.port j = e.port j) ∧ OnlyChanges [.eth, .sent] e t ∧
      (announce = true → t.sent = e.sent ++ [.ptp p 0xB e.ns] ∧ (t.port p).announceSeq = ((e.port p).announceSeq + 1) % 65536) ∧
      (announce = false → t.sent = e.sent ++ [.ptp p 0 (tx e)] ++ (if e.parN P.ETH_PTP_STEP 0 = 0 then [.ptp p 8 (tx e)] else []) ∧
        (t.port p).syncSeq = ((e.port p).syncSeq + 1) % 65536)) ∧
    let asks (e : State) : Prop := e.ptpRuns p = true ∧ (e.parN P.ETH_PTP_DELAY 0 = 1 ∨ (e.port p).ptpState = 8 ∨ (e.port p).ptpState = 9)
    Idles (.ptpDelayReqSend dt p) dt (fun e => ¬ asks e) ∧
    Acts (.ptpDelayReqSend dt p) dt asks (fun e t => t.sent = e.sent ++ [.ptp p (if e.parN P.ETH_PTP_DELAY 0 = 1 then 2 else 1) (tx e)] ∧
      (t.port p).delayTx = some ((e.port p).delaySeq, tx e) ∧ (t.port p).delaySeq = ((e.port p).delaySeq + 1) % 65536 ∧
      (∀ j, j ≠ p → t.port j = e.port j) ∧ OnlyChanges [.eth, .sent] e t)) ∧
  (∀ dt late,
    let port (e : State) : Nat := e.parN P.ETH_DX_PORT 0
    let due (e : State) : Prop := e.framesRun = true ∧ e.dxAxes ≠ [] ∧ port e < 2
    Idles (.dxSetpointSend dt late) dt (fun e => ¬ due e) ∧
    Acts (.dxSetpointSend dt late) dt due (fun e t =>
      let as := e.dxAxes.take 40
      let entry (a : Nat) : List Nat := [e.parN P.AX_REMOTE_NODE a, (e.setpoint a).1, 0, 0] ++ leI 8 ((e.axis a).pcmd - (e.axis a).offset) ++
        leI 4 (e.setpoint a).2.2
      let body := [1, 1] ++ le 2 e.dx.cycle ++ stampBytes (e.nextValley (as.headD 0)) ++ [as.length, b2n e.tm.coarse] ++ as.flatMap entry
      let bs := body ++ le 4 (crc32c body)
      (late = true → t.sent = e.sent ∧ e.Tells t [(0xB, 3, 6, b2 e.dx.cycle ++ b4 e.rg.frame)] ∧ OnlyChanges (.ax :: .dx :: reportTouches) e t) ∧
      (late = false → OnlyChanges [.ax, .dx, .sent] e t ∧ t.sent = e.sent ++ (if e.portRuns (port e) = true then
        [.eth (port e) (0x015A57445800 + e.parN P.ETH_DX_DOMAIN 0) 0x88B5 (padTo (max 46 bs.length) bs)] else [])) ∧
      t.dx.cycle = (e.dx.cycle + 1) % 65536 ∧ t.dx.replied = [] ∧ (∀ a, a ∉ as → t.axis a = e.axis a) ∧
      ∀ a ∈ as, (t.axis a).sentFrame = some e.rg.frame ∧ (t.axis a).sentPos.head? = some (e.dx.cycle, (e.axis a).pcmd - (e.axis a).offset) ∧
        (t.axis a).pos = (e.axis a).pos)) ∧
  ∀ dt cyc node st err (pos vel torque : Int), cyc < 2 ^ 16 → node < 256 → st < 256 → err < 2 ^ 16 → Fits 64 pos → Fits 32 vel → Fits 32 torque →
    let body := [1, 2] ++ le 2 cyc ++ [node, st] ++ le 2 err ++ leI 8 pos ++ leI 4 vel ++ leI 4 torque
    let bad (e : State) (bs : List Nat) : Prop := e.portRuns (e.parN P.ETH_DX_PORT 0) = false ∨ bs.length < 28 ∨ fld bs 24 4 ≠ crc32c (bs.take 24) ∨
      (fld bs 2 2 + 1) % 65536 ≠ e.dx.cycle ∨ fld bs 4 1 ∈ e.dx.replied ∨
      ∀ a, a < e.axes → e.axisType a = 1 → e.parN P.AX_REMOTE_LINK a = 0 → e.parN P.AX_REMOTE_NODE a ≠ fld bs 4 1
    (∀ bs, (∀ b ∈ bs, b < 256) → Idles (.dxReply dt bs) dt (fun e => bad e bs)) ∧
    ∀ a pad, Acts (.dxReply dt (body ++ le 4 (crc32c body) ++ pad)) dt (fun e => e.portRuns (e.parN P.ETH_DX_PORT 0) = true ∧
        (cyc + 1) % 65536 = e.dx.cycle ∧ node ∉ e.dx.replied ∧ a < e.axes ∧ e.axisType a = 1 ∧ e.parN P.AX_REMOTE_LINK a = 0 ∧
        e.parN P.AX_REMOTE_NODE a = node ∧ (∀ j, j < a → e.axisType j = 1 → e.parN P.AX_REMOTE_LINK j = 0 → e.parN P.AX_REMOTE_NODE j ≠ node) ∧
        e.replyInTime a = true ∧ e.inPP a = false ∧ (e.axis a).enabling = none)
      (fun e t => (t.axis a).pos = pos + (e.axis a).offset ∧ (t.axis a).vel = vel ∧ (t.axis a).misses = 0 ∧ (t.axis a).remoteOn = st.testBit 0 ∧
        (t.axis a).driveFault = st.testBit 1 ∧ (t.axis a).driveCode = err ∧ (t.axis a).sentFrame = none ∧
        (∀ q, (e.axis a).sentPos.find? (fun y => decide (y.1 = (cyc + 65535) % 65536)) = some q → (t.axis a).remoteErr = q.2 - pos) ∧
        (∀ j, j ≠ a → t.axis j = e.axis j) ∧ t.dx.replied = e.dx.replied ++ [node] ∧ t.dx.cycle = e.dx.cycle ∧ OnlyChanges [.ax, .dx] e t)

/-- R654 to R656, R665 to R670: CAN_SEND with its refusals and the buffer in its reply data, CAN_CANCEL before and during transmission, the end of a
transmission sent, lost or in error, bus-off and its recovery, the timeout of a pending frame and the time mark of a TT frame. The lengths and buffers
beyond R667 that are PARAM_RANGE, and the codes of CAN_CANCEL of the firmware's buffers, are readings of the model (notes/assumptions/50.md). -/
def Obligations.CanTransmission : Prop :=
  let tx (n k : Nat) (s : State) : TxBuf := Store.read {} (s.ctl n).tx k
  let ends (e t : State) (k st dt : Nat) (data : List Nat) (ns : Nat) : Prop := t.runningCmd k = none ∧ ((e.runningCmd k).isSome = true →
    ∃ d ∈ t.jn.done, d.slot = k ∧ d.outcome = 2 ∧ d.status = st ∧ d.detail = dt ∧ d.data = data ∧ d.ns = ns)
  let others (n : Nat) (e t : State) : Prop := ∀ j, j ≠ n → t.ctl j = e.ctl j
  (∀ (h : Hdr) (r : CanSendReq), r.buffer < 256 → r.flags < 256 → r.ident < 2 ^ 32 → r.length < 256 → r.ttMask < 256 → r.ttMark < 2 ^ 16 → r.timeout < 2 ^ 16 →
      (∀ b ∈ r.data, b < 256) →
    let n (c : Cmd) : Nat := c.target % 4096
    let runs (c : Cmd) (b : State) : Prop := (b.ctl (n c)).state ≠ .off ∧ (b.ctl (n c)).state ≠ .sleep
    let open_ (c : Cmd) (b : State) (k : Nat) : Prop := 8 ≤ k ∧ k < 32 ∧ (tx (n c) k b).state = .free
    let takes (c : Cmd) (b : State) (k : Nat) : Prop := open_ c b k ∧ (r.buffer = k ∨ (r.buffer = 0xFF ∧ ∀ j, j < k → ¬ open_ c b j))
    let legal (c : Cmd) (b : State) : Prop := r.length ∈ [0, 1, 2, 3, 4, 5, 6, 7, 8, 12, 16, 20, 24, 32, 48, 64] ∧ r.data.length = r.length ∧
      (r.flags.testBit 0 = false → r.length ≤ 8) ∧ (r.flags.testBit 0 = true ∨ r.flags.testBit 1 = true → b.parN P.CAN_MODE (n c) ≠ 0) ∧
      (r.flags.testBit 3 = true → b.parN P.CAN_TT_ROLE (n c) ≠ 0)
    Runs (.canSend h r) (fun c b => ¬ runs c b) (fun c b t => b.Refuses t c 0x300) ∧
    Runs (.canSend h r) (fun c b => runs c b ∧ (r.buffer = 0xFF ∨ (8 ≤ r.buffer ∧ r.buffer < 32)) ∧ ∀ k, ¬ takes c b k) (fun c b t => b.Refuses t c 0x301) ∧
    Runs (.canSend h r) (fun c b => runs c b ∧ r.buffer ≠ 0xFF ∧ ¬ (8 ≤ r.buffer ∧ r.buffer < 32)) (fun c b t => b.Refuses t c 0x201) ∧
    ∀ k, Runs (.canSend h r) (fun c b => runs c b ∧ takes c b k ∧ ¬ legal c b) (fun c b t => b.Refuses t c 0x201) ∧
      Runs (.canSend h r) (fun c b => runs c b ∧ takes c b k ∧ legal c b ∧ ∀ x ∈ (b.ctl (n c)).tx, x.2.slot ≠ some c.slot) (fun c b t => t.InProgress c ∧
        (∃ u : State, t = u.deliver c.link c.session c.seq (u.modulePacket c.session c.seq c.opcode c.target 0 (replyBlock 2 1 0 (some c.accept) none ++ [k]))) ∧
        (let y := tx (n c) k t
        y.state ≠ .free ∧ y.slot = some c.slot ∧ y.cancels = [] ∧ y.ident = r.ident % (if r.flags.testBit 2 then 2 ^ 29 else 2 ^ 11) ∧ y.ext = r.flags.testBit 2 ∧
        y.fd = r.flags.testBit 0 ∧ y.brs = r.flags.testBit 1 ∧ y.tt = (if r.flags.testBit 3 then some (r.ttMask, r.ttMark) else none) ∧ y.data = r.data ∧
        y.deadline = (if r.timeout = 0 then none else some (b.tm.now + r.timeout * cyclesPerMs)) ∧ (r.flags.testBit 3 = true → Store.wf {} (b.ctl (n c)).tx = true → y.state = .pending) ∧
        ((b.ctl (n c)).state = .active → r.flags.testBit 3 = false → (∀ x ∈ (b.ctl (n c)).tx, x.2.state = .free) → y.state = .sending ∧ y.sof = b.ns)) ∧
        OnlyChanges (.can :: linkTouches) b t)) ∧
  (∀ (h : Hdr) (k : Nat), k < 256 →
    let y (c : Cmd) (b : State) : TxBuf := tx (c.target % 4096) k b
    let w := Instr.canCancel h k
    Runs w (fun c b => (y c b).state = .free) (fun c b t => t.Reports c 2 0 0 [] ∧ (c.link = .host → t.can = b.can) ∧ OnlyChanges replyTouches b t) ∧
    Runs w (fun c b => (y c b).state ≠ .free ∧ k < 8) (fun c b t => b.Refuses t c 0x201) ∧
    (∀ k', Runs w (fun c b => (y c b).state = .pending ∧ 8 ≤ k ∧ (y c b).slot = some k' ∧ k' ≠ c.slot ∧ ∀ x ∈ (b.ctl (c.target % 4096)).backlog, x.1 ≠ k)
      (fun c b t => t.Reports c 2 0 0 [] ∧ ends b t k' 0x11 0 [k] b.ns ∧ (y c t).state = .free ∧ OnlyChanges replyTouches b t)) ∧
    Runs w (fun c b => (y c b).state = .sending ∧ 8 ≤ k)
      (fun c b t => t.InProgress c ∧ y c t = { y c b with cancels := (y c b).cancels ++ [c.slot] } ∧ OnlyChanges linkTouches b t)) ∧
  (∀ dt n k result tec rec_,
    let w := Instr.canFrameTxDone dt n k result tec rec_
    let goes (e : State) : Prop := (e.ctl n).state = .active ∧ (tx n k e).state = .sending
    let passes (e : State) : List (Nat × Nat × Nat × List Nat) := if decide (128 ≤ tec ∨ 128 ≤ rec_) = (e.ctl n).passive then [] else
      [(0xC, 1, 1, b1 n ++ b1 (if 128 ≤ tec ∨ 128 ≤ rec_ then 1 else 0) ++ b1 (satN 8 tec) ++ b1 (satN 8 rec_))]
    let late (e t : State) (how : Nat) : Prop := ∀ j ∈ (tx n k e).cancels, (tx n k e).slot ≠ some j → ends e t j 0x702 0 (how :: stampBytes (tx n k e).sof) e.ns
    let same (e t : State) : Prop := ∃ st, tx n k t = { tx n k e with state := st, sof := (tx n k t).sof }
    Idles w dt (fun e => ¬ goes e) ∧
    Acts w dt (fun e => goes e ∧ result = 0) (fun e t =>
      t.sent = e.sent ++ [.can n (tx n k e).ident (tx n k e).ext (tx n k e).fd (tx n k e).brs (tx n k e).data] ∧ late e t 1 ∧ others n e t ∧
      (∀ j, (tx n k e).slot = some j → ends e t j 0 0 [k] (tx n k e).sof) ∧ (k = 1 → (t.ctl n).ttSentNs = some (tx n k e).sof) ∧
      ((∀ x ∈ (e.ctl n).backlog, x.1 ≠ k) → tx n k t = {}) ∧ e.Tells t (passes e) ∧ OnlyChanges (.jn :: .can :: .sent :: reportTouches) e t) ∧
    Acts w dt (fun e => goes e ∧ (result = 1 ∨ (result = 2 ∧ tec ≤ 255)) ∧ (tx n k e).cancels ≠ []) (fun e t => late e t 2 ∧ others n e t ∧
      (∀ j, (tx n k e).slot = some j → ends e t j 0x11 0 [k] e.ns) ∧ ((∀ x ∈ (e.ctl n).backlog, x.1 ≠ k) → tx n k t = {}) ∧ e.Tells t (passes e) ∧
      OnlyChanges (.jn :: .can :: reportTouches) e t) ∧
    Acts w dt (fun e => goes e ∧ (result = 1 ∨ (result = 2 ∧ tec ≤ 255)) ∧ (tx n k e).cancels = []) (fun e t => same e t ∧ (tx n k t).state ≠ .free ∧
      ((tx n k e).tt ≠ none → Store.wf {} (e.ctl n).tx = true → (tx n k t).state = .pending) ∧ others n e t ∧ e.Tells t (passes e) ∧ OnlyChanges (.can :: reportTouches) e t) ∧
    ∀ m, let count (e : State) : Nat := ((e.ctl n).busOffs.filter fun x => decide (e.tm.now < x + 60 * cyclesPerS)).length + 1
      let fails (e : State) : Prop := goes e ∧ result = 2 ∧ 255 < tec ∧ (tx n k e).cancels = [] ∧ m = e.parN P.CAN_BUSOFF_MAX n
      Acts w dt (fun e => fails e ∧ (m = 0 ∨ count e < m)) (fun e t => (t.ctl n).state = .busOff ∧ same e t ∧ (tx n k t).state = .pending ∧ others n e t ∧
        e.Tells t (passes e ++ [(0xC, 2, 2, b1 n ++ b1 (satN 8 (count e)))]) ∧ OnlyChanges (.can :: reportTouches) e t) ∧
      Acts w dt (fun e => fails e ∧ m ≠ 0 ∧ m ≤ count e ∧ Store.wf {} (e.ctl n).tx = true ∧
          (∀ x ∈ (e.ctl n).tx ++ (e.ctl n).backlog, x.2.cancels = [])) (fun e t => (t.ctl n).state = .off ∧ (t.ctl n).tx = [] ∧ (t.ctl n).backlog = [] ∧
        (∀ x ∈ (e.ctl n).tx, x.2.state ≠ .free → ∀ j, x.2.slot = some j → e.Ends t j 0x700) ∧ others n e t ∧
        e.Tells t (passes e ++ [(0xC, 2, 2, b1 n ++ b1 (satN 8 (count e))),
          (0xC, 3, 4, b1 n ++ b1 (((e.ctl n).tx.filter fun x => decide (x.2.state ≠ .free)).length + (e.ctl n).backlog.length))]) ∧
        OnlyChanges (.jn :: .can :: reportTouches) e t)) ∧
  ∀ dt n k,
    let due (e : State) (d j : Nat) : Prop := (tx n k e).state = .pending ∧ (tx n k e).deadline = some d ∧ (tx n k e).slot = some j ∧ d ≤ e.tm.now
    (Idles (.canSendTimeout dt n k) dt (fun e => ∀ d j, ¬ due e d j) ∧
    ∀ d j, Acts (.canSendTimeout dt n k) dt (fun e => due e d j ∧ ∀ x ∈ (e.ctl n).backlog, x.1 ≠ k) (fun e t => ends e t j 0x700 1 [k] e.ns ∧ tx n k t = {} ∧ others n e t ∧
      OnlyChanges [.jn, .can] e t)) ∧
    (∀ idle, let w := Instr.canTtTimeMark dt n k idle
      let matches_ (e : State) (mask : Nat) : Prop := (if e.parN P.CAN_TT_ROLE n = 1 then ((e.ctl n).ttCount + 63) % 64 else
        match (e.ctl n).ttLast with | some x => x.1 | none => 0) &&& mask = 0
      let enters (e : State) : Prop := ∃ mask mark, (tx n k e).state = .pending ∧ (tx n k e).tt = some (mask, mark) ∧ matches_ e mask ∧ idle = true ∧ (e.ctl n).state = .active ∧
        ∀ x ∈ (e.ctl n).tx, x.2.state ≠ .sending
      Idles w dt (fun e => ¬ enters e) ∧ Acts w dt enters (fun e t => tx n k t = { tx n k e with state := .sending, sof := e.ns } ∧ (∀ j, j ≠ k → tx n j t = tx n j e) ∧
        others n e t ∧ OnlyChanges [.can] e t)) ∧
    Idles (.canRecovered dt n) dt (fun e => (e.ctl n).state ≠ .busOff) ∧
    ∀ from_ l, Acts (.canRecovered dt n) dt (fun e => (e.ctl n).state = .busOff ∧ (e.ctl n).busOffs = l ++ [from_]) (fun e t => (t.ctl n).state = .active ∧
      (t.ctl n).txErrors = 0 ∧ (t.ctl n).rxErrors = 0 ∧ (t.ctl n).passive = false ∧ others n e t ∧
      e.Tells t [(0xC, 1, 3, b1 n ++ b4 ((e.tm.now - from_) / cyclesPerUs))] ∧ OnlyChanges (.can :: reportTouches) e t)

/-- R658 to R663, R673, R674: where a received frame goes, locks of receive buffers, their release by the holder and by timeout, CAN_READ from the
head of the FIFO, and command segments. The filters of the firmware beyond command frames and reference messages, and a locked next FIFO buffer, are
the model's (notes/assumptions/50.md). -/
def Obligations.CanReception : Prop :=
  let others (n : Nat) (e t : State) : Prop := (∀ j, j ≠ n → t.ctl j = e.ctl j)
  let stored (x y : RxBuf) (f : RxFrame) : Prop :=
    (x.lock = none → y.frame = some f ∧ y.seq = (x.seq + 1) % 256 ∧ y.waiting = x.waiting) ∧
    (x.lock ≠ none → y.frame = x.frame ∧ y.seq = x.seq ∧ y.lock = x.lock ∧ y.waiting = some f ∧ (x.waiting ≠ none → y.overwritten = true ∧ y.overCount = satN 16 (x.overCount + 1)) ∧
      (x.waiting = none → y.overwritten = x.overwritten ∧ y.overCount = x.overCount))
  (∀ dt n (f : CanFrame),
    let w := Instr.canFrameRx dt n f
    let on (e : State) : Prop := (e.ctl n).state = .active ∧ (f.fd = true → e.parN P.CAN_MODE n ≠ 0)
    let cmd (e : State) : Prop := e.parN P.CAN_CMD_ID n ≠ 0 ∧ f.ext = false ∧ f.ident = e.parN P.CAN_CMD_ID n
    let ref (e : State) : Prop := e.parN P.CAN_TT_ROLE n ≠ 0 ∧ f.ext = false ∧ f.ident = e.parN P.CAN_TT_REF_ID n
    let hits (e : State) (k : Nat) : Prop := let i := e.parN (P.CAN_RXF_ID_0 + 2 * k) n
      let m := e.parN (P.CAN_RXF_MASK_0 + 2 * k) n
      i.testBit 30 = true ∧ i.testBit 31 = f.ext ∧ f.ident &&& m = i % 2 ^ 29 &&& m
    let x (e : State) (k : Nat) : RxFrame := RxFrame.mk (f.ident % 2 ^ 29 + (if f.rtr then 2 ^ 29 else 0) + (if f.ext then 2 ^ 30 else 0)) f.fd f.brs f.esi k (e.nsBack f.back)
      (if f.rtr then [] else f.data)
    let box (s : State) (k : Nat) : RxBuf := Store.read {} (s.ctl n).boxes k
    let slot (s : State) (k : Nat) : RxBuf := Store.read {} (s.ctl n).fifo k
    let next (e : State) : Nat := ((e.ctl n).fifoHead + (e.ctl n).fifoLevel) % 32
    let full (e : State) : Prop := 32 ≤ (e.ctl n).fifoLevel ∨ (slot e (next e)).lock ≠ none
    let fifoSame (e t : State) : Prop := (t.ctl n).fifo = (e.ctl n).fifo ∧ (t.ctl n).fifoLevel = (e.ctl n).fifoLevel ∧ (t.ctl n).fifoHead = (e.ctl n).fifoHead ∧
      (t.ctl n).rxLost = (e.ctl n).rxLost
    let p : Prop := 128 ≤ f.recErr
    let counted (e t : State) : Prop := (t.ctl n).rxErrors = f.recErr ∧ (t.ctl n).txErrors = (e.ctl n).txErrors ∧ others n e t ∧
      ((e.ctl n).txErrors < 128 → ((t.ctl n).passive = true ↔ p) ∧ (((e.ctl n).passive = true ↔ p) → OnlyChanges [.can] e t) ∧
        (¬ ((e.ctl n).passive = true ↔ p) → e.Tells t [(0xC, 1, 1, b1 n ++ b1 (if 128 ≤ f.recErr then 1 else 0) ++ b1 (satN 8 (e.ctl n).txErrors) ++ b1 (satN 8 f.recErr))])) ∧
      OnlyChanges (.can :: reportTouches) e t
    Idles w dt (fun e => ¬ on e) ∧
    (∀ k, Acts w dt (fun e => on e ∧ ((k = 0 ∧ cmd e) ∨ (k = 1 ∧ ¬ cmd e ∧ ref e))) (fun e t => stored (box e k) (box t k) (x e k) ∧ (∀ j, j ≠ k → box t j = box e j) ∧
      fifoSame e t ∧ counted e t)) ∧
    (∀ k, k < 8 →
      Acts w dt (fun e => on e ∧ ¬ cmd e ∧ ¬ ref e ∧ hits e k ∧ (∀ j, j < k → ¬ hits e j) ∧ ¬ full e) (fun e t => (slot t (next e)).frame = some (x e (32 + k)) ∧
        (slot t (next e)).seq = ((slot e (next e)).seq + 1) % 256 ∧ (t.ctl n).fifoLevel = (e.ctl n).fifoLevel + 1 ∧ (t.ctl n).fifoHead = (e.ctl n).fifoHead ∧
        (t.ctl n).boxes = (e.ctl n).boxes ∧ (t.ctl n).rxLost = (e.ctl n).rxLost ∧ (∀ j, j ≠ next e → slot t j = slot e j) ∧ counted e t) ∧
      Acts w dt (fun e => on e ∧ ¬ cmd e ∧ ¬ ref e ∧ hits e k ∧ full e) (fun e t => (t.ctl n).fifo = (e.ctl n).fifo ∧ (t.ctl n).fifoLevel = (e.ctl n).fifoLevel ∧
        (t.ctl n).rxLost = satN 32 ((e.ctl n).rxLost + 1) ∧ (t.ctl n).boxes = (e.ctl n).boxes ∧ counted e t)) ∧
    Acts w dt (fun e => on e ∧ ¬ cmd e ∧ ¬ ref e ∧ ∀ k, k < 8 → ¬ hits e k) (fun e t => fifoSame e t ∧ (t.ctl n).boxes = (e.ctl n).boxes ∧ counted e t)) ∧
  (∀ dt n b m,
    let rx (s : State) : RxBuf := (s.ctl n).rx b
    let frees (e t : State) : Prop := b < 48 ∨ (if b - 48 = (e.ctl n).fifoHead ∧ 0 < (e.ctl n).fifoLevel
      then (t.ctl n).fifoHead = ((e.ctl n).fifoHead + 1) % 32 ∧ (t.ctl n).fifoLevel = (e.ctl n).fifoLevel - 1
      else (t.ctl n).fifoHead = (e.ctl n).fifoHead ∧ (t.ctl n).fifoLevel = (e.ctl n).fifoLevel)
    let level (e t : State) : Prop := (t.ctl n).fifoHead = (e.ctl n).fifoHead ∧ (t.ctl n).fifoLevel = (e.ctl n).fifoLevel
    let rest (e t : State) : Prop := others n e t ∧ ∀ j, j ≠ b → (t.ctl n).rx j = (e.ctl n).rx j
    Idles (.canBufferLock dt n b m) dt (fun e => ¬ (n < 4 ∧ b < 80 ∧ (rx e).lock = none)) ∧
    Acts (.canBufferLock dt n b m) dt (fun e => n < 4 ∧ b < 80 ∧ (rx e).lock = none)
      (fun e t => rx t = { rx e with lock := some (m, e.tm.now), lockTimeout := false } ∧ level e t ∧ rest e t ∧ OnlyChanges [.can] e t) ∧
    Idles (.canBufferRelease dt n b m) dt (fun e => ∀ t0, (rx e).lock ≠ some (m, t0)) ∧
    (∀ t0, Acts (.canBufferRelease dt n b m) dt (fun e => (rx e).lock = some (m, t0)) (fun e t => (rx t).lock = none ∧ (rx t).overwritten = false ∧
      (rx t).overCount = (rx e).overCount ∧ (rx t).waiting = none ∧ (rx t).frame = (rx e).waiting ∧
      (rx t).seq = (if (rx e).waiting = none then (rx e).seq else ((rx e).seq + 1) % 256) ∧ frees e t ∧ rest e t ∧ OnlyChanges [.can] e t)) ∧
    ∀ t0, Idles (.canLockTimeout dt n b) dt (fun e => (rx e).lock = none ∨ ∃ q, (rx e).lock = some (q, t0) ∧ e.tm.now < t0 + 100 * cyclesPerUs) ∧
      Acts (.canLockTimeout dt n b) dt (fun e => (rx e).lock = some (m, t0) ∧ t0 + 100 * cyclesPerUs ≤ e.tm.now) (fun e t => (rx t).lock = none ∧
        (rx t).lockTimeout = true ∧ (rx t).waiting = none ∧ (rx t).frame = (if (rx e).waiting = none then (rx e).frame else (rx e).waiting) ∧ level e t ∧ rest e t ∧
        e.Tells t [(0xC, 2, 6, b1 n ++ b1 b ++ b1 m)] ∧ OnlyChanges (.can :: reportTouches) e t)) ∧
  (∀ (h : Hdr) (most : Nat), most < 256 →
    let n (c : Cmd) : Nat := c.target % 4096
    let ring (c : Cmd) (b : State) (i : Nat) : RxBuf := Store.read {} (b.ctl (n c)).fifo (((b.ctl (n c)).fifoHead + i) % 32)
    let entry (y : RxBuf) (f : RxFrame) : List Nat := le 4 (f.word0 + 2 ^ 31) ++ le 4 (f.data.length + f.filter * 2 ^ 8 + (if f.esi then 2 ^ 21 else 0) +
      (if f.brs then 2 ^ 22 else 0) + (if f.fd then 2 ^ 23 else 0) + y.seq * 2 ^ 24) ++ stampBytes f.ns ++ [0, 0] ++ f.data
    Runs (.canRead h most) (fun _ _ => most = 0 ∨ 32 < most) (fun c b t => b.Refuses t c 0x201) ∧
    ∀ (j : Nat) (fs : Nat → RxFrame), let bytes (c : Cmd) (b : State) (i : Nat) : List Nat := (List.range i).flatMap fun i => entry (ring c b i) (fs i)
      let room (c : Cmd) (b : State) : Nat := replyRoom c.link (b.session c.session)
      Runs (.canRead h most) (fun c b => 1 ≤ most ∧ most ≤ 32 ∧ j ≤ most ∧ j ≤ (b.ctl (n c)).fifoLevel ∧ (b.ctl (n c)).fifoLevel ≤ 32 ∧ (b.ctl (n c)).fifoHead < 32 ∧
          (∀ i, i < j → (ring c b i).frame = some (fs i) ∧ (ring c b i).lock = none) ∧ (bytes c b j).length ≤ room c b ∧
          (j = most ∨ j = (b.ctl (n c)).fifoLevel ∨ (ring c b j).lock ≠ none ∨ (ring c b j).frame = none ∨
            ((ring c b j).frame = some (fs j) ∧ room c b < (bytes c b (j + 1)).length)))
        (fun c b t => t.Reports c 2 0 0 (bytes c b j) ∧ (t.ctl (n c)).fifoHead = ((b.ctl (n c)).fifoHead + j) % 32 ∧
          (t.ctl (n c)).fifoLevel = (b.ctl (n c)).fifoLevel - j ∧ (t.ctl (n c)).boxes = (b.ctl (n c)).boxes ∧ OnlyChanges replyTouches b t)) ∧
  ∀ dt n back (hd : Nat) (bs : List Nat), hd < 256 → bs.length = 63 →
    let w := Instr.canCmdSegment dt n (hd :: bs) back
    let on (e : State) : Prop := (e.ctl n).state = .active ∧ e.parN P.CAN_CMD_ID n ≠ 0
    let fits (e : State) (had : List Nat) (from_ : Nat) : Prop := (hd % 64 = 0 ∧ had = [] ∧ from_ = e.tm.now) ∨
      (hd % 64 ≠ 0 ∧ hd % 64 < 16 ∧ (e.ctl n).cmdRx = some (had, hd % 64, hd.testBit 7, from_))
    let kept (e u : State) (r : Option (List Nat × Nat × Bool × Nat)) : Prop := (u.ctl n).cmdRx = r ∧ (u.ctl n).tx = (e.ctl n).tx ∧ others n e u ∧ OnlyChanges [.can] e u
    Idles w dt (fun e => ¬ on e) ∧ (∀ data, data.length ≠ 64 → Idles (.canCmdSegment dt n data back) dt (fun _ => True)) ∧
    (∀ had from_, Acts w dt (fun e => on e ∧ fits e had from_ ∧ hd.testBit 6 = false) (fun e t => kept e t (some (had ++ bs, hd % 64 + 1, hd.testBit 7, from_))) ∧
      Acts w dt (fun e => on e ∧ fits e had from_ ∧ hd.testBit 6 = true)
        (fun e t => ∃ u, kept e u none ∧ t = resetWhenDue (receive (parsePacket (.can n) (had ++ bs)) u))) ∧
    Acts w dt (fun e => on e ∧ ∀ had from_, ¬ fits e had from_) (fun e t => kept e t none) ∧
    ∀ x y z from_, Acts (.canCmdPartialTimeout dt n) dt (fun e => (e.ctl n).cmdRx = some (x, y, z, from_) ∧ from_ + 100 * cyclesPerMs ≤ e.tm.now) (fun e t => kept e t none) ∧
      Idles (.canCmdPartialTimeout dt n) dt (fun e => (e.ctl n).cmdRx = none ∨ ((e.ctl n).cmdRx = some (x, y, z, from_) ∧ e.tm.now < from_ + 100 * cyclesPerMs))

/-- R675, R676, R679 to R684: the reference message and the time slave's measurement; SYNC with its RPDOs, a drive's TPDO, a lost heartbeat, emergency
messages, the heartbeat producer, doors, the SDO server and a setpoint of CiA 417 as a command of its session. The transmit buffers of the firmware's
frames, the abort codes and the journal entry of a setpoint are the model's (notes/assumptions/50.md, 81.md). -/
def Obligations.CanReferenceAndProfiles : Prop :=
  let tx (n k : Nat) (s : State) : TxBuf := Store.read {} (s.ctl n).tx k
  let others (n : Nat) (e t : State) : Prop := ∀ j, j ≠ n → t.ctl j = e.ctl j
  let posts (n k ident : Nat) (data : List Nat) (e t : State) : Prop := (tx n k e).state = .free →
    (tx n k t).state ≠ .free ∧ (tx n k t).ident = ident ∧ (tx n k t).ext = false ∧ (tx n k t).data = data
  (∀ dt n,
    let w := Instr.canTtReferenceSend dt n
    let on (e : State) : Prop := (e.ctl n).state = .active ∧ e.parN P.CAN_TT_ROLE n = 1
    let msg (e : State) : List Nat := [(e.ctl n).ttCount, ((e.ctl n).ttCount + 63) % 64 + (if (e.ctl n).ttSentNs = none then 0 else 128)] ++
      (match (e.ctl n).ttSentNs with | some x => stampBytes x | none => List.replicate 10 0)
    let after (e t : State) : Prop := (t.ctl n).ttCount = ((e.ctl n).ttCount + 1) % 64 ∧ (t.ctl n).ttSentNs = none ∧ others n e t ∧ OnlyChanges [.can] e t
    Idles w dt (fun e => ¬ on e) ∧
    Acts w dt (fun e => on e ∧ (tx n 1 e).state ≠ .sending) (fun e t => (tx n 1 t).state ≠ .free ∧ (tx n 1 t).ident = e.parN P.CAN_TT_REF_ID n ∧ (tx n 1 t).fd = true ∧
      (tx n 1 t).brs = true ∧ (tx n 1 t).data = msg e ∧ after e t) ∧
    Acts w dt (fun e => on e ∧ (tx n 1 e).state = .sending) (fun e t => tx n 1 t = tx n 1 e ∧ (∃ y : TxBuf, (t.ctl n).backlog = (e.ctl n).backlog ++ [(1, y)] ∧
      y.ident = e.parN P.CAN_TT_REF_ID n ∧ y.data = msg e) ∧ after e t)) ∧
  (∀ dt n (data : List Nat) (back : Nat),
    let w := Instr.canTtReferenceRx dt n data back
    let on (e : State) : Prop := (e.ctl n).state = .active ∧ e.parN P.CAN_TT_ROLE n = 2
    let valid : Prop := (data.getD 1 0).testBit 7 = true
    let kept (e u : State) : Prop := (u.ctl n).ttLast = some (data.getD 0 0 % 64, e.nsBack back) ∧ (valid → (u.ctl n).ttSync = true ∧ (u.ctl n).ttFrom = e.tm.now) ∧
      (¬ valid → (u.ctl n).ttSync = (e.ctl n).ttSync ∧ (u.ctl n).ttFrom = (e.ctl n).ttFrom) ∧ others n e u ∧ OnlyChanges [.can] e u
    let measures (e : State) (m l : Nat) : Prop := valid ∧ (e.ctl n).ttLast = some (data.getD 1 0 % 64, l) ∧ ofStamp (data.drop 2) = some m ∧ e.parN P.TIM_CAN_CTRL 0 = n
    Idles w dt (fun e => ¬ on e) ∧
    (∀ m l, Acts w dt (fun e => on e ∧ measures e m l)
      (fun e t => ∃ u, kept e u ∧ exec (.timeMeasurement 0 2 ((l : Int) - m - e.par P.CAN_TT_DELAY n)) u = .next t)) ∧
    Acts w dt (fun e => on e ∧ ∀ m l, ¬ measures e m l) kept ∧
    let lost (e : State) : Prop := (e.ctl n).ttSync = true ∧ (e.ctl n).ttFrom + 2 * e.parN P.CAN_TT_CYCLE n * cyclesPerUs ≤ e.tm.now
    Idles (.canTtRefLost dt n) dt (fun e => ¬ lost e) ∧
    ∀ k l, Acts (.canTtRefLost dt n) dt (fun e => lost e ∧ (e.ctl n).ttLast = some (k, l)) (fun e t => (t.ctl n).ttSync = false ∧ (t.ctl n).ttLast = none ∧ others n e t ∧
      e.Tells t [(0xC, 2, 8, b1 n ++ b1 k)] ∧ OnlyChanges (.can :: reportTouches) e t)) ∧
  (∀ dt n,
    let w := Instr.canopenSyncSend dt n
    let as (e : State) : List Nat := (List.range e.axes).filter fun a =>
      e.axisRuns a && decide (e.axisType a = 1 ∧ e.parN P.AX_REMOTE_LINK a = n + 1 ∧ (e.axis a).sampled = some e.rg.frameStart)
    let on (e : State) : Prop := (e.ctl n).state = .active ∧ (e.parN P.CAN_PROFILE n).testBit 2 = true ∧ e.framesRun = true ∧ as e ≠ []
    let goal (e : State) (a : Nat) : Int := (e.axis a).pcmd - (e.axis a).offset
    let rpdo (e : State) (a : Nat) : Nat × List Nat := (0x200 + e.parN P.AX_REMOTE_NODE a,
      le 2 ((if (e.setpoint a).1.testBit 0 then 0xF else 0x6) + (if (e.setpoint a).1.testBit 2 then 128 else 0) + (if (e.setpoint a).1.testBit 1 then 256 else 0)) ++
        leI 4 (satI 32 ((goal e a + 32768) / 65536)))
    Idles w dt (fun e => ¬ on e) ∧
    Acts w dt (fun e => on e ∧ (∀ a ∈ as e, e.inPP a = false) ∧ (tx n 3 e).state = .free ∧ ∀ x ∈ (e.ctl n).backlog, x.1 ≠ 3) (fun e t => posts n 2 0x80 [] e t ∧
      ((tx n 3 t).ident, (tx n 3 t).data) :: (((t.ctl n).backlog.filter fun x => decide (x.1 = 3)).map fun x => (x.2.ident, x.2.data)) = (as e).map (rpdo e) ∧
      (∀ a ∈ as e, (t.axis a).sentFrame = some e.rg.frame ∧ (t.axis a).sentPos.head? = some (e.rg.frame, goal e a)) ∧ (∀ a, a ∉ as e → t.axis a = e.axis a) ∧ others n e t ∧
      OnlyChanges [.ax, .can] e t)) ∧
  (∀ dt n node a,
    let first (e : State) : Prop := a < e.axes ∧ e.axisType a = 1 ∧ e.parN P.AX_REMOTE_LINK a = n + 1 ∧ e.parN P.AX_REMOTE_NODE a = node ∧
      ∀ j, j < a → e.axisType j = 1 → e.parN P.AX_REMOTE_LINK j = n + 1 → e.parN P.AX_REMOTE_NODE j ≠ node
    let none_ (e : State) : Prop := ∀ j, j < e.axes → e.axisType j = 1 → e.parN P.AX_REMOTE_LINK j = n + 1 → e.parN P.AX_REMOTE_NODE j ≠ node
    let on (e : State) : Prop := (e.ctl n).state = .active
    (∀ status pos, let w := Instr.canopenTpdo dt n node status pos
      let kept (e t : State) : Prop := Store.read 0 (t.ctl n).status node = status ∧ Store.read (0 : Int) (t.ctl n).position node = pos ∧ others n e t
      Idles w dt (fun e => ¬ on e) ∧
      Acts w dt (fun e => on e ∧ (none_ e ∨ (first e ∧ e.inPP a = false ∧ e.replyInTime a = false))) (fun e t => kept e t ∧ OnlyChanges [.can] e t) ∧
      Acts w dt (fun e => on e ∧ first e ∧ e.inPP a = false ∧ e.replyInTime a = true ∧ (e.axis a).enabling = none) (fun e t => kept e t ∧
        (t.axis a).pos = pos * 65536 + (e.axis a).offset ∧ (t.axis a).misses = 0 ∧ (t.axis a).sentFrame = none ∧ (t.axis a).remoteOn = status.testBit 2 ∧
        (t.axis a).driveFault = status.testBit 3 ∧ (∀ q l, (e.axis a).sentPos = q :: l → (t.axis a).remoteErr = q.2 - pos * 65536) ∧ (∀ j, j ≠ a → t.axis j = e.axis j) ∧
        OnlyChanges [.ax, .can] e t)) ∧
    (∀ code reg, let w := Instr.canopenEmcy dt n node code reg
      let speaks : List (Nat × Nat × Nat × List Nat) := [(0xC, 2, 0xA, b1 n ++ b1 node ++ b2 code ++ b1 reg)]
      Idles w dt (fun e => ¬ on e) ∧ Acts w dt (fun e => on e ∧ none_ e) (fun e t => e.Tells t speaks ∧ OnlyChanges reportTouches e t) ∧
      Acts w dt (fun e => on e ∧ first e) (fun e t => t.axis a = { e.axis a with driveCode := code } ∧ (∀ j, j ≠ a → t.axis j = e.axis j) ∧ e.Tells t speaks ∧
        OnlyChanges (.ax :: reportTouches) e t)) ∧
    ∀ b, let w := Instr.canopenHbLost dt n node
      let due (e : State) : Prop := on e ∧ e.parN P.CAN_HB_TIME n ≠ 0 ∧ Store.read 0 (e.ctl n).beats node = b + 1 ∧ node ∉ (e.ctl n).lostNodes ∧
        2 * b + 3 * e.parN P.CAN_HB_TIME n * cyclesPerMs ≤ 2 * e.tm.now
      let told (e t : State) : Prop := (t.ctl n).lostNodes = (e.ctl n).lostNodes ++ [node] ∧ others n e t
      Idles w dt (fun e => ¬ on e ∨ e.parN P.CAN_HB_TIME n = 0 ∨ Store.read 0 (e.ctl n).beats node = 0 ∨ node ∈ (e.ctl n).lostNodes ∨
        (Store.read 0 (e.ctl n).beats node = b + 1 ∧ 2 * e.tm.now < 2 * b + 3 * e.parN P.CAN_HB_TIME n * cyclesPerMs)) ∧
      Acts w dt (fun e => due e ∧ (none_ e ∨ (first e ∧ ((e.axis a).mode = .disabled ∨ (e.axis a).mode = .fault))))
        (fun e t => told e t ∧ e.Tells t [(0xC, 3, 9, b1 n ++ b1 node)] ∧ OnlyChanges (.can :: reportTouches) e t) ∧
      Acts w dt (fun e => due e ∧ first e ∧ (e.axis a).mode ≠ .disabled ∧ (e.axis a).mode ≠ .fault ∧ (e.axis a).home = none) (fun e t => told e t ∧ (t.axis a).mode = .fault ∧
        (t.axis a).cause = 4 ∧ (t.axis a).halt = true ∧ (t.axis a).profile = none ∧ (∀ k, (e.axis a).slot = some k → e.Ends t k 0x700) ∧
        e.Tells t [(0xC, 3, 9, b1 n ++ b1 node), (6, 3, 3, b1 a ++ b1 4 ++ posHigh (e.axis a).pos ++ b4 e.rg.frame)])) ∧
  (∀ dt n,
    let beats (e : State) : Prop := (e.ctl n).state = .active ∧ e.parN P.CAN_PROFILE n ≠ 0 ∧ e.parN P.CAN_HB_TIME n ≠ 0
    Idles (.canopenHeartbeatSend dt n) dt (fun e => ¬ beats e) ∧
    Acts (.canopenHeartbeatSend dt n) dt beats (fun e t => posts n 5 (0x700 + e.parN P.CAN_NODE_ID n) [(e.ctl n).nmt] e t ∧
      (t.ctl n).nmt = (if (e.ctl n).nmt = 0 then 127 else (e.ctl n).nmt) ∧ others n e t ∧ OnlyChanges [.can] e t) ∧
    (∀ d st, let on (e : State) : Prop := (e.ctl n).state = .active ∧ (e.parN P.CAN_PROFILE n).testBit 1 = true ∧ d < 4
      Idles (.canopenDoor dt n d st) dt (fun e => ¬ on e) ∧
      Acts (.canopenDoor dt n d st) dt on (fun e t => Store.read 0 (t.ctl n).doors d = st ∧ (∀ j, j ≠ d → Store.read 0 (t.ctl n).doors j = Store.read 0 (e.ctl n).doors j) ∧
        others n e t ∧ e.Tells t [(0xC, 0, 0xB, b1 n ++ b1 d ++ b1 st)] ∧ OnlyChanges (.can :: reportTouches) e t)) ∧
    ∀ hd lo hi sub (tail : List Nat), hd < 256 → lo < 256 → hi < 256 → sub < 256 → tail.length = 4 →
      let w := Instr.canopenSdoRequest dt n ([hd, lo, hi, sub] ++ tail)
      let on (e : State) : Prop := (e.ctl n).state = .active ∧ e.parN P.CAN_PROFILE n ≠ 0 ∧ (e.ctl n).nmt ≠ 4
      let speaks (bs : List Nat) (e t : State) : Prop := posts n 4 (0x580 + e.parN P.CAN_NODE_ID n) bs e t ∧ others n e t ∧ OnlyChanges [.can, .free] e t
      let index := lo + 256 * hi
      let known (v : State → Nat) : Prop := (index = 0x1017 ∧ sub = 0 ∧ v = fun e => e.parN P.CAN_HB_TIME n) ∨ (index = 0x1018 ∧ sub = 2 ∧ v = fun e => e.part) ∨
        (index = 0x1018 ∧ sub = 3 ∧ v = fun e => e.stepping) ∨ (index = 0x1018 ∧ sub = 4 ∧ v = fun _ => Config.serial)
      Idles w dt (fun e => ¬ on e) ∧
      (∀ v, known v → Acts w dt (fun e => on e ∧ hd / 32 = 2) (fun e t => speaks ([0x43, lo, hi, sub] ++ le 4 (v e % 2 ^ 32)) e t) ∧
        Acts w dt (fun e => on e ∧ hd / 32 = 1) (fun e t => speaks ([0x80, lo, hi, sub] ++ le 4 0x06010002) e t)) ∧
      ((index = 0x1000 ∧ sub = 0) ∨ (0x1400 ≤ index ∧ index ≤ 0x1407) ∨ (0x1800 ≤ index ∧ index ≤ 0x1807) →
        Acts w dt (fun e => on e ∧ hd / 32 = 2) (fun e t => ∃ v, v < 2 ^ 32 ∧ speaks ([0x43, lo, hi, sub] ++ le 4 v) e t)) ∧
      (index < 0x1000 ∨ 0x1A08 ≤ index → Acts w dt (fun e => on e ∧ (hd / 32 = 1 ∨ hd / 32 = 2)) (fun e t => speaks ([0x80, lo, hi, sub] ++ le 4 0x06020000) e t))) ∧
  ∀ dt n op (payload : List Nat) (slot : Nat) (x : Session),
    let w := Instr.cia417Setpoint dt n op payload
    let id (e : State) : Nat := e.parN P.CAN_417_SESSION n
    let next : Nat := if x.lastSeq = 0xFFFFFFFF then 1 else x.lastSeq + 1
    let p (e : State) : Packet := Packet.mk (.can n) true true true 1 0 (id e) next op (0x1000 + e.parN P.CAN_417_AXIS n) (payload.map (· % 256)) [] false
    let on (e : State) : Prop := n < 4 ∧ (e.ctl n).state = .active ∧ (e.parN P.CAN_PROFILE n).testBit 0 = true ∧ e.pw.ready = true ∧ e.pw.mode ≠ .recovery ∧ e.pw.warning = false ∧
      e.pw.entry = none ∧ op / 256 = 5
    Idles w dt (fun e => ¬ on e ∨ e.session (id e) = none ∨ (e.session (id e) = some x ∧ e.headerCheck (p e) ≠ none)) ∧
    Acts w dt (fun e => on e ∧ e.session (id e) = some x ∧ x.lastSeq < 2 ^ 32 ∧ e.headerCheck (p e) = none ∧ e.open_ < 1024 ∧ (e.jn.fail0 && e.jn.fail1) = false ∧
        e.freeSlot = some slot ∧ e.jn.queue = [])
      (fun e t => (t.entry slot).valid = true ∧ (t.entry slot).session = id e ∧ (t.entry slot).seq = next ∧ (t.entry slot).opcode = op ∧
        (t.entry slot).target = 0x1000 + e.parN P.CAN_417_AXIS n ∧ (t.entry slot).state = 2 ∧ (t.session (id e)).map (·.lastSeq) = some next)

/-- R688, R691 to R694, R697 to R702: the input counters, IO_WRITE with its refusals and its report, faults of outputs, the isolator links, the
supplies' states, the saved counters and IO_READ. -/
def Obligations.FieldInputsAndOutputs : Prop :=
  let joined (e : State) (n m : Nat) : Prop := if (e.parN P.FIO_QUAD_MASK 0).testBit (n / 4) then m / 4 = n / 4
    else if (e.parN P.FIO_PAIR_MASK 0).testBit (n / 2) then m / 2 = n / 2 else m = n
  let source (e : State) (n : Nat) : Prop := ∃ p, p < 16 ∧ e.parN P.SAF_PAIR_MODE p ≠ 0 ∧ (e.parN P.SAF_PAIR_TSRC_A p = n ∨ e.parN P.SAF_PAIR_TSRC_B p = n)
  let drives (t : State) (n : Nat) : Prop := ¬ source t n →
    (t.fd.linkB = false ∨ t.fd.vb.known = false ∨ t.fd.safe.testBit n = true → (t.fd.readback.testBit n = true ↔ t.parN P.FIO_OUT_SAFE n = 1)) ∧
    (t.fd.linkB = true → t.fd.vb.known = true → t.fd.safe.testBit n = false → ((∃ m, joined t n m ∧ t.fd.fault.testBit m = true) → t.fd.readback.testBit n = false) ∧
      ((∀ m, joined t n m → t.fd.fault.testBit m = false) → t.fd.readback.testBit n = t.fd.cmd.testBit n))
  let counts (e t : State) : Prop := ∀ n, n < 16 → Store.read 0 t.fd.switched n = (if t.fd.readback.testBit n = true ∧ e.fd.readback.testBit n = false ∧ t.testSource n = false
    then satN 32 (Store.read 0 e.fd.switched n + 1) else Store.read 0 e.fd.switched n)
  (∀ dt raw cfg,
    let taken (e : State) : Nat := if e.fd.linkA = true ∧ e.fd.va.known = true ∧ e.fd.va.state ≠ .missing then raw % 2 ^ 32 else 0
    let n (e : State) (m : Nat) : Nat := e.parN P.FIO_IN_FILTER m
    let c (s : State) (m : Nat) : Nat := Store.read 0 s.fd.counts m
    Idles (.fieldInputSample dt raw cfg) dt (fun e => e.clocked = false) ∧
    Acts (.fieldInputSample dt raw cfg) dt (fun e => e.clocked = true) (fun e t => t.fd.raw = taken e ∧ OnlyChanges [.fd, .sf] e t ∧ t.fd.cmd = e.fd.cmd ∧
      t.fd.readback = e.fd.readback ∧ ∀ m, m < 32 → ((taken e).testBit m = true → c t m = min (n e m) (c e m + 1)) ∧ ((taken e).testBit m = false → c t m = min (n e m) (c e m) - 1) ∧
        (n e m ≤ c t m → t.fd.filtered.testBit m = true) ∧ (c t m < n e m → c t m = 0 → t.fd.filtered.testBit m = false) ∧
        (c t m < n e m → 0 < c t m → t.fd.filtered.testBit m = e.fd.filtered.testBit m))) ∧
  (∀ (h : Hdr) (mask levels : Nat) (safe : Option (Nat × Nat)), mask < 2 ^ 16 → levels < 2 ^ 16 → (∀ x, safe = some x → x.1 < 256 ∧ x.2 < 256) →
    let w := Instr.ioWrite h mask levels safe
    let split (b : State) : Prop := ∃ n m, n < 16 ∧ mask.testBit n = true ∧ joined b n m ∧ (mask.testBit m = false ∨ levels.testBit m ≠ levels.testBit n)
    let held (b : State) : Prop := ∃ n, n < 16 ∧ mask.testBit n = true ∧ source b n
    let asks (n : Nat) : Bool := match safe with | some x => x.1.testBit n | none => false
    let wants (n : Nat) : Bool := match safe with | some x => x.2.testBit n | none => false
    let commands (b t : State) : Prop := (∀ n, n < 16 → t.fd.cmd.testBit n = (if mask.testBit n then levels.testBit n else b.fd.cmd.testBit n) ∧
        t.fd.fault.testBit n = (b.fd.fault.testBit n && !(mask.testBit n && !levels.testBit n))) ∧
      (∀ n, n < 4 → t.fd.soutReq.testBit n = (if asks n then wants n else b.fd.soutReq.testBit n)) ∧ t.fd.readback = b.fd.readback ∧ t.fd.safe = b.fd.safe ∧
      b.Tells t ((List.range 16).flatMap fun n => if mask.testBit n && !levels.testBit n && b.fd.fault.testBit n then [(0xD, 1, 5, b1 n)] else [])
    Runs w (fun _ b => split b) (fun c b t => b.Refuses t c 0x201) ∧ Runs w (fun _ b => ¬ split b ∧ held b) (fun c b t => b.Refuses t c 0x300) ∧
    Runs w (fun _ b => ¬ split b ∧ ¬ held b ∧ b.fd.linkB = false)
      (fun c b t => t.Reports c 2 0x700 0 [] ∧ commands b t ∧ t.fd.writes = b.fd.writes ∧ OnlyChanges (.fd :: replyTouches ++ reportTouches) b t) ∧
    Runs w (fun _ b => ¬ split b ∧ ¬ held b ∧ b.fd.linkB = true) (fun c b t => t.InProgress c ∧ commands b t ∧
      (∃ q, t.fd.writes = b.fd.writes ++ [(c.slot, mask, levels, q)] ∧ (safe = none → q = none) ∧ ∀ x, safe = some x → q = some (x.1 % 16, x.2 % 16)) ∧
      OnlyChanges (.fd :: linkTouches ++ reportTouches) b t)) ∧
  (∀ dt ok slot mask levels q ws,
    let w := Instr.ioWriteApplied dt ok
    let first (e : State) : Prop := e.fd.writes = (slot, mask, levels, q) :: ws
    Idles w dt (fun e => e.fd.writes = []) ∧
    Acts w dt (fun e => first e ∧ (ok = false ∨ e.fd.linkB = false)) (fun e t => e.Ends t slot 0x700 ∧ t.fd = { e.fd with writes := ws } ∧ OnlyChanges [.fd, .jn] e t) ∧
    Acts w dt (fun e => first e ∧ ok = true ∧ e.fd.linkB = true ∧ mask < 2 ^ 16 ∧ ∀ x, q = some x → x.1 < 16) (fun e t => e.Ends t slot 0 ∧ t.fd.writes = ws ∧ t.fd.cmd = e.fd.cmd ∧
      (∀ n, n < 16 → t.fd.safe.testBit n = (e.fd.safe.testBit n && !mask.testBit n) ∧ drives t n) ∧
      (∀ n, n < 4 → t.fd.safe.testBit (16 + n) = (e.fd.safe.testBit (16 + n) && !(match q with | some x => x.1.testBit n | none => false))) ∧ counts e t ∧
      OnlyChanges [.fd, .jn] e t)) ∧
  (∀ dt n cause, let sets (e : State) : Prop := n < 16 ∧ e.fd.fault.testBit n = false ∧ e.clocked = true
    Idles (.outFaultSet dt n cause) dt (fun e => ¬ sets e) ∧
    Acts (.outFaultSet dt n cause) dt sets (fun e t => (∀ m, t.fd.fault.testBit m = (e.fd.fault.testBit m || decide (m = n))) ∧
      Store.read 0 t.fd.faults n = satN 32 (Store.read 0 e.fd.faults n + 1) ∧ (∀ m, m < 16 → drives t m) ∧ counts e t ∧ t.fd.cmd = e.fd.cmd ∧
      e.Tells t [(0xD, 2, 4, b1 n ++ b1 cause ++ b4 (compact e.ns))] ∧ OnlyChanges (.fd :: reportTouches) e t)) ∧
  (∀ dt,
    Idles (.fieldLinkLostB dt) dt (fun e => e.fd.linkB = false) ∧ Idles (.fieldLinkLost dt) dt (fun e => e.fd.linkA = false) ∧
    Acts (.fieldLinkLostB dt) dt (fun e => e.fd.linkB = true) (fun e t => t.fd.linkB = false ∧ t.fd.lostB = some e.tm.now ∧ t.fd.writes = [] ∧ t.fd.cmd = e.fd.cmd ∧
      (∀ n, n < 20 → t.fd.safe.testBit n = true) ∧ (∀ n, n < 16 → drives t n) ∧ (∀ x ∈ e.fd.writes, e.Ends t x.1 0x700) ∧
      e.Tells t [(0xD, 3, 2, b1 2 ++ b4 (compact e.ns))] ∧ OnlyChanges (.fd :: .jn :: reportTouches) e t) ∧
    Acts (.fieldLinkLost dt) dt (fun e => e.fd.linkA = true) (fun e t => t.fd = { e.fd with linkA := false, lostA := some e.tm.now } ∧
      e.Tells t [(0xD, 3, 2, b1 1 ++ b4 (compact e.ns))] ∧ OnlyChanges (.fd :: reportTouches) e t) ∧
    (∀ n, Acts (.fieldLinkRestored dt true) dt (fun e => e.fd.lostB = some n) (fun e t => t.fd = { e.fd with linkB := true, lostB := none } ∧
        e.Tells t [(0xD, 1, 3, b1 2 ++ b4 ((e.tm.now - n) / cyclesPerUs))] ∧ OnlyChanges (.fd :: reportTouches) e t) ∧
      Acts (.fieldLinkRestored dt false) dt (fun e => e.fd.lostA = some n) (fun e t => t.fd = { e.fd with linkA := true, lostA := none } ∧
        e.Tells t [(0xD, 1, 3, b1 1 ++ b4 ((e.tm.now - n) / cyclesPerUs))] ∧ OnlyChanges (.fd :: reportTouches) e t)) ∧
    (∀ side, Idles (.fieldLinkRestored dt side) dt (fun e => if side then e.fd.lostB = none else e.fd.lostA = none)) ∧
    Acts (.operationCounterSave dt) dt (fun _ => True) (fun e t => t.fd = { e.fd with savedSwitched := e.fd.switched, savedFaults := e.fd.faults } ∧ OnlyChanges [.fd] e t)) ∧
  (∀ dt va vb,
    let agree (x : SupplySt) (v : Nat) (q : Nat → Prop) : Prop := 3 ≤ x.recent.length ∧ q v ∧ ∀ y ∈ x.recent.take 3, q y
    let rests (x y : SupplySt) (v : Nat) : Prop := y.state = x.state ∧ y.known = x.known ∧ y.volts = v
    let enters (_x y : SupplySt) (st : SupplyState) : Prop := y.state = st ∧ y.known = true
    let high (x : SupplySt) (v : Nat) : Prop := agree x v fun u => 198 ≤ u
    let low (x : SupplySt) (v : Nat) : Prop := agree x v fun u => u < 120
    let dips (x : SupplySt) (v : Nat) : Prop := agree x v fun u => u < 192
    let mid (x : SupplySt) (v : Nat) : Prop := agree x v fun u => 120 ≤ u ∧ u < 198
    let moves (x y : SupplySt) (v : Nat) (told : Bool) : Prop :=
      (x.known = false → (high x v → enters x y .good ∧ told = false) ∧ (low x v → enters x y .missing ∧ told = true) ∧ (mid x v → enters x y .low ∧ told = true) ∧
        (¬ high x v → ¬ low x v → ¬ mid x v → rests x y v ∧ told = false)) ∧
      (x.known = true →
        (x.state = .good → (low x v → enters x y .missing ∧ told = true) ∧ (¬ low x v → dips x v → enters x y .low ∧ told = true) ∧ (¬ dips x v → rests x y v ∧ told = false)) ∧
        (x.state = .low → (low x v → enters x y .missing ∧ told = true) ∧ (high x v → enters x y .good ∧ told = true) ∧
          (¬ low x v → ¬ high x v → rests x y v ∧ told = false)) ∧
        (x.state = .missing → (high x v → enters x y .good ∧ told = true) ∧ (¬ high x v → rests x y v ∧ told = false)))
    let code (st : SupplyState) : Nat := match st with | .good => 0 | .low => 1 | .missing => 2
    Idles (.fieldSupplyMeasure dt va vb) dt (fun e => e.clocked = false) ∧
    Acts (.fieldSupplyMeasure dt va vb) dt (fun e => e.clocked = true) (fun e t => (∃ ra rb : Bool, moves e.fd.va t.fd.va va ra ∧ moves e.fd.vb t.fd.vb vb rb ∧
      e.Tells t ((if ra then [(0xD, 2, 1, b1 1 ++ b1 (code t.fd.va.state) ++ b2 va)] else []) ++ (if rb then [(0xD, 2, 1, b1 2 ++ b1 (code t.fd.vb.state) ++ b2 vb)] else []))) ∧
      (∀ n, n < 16 → drives t n) ∧ t.fd.cmd = e.fd.cmd ∧ t.fd.filtered = e.fd.filtered ∧ OnlyChanges (.fd :: reportTouches) e t)) ∧
  ∀ h, Replies (.ioRead h) (fun _ _ => True) (fun p b t =>
    let supply : Nat := (if b.fd.cfgEn then 128 else 0) + (if b.fd.linkB then 64 else 0) + (if b.fd.linkA then 32 else 0) +
      (match b.fd.vb.state with | .good => 0 | .low => 4 | .missing => 8) + (match b.fd.va.state with | .good => 0 | .low => 1 | .missing => 2)
    let above (k : Nat) : Nat := if 20 ≤ (b.sout k).volts then 2 ^ (4 + k) else 0
    let now : List Nat := le 4 b.fd.filtered ++ le 4 b.fd.raw ++ le 2 b.fd.cmd ++ le 2 b.fd.readback ++ [b.fd.soutReq + (above 0 + above 1 + above 2 + above 3), supply] ++
      le 2 b.fd.fault ++ stampBytes b.ns
    t = b.reply p 0 0 0 none none (if b.framesRun = true ∧ b.fd.snap ≠ [] then b.fd.snap else now))

/-- R35, R438, R441, R706 to R721, R737 to R741, R757: what a COLD or WARM reset clears and keeps for each of its sources, domain resets of the
supervisor and of the other blocks with their release, RESET_REQUEST, the start sequence, the supply warning and its end, and loss of the PLL's lock.
That records wait for the start, and that a firmware copy passes its checks while its slot is VALID, are readings of the model
(notes/assumptions/70.md). -/
def Obligations.ResetsAndStart : Prop :=
  let debug (e : State) : List (Nat × Nat × Nat × List Nat) := if e.pw.dbg.unlocked = none then [] else [(0xF, 1, 0xA, b1 3)]
  let resets (cold : Bool) (source : Nat) (e t : State) : Prop :=
    (t.pw.held = true ∧ t.pw.ready = false ∧ t.pw.pwrFail = true ∧ t.pw.resetKind = (if cold then 1 else 2) ∧ t.pw.resetSource = source ∧ t.pw.state = .run ∧ t.pw.entry = none ∧
      t.pw.bootB = e.pw.bootB ∧ t.pw.loads = e.pw.loads ∧ t.pw.stuck = (if cold then none else e.pw.stuck) ∧ t.pw.wakeFail = (if cold then none else e.pw.wakeFail)) ∧
    (t.rg.state = .stopped ∧ t.rg.frame = 0 ∧ t.rg.slots = e.rg.slots ∧ t.rg.retired = e.rg.retired ∧ ∀ k, (t.stage k).hiz = true ∧ (t.stage k).mode = .disabled ∧
      (cold = true → (t.stage k).count = 0) ∧ (Store.wf {} e.st = true → (t.stage k).calibrated = (e.stage k).calibrated ∧ (cold = false → (t.stage k).count = (e.stage k).count))) ∧
    (∀ m, (t.machine m).on = false) ∧ (∀ a, (t.axis a).mode = .disabled) ∧ (∀ g, g < 4 → (t.group g).mode = .sto ∧ (t.group g).gdEn = false ∧ (t.group g).inhibit = true) ∧
    (∀ n, (t.sout n).on = false) ∧
    (t.fd.safe = 0xFFFFF ∧ t.fd.cmd = 0 ∧ t.fd.readback = 0 ∧ t.fd.switched = e.fd.switched ∧ t.fd.faults = e.fd.faults) ∧
    (∀ x, t.rd8 x = (if x < 0x40000000 then 0 else e.rd8 x)) ∧ (t.jn.bank0 = e.jn.bank0 ∧ t.jn.bank1 = e.jn.bank1 ∧ t.jn.running = [] ∧ t.jn.queue = [] ∧ t.jn.done = []) ∧
    (∀ x ∈ t.jn.sessions, x.key = none) ∧ (t.cn.ring = e.cn.ring ∧ t.cn.newest = e.cn.newest ∧ t.cn.front = [] ∧ t.cn.screes = []) ∧
    (t.pm.sets = e.pm.sets ∧ t.pm.drafts = e.pm.drafts ∧ t.pm.run = []) ∧ t.cp = {} ∧ t.hp = {} ∧ t.eth = [] ∧ t.can = [] ∧ t.fb = [] ∧
    (t.tm.servo = .free ∧ t.tm.stepEpoch = (if cold then 0 else e.tm.stepEpoch) ∧ t.tm.coarseNs = (if cold then none else e.tm.coarseNs)) ∧ t.sent = e.sent
  (∀ dt,
    Acts (.powerOn dt false) dt (fun _ => True) (resets true 1) ∧ Acts (.powerOn dt true) dt (fun _ => True) (resets false 2) ∧
    Acts (.vinResetLevel dt) dt (fun _ => True) (fun e t => resets false 3 e t ∧ t.pw.holdup = e.pw.warnFrom.map fun n => (e.tm.now - n) / cyclesPerUs) ∧
    (∀ supply mv, Idles (.supplyFault dt supply mv) dt (fun e => supply = 0 ∨ 4 < supply ∨ e.pw.state = .off) ∧
      Acts (.supplyFault dt supply mv) dt (fun e => 0 < supply ∧ supply ≤ 4 ∧ e.pw.state ≠ .off)
        (fun e t => resets false 4 e t ∧ t.pw.owed = e.pw.owed ++ [(0xE, 3, 7, b1 supply ++ b2 mv)] ++ debug e)) ∧
    (∀ mv, let absent (e : State) : Prop := (e.pw.held = true ∧ e.pw.resetSource = 3) ∨ e.pw.state = .off
      Idles (.vaonBkLow dt mv) dt (fun e => 2500 ≤ mv ∨ ¬ absent e) ∧
      Acts (.vaonBkLow dt mv) dt (fun e => mv < 2500 ∧ absent e) (fun e t => resets true 3 e t ∧ t.pw.owed = e.pw.owed ++ [(0xE, 3, 7, b1 5 ++ b2 mv)])) ∧
    (∀ ns, Idles (.resetNLow dt ns) dt (fun _ => ns < 10000) ∧ Acts (.resetNLow dt ns) dt (fun _ => 10000 ≤ ns) (resets false 5)) ∧
    ∀ secs, let stuck (e : State) : Prop := e.pw.held = true ∧ e.pw.resetSource = 5 ∧ 10 < secs
      Idles (.stuckReset dt secs) dt (fun e => ¬ stuck e) ∧
      Acts (.stuckReset dt secs) dt stuck (fun e t => t.pw.stuck = some (min 65535 secs) ∧ t.pw.fault.testBit 0 = true ∧ t.pw.held = true ∧ OnlyChanges [.pw, .hp] e t)) ∧
  (∀ dt (watchdog : Bool),
    let w := if watchdog then Instr.supervisorWatchdog dt else Instr.heartbeatDomainReset dt
    let recent (e : State) : List Nat := e.pw.domainTimes.filter fun n => decide (e.tm.now < n + 600 * cyclesPerS)
    let on (e : State) : Prop := e.clocked = true ∧ e.inReset 1 = false
    Idles w dt (fun e => ¬ on e) ∧
    Acts w dt (fun e => on e ∧ e.parN P.PWR_DOMAIN_ESCALATE 0 ≤ (recent e).length) (resets false (if watchdog then 8 else 9)) ∧
    Acts w dt (fun e => on e ∧ (recent e).length < e.parN P.PWR_DOMAIN_ESCALATE 0) (fun e t => (1, (if watchdog then 2 else 3), e.tm.now) ∈ t.pw.inReset ∧ t.inReset 1 = true ∧
      t.pw.ready = false ∧ t.pw.entry = none ∧ t.pw.domainTimes = recent e ++ [e.tm.now] ∧ (∀ x, t.rd8 x = (if x < 0x80000 then 0 else e.rd8 x)) ∧
      e.Tells t [(0xF, 2, 2, b1 1 ++ b1 (if watchdog then 2 else 3))] ∧ OnlyChanges (.pw :: .mem :: reportTouches) e t)) ∧
  (∀ dt block deferred,
    let w := Instr.domainResetRelease dt block deferred
    let cycles : Nat := if block = 1 then 32 else if block = 2 then 64 else if block = 0xA ∨ block = 0xB ∨ block = 0xD then 256 else if block = 0xC then 320 else 128
    let speaks : List (Nat × Nat × Nat × List Nat) := if deferred = 0 then [] else [(0xF, 1, 3, b1 block ++ b4 deferred)]
    Idles w dt (fun e => e.inReset block = false ∨ e.clocked = false) ∧
    ∀ source n, let found (e : State) : Prop := e.pw.inReset.find? (fun x => decide (x.1 = block)) = some (block, source, n)
      Idles w dt (fun e => found e ∧ e.tm.now < n + cycles) ∧
      Acts w dt (fun e => found e ∧ n + cycles ≤ e.tm.now ∧ e.clocked = true ∧ (block = 2 ∨ block = 9 ∨ block = 0xA ∨ block = 0xB))
        (fun e t => t.pw.inReset = e.pw.inReset.filter (fun x => decide (x.1 ≠ block)) ∧ t.inReset block = false ∧ e.Tells t speaks ∧ OnlyChanges (.pw :: reportTouches) e t) ∧
      Acts w dt (fun e => found e ∧ n + cycles ≤ e.tm.now ∧ e.clocked = true ∧ block = 0xC) (fun e t => t.inReset block = false ∧
        ∀ k, k < 4 → (t.ctl k).state = (if e.parN P.CAN_ENABLE k = 1 then .active else .off)) ∧
      Acts w dt (fun e => found e ∧ n + cycles ≤ e.tm.now ∧ e.clocked = true ∧ block = 0xD) (fun _ t => t.inReset block = false ∧ t.fd.linkA = true ∧ t.fd.linkB = true ∧
        t.fd.safe = 0xFFFFF ∧ t.fd.va.state = .missing ∧ t.fd.vb.known = false) ∧
      Acts w dt (fun e => found e ∧ n + cycles ≤ e.tm.now ∧ e.clocked = true ∧ block = 1 ∧ e.jn.done = [] ∧ (e.jn.fail0 && e.jn.fail1) = false) (fun e t =>
        let lost := e.jn.queue ++ e.jn.running.filter fun c => !e.heldByRidge c
        t.pw.ready = true ∧ t.inReset 1 = false ∧ t.jn.queue = [] ∧ t.jn.running = e.jn.running.filter e.heldByRidge ∧ (∀ x ∈ t.jn.sessions, x.key = none) ∧
        (∀ c ∈ lost, (t.entry c.slot).state = 3 ∧ ((e.entry c.slot).opcode / 256 ≠ 3 → (e.entry c.slot).opcode / 256 ≠ 6 → (e.entry c.slot).opcode / 256 ≠ 9 →
          (t.entry c.slot).outcome = 2 ∧ (t.entry c.slot).status = 0x10)) ∧ ∀ k, k < 4 → (t.draft k).state ≠ .checked)) ∧
  (∀ h : Hdr,
    let done (u : State) (c : Cmd) (b : State) : Prop := u.Reports c 2 0 0 [] ∧ OnlyChanges (.pw :: replyTouches) b u
    let may (b : State) (block : Nat) : Prop := block = 1 ∨ block = 0xA ∨ (block = 2 ∧ b.framesRun = false) ∨ (block = 9 ∧ b.capRuns = false) ∨
      (block = 0xB ∧ ∀ a, a < b.axes → b.axisType a = 1 → b.parN P.AX_REMOTE_LINK a = 0 → (b.axis a).mode = .disabled) ∨
      (block = 0xC ∧ ∀ a, a < b.axes → b.axisType a = 1 → b.parN P.AX_REMOTE_LINK a ≠ 0 → (b.axis a).mode = .disabled) ∨
      (block = 0xD ∧ (∀ n, n < 4 → (b.sout n).on = false) ∧
        ∀ n, n < 16 → (b.fd.readback.testBit n = true ↔ (b.testSource n = false ∧ b.parN P.FIO_OUT_SAFE n = 1)))
    Runs (.resetRequestWarm h) (fun c _ => c.link = .host) (fun c b t => done t c b ∧ t.pw.resetDue = some (2, 0, true)) ∧
    Runs (.resetRequestWarm h) (fun c b => c.link ≠ .host ∧ b.jn.done = []) (fun c b t => ∃ u, done u c b ∧ resets false 6 u t) ∧
    ∀ block, block < 256 →
      Runs (.resetRequestDomain h block) (fun _ b => ¬ may b block) (fun c b t => b.Refuses t c 0x300) ∧
      Runs (.resetRequestDomain h block) (fun c b => may b block ∧ c.link = .host) (fun c b t => done t c b ∧ t.pw.resetDue = some (3, block, true)) ∧
      Runs (.resetRequestDomain h block) (fun c b => may b block ∧ c.link ≠ .host ∧ b.jn.done = [] ∧ block ≠ 1) (fun c b t => ∃ u, done u c b ∧ t.inReset block = true ∧
        t.pw.resetDue = none ∧ (block = 2 → t.sp = []) ∧ (block = 9 → t.capRuns = false) ∧ (block = 0xA → t.hp.mbxIn = [] ∧ t.hp.mbxOut = []) ∧
        (block = 0xB → t.eth = [] ∧ t.dx = {}) ∧ (block = 0xC → t.can = []) ∧ (block = 0xD → t.fd.linkA = false ∧ t.fd.linkB = false ∧ t.fd.safe = 0xFFFFF))) ∧
  (∀ dt (b : BootInputs),
    let w := Instr.startSequence dt b
    let named (e : State) : Nat := if e.pw.bootB then 1 else 0
    let good (e : State) (k : Nat) : Prop := (e.slot (0x100 + k)).state = .valid
    let starts (e t : State) (cause : Bool) (run : Option Nat) : Prop := t.pw.held = false ∧ t.pw.ready = true ∧ t.pw.state = .run ∧ t.pw.running = run ∧
      t.pw.strapBoot = b.strapBoot % 4 ∧ t.pw.strapHost = b.strapHost ∧ t.pw.pwrFail = e.pw.warning ∧
      t.pw.mode = (if cause then .recovery else if t.parN P.PWR_SERVICE_MODE 0 = 1 then .service else .commissioning) ∧ t.rg.state = e.rg.state ∧
      (∀ k, k < 4 → (t.draft k).state ≠ .checked) ∧ (cause = false → ∀ k, k < 4 → t.parN P.CAN_ENABLE k = 1 → (t.ctl k).state = .active) ∧
      t.fd.linkA = true ∧ t.fd.linkB = true ∧ t.fd.safe = 0xFFFFF
    let loads (e : State) : Prop := e.pw.held = true ∧ e.pw.loads < 8 ∧ b.loadCut = false
    Idles w dt (fun e => e.pw.held = false) ∧
    Acts w dt (fun e => e.pw.held = true ∧ e.pw.loads < 8 ∧ b.loadCut = true) (fun e t => t.pw = { e.pw with loads := e.pw.loads + 1 } ∧ OnlyChanges [.pw] e t) ∧
    Idles w dt (fun e => loads e ∧ b.strapBoot % 4 = 2 ∧ b.download = false ∧ (b.optionA = true ∨ b.optionB = true)) ∧
    Acts w dt (fun e => e.pw.held = true ∧ 8 ≤ e.pw.loads) (fun e t => starts e t true none ∧ t.pw.loads = e.pw.loads) ∧
    Acts w dt (fun e => loads e ∧ ((b.optionA = false ∧ b.optionB = false ∧ b.strapBoot % 4 ≠ 2) ∨ b.strapBoot % 4 = 3 ∨
        (b.strapBoot % 4 = 1 ∧ (b.strapHost = false ∨ b.flash = none)) ∨ (b.strapBoot % 4 = 0 ∧ ¬ good e 0 ∧ ¬ good e 1))) (fun e t => starts e t true none ∧ t.pw.loads = 0) ∧
    ∀ run, Acts w dt (fun e => loads e ∧ (b.optionA = true ∨ b.optionB = true) ∧
        ((b.strapBoot % 4 = 0 ∧ ((good e (named e) ∧ run = some (named e)) ∨ (¬ good e (named e) ∧ good e (1 - named e) ∧ run = some (1 - named e)))) ∨
          (b.strapBoot % 4 = 1 ∧ b.strapHost = true ∧ b.flash ≠ none ∧ run = none) ∨ (b.strapBoot % 4 = 2 ∧ b.download = true ∧ run = none)))
      (fun e t => starts e t false run ∧ t.pw.loads = 0)) ∧
  ∀ dt,
    let serves (e : State) : Prop := e.pw.held = false ∧ e.pw.state ≠ .off
    (∀ vin, Idles (.supplyWarning dt vin) dt (fun e => e.pw.warning = true) ∧
      Acts (.supplyWarning dt vin) dt (fun e => e.pw.warning = false ∧ ¬ serves e) (fun e t => t.pw.warning = true ∧ t.pw.pwrFail = true ∧ t.pw.warnFrom = some e.tm.now ∧
        OnlyChanges [.pw] e t) ∧
      Acts (.supplyWarning dt vin) dt (fun e => e.pw.warning = false ∧ serves e) (fun e t => t.pw.warning = true ∧ t.pw.pwrFail = true ∧ t.pw.warnFrom = some e.tm.now ∧
        t.pw.lowest = vin ∧ t.hp.irqFlags.testBit 4 = true ∧ t.fd.savedSwitched = e.fd.switched ∧ t.fd.savedFaults = e.fd.faults ∧
        t.cn = { (e.told [(0xE, 2, 5, b2 vin)]).cn with flushFrom := some e.tm.now, flushed := 0 } ∧ OnlyChanges (.pw :: .fd :: reportTouches) e t)) ∧
    (∀ low n, Idles (.supplyDip dt low) dt (fun e => e.pw.warnFrom = none ∨ (e.pw.warnFrom = some n ∧ e.tm.now < n + 5 * cyclesPerMs)) ∧
      Acts (.supplyDip dt low) dt (fun e => e.pw.warnFrom = some n ∧ n + 5 * cyclesPerMs ≤ e.tm.now ∧ serves e) (fun e t => t.pw.warning = false ∧ t.pw.warnFrom = none ∧
        t.pw.pwrFail = false ∧ t.hp.irqFlags.testBit 4 = true ∧ ({ e with pw := { e.pw with warning := false } } : State).Tells t [(0xE, 2, 6, b2 (min low e.pw.lowest) ++ b4 ((e.tm.now - n) / cyclesPerUs))] ∧
        OnlyChanges (.pw :: reportTouches) e t)) ∧
    Idles (.pllLockLost dt) dt (fun e => e.clocked = false) ∧
    Acts (.pllLockLost dt) dt (fun e => e.clocked = true) (fun e t => t.rg.state = .stopped ∧ t.pw.pllLost = true ∧ t.pw.fault.testBit 2 = true ∧ (∀ k, (t.stage k).hiz = true) ∧
      t.pw.owed = e.pw.owed ++ (if e.framesRun then [(2, 1, 2, b1 2)] else []) ∧ (e.monitors → ∀ g, g < 4 → (t.group g).causes.testBit 16 = true))

/-- R643, R677, R727 to R736, R760: POWER_STATE and its entry handshake with the blocks' refusals, DELAY and silence, the entries themselves, and the
wakes from each source with their steps, tries and ends. That no wake begins during a handshake is the model's choice (notes/assumptions/71.md). -/
def Obligations.PowerStatesAndWakes : Prop :=
  let code (x : PowerState) : Nat := match x with | .run => 0 | .doze => 1 | .standby => 2 | .off => 3
  let begins (source : Nat) (slot : Option Nat) (e t : State) : Prop := ∃ w, t.pw.wake = some w ∧ w.source = source ∧ w.left = e.pw.state ∧ w.step = 1 ∧ w.tries = 0 ∧
    w.began = e.tm.now ∧ w.stepFrom = e.tm.now ∧ w.slot = slot ∧ (e.pw.state ≠ .standby → w.retryAt = none) ∧ (e.pw.lastTry = none → w.retryAt = none) ∧
    (∀ n, e.pw.lastTry = some n → e.pw.state = .standby → w.retryAt = (if e.tm.now < n + cyclesPerS then some (n + cyclesPerS) else none))
  let free (e : State) : Prop := e.pw.wake = none ∧ e.pw.entry = none ∧ e.pw.held = false
  (∀ (h : Hdr) (n : Nat), n < 256 →
    let w := Instr.powerState h n
    let target : PowerState := if n = 0 then .run else if n = 1 then .doze else if n = 2 then .standby else .off
    Runs w (fun _ _ => 3 < n) (fun c b t => b.Refuses t c 0x201) ∧
    Runs w (fun _ b => n ≤ 3 ∧ b.pw.state = target) (fun c b t => t.Reports c 2 0 0 [] ∧ OnlyChanges replyTouches b t) ∧
    Runs w (fun _ b => n ≤ 3 ∧ b.pw.state ≠ target ∧ b.pw.wake ≠ none) (fun c b t => b.Refuses t c 0x300) ∧
    Runs w (fun _ b => n = 0 ∧ b.pw.state = .doze ∧ free b) (fun c b t => t.InProgress c ∧ begins 1 (some c.slot) b t ∧ OnlyChanges (.pw :: linkTouches) b t) ∧
    Runs w (fun _ b => 1 ≤ n ∧ n ≤ 3 ∧ b.pw.state ≠ target ∧ free b) (fun c b t => t.InProgress c ∧ (∃ x, t.pw.entry = some x ∧ x.slot = c.slot ∧ x.session = c.session ∧ x.seq = c.seq ∧
      x.target = target ∧ x.blocks = (if n = 1 then [9, 6, 3, 2] else [9, 6, 3, 2, 0xC, 0xB, 0xD, 7, 8, 1, 0x10]) ∧ x.stopped = [] ∧ x.asked = 0 ∧ x.since = b.tm.now ∧ x.retryAt = none) ∧
      OnlyChanges (.pw :: linkTouches) b t)) ∧
  (∀ (dt : Nat) (a : BlockAnswer) (x : EntrySt) (k : Nat) (ks : List Nat),
    let w := Instr.powerBlockAnswer dt a
    let asks (e : State) : Prop := e.pw.entry = some x ∧ x.blocks = k :: ks ∧ x.retryAt = none ∧ e.clocked = true ∧ e.tm.now ≤ x.since + cyclesPerMs
    let refuses (e : State) (r : Nat) : Prop := (k = 9 ∧ r = 1 ∧ e.capRuns = true) ∨
      (k = 9 ∧ r = 8 ∧ e.capRuns = false ∧ x.target = .off ∧ ∃ j, j < e.parN P.CAP_SEGMENTS 0 ∧ e.userSegs ≤ j ∧ (e.seg j).held = true) ∨
      (k = 6 ∧ r = 1 ∧ ∃ j, j < e.axes ∧ (e.axis j).mode ≠ .disabled) ∨ (k = 3 ∧ r = 1 ∧ ∃ j, j < e.stages ∧ (e.stage j).mode = .driving) ∨
      (k = 7 ∧ r = 3 ∧ ∃ g, g < 4 ∧ (e.group g).mode ≠ .sto ∧ (e.group g).mode ≠ .testing) ∨
      (k = 7 ∧ r = 4 ∧ (∀ g, g < 4 → (e.group g).mode = .sto ∨ (e.group g).mode = .testing) ∧ ∃ n, n < 4 ∧ (e.sout n).on = true) ∨
      (k = 7 ∧ r = 5 ∧ (∀ g, g < 4 → (e.group g).mode = .sto ∨ (e.group g).mode = .testing) ∧ (∀ n, n < 4 → (e.sout n).on = false) ∧
        (e.sf.brake ≠ none ∨ ∃ g, g < 4 ∧ (e.group g).mode = .testing)) ∨
      (k = 7 ∧ r = 6 ∧ (∀ g, g < 4 → (e.group g).mode = .sto) ∧ (∀ n, n < 4 → (e.sout n).on = false) ∧ e.sf.brake = none ∧ e.sf.draft ≠ none) ∨
      (k = 1 ∧ r = 7 ∧ ∃ c ∈ e.jn.running, c.slot ≠ x.slot)
    let fails (r : Nat) (e t : State) : Prop := t.pw.entry = none ∧ t.runningCmd x.slot = none ∧ ((e.runningCmd x.slot).isSome = true →
        ∃ d ∈ t.jn.done, d.slot = x.slot ∧ d.outcome = 2 ∧ d.status = 0x701 ∧ d.detail = k ∧ d.data = [k, r]) ∧
      e.Tells t [(0xE, 1, 2, b1 (code x.target) ++ b1 k ++ b1 r)] ∧ t.pw.state = e.pw.state ∧ (0xC ∉ x.stopped → OnlyChanges (.pw :: .jn :: reportTouches) e t)
    Idles w dt (fun e => e.pw.entry = none ∨ (e.pw.entry = some x ∧ (x.blocks = [] ∨ x.retryAt ≠ none ∨ e.clocked = false))) ∧
    Acts w dt (fun e => e.pw.entry = some x ∧ x.blocks = k :: ks ∧ x.retryAt = none ∧ e.clocked = true ∧ x.since + cyclesPerMs < e.tm.now) (fails 9) ∧
    (∀ r, Acts w dt (fun e => asks e ∧ refuses e r) (fails r) ∧ Acts w dt (fun e => asks e ∧ (∀ q, ¬ refuses e q) ∧ a = .refuse r) (fails r)) ∧
    (∀ us, let waits (e : State) : Prop := asks e ∧ (∀ q, ¬ refuses e q) ∧ (a = .delay us ∨ (a = .ready ∧ k = 0xC ∧ us = 1000 ∧ ∃ n, n < 4 ∧ (e.ctl n).idle = false))
      Acts w dt (fun e => waits e ∧ 3 ≤ x.asked) (fails 0xA) ∧
      Acts w dt (fun e => waits e ∧ x.asked < 3) (fun e t => t.pw.entry = some { x with asked := x.asked + 1, retryAt := some (e.tm.now + min us 10000 * cyclesPerUs) } ∧
        OnlyChanges [.pw] e t)) ∧
    let stops (e : State) : Prop := asks e ∧ (∀ q, ¬ refuses e q) ∧ a = .ready ∧ (k = 0xC → ∀ n, n < 4 → (e.ctl n).idle = true)
    let moved (e t : State) : Prop := t.pw.entry = some { x with blocks := ks, stopped := k :: x.stopped, asked := 0, since := e.tm.now }
    Acts w dt (fun e => stops e ∧ ks ≠ [] ∧ (k = 9 ∨ k = 6 ∨ k = 3 ∨ k = 7 ∨ k = 0xB)) (fun e t => moved e t ∧ OnlyChanges [.pw] e t) ∧
    Acts w dt (fun e => stops e ∧ ks ≠ [] ∧ k = 2) (fun e t => moved e t ∧ t.rg.state = .stopped) ∧
    Acts w dt (fun e => stops e ∧ ks ≠ [] ∧ k = 0xC) (fun e t => moved e t ∧ ∀ n, n < 4 → (t.ctl n).tx = [] ∧
      (t.ctl n).state = (if x.target = .standby ∧ e.parN P.CAN_WAKE_MODE n ≠ 0 then .sleep else .off)) ∧
    Acts w dt (fun e => stops e ∧ ks ≠ [] ∧ k = 0xD) (fun e t => moved e t ∧ t.fd.safe = 0xFFFFF ∧ OnlyChanges [.pw, .fd] e t) ∧
    Acts w dt (fun e => stops e ∧ ks ≠ [] ∧ k = 8) (fun e t => moved e t ∧ t.tm.coarseNs = some (e.busNs / 1000 * 1000) ∧ OnlyChanges [.pw, .tm] e t) ∧
    Acts w dt (fun e => stops e ∧ ks ≠ [] ∧ k = 1 ∧ x.target ≠ .off) (fun e t => moved e t ∧ t.runningCmd x.slot = none ∧ t.jn.done = [] ∨ x.target = .doze) ∧
    Acts w dt (fun e => stops e ∧ ks = [] ∧ k = 2 ∧ x.target = .doze) (fun _ t => t.pw.state = .doze ∧ t.pw.entry = none ∧ t.rg.state = .stopped ∧ t.runningCmd x.slot = none) ∧
    Acts w dt (fun e => stops e ∧ ks = [] ∧ k = 0x10 ∧ x.target ≠ .run ∧ x.target ≠ .doze) (fun e t => t.pw.state = x.target ∧ t.pw.entry = none ∧ t.pw.ready = false ∧
      t.eth = [] ∧ t.hp = {} ∧ t.sp = [] ∧ t.fd.safe = 0xFFFFF ∧ t.fd.linkA = false ∧ t.fd.linkB = false ∧ (x.target = .off → t.pw.running = none ∧ t.cp = {} ∧ t.fb = []) ∧
      ∀ y, t.rd8 y = (if y < 0x20000000 ∨ (0x30000000 ≤ y ∧ y < 0x50000000) then e.rd8 y else 0)) ∧
    (∀ n, Idles (.powerBlockDelayExpired dt) dt (fun e => e.pw.entry = none ∨ (e.pw.entry = some x ∧ (x.retryAt = none ∨ (x.retryAt = some n ∧ e.tm.now < n)))) ∧
      Acts (.powerBlockDelayExpired dt) dt (fun e => e.pw.entry = some x ∧ x.retryAt = some n ∧ n ≤ e.tm.now)
        (fun e t => t.pw.entry = some { x with retryAt := none, since := e.tm.now } ∧ OnlyChanges [.pw] e t)) ∧
    Idles (.powerBlockNoAnswer dt) dt (fun e => e.pw.entry = none ∨ (e.pw.entry = some x ∧ (x.blocks = [] ∨ x.retryAt ≠ none ∨ e.tm.now < x.since + cyclesPerMs))) ∧
    Acts (.powerBlockNoAnswer dt) dt (fun e => e.pw.entry = some x ∧ x.blocks = k :: ks ∧ x.retryAt = none ∧ x.since + cyclesPerMs ≤ e.tm.now) (fails 9)) ∧
  (∀ dt,
    let doze (e : State) : Prop := e.pw.state = .doze
    let standby (e : State) : Prop := e.pw.state = .standby
    let wakes (e : State) (source : Nat) : Prop := (source = 2 ∧ doze e) ∨ (source = 3 ∧ standby e ∧ e.parN P.HSP_WAKE_ON_SEL 0 = 1) ∨
      (source = 4 ∧ (doze e ∨ standby e) ∧ ∃ p, p < 2 ∧ e.parN P.ETH_WAKE_EN p = 1) ∨ (source = 5 ∧ standby e ∧ ∃ n, n < 4 ∧ (e.ctl n).state = .sleep) ∨
      (source = 6 ∧ (doze e ∨ standby e) ∧ e.parN P.PWR_WAKE_IN_MASK 0 ≠ 0) ∨
      (source = 7 ∧ (doze e ∨ standby e ∨ e.pw.state = .off) ∧ e.parN P.PWR_WAKE_TIME 0 ≠ 0xFFFF) ∨ (source = 8 ∧ standby e)
    (∀ source, let w := Instr.wakeSource dt source
      let speaks : List (Nat × Nat × Nat × List Nat) := if source = 2 ∨ source = 3 then [(0xA, 0, 4, b1 (source - 1))] else []
      Idles w dt (fun e => ¬ wakes e source ∨ ¬ free e) ∧
      Acts w dt (fun e => wakes e source ∧ free e ∧ e.pw.state ≠ .off) (fun e t => begins source none e t ∧ e.Tells t speaks ∧ OnlyChanges (.pw :: reportTouches) e t) ∧
      Acts w dt (fun e => wakes e source ∧ free e ∧ e.pw.state = .off)
        (fun e t => begins source none e t ∧ t.pw.held = true ∧ t.pw.resetKind = 2 ∧ t.pw.resetSource = 0 ∧ t.rg.state = .stopped ∧ ∀ y, y < 0x40000000 → t.rd8 y = 0)) ∧
    (∀ s, (s.elapse dt).minuteOfDay = s.parN P.PWR_WAKE_TIME 0 → exec (.wakeTimeReached dt) s = exec (.wakeSource dt 7) s) ∧
    Idles (.wakeTimeReached dt) dt (fun e => e.minuteOfDay ≠ e.parN P.PWR_WAKE_TIME 0) ∧
    (∀ port mac ok payload, let w := Instr.wakeFrame dt port mac ok payload
      let fits (e : State) : Prop := port < 2 ∧ (standby e ∨ (doze e ∧ e.portRuns port = true)) ∧ e.parN P.ETH_WAKE_EN port = 1 ∧ ok = true ∧
        (mac = (Config.baseMac + port) % 2 ^ 48 ∨ mac = 0xFFFFFFFFFFFF) ∧ payload.take 2 = [1, 0x7F] ∧ fld payload 2 8 = Config.serial % 2 ^ 64 ∧
        fld payload 10 4 = e.parN P.ETH_WAKE_CODE 0 ∧ fld payload 14 2 = 0
      Idles w dt (fun e => ¬ fits e ∨ ¬ free e) ∧
      Acts w dt (fun e => fits e ∧ free e) (fun e t => begins 4 none e t ∧ e.Tells t [(0xB, 1, 7, b1 port)] ∧ OnlyChanges (.pw :: reportTouches) e t)) ∧
    (∀ n (cause : CanWakeCause), let w := Instr.canWake dt n cause
      let matches_ (e : State) (ident : Nat) (data : List Nat) : Prop := ident &&& e.parN P.CAN_WAKE_ID_MASK n = e.parN P.CAN_WAKE_ID n &&& e.parN P.CAN_WAKE_ID_MASK n ∧
        data.length = e.parN P.CAN_WAKE_DLC n ∧ ofLe data &&& e.parN P.CAN_WAKE_DATA_MASK n = e.parN P.CAN_WAKE_DATA n &&& e.parN P.CAN_WAKE_DATA_MASK n
      let fits (e : State) (k : Nat) : Prop := (e.parN P.CAN_WAKE_MODE n = 1 ∧ k = 1 ∧ (cause = .dominant ∨ ∃ i d, cause = .frame i d)) ∨
        (e.parN P.CAN_WAKE_MODE n = 2 ∧ k = 2 ∧ ∃ i d, cause = .frame i d ∧ matches_ e i d) ∨ (e.parN P.CAN_WAKE_MODE n = 2 ∧ k = 3 ∧ cause = .frameErrors)
      let on (e : State) : Prop := n < 4 ∧ standby e ∧ (e.ctl n).state = .sleep ∧ free e
      Idles w dt (fun e => n ≥ 4 ∨ ¬ standby e ∨ (e.ctl n).state ≠ .sleep ∨ e.pw.wake ≠ none ∨ e.pw.held = true ∨ ∀ k, ¬ fits e k) ∧
      ∀ k, Acts w dt (fun e => on e ∧ fits e k) (fun e t => begins 5 none e t ∧ (t.ctl n).wakeSeen = true ∧ (∀ j, j ≠ n → t.ctl j = e.ctl j) ∧
        e.Tells t [(0xC, 1, 7, b1 n ++ b1 k)] ∧ OnlyChanges (.pw :: .can :: reportTouches) e t))) ∧
  ∀ (dt : Nat) (x : WakeSt),
    let runs (e : State) : Prop := e.pw.wake = some x ∧ x.retryAt = none ∧ e.pw.held = false
    Idles (.wakeStepDone dt) dt (fun e => e.pw.wake = none ∨ (e.pw.wake = some x ∧ (x.retryAt ≠ none ∨ e.pw.held = true))) ∧
    Acts (.wakeStepDone dt) dt (fun e => runs e ∧ x.left ≠ .doze ∧ x.step < 5) (fun e t => t.pw.wake = some { x with step := x.step + 1, stepFrom := e.tm.now } ∧ OnlyChanges [.pw] e t) ∧
    Acts (.wakeStepDone dt) dt (fun e => runs e ∧ x.left ≠ .doze ∧ x.step = 5 ∧ e.mm.lost = [])
      (fun e t => t.pw.wake = some { x with step := 6, stepFrom := e.tm.now } ∧ OnlyChanges [.pw] e t) ∧
    (∀ n, Acts (.wakeStepDone dt) dt (fun e => runs e ∧ x.left ≠ .doze ∧ x.step = 5 ∧ e.mm.lost = [(0, n)]) (fun e t => t.pw.held = true ∧ t.pw.resetKind = 2 ∧
        (∃ w, t.pw.wake = some w ∧ w.source = x.source) ∧ t.mm.lost = [] ∧ (∀ y, y < 0x40000000 → t.rd8 y = 0) ∧ (0x10, 2, 3, b2 1 ++ b4 n) ∈ t.pw.owed ∧ t.jn.bank0 = e.jn.bank0) ∧
      Acts (.wakeStepDone dt) dt (fun e => runs e ∧ x.left ≠ .doze ∧ x.step = 5 ∧ e.mm.lost = [(1, n)]) (fun e t => t.pw.wake = some { x with step := 6, stepFrom := e.tm.now } ∧
        t.rg.tablesKept = false ∧ (∀ y, t.rd8 y = (if 0x10000000 ≤ y ∧ y < 0x10200000 then 0 else e.rd8 y)) ∧ t.mm.lost = [] ∧ e.Tells t [(0x10, 2, 3, b2 2 ++ b4 n)])) ∧
    Acts (.wakeStepDone dt) dt (fun e => runs e ∧ x.left = .doze ∧ e.pw.state = .doze ∧ e.pw.wakeFail = none) (fun e t => t.pw.state = .run ∧ t.pw.wake = none ∧
      t.hp.irqFlags.testBit 6 = true ∧ (∀ k, x.slot = some k → e.Ends t k 0) ∧ t.fd.va.known = false ∧ t.fd.vb.state = .missing ∧ t.rg = e.rg ∧ t.mem = e.mem ∧
      e.Tells t [(0xE, 1, 3, b1 x.source ++ b1 1 ++ b4 ((e.tm.now - x.began) / cyclesPerUs))]) ∧
    Acts (.wakeStepDone dt) dt (fun e => runs e ∧ x.left = .standby ∧ 6 ≤ x.step) (fun e t => t.pw.state = .run ∧ t.pw.wake = none ∧ t.pw.ready = true ∧
      t.hp.irqFlags.testBit 6 = true ∧ t.fd.linkA = true ∧ t.fd.linkB = true ∧ t.fd.safe = 0xFFFFF ∧ t.fd.va.known = false ∧ t.mem = e.mem ∧ t.rg.state = e.rg.state ∧
      t.tm.servo = .free ∧ ∀ n, n < 4 → (t.ctl n).state = (if e.parN P.CAN_ENABLE n = 1 then .active else .off)) ∧
    (let limit : Nat := if x.step = 2 then 5000 else if x.step = 3 then 2000 else if x.step = 4 then 100 else if x.step = 5 then 3000 else 1000
    let beyond (e : State) : Prop := runs e ∧ x.left = .standby ∧ 2 ≤ x.step ∧ x.stepFrom + limit * cyclesPerUs ≤ e.tm.now
    Idles (.wakeStepTimeout dt) dt (fun e => e.pw.wake = none ∨ (e.pw.wake = some x ∧ ¬ beyond e)) ∧
    Acts (.wakeStepTimeout dt) dt (fun e => beyond e ∧ x.tries < 2)
      (fun e t => t.pw.wake = some { x with tries := x.tries + 1, retryAt := some (e.tm.now + 10 * cyclesPerMs) } ∧ t.pw.state = e.pw.state ∧ OnlyChanges [.pw] e t) ∧
    Acts (.wakeStepTimeout dt) dt (fun e => beyond e ∧ 2 ≤ x.tries) (fun e t => t.pw.wake = none ∧ t.pw.wakeSets = e.pw.wakeSets + 1 ∧
      t.pw.wakeFail = some (x.step, 3, e.pw.wakeSets + 1) ∧ t.pw.lastTry = some e.tm.now ∧ t.pw.fault.testBit 1 = true ∧ t.pw.state = e.pw.state ∧ OnlyChanges [.pw, .hp] e t)) ∧
    ∀ n, Idles (.wakeRetry dt) dt (fun e => e.pw.wake = none ∨ (e.pw.wake = some x ∧ (x.retryAt = none ∨ (x.retryAt = some n ∧ e.tm.now < n)))) ∧
      Acts (.wakeRetry dt) dt (fun e => e.pw.wake = some x ∧ x.retryAt = some n ∧ n ≤ e.tm.now)
        (fun e t => t.pw.wake = some { x with step := if x.tries = 0 then 1 else 2, stepFrom := e.tm.now, retryAt := none } ∧ OnlyChanges [.pw] e t)

/-- R76, R82 to R84, R86, R438, R439, R718: what each image command does to its Traverse slot or firmware copy, what an image that passes the checks
of step 3 has, and what its activation puts into the parameter store. The refusal of a length beyond the slot is log entry 21's. -/
def Obligations.ImageCommands : Prop :=
  let refused (c : Cmd) (b t : State) (st detail i : Nat) : Prop := t.Reports c 2 st detail (le 4 i) ∧
    b.Tells t [(2, 1, 0xA, b2 st ++ b2 detail ++ b4 i)]
  let others (k : Nat) (b t : State) : Prop := ∀ j, j ≠ k → t.slot j = b.slot j
  let unsigned (b : State) (k : Nat) (im : Image) : Prop := (b.slot k).written < im.length ∨ b.slotHashOk k im.length = false ∨
    Config.signatureOk ((b.rdN (slotBase k) im.length).take 0xB0) (sub (b.rdN (slotBase k) im.length) 0xB0 64) = false
  let fits (b : State) (im : Image) : Prop := im.magic = 0x54525631 ∧ im.format / 256 = 1 ∧ im.part = b.part ∧ im.minStepping ≤ b.stepping ∧
    im.spurs ≤ b.spurs ∧ im.stages ≤ b.stages ∧ im.machines ≤ b.machines ∧ im.axes ≤ b.axes ∧ im.feedback ≤ b.channels
  (∀ (h : Hdr) length, Runs (.imageBegin h length) (fun _ _ => True) (fun c b t =>
    let k := c.target % 4096
    let n := length % 2 ^ 32
    let held : Prop := (b.slot k).state = .active ∨ (4 ≤ k ∧ (b.pw.running = some (k % 2) ∨ (k % 2 = 1 ↔ b.pw.bootB = true)))
    (held → b.Refuses t c 0x300) ∧ (¬ held → slotRoom k < n → b.Refuses t c 0x201) ∧
    (¬ held → n ≤ slotRoom k → t.Reports c 2 0 0 [] ∧ (t.slot k).state = .writing ∧ (t.slot k).written = 0 ∧ (t.slot k).length = n ∧ others k b t ∧
      OnlyChanges (.rg :: replyTouches) b t))) ∧
  (∀ (h : Hdr) offset data, Runs (.imageData h offset data) (fun _ _ => True) (fun c b t =>
    let k := c.target % 4096
    let x := b.slot k
    let ok : Prop := x.state = .writing ∧ offset % 2 ^ 32 = x.written ∧ x.written + data.length ≤ x.length
    (¬ ok → t.Reports c 2 0x300 0 (le 4 x.written) ∧ OnlyChanges replyTouches b t) ∧
    (ok → t.Reports c 2 0 0 [] ∧ t.slot k = { x with written := x.written + data.length } ∧ others k b t ∧
      t.rdN (slotBase k + x.written) data.length = data.map (· % 256) ∧
      (∀ a, a < slotBase k + x.written ∨ slotBase k + x.written + data.length ≤ a → t.rd8 a = b.rd8 a) ∧
      OnlyChanges (.rg :: .mem :: replyTouches) b t))) ∧
  (∀ h : Hdr, Runs (.imageEnd h) (fun _ _ => True) (fun c b t =>
    let k := c.target % 4096
    let x := b.slot k
    let im := parseImage (b.rdN (slotBase k) x.written)
    let fw := b.rdN (slotBase k) x.written
    let fails (st detail i : Nat) : Prop := refused c b t st detail i ∧ (t.slot k).state = .empty ∧ others k b t ∧
      OnlyChanges (.rg :: replyTouches ++ reportTouches) b t
    let passes (i : Option Image) : Prop := t.Reports c 2 0 0 [] ∧ (t.slot k).state = .valid ∧ (t.slot k).image = i ∧ others k b t ∧
      OnlyChanges (.rg :: replyTouches) b t
    (x.state ≠ .writing → b.Refuses t c 0x300) ∧
    (x.state = .writing → k < 4 →
      (unsigned b k im → fails 0x600 0 0) ∧ (¬ unsigned b k im → ¬ fits b im → fails 0x601 0 0) ∧
      (∀ r, ¬ unsigned b k im → fits b im → b.contractRefusal im = some r → fails r.1 r.2.1 r.2.2) ∧
      (¬ unsigned b k im → fits b im → b.contractRefusal im = none → passes (some im))) ∧
    (x.state = .writing → 4 ≤ k →
      (Config.firmwareSigned fw = false → fails 0x600 0 0) ∧
      (Config.firmwareSigned fw = true → Config.firmwareMagic fw ≠ 0x46575231 ∨ Config.firmwarePart fw ≠ b.part → fails 0x601 0 0) ∧
      (Config.firmwareSigned fw = true → Config.firmwareMagic fw = 0x46575231 → Config.firmwarePart fw = b.part → passes none)))) ∧
  (∀ (s : State) (im : Image), (∀ r, s.contractRefusal im = some r → r.1 = 0x602 ∧ 1 ≤ r.2.1 ∧ r.2.1 ≤ 0xD) ∧
    (s.contractRefusal im = none → im.sectionCount = 10 ∧ (5000 ≤ im.frameLength ∧ im.frameLength ≤ 50000 ∧ im.frameLength % 8 = 0) ∧
      (∀ l ∈ im.body.loops, l.divExp ≤ 6 ∧ l.phase < 2 ^ l.divExp ∧ (l.kind = 1 → l.divExp = 0)) ∧
      (∀ x ∈ im.body.claims, x.program ≤ 65536 ∧ x.coeff ≤ 12288 ∧ x.xBytes ≤ 32768 ∧ x.yBytes ≤ 32768) ∧
      (∀ e ∈ im.allScheds, ∀ x ∈ e.2.ends, x.2 + 128 ≤ im.frameLength) ∧ im.body.commonsRun ≤ 32 ∧ im.body.commonsMax ≤ 128 ∧
      im.variantCount = ((List.range 8).filter im.variantMask.testBit).length ∧
      (∀ m, m < im.machines → m < s.machines → ∃ n, n = ((s.over im.body.init).machineStages m).length ∧ 1 ≤ n ∧ n ≤ 6) ∧
      (∀ i ∈ s.allIds, i / 2 ^ 24 ≠ 0x68 → (Store.read none im.body.init i).isSome = true) ∧
      ∀ e ∈ im.allScheds, ∀ p ∈ e.2.entries, ∀ i, i < 64 → (Store.read none e.2.sigs (p.1 * 64 + i)).isSome = true)) ∧
  (∀ h : Hdr, Runs (.imageActivate h) (fun _ _ => True) (fun c b t =>
    let k := c.target % 4096
    let x := b.slot k
    let fails (st detail i : Nat) : Prop := refused c b t st detail i ∧ OnlyChanges (replyTouches ++ reportTouches) b t
    let early : Prop := b.framesRun = true ∨ (∃ j, j < b.stages ∧ (b.stage j).mode = .driving) ∨ x.state ≠ .valid
    (4 ≤ k → x.state ≠ .valid → b.Refuses t c 0x300) ∧
    (4 ≤ k → x.state = .valid → t.Reports c 2 0 0 [] ∧ t.pw = { b.pw with bootB := decide (k % 2 = 1) } ∧ OnlyChanges (.pw :: replyTouches) b t) ∧
    (k < 4 → early → fails 0x300 0 0) ∧
    ∀ im, k < 4 → ¬ early → x.image = some im →
      let lost (j : Nat) : Prop := j < b.spurs ∧ im.usesSpur j = true ∧ b.spurOut j = true
      (b.slotHashOk k im.length = false → fails 0x600 0 0) ∧
      (∀ i j, b.slotHashOk k im.length = true → lost i → lost j → i < j → (∀ l, lost l → i ≤ l) → fails 0x602 0x10 i) ∧
      (∀ j, b.slotHashOk k im.length = true → lost j → (∀ l, lost l → l = j) → im.variantMask.testBit j = false → fails 0x602 0x10 j) ∧
      (b.slotHashOk k im.length = true → (∀ i j, lost i → lost j → i = j) → (∀ j, lost j → im.variantMask.testBit j = true) →
        t.Reports c 2 0 0 [] ∧ (t.slot k).state = .active ∧ (t.slot k).image = some im ∧
        (∀ j, j ≠ k → t.slot j = (if b.activeSlot = some j then { b.slot j with state := .valid } else b.slot j)) ∧
        (∃ l ns, t.cp.reports = l ++ [(2, 9, 1, ns)]) ∧
        (∀ p, im.body.programs = [p] → im.body.layout = [] → p.1 < b.spurs →
          t.rdN (progBase p.1 + p.2.1) (4 * p.2.2.length) = p.2.2.flatMap (le 4)) ∧
        (Store.wf none im.body.init = true → ∀ i (v : Int) d, Store.read none im.body.init i = some v → b.paramDef i = some d → d.effect ≠ 2 →
          i / 2 ^ 24 ≠ 0x68 →
          (d.structural = true ∨ Store.read none b.pm.run i = none → Store.read none t.pm.run i = some v) ∧
          (d.structural = false → Store.read none b.pm.run i ≠ none → Store.read none t.pm.run i = Store.read none b.pm.run i))))) ∧
  ∀ h : Hdr, Replies (.imageList h) (fun _ _ => True) (fun p b t =>
    let row (x : SlotSt) : List Nat := [match x.state with | .empty => 0 | .writing => 1 | .valid => 2 | .active => 3] ++ (match x.image with
      | some im => le 2 im.part ++ le 4 im.contractId ++ le 4 im.configId ++ padTo 10 im.buildStamp ++ [im.variantMask, 0, 0]
      | none => List.replicate 10 0 ++ List.replicate 10 255 ++ [0, 0, 0])
    t = b.reply p 0 0 0 none none (row (b.slot 0) ++ row (b.slot 1) ++ row (b.slot 2) ++ row (b.slot 3)))

/-- R743 to R749: the sections of AGEING_REPORT, the voltage after a slack measurement, the reserves of the elements and of the module, and what a
re-plan does at each reserve. -/
def Obligations.AgeingController : Prop :=
  (∀ h : Hdr,
    Replies (.ageingReportSummary h) (fun _ _ => True) (fun p b t => t = b.reply p 0 0 0 none none ([min 255 b.ag.reserve, b.ag.weakest] ++
      le 2 b.ag.voltage ++ stampOpt b.ag.exhaustion ++ leI 2 b.ag.trend ++ [b.ag.band, b.ag.flags] ++ (List.range 14).map b.elementReserve ++
      ((List.range 8).map fun k => leI 2 (satI 16 (b.ag.slack.getD k 0))).flatten ++ leI 4 (satI 32 b.ag.drift) ++
      leI 4 (satI 32 (b.ag.firstDrift.getD 0)) ++ [b.rg.retired % 256, 0] ++ stampOpt b.ag.lastPlan ++ le 4 (b.ag.runCycles / (3600 * cyclesPerS)))) ∧
    (∀ first count, Replies (.ageingReportWear h first count) (fun _ _ => True) (fun p b t =>
      let f := first % 2 ^ 16
      let n := count % 2 ^ 16
      (2047 < f ∨ 1024 < n → t = b.reply p 0x201 0 0 none none []) ∧
      (f ≤ 2047 → n ≤ 1024 → f + n ≤ 2048 → 2 * n ≤ replyRoom p.link (b.session p.session) →
        t = b.reply p 0 0 0 none none ((List.range n).flatMap fun i => le 2 (b.sectorWear (f + i)))))) ∧
    Replies (.ageingReportCounters h) (fun _ _ => True) (fun p b t => t = b.reply p 0 0 0 none none
      ((List.range 20).flatMap fun n => le 4 (Store.read 0 b.fd.switched n) ++ le 4 (Store.read 0 b.fd.faults n)))) ∧
  (∀ (s : State) k x, x ∈ s.mm.wear → x.1 / 64 = k → min 65535 (x.2 / 100000) ≤ s.sectorWear k) ∧
  (∀ (s : State) k, s.sectorWear k ≠ 0 → ∃ x ∈ s.mm.wear, x.1 / 64 = k ∧ s.sectorWear k = min 65535 (x.2 / 100000)) ∧
  (∀ dt (slack : List Int),
    let cpr (k : Nat) : Int := slack.getD k 0
    let goal (e : State) : Int := e.parN P.AGE_SLACK_TARGET 0
    let serves (e : State) (k : Nat) : Prop := k < 8 ∧ k < e.spurs ∧ e.rg.retired.testBit k = false
    let measured (e t : State) : Prop := (∀ k, k < 8 → t.ag.slack.getD k 0 = cpr k) ∧ OnlyChanges [.ag] e t
    Idles (.ageingSlackMeasure dt slack) dt (fun e => e.clocked = false) ∧
    Acts (.ageingSlackMeasure dt slack) dt (fun e => e.clocked = true ∧ ∃ k, serves e k ∧ cpr k < goal e)
      (fun e t => t.ag.voltage = min 900 (e.ag.voltage + 5) ∧ t.ag.highFrom = none ∧ measured e t) ∧
    Acts (.ageingSlackMeasure dt slack) dt (fun e => e.clocked = true ∧ (∀ k, serves e k → goal e ≤ cpr k) ∧ ∃ k, serves e k ∧ cpr k ≤ goal e + 20)
      (fun e t => t.ag.voltage = e.ag.voltage ∧ t.ag.highFrom = none ∧ measured e t) ∧
    Acts (.ageingSlackMeasure dt slack) dt (fun e => e.clocked = true ∧ (∃ k, serves e k) ∧ ∀ k, serves e k → goal e + 20 < cpr k)
      (fun e t => measured e t ∧
        (∀ n, e.ag.highFrom = some n → n + 24 * 3600 * cyclesPerS ≤ e.tm.now → e.ag.heldMax = false → t.ag.voltage = max 750 (e.ag.voltage - 5)) ∧
        (e.ag.highFrom = none ∨ (∃ n, e.ag.highFrom = some n ∧ e.tm.now < n + 24 * 3600 * cyclesPerS) ∨ e.ag.heldMax = true →
          t.ag.voltage = e.ag.voltage ∧ t.ag.highFrom = some (e.ag.highFrom.getD e.tm.now)))) ∧
  (∀ (s : State) b x v f, Store.read none s.ag.need (b * 16 + x) = some v → Store.read none s.ag.first (b * 16 + x) = some f → f < 900 →
    s.bandReserve b x = some (min 255 (100 * (900 - v) / (900 - f)))) ∧
  (∀ (s : State) x, ((∀ b, b < 4 → s.bandReserve b x = none) → s.elementReserve x = 100) ∧
    (∀ b r, b < 4 → s.bandReserve b x = some r → s.elementReserve x ≤ r ∧ ∃ c, c < 4 ∧ s.bandReserve c x = some (s.elementReserve x))) ∧
  (∀ s : State, let serves (x : Nat) : Prop := x < 14 ∧ (8 ≤ x ∨ (x < s.spurs ∧ s.rg.retired.testBit x = false))
    serves s.moduleReserve.2 ∧ s.moduleReserve.1 = s.elementReserve s.moduleReserve.2 ∧ ∀ x, serves x → s.moduleReserve.1 ≤ s.elementReserve x) ∧
  (∀ dt x v,
    let pre (e : State) : Prop := e.clocked = true ∧ e.elementServes x = true
    let key (e : State) : Nat := e.ag.band * 16 + x
    let first (r w : Nat) (e : State) : Nat × Nat × Nat × List Nat := (0x11, 0, 1, b1 r ++ b1 w ++ b2 e.ag.voltage ++ b1 e.ag.band)
    let notices (r w : Nat) (e t : State) : List (Nat × Nat × Nat × List Nat) :=
      (if r ≤ 25 ∧ e.ag.flags.testBit 0 = false then [(0x11, 1, 2, b1 r ++ b1 w)] else []) ++
      (if r ≤ 10 ∧ e.ag.flags.testBit 1 = false then
        [(0x11, 2, 3, b1 r ++ b1 w ++ b4 (match t.ag.exhaustion with | some n => n / nsPerS % 2 ^ 32 | none => 0xFFFFFFFF))] else [])
    Idles (.ageingReplan dt [(x, v)]) dt (fun e => e.clocked = false) ∧
    Acts (.ageingReplan dt [(x, v)]) dt pre (fun e t =>
      let r := t.ag.reserve
      let w := t.ag.weakest
      (r, w) = t.moduleReserve ∧ Store.read none t.ag.need (key e) = some v ∧
      Store.read none t.ag.first (key e) = some ((Store.read none e.ag.first (key e)).getD v) ∧
      (∀ k, k ≠ key e → Store.read none t.ag.need k = Store.read none e.ag.need k ∧ Store.read none t.ag.first k = Store.read none e.ag.first k) ∧
      t.ag.lastPlan = some e.busNs ∧ t.ag.daily.length ≤ e.parN P.AGE_TREND_DAYS 0 ∧
      (1 ≤ e.parN P.AGE_TREND_DAYS 0 → t.ag.daily.getLast? = some (r, e.busNs)) ∧
      (t.ag.flags.testBit 0 = true ↔ r ≤ 25) ∧ (t.ag.flags.testBit 1 = true ↔ r ≤ 10) ∧ OnlyChanges (.ag :: .rg :: reportTouches) e t ∧
      (r ≠ 0 → t.ag.flags.testBit 2 = false ∧ t.ag.heldMax = false ∧ t.ag.voltage = e.ag.voltage ∧ t.rg = e.rg ∧
        e.Tells t (first r w e :: notices r w e t)) ∧
      (r = 0 → e.mayRetire w = true → (∀ d, (w, d) ∉ e.rg.retireReq) → t.ag.voltage = e.ag.voltage ∧
        t.rg = { e.rg with retireReq := e.rg.retireReq ++ [(w, e.tm.now + 24 * 3600 * cyclesPerS)] } ∧
        e.Tells t (first r w e :: notices r w e t ++ [(0x11, 2, 5, b1 w ++ leI 2 (satI 16 (e.ag.slack.getD w 0)))])) ∧
      (r = 0 → e.mayRetire w = false → t.ag.voltage = 900 ∧ t.ag.heldMax = true ∧ t.ag.flags.testBit 2 = true ∧ t.rg = e.rg ∧
        e.Tells t (first r w e :: notices r w e t ++ if e.ag.flags.testBit 2 then [] else [(0x11, 3, 4, b1 w ++ b2 900)])))) ∧
  (∀ (s : State) k, s.mayRetire k = true ↔ k < 8 ∧ s.hasVariant k = true ∧ s.parN P.AGE_RETIRE 0 = 1 ∧
    ∀ j, j < 8 → j ≠ k → s.rg.excluded.testBit j = false ∧ s.rg.retired.testBit j = false) ∧
  ∀ dt band need, Idles (.temperatureBandCrossing dt band need) dt (fun e => 4 ≤ band ∨ band = e.ag.band ∨ e.clocked = false) ∧
    Acts (.temperatureBandCrossing dt band need) dt (fun e => band < 4 ∧ band ≠ e.ag.band ∧ e.clocked = true)
      (fun e t => exec (.ageingReplan 0 need) { e with ag := { e.ag with band := band } } = .next t)

/-- R724 to R726: the debug port's challenge and answer, its lock after 8 h, and which of its instructions act; the 16 bytes of a challenge are a free
value. R755, R756, R759, R760, R764: a word read with its ECC. A correctable error is counted and recorded, an uncorrectable one recorded, with the
effects of its reader; the seventeenth address of a bank within 24 h fails the bank. The codes of the readers in the record are log entry 73's. -/
def Obligations.DebugPortAndEccReads : Prop :=
  (let port (d : DebugSt) (e : State) : State := { e with pw := { e.pw with dbg := d } }
    let within (e : State) (n session : Nat) : Prop := e.pw.dbg.allowed = some (n, session) ∧ e.tm.now ≤ n + 600 * cyclesPerS ∧
      e.pw.mode = .service ∧ e.clocked = true
    let word (e : State) (c : List Nat) : List Nat := (hmac e.kDev ([0x44, 0x42, 0x47] ++ c ++ le 8 (Config.serial % 2 ^ 64))).take 16
    (∀ dt, Acts (.debugChallengeRead dt) dt (fun e => (∃ n x, within e n x) ∧ e.pw.dbg.unlocked = none)
        (fun e t => ∃ c, c.length = 16 ∧ (∀ x ∈ c, x < 256) ∧ t.pw = (port { e.pw.dbg with challenge := some c } e).pw ∧ OnlyChanges [.pw, .free] e t) ∧
      Idles (.debugChallengeRead dt) dt (fun e => (∀ n x, ¬ within e n x) ∨ e.pw.dbg.unlocked ≠ none)) ∧
    (∀ dt answer n x c,
      let pre (e : State) : Prop := within e n x ∧ e.pw.dbg.challenge = some c
      Acts (.debugUnlockAnswer dt answer) dt (fun e => pre e ∧ answer = word e c)
        (fun e t => t.pw = (port { e.pw.dbg with unlocked := some e.tm.now, challenge := none, wrong := 0 } e).pw ∧
          e.Tells t [(0xF, 2, 9, b2 x ++ [1])] ∧ OnlyChanges (.pw :: reportTouches) e t) ∧
      Acts (.debugUnlockAnswer dt answer) dt (fun e => pre e ∧ answer ≠ word e c ∧ e.pw.dbg.wrong < 2)
        (fun e t => t = port { e.pw.dbg with wrong := e.pw.dbg.wrong + 1 } e) ∧
      Acts (.debugUnlockAnswer dt answer) dt (fun e => pre e ∧ answer ≠ word e c ∧ 2 ≤ e.pw.dbg.wrong)
        (fun e t => t = port { e.pw.dbg with allowed := none, challenge := none, wrong := 0 } e) ∧
      Idles (.debugUnlockAnswer dt answer) dt (fun e => (∀ n x, ¬ within e n x) ∨ e.pw.dbg.challenge = none)) ∧
    (∀ dt n, Acts (.debugUnlockTimeout dt) dt (fun e => e.pw.dbg.unlocked = some n ∧ n + 8 * 3600 * cyclesPerS ≤ e.tm.now)
        (fun e t => t.pw = (port { e.pw.dbg with allowed := none, challenge := none, wrong := 0, unlocked := none } e).pw ∧
          e.Tells t [(0xF, 1, 0xA, [2])] ∧ OnlyChanges (.pw :: reportTouches) e t) ∧
      Idles (.debugUnlockTimeout dt) dt (fun e => e.pw.dbg.unlocked = none ∨ (e.pw.dbg.unlocked = some n ∧ e.tm.now < n + 8 * 3600 * cyclesPerS))) ∧
    ∀ dt ins,
      let opens (e : State) : Prop := e.pw.mode ≠ .service ∨ e.pw.dbg.unlocked ≠ none
      let quiet (e : State) : Prop := e.framesRun = false ∧ ∀ g, g < 4 → (e.group g).mode = .sto ∧ (e.group g).gdEn = false
      Acts (.debugPortInstruction dt ins) dt (fun _ => True) (fun e t => t = port { e.pw.dbg with instruction := t.pw.dbg.instruction } e ∧
        (ins = .bypass → t.pw.dbg.instruction = 0) ∧ (ins = .idcode → t.pw.dbg.instruction = 1) ∧ (ins = .sample → t.pw.dbg.instruction = 2) ∧
        (ins = .extest → opens e → quiet e → t.pw.dbg.instruction = 3) ∧ (ins = .clamp → opens e → quiet e → t.pw.dbg.instruction = 4) ∧
        (ins = .debugAccess → opens e → t.pw.dbg.instruction = 5) ∧
        (ins = .extest ∨ ins = .clamp → ¬ (opens e ∧ quiet e) → t.pw.dbg.instruction = 0) ∧
        (ins = .debugAccess → ¬ opens e → t.pw.dbg.instruction = 0))) ∧
  (let alive (region : Nat) (e : State) : Prop := region ≤ 8 ∧ e.pw.state ≠ .off ∧ e.pw.held = false
    let bad (region a code : Nat) : Nat × Nat × Nat × List Nat := (0x10, 3, 2, b1 region ++ b4 a ++ b1 code)
    (∀ dt region a reader result, Idles (.scrubTick dt region a result reader) dt (fun e => ¬ alive region e ∨ result = .clean)) ∧
    (∀ dt region a reader, Acts (.scrubTick dt region a .corrected reader) dt (alive region)
      (fun e t => Store.read 0 t.mm.corrected region = Store.read 0 e.mm.corrected region + 1 ∧
        e.Tells t [(0x10, 0, 1, b1 region ++ b4 a ++ b4 (Store.read 0 e.mm.corrected region + 1))] ∧ OnlyChanges reportTouches e t)) ∧
    (∀ dt region a, region ≠ 8 →
      let ends (code : Nat) (e t : State) : Prop := e.Tells t [bad region a code]
      Acts (.scrubTick dt region a .uncorrectable .dma) dt (alive region) (fun e t => ends 2 e t ∧ OnlyChanges reportTouches e t) ∧
      Acts (.scrubTick dt region a .uncorrectable .capture) dt (alive region) (fun e t => t.cn = (e.told [bad region a 3]).cn ∧
        t.cp.block.flags = e.cp.block.flags ||| 1 ∧ OnlyChanges reportTouches e t) ∧
      Acts (.scrubTick dt region a .uncorrectable .captureRead) dt (alive region) (fun e t => ends 4 e t ∧ t.mm.capBad = e.mm.capBad ++ [a] ∧
        OnlyChanges reportTouches e t) ∧
      Acts (.scrubTick dt region a .uncorrectable .scrubber) dt (alive region) (fun e t => ends 0 e t ∧ OnlyChanges reportTouches e t ∧
        let keeps : Prop := e.pw.state = .standby ∧ (region = 0 ∨ region = 1 ∨ region = 4)
        (keeps → Store.read 0 t.mm.lost region = Store.read 0 e.mm.lost region + 1 ∧
          t.mm.lostAddrs = (e.mm.lostAddrs ++ if e.mm.lostAddrs.length < 16 then [a] else [])) ∧
        (¬ keeps → t.mm.lost = e.mm.lost ∧ t.mm.lostAddrs = e.mm.lostAddrs)) ∧
      (∀ k, Acts (.scrubTick dt region a .uncorrectable (.spur k)) dt (fun e => alive region e ∧ k < 8 ∧ e.firstLoss k ∧ (e.spur k).has .dbg = false)
        (fun e t => ∃ u, ends (8 + k) e u ∧ OnlyChanges reportTouches e u ∧ u.LosesSpur t k 5 u.frameCycle)) ∧
      Acts (.scrubTick dt region a .uncorrectable .monitor) dt (fun e => alive region e ∧ region = 7 ∧ e.monitors)
        (fun e t => ∃ u, ends 5 e u ∧ OnlyChanges reportTouches e u ∧ exec (.monitorFault 0 2 a) u = .next t ∧ t.sf.mode = .faulted) ∧
      Acts (.scrubTick dt region a .uncorrectable .supervisor) dt (fun e => alive region e ∧ e.clocked = true ∧ e.inReset 1 = false ∧
          (e.pw.domainTimes.filter fun n => decide (e.tm.now < n + 600 * cyclesPerS)).length < e.parN P.PWR_DOMAIN_ESCALATE 0)
        (fun _ t => t.inReset 1 = true ∧ t.pw.ready = false ∧ t.pw.entry = none)) ∧
    ∀ dt a,
      let bank := mramBank a
      let old (e : State) : Nat := ((e.mm.mramErrs.filter fun (x : Nat × Nat × Nat) =>
        decide (e.tm.now < x.2.2 + 24 * 3600 * cyclesPerS ∧ x.2.1 ≠ a)).filter fun (x : Nat × Nat × Nat) => decide (x.1 = bank)).length
      Acts (.scrubTick dt 8 a .uncorrectable .scrubber) dt (fun e => alive 8 e ∧ (old e < 16 ∨ e.mm.bankFailed.testBit bank = true))
        (fun e t => e.Tells t [bad 8 a 0] ∧ t.mm.bankFailed = e.mm.bankFailed ∧ (bank, a, e.tm.now) ∈ t.mm.mramErrs ∧ OnlyChanges reportTouches e t) ∧
      Acts (.scrubTick dt 8 a .uncorrectable .scrubber) dt (fun e => alive 8 e ∧ 16 ≤ old e ∧ e.mm.bankFailed.testBit bank = false)
        (fun e t => t.mm.bankFailed.testBit bank = true ∧ (bank = 0 → t.jn.fail0 = true) ∧ (bank = 1 → t.jn.fail1 = true) ∧ t.jn = { e.jn with fail0 := t.jn.fail0, fail1 := t.jn.fail1 } ∧
          (∃ n l, t.cp.reports = e.cp.reports ++ [(0x10, 2, 3, n), (0x10, 4, 3, n)] ++ l) ∧ OnlyChanges (.jn :: reportTouches) e t))
end

