-- ==== Sys2Proof/Laws/Effect.lean ====
section
/-!
SUPPORT. Sys2Proof/Laws/Effect.lean: the calculus of frames; how `OnlyChanges` and the memory's canonical form go through a composition of operations.
-/

namespace Sys2Proof.Machine
set_option Elab.async false

theorem OnlyChanges.refl {ps : List Part} {s : State} : OnlyChanges ps s s :=
  ⟨⟨rfl, rfl, rfl⟩, fun p _ => by cases p <;> rfl⟩

theorem OnlyChanges.step {ps qs : List Part} {s x y : State} (hy : OnlyChanges qs x y) (hx : OnlyChanges ps s x)
    (h : ∀ q ∈ qs, q ∈ ps) : OnlyChanges ps s y := by
  obtain ⟨⟨a, b, c⟩, d⟩ := hy
  obtain ⟨⟨a', b', c'⟩, d'⟩ := hx
  refine ⟨⟨a.trans a', b.trans b', c.trans c'⟩, fun p hp => ?_⟩
  have h1 := d p (fun hq => hp (h p hq))
  have h2 := d' p hp
  cases p <;> exact Eq.trans h1 h2

/-- An operation from `s` to `t` changes at most the listed parts, and keeps the memory's canonical form. -/
def Effect (ps : List Part) (s t : State) : Prop := OnlyChanges ps s t ∧ (s.memWf = true → t.memWf = true)

variable {ps qs : List Part} {s x y : State} {α β : Type}

theorem Effect.refl : Effect ps s s := ⟨OnlyChanges.refl, id⟩

theorem Effect.step (hy : Effect qs x y) (hx : Effect ps s x) (h : ∀ q ∈ qs, q ∈ ps) : Effect ps s y :=
  ⟨hy.1.step hx.1 h, fun w => hy.2 (hx.2 w)⟩

theorem Effect.weaken (hx : Effect qs s x) (h : ∀ q ∈ qs, q ∈ ps) : Effect ps s x := hx.step Effect.refl h

theorem Effect.of_ite {c : Prop} [Decidable c] (hx : Effect ps s x) (hy : Effect ps s y) : Effect ps s (if c then x else y) := by
  split
  · exact hx
  · exact hy

theorem Effect.of_ite2 {x y : α × State} {c : Prop} [Decidable c] (hx : Effect ps s x.2) (hy : Effect ps s y.2) :
    Effect ps s (if c then x else y).2 := by
  split
  · exact hx
  · exact hy

theorem Effect.of_ite1 {x y : State × α} {c : Prop} [Decidable c] (hx : Effect ps s x.1) (hy : Effect ps s y.1) :
    Effect ps s (if c then x else y).1 := by
  split
  · exact hx
  · exact hy

theorem Effect.of_foldl {f : State → α → State} (l : List α) {x : State} (hx : Effect ps s x)
    (hf : ∀ y a, Effect ps s y → Effect ps s (f y a)) : Effect ps s (l.foldl f x) := by
  induction l generalizing x with
  | nil => exact hx
  | cons a l ih => exact ih (hf x a hx)

theorem Effect.of_foldl2 {f : β × State → α → β × State} (l : List α) {x : β × State} (hx : Effect ps s x.2)
    (hf : ∀ y a, Effect ps s y.2 → Effect ps s (f y a).2) : Effect ps s (l.foldl f x).2 := by
  induction l generalizing x with
  | nil => exact hx
  | cons a l ih => exact ih (hf x a hx)

theorem Effect.of_foldl1 {f : State × β → α → State × β} (l : List α) {x : State × β} (hx : Effect ps s x.1)
    (hf : ∀ y a, Effect ps s y.1 → Effect ps s (f y a).1) : Effect ps s (l.foldl f x).1 := by
  induction l generalizing x with
  | nil => exact hx
  | cons a l ih => exact ih (hf x a hx)


theorem OnlyChanges.of_mk {a b c} {v_tm} {v_cn} {v_jn} {v_pm} {v_rg} {v_sp} {v_st} {v_md} {v_mc} {v_ap} {v_gp} {v_fb} {v_ev} {v_la} {v_rm} {v_ax} {v_pg} {v_lt} {v_sf} {v_cp} {v_fd} {v_hp} {v_eth} {v_dx} {v_can} {v_pw} {v_ag} {v_mm} {v_mem} {v_sent} {v_free}
    (ha : a = x.part) (hx : OnlyChanges ps s x) (hb : b = x.stepping) (hc : c = x.pending) (h_tm : .tm ∈ ps ∨ v_tm = x.tm) (h_cn : .cn ∈ ps ∨ v_cn = x.cn) (h_jn : .jn ∈ ps ∨ v_jn = x.jn) (h_pm : .pm ∈ ps ∨ v_pm = x.pm) (h_rg : .rg ∈ ps ∨ v_rg = x.rg) (h_sp : .sp ∈ ps ∨ v_sp = x.sp) (h_st : .st ∈ ps ∨ v_st = x.st) (h_md : .md ∈ ps ∨ v_md = x.md) (h_mc : .mc ∈ ps ∨ v_mc = x.mc) (h_ap : .ap ∈ ps ∨ v_ap = x.ap) (h_gp : .gp ∈ ps ∨ v_gp = x.gp) (h_fb : .fb ∈ ps ∨ v_fb = x.fb) (h_ev : .ev ∈ ps ∨ v_ev = x.ev) (h_la : .la ∈ ps ∨ v_la = x.la) (h_rm : .rm ∈ ps ∨ v_rm = x.rm) (h_ax : .ax ∈ ps ∨ v_ax = x.ax) (h_pg : .pg ∈ ps ∨ v_pg = x.pg) (h_lt : .lt ∈ ps ∨ v_lt = x.lt) (h_sf : .sf ∈ ps ∨ v_sf = x.sf) (h_cp : .cp ∈ ps ∨ v_cp = x.cp) (h_fd : .fd ∈ ps ∨ v_fd = x.fd) (h_hp : .hp ∈ ps ∨ v_hp = x.hp) (h_eth : .eth ∈ ps ∨ v_eth = x.eth) (h_dx : .dx ∈ ps ∨ v_dx = x.dx) (h_can : .can ∈ ps ∨ v_can = x.can) (h_pw : .pw ∈ ps ∨ v_pw = x.pw) (h_ag : .ag ∈ ps ∨ v_ag = x.ag) (h_mm : .mm ∈ ps ∨ v_mm = x.mm) (h_mem : .mem ∈ ps ∨ v_mem = x.mem) (h_sent : .sent ∈ ps ∨ v_sent = x.sent) (h_free : .free ∈ ps ∨ v_free = x.free) :
    OnlyChanges ps s (State.mk a b v_tm v_cn v_jn v_pm v_rg v_sp v_st v_md v_mc v_ap v_gp v_fb v_ev v_la v_rm v_ax v_pg v_lt v_sf v_cp v_fd v_hp v_eth v_dx v_can v_pw v_ag v_mm v_mem v_sent v_free c) := by
  subst ha hb hc
  obtain ⟨h, d⟩ := hx
  refine ⟨h, fun p hp => ?_⟩
  have h2 := d p hp
  cases p
  · exact ((h_tm).resolve_left hp).trans h2
  · exact ((h_cn).resolve_left hp).trans h2
  · exact ((h_jn).resolve_left hp).trans h2
  · exact ((h_pm).resolve_left hp).trans h2
  · exact ((h_rg).resolve_left hp).trans h2
  · exact ((h_sp).resolve_left hp).trans h2
  · exact ((h_st).resolve_left hp).trans h2
  · exact ((h_md).resolve_left hp).trans h2
  · exact ((h_mc).resolve_left hp).trans h2
  · exact ((h_ap).resolve_left hp).trans h2
  · exact ((h_gp).resolve_left hp).trans h2
  · exact ((h_fb).resolve_left hp).trans h2
  · exact ((h_ev).resolve_left hp).trans h2
  · exact ((h_la).resolve_left hp).trans h2
  · exact ((h_rm).resolve_left hp).trans h2
  · exact ((h_ax).resolve_left hp).trans h2
  · exact ((h_pg).resolve_left hp).trans h2
  · exact ((h_lt).resolve_left hp).trans h2
  · exact ((h_sf).resolve_left hp).trans h2
  · exact ((h_cp).resolve_left hp).trans h2
  · exact ((h_fd).resolve_left hp).trans h2
  · exact ((h_hp).resolve_left hp).trans h2
  · exact ((h_eth).resolve_left hp).trans h2
  · exact ((h_dx).resolve_left hp).trans h2
  · exact ((h_can).resolve_left hp).trans h2
  · exact ((h_pw).resolve_left hp).trans h2
  · exact ((h_ag).resolve_left hp).trans h2
  · exact ((h_mm).resolve_left hp).trans h2
  · exact ((h_mem).resolve_left hp).trans h2
  · exact ((h_sent).resolve_left hp).trans h2
  · exact ((h_free).resolve_left hp).trans h2

theorem Effect.of_mk {a b c} {v_tm} {v_cn} {v_jn} {v_pm} {v_rg} {v_sp} {v_st} {v_md} {v_mc} {v_ap} {v_gp} {v_fb} {v_ev} {v_la} {v_rm} {v_ax} {v_pg} {v_lt} {v_sf} {v_cp} {v_fd} {v_hp} {v_eth} {v_dx} {v_can} {v_pw} {v_ag} {v_mm} {v_sent} {v_free} (hx : Effect ps s x)
    (ha : a = x.part := by rfl) (hb : b = x.stepping := by rfl) (hc : c = x.pending := by rfl) (h_tm : .tm ∈ ps ∨ v_tm = x.tm := by first | exact Or.inl (by decide) | exact Or.inr rfl) (h_cn : .cn ∈ ps ∨ v_cn = x.cn := by first | exact Or.inl (by decide) | exact Or.inr rfl) (h_jn : .jn ∈ ps ∨ v_jn = x.jn := by first | exact Or.inl (by decide) | exact Or.inr rfl) (h_pm : .pm ∈ ps ∨ v_pm = x.pm := by first | exact Or.inl (by decide) | exact Or.inr rfl) (h_rg : .rg ∈ ps ∨ v_rg = x.rg := by first | exact Or.inl (by decide) | exact Or.inr rfl) (h_sp : .sp ∈ ps ∨ v_sp = x.sp := by first | exact Or.inl (by decide) | exact Or.inr rfl) (h_st : .st ∈ ps ∨ v_st = x.st := by first | exact Or.inl (by decide) | exact Or.inr rfl) (h_md : .md ∈ ps ∨ v_md = x.md := by first | exact Or.inl (by decide) | exact Or.inr rfl) (h_mc : .mc ∈ ps ∨ v_mc = x.mc := by first | exact Or.inl (by decide) | exact Or.inr rfl) (h_ap : .ap ∈ ps ∨ v_ap = x.ap := by first | exact Or.inl (by decide) | exact Or.inr rfl) (h_gp : .gp ∈ ps ∨ v_gp = x.gp := by first | exact Or.inl (by decide) | exact Or.inr rfl) (h_fb : .fb ∈ ps ∨ v_fb = x.fb := by first | exact Or.inl (by decide) | exact Or.inr rfl) (h_ev : .ev ∈ ps ∨ v_ev = x.ev := by first | exact Or.inl (by decide) | exact Or.inr rfl) (h_la : .la ∈ ps ∨ v_la = x.la := by first | exact Or.inl (by decide) | exact Or.inr rfl) (h_rm : .rm ∈ ps ∨ v_rm = x.rm := by first | exact Or.inl (by decide) | exact Or.inr rfl) (h_ax : .ax ∈ ps ∨ v_ax = x.ax := by first | exact Or.inl (by decide) | exact Or.inr rfl) (h_pg : .pg ∈ ps ∨ v_pg = x.pg := by first | exact Or.inl (by decide) | exact Or.inr rfl) (h_lt : .lt ∈ ps ∨ v_lt = x.lt := by first | exact Or.inl (by decide) | exact Or.inr rfl) (h_sf : .sf ∈ ps ∨ v_sf = x.sf := by first | exact Or.inl (by decide) | exact Or.inr rfl) (h_cp : .cp ∈ ps ∨ v_cp = x.cp := by first | exact Or.inl (by decide) | exact Or.inr rfl) (h_fd : .fd ∈ ps ∨ v_fd = x.fd := by first | exact Or.inl (by decide) | exact Or.inr rfl) (h_hp : .hp ∈ ps ∨ v_hp = x.hp := by first | exact Or.inl (by decide) | exact Or.inr rfl) (h_eth : .eth ∈ ps ∨ v_eth = x.eth := by first | exact Or.inl (by decide) | exact Or.inr rfl) (h_dx : .dx ∈ ps ∨ v_dx = x.dx := by first | exact Or.inl (by decide) | exact Or.inr rfl) (h_can : .can ∈ ps ∨ v_can = x.can := by first | exact Or.inl (by decide) | exact Or.inr rfl) (h_pw : .pw ∈ ps ∨ v_pw = x.pw := by first | exact Or.inl (by decide) | exact Or.inr rfl) (h_ag : .ag ∈ ps ∨ v_ag = x.ag := by first | exact Or.inl (by decide) | exact Or.inr rfl) (h_mm : .mm ∈ ps ∨ v_mm = x.mm := by first | exact Or.inl (by decide) | exact Or.inr rfl) (h_sent : .sent ∈ ps ∨ v_sent = x.sent := by first | exact Or.inl (by decide) | exact Or.inr rfl) (h_free : .free ∈ ps ∨ v_free = x.free := by first | exact Or.inl (by decide) | exact Or.inr rfl) :
    Effect ps s (State.mk a b v_tm v_cn v_jn v_pm v_rg v_sp v_st v_md v_mc v_ap v_gp v_fb v_ev v_la v_rm v_ax v_pg v_lt v_sf v_cp v_fd v_hp v_eth v_dx v_can v_pw v_ag v_mm x.mem v_sent v_free c) :=
  ⟨OnlyChanges.of_mk ha hx.1 hb hc h_tm h_cn h_jn h_pm h_rg h_sp h_st h_md h_mc h_ap h_gp h_fb h_ev h_la h_rm h_ax h_pg h_lt h_sf h_cp h_fd h_hp h_eth h_dx h_can h_pw h_ag h_mm (.inr rfl) h_sent h_free, hx.2⟩


theorem Effect.set_tm {v} (h : .tm ∈ ps) (hx : Effect ps s x) : Effect ps s { x with tm := v } :=
  Effect.of_mk hx (h_tm := .inl h)

theorem Effect.set_cn {v} (h : .cn ∈ ps) (hx : Effect ps s x) : Effect ps s { x with cn := v } :=
  Effect.of_mk hx (h_cn := .inl h)

theorem Effect.set_jn {v} (h : .jn ∈ ps) (hx : Effect ps s x) : Effect ps s { x with jn := v } :=
  Effect.of_mk hx (h_jn := .inl h)

theorem Effect.set_pm {v} (h : .pm ∈ ps) (hx : Effect ps s x) : Effect ps s { x with pm := v } :=
  Effect.of_mk hx (h_pm := .inl h)

theorem Effect.set_rg {v} (h : .rg ∈ ps) (hx : Effect ps s x) : Effect ps s { x with rg := v } :=
  Effect.of_mk hx (h_rg := .inl h)

theorem Effect.set_sp {v} (h : .sp ∈ ps) (hx : Effect ps s x) : Effect ps s { x with sp := v } :=
  Effect.of_mk hx (h_sp := .inl h)

theorem Effect.set_st {v} (h : .st ∈ ps) (hx : Effect ps s x) : Effect ps s { x with st := v } :=
  Effect.of_mk hx (h_st := .inl h)

theorem Effect.set_md {v} (h : .md ∈ ps) (hx : Effect ps s x) : Effect ps s { x with md := v } :=
  Effect.of_mk hx (h_md := .inl h)

theorem Effect.set_mc {v} (h : .mc ∈ ps) (hx : Effect ps s x) : Effect ps s { x with mc := v } :=
  Effect.of_mk hx (h_mc := .inl h)

theorem Effect.set_ap {v} (h : .ap ∈ ps) (hx : Effect ps s x) : Effect ps s { x with ap := v } :=
  Effect.of_mk hx (h_ap := .inl h)

theorem Effect.set_gp {v} (h : .gp ∈ ps) (hx : Effect ps s x) : Effect ps s { x with gp := v } :=
  Effect.of_mk hx (h_gp := .inl h)

theorem Effect.set_fb {v} (h : .fb ∈ ps) (hx : Effect ps s x) : Effect ps s { x with fb := v } :=
  Effect.of_mk hx (h_fb := .inl h)

theorem Effect.set_ev {v} (h : .ev ∈ ps) (hx : Effect ps s x) : Effect ps s { x with ev := v } :=
  Effect.of_mk hx (h_ev := .inl h)

theorem Effect.set_la {v} (h : .la ∈ ps) (hx : Effect ps s x) : Effect ps s { x with la := v } :=
  Effect.of_mk hx (h_la := .inl h)

theorem Effect.set_rm {v} (h : .rm ∈ ps) (hx : Effect ps s x) : Effect ps s { x with rm := v } :=
  Effect.of_mk hx (h_rm := .inl h)

theorem Effect.set_ax {v} (h : .ax ∈ ps) (hx : Effect ps s x) : Effect ps s { x with ax := v } :=
  Effect.of_mk hx (h_ax := .inl h)

theorem Effect.set_pg {v} (h : .pg ∈ ps) (hx : Effect ps s x) : Effect ps s { x with pg := v } :=
  Effect.of_mk hx (h_pg := .inl h)

theorem Effect.set_lt {v} (h : .lt ∈ ps) (hx : Effect ps s x) : Effect ps s { x with lt := v } :=
  Effect.of_mk hx (h_lt := .inl h)

theorem Effect.set_sf {v} (h : .sf ∈ ps) (hx : Effect ps s x) : Effect ps s { x with sf := v } :=
  Effect.of_mk hx (h_sf := .inl h)

theorem Effect.set_cp {v} (h : .cp ∈ ps) (hx : Effect ps s x) : Effect ps s { x with cp := v } :=
  Effect.of_mk hx (h_cp := .inl h)

theorem Effect.set_fd {v} (h : .fd ∈ ps) (hx : Effect ps s x) : Effect ps s { x with fd := v } :=
  Effect.of_mk hx (h_fd := .inl h)

theorem Effect.set_hp {v} (h : .hp ∈ ps) (hx : Effect ps s x) : Effect ps s { x with hp := v } :=
  Effect.of_mk hx (h_hp := .inl h)

theorem Effect.set_eth {v} (h : .eth ∈ ps) (hx : Effect ps s x) : Effect ps s { x with eth := v } :=
  Effect.of_mk hx (h_eth := .inl h)

theorem Effect.set_dx {v} (h : .dx ∈ ps) (hx : Effect ps s x) : Effect ps s { x with dx := v } :=
  Effect.of_mk hx (h_dx := .inl h)

theorem Effect.set_can {v} (h : .can ∈ ps) (hx : Effect ps s x) : Effect ps s { x with can := v } :=
  Effect.of_mk hx (h_can := .inl h)

theorem Effect.set_pw {v} (h : .pw ∈ ps) (hx : Effect ps s x) : Effect ps s { x with pw := v } :=
  Effect.of_mk hx (h_pw := .inl h)

theorem Effect.set_ag {v} (h : .ag ∈ ps) (hx : Effect ps s x) : Effect ps s { x with ag := v } :=
  Effect.of_mk hx (h_ag := .inl h)

theorem Effect.set_mm {v} (h : .mm ∈ ps) (hx : Effect ps s x) : Effect ps s { x with mm := v } :=
  Effect.of_mk hx (h_mm := .inl h)

theorem Effect.set_sent {v} (h : .sent ∈ ps) (hx : Effect ps s x) : Effect ps s { x with sent := v } :=
  Effect.of_mk hx (h_sent := .inl h)

theorem Effect.set_free {v} (h : .free ∈ ps) (hx : Effect ps s x) : Effect ps s { x with free := v } :=
  Effect.of_mk hx (h_free := .inl h)

theorem Effect.of_mem {m : List Host.Cell} (hm : .mem ∈ ps) (hx : Effect ps s x)
    (h : x.memWf = true → Store.wf (0 : BitVec 8) m = true) : Effect ps s { x with mem := m } := by
  refine ⟨⟨hx.1.1, fun p hp => ?_⟩, fun w => h (hx.2 w)⟩
  have h2 := hx.1.2 p hp
  cases p <;> first | exact h2 | exact absurd hm hp


end Sys2Proof.Machine
end

