-- ==== Sys2Proof/Laws/Store.lean ====
section
/-!
SUPPORT. Sys2Proof/Laws/Store.lean: reading a sparse table after a write, and the canonical form every table operation keeps.
-/

namespace Sys2Proof.Machine
set_option Elab.async false
set_option linter.unusedSectionVars false
variable {α : Type} [DecidableEq α] {d : α}

theorem Store.above_trans {m : Store α} {j k : Nat} (h : Store.above k m = true) (hj : j ≤ k) : Store.above j m = true := by
  simp only [Store.above, List.all_eq_true, decide_eq_true_eq] at *
  intro e he; have := h e he; omega

theorem Store.above_sub {m n : Store α} {k : Nat} (h : Store.above k m = true) (hs : ∀ e ∈ n, e ∈ m) : Store.above k n = true := by
  simp only [Store.above, List.all_eq_true, decide_eq_true_eq] at *
  intro e he; exact h e (hs e he)

theorem Store.mem_erase {m : Store α} {k : Nat} : ∀ e ∈ Store.erase m k, e ∈ m := by
  induction m with
  | nil => simp [Store.erase]
  | cons a m ih =>
    intro e he
    simp only [Store.erase] at he
    split at he
    · exact List.mem_cons_of_mem _ (ih e he)
    · rcases List.mem_cons.1 he with rfl | he
      · exact List.mem_cons_self
      · exact List.mem_cons_of_mem _ (ih e he)

theorem Store.wf_erase {m : Store α} (k : Nat) (h : Store.wf d m = true) : Store.wf d (Store.erase m k) = true := by
  induction m with
  | nil => simp [Store.erase, Store.wf]
  | cons a m ih =>
    simp only [Store.wf, Bool.and_eq_true] at h
    simp only [Store.erase]
    split
    · exact ih h.2
    · simp only [Store.wf, Bool.and_eq_true]
      exact ⟨⟨Store.above_sub h.1.1 Store.mem_erase, h.1.2⟩, ih h.2⟩

theorem Store.mem_insert {m : Store α} {k : Nat} {v : α} : ∀ e ∈ Store.insert m k v, e = (k, v) ∨ e ∈ m := by
  induction m with
  | nil => simp [Store.insert]
  | cons a m ih =>
    intro e he
    simp only [Store.insert] at he
    split at he
    · rcases List.mem_cons.1 he with rfl | he
      · exact .inl rfl
      · exact .inr (List.mem_cons_of_mem _ he)
    · split at he
      · rcases List.mem_cons.1 he with rfl | he
        · exact .inl rfl
        · exact .inr he
      · rcases List.mem_cons.1 he with rfl | he
        · exact .inr List.mem_cons_self
        · rcases ih e he with h | h
          · exact .inl h
          · exact .inr (List.mem_cons_of_mem _ h)

theorem Store.wf_insert {m : Store α} (k : Nat) {v : α} (hv : v ≠ d) (h : Store.wf d m = true) :
    Store.wf d (Store.insert m k v) = true := by
  induction m with
  | nil => simp [Store.insert, Store.wf, Store.above, hv]
  | cons a m ih =>
    have h0 := h
    simp only [Store.wf, Bool.and_eq_true] at h
    simp only [Store.insert]
    split
    · rename_i e
      simp only [Store.wf, Bool.and_eq_true]
      exact ⟨⟨e ▸ h.1.1, by simp [hv]⟩, h.2⟩
    · split
      · rename_i lt
        simp only [Store.wf, Bool.and_eq_true]
        refine ⟨⟨?_, by simp [hv]⟩, h.1, h.2⟩
        have := Store.above_trans h.1.1 (Nat.le_of_lt lt)
        simp only [Store.above, List.all_cons, Bool.and_eq_true, decide_eq_true_eq] at *
        exact ⟨lt, this⟩
      · rename_i ne nl
        simp only [Store.wf, Bool.and_eq_true]
        refine ⟨⟨?_, h.1.2⟩, ih h.2⟩
        have ha := h.1.1
        simp only [Store.above, List.all_eq_true, decide_eq_true_eq] at *
        intro e he
        rcases Store.mem_insert e he with rfl | he
        · show _ < k
          omega
        · exact ha e he

theorem Store.wf_write {m : Store α} (k : Nat) (v : α) (h : Store.wf d m = true) : Store.wf d (Store.write d m k v) = true := by
  unfold Store.write
  split
  · exact Store.wf_erase k h
  · exact Store.wf_insert k ‹_› h

theorem Store.wf_filter {m : Store α} (p : Nat × α → Bool) (h : Store.wf d m = true) : Store.wf d (m.filter p) = true := by
  induction m with
  | nil => simpa using h
  | cons a m ih =>
    simp only [Store.wf, Bool.and_eq_true] at h
    simp only [List.filter_cons]
    split
    · simp only [Store.wf, Bool.and_eq_true]
      exact ⟨⟨Store.above_sub h.1.1 fun e he => (List.mem_filter.1 he).1, h.1.2⟩, ih h.2⟩
    · exact ih h.2

theorem Store.wf_writeList (vs : List α) {m : Store α} (k : Nat) (h : Store.wf d m = true) :
    Store.wf d (Store.writeList d m k vs) = true := by
  induction vs generalizing m k with
  | nil => exact h
  | cons v vs ih => exact ih (k + 1) (Store.wf_write k v h)

theorem Store.wf_foldl_write {β : Type} (f : β → Nat) (g : β → α) (l : List β) {m : Store α} (h : Store.wf d m = true) :
    Store.wf d (l.foldl (fun m e => Store.write d m (f e) (g e)) m) = true := by
  induction l generalizing m with
  | nil => exact h
  | cons a l ih => exact ih (Store.wf_write _ _ h)

theorem Store.read_of_above {m : Store α} {k : Nat} (h : Store.above k m = true) : Store.read d m k = d := by
  induction m with
  | nil => rfl
  | cons a m ih =>
    simp only [Store.above, List.all_cons, Bool.and_eq_true, decide_eq_true_eq] at h
    simp only [Store.read]
    rw [if_neg (by omega)]
    exact ih (by simpa [Store.above] using h.2)

theorem Store.read_erase {m : Store α} (k j : Nat) :
    Store.read d (Store.erase m k) j = if j = k then d else Store.read d m j := by
  induction m with
  | nil => simp [Store.erase, Store.read]
  | cons a m ih =>
    simp only [Store.erase]
    by_cases e : a.1 = k
    · rw [if_pos e, ih]
      by_cases ej : j = k
      · rw [if_pos ej, if_pos ej]
      · rw [if_neg ej, if_neg ej]; simp only [Store.read]; rw [if_neg (by omega)]
    · rw [if_neg e]
      simp only [Store.read, ih]
      by_cases ej : a.1 = j
      · rw [if_pos ej, if_pos ej, if_neg (by omega)]
      · rw [if_neg ej, if_neg ej]

theorem Store.read_insert {m : Store α} (k j : Nat) (v : α) :
    Store.read d (Store.insert m k v) j = if j = k then v else Store.read d m j := by
  induction m with
  | nil => simp only [Store.insert, Store.read, eq_comm]
  | cons a m ih =>
    simp only [Store.insert]
    by_cases e : a.1 = k
    · rw [if_pos e]; simp only [Store.read]
      by_cases ej : j = k
      · rw [if_pos ej, if_pos ej.symm]
      · rw [if_neg ej, if_neg (Ne.symm ej), if_neg (by omega)]
    · rw [if_neg e]
      split
      · simp only [Store.read, eq_comm]
      · simp only [Store.read, ih]
        by_cases ej : a.1 = j
        · rw [if_pos ej, if_pos ej, if_neg (by omega)]
        · rw [if_neg ej, if_neg ej]

/-- A table reads, after a write at `k`, as before everywhere else and as written at `k`. -/
@[simp] theorem Store.read_write {m : Store α} (k j : Nat) (v : α) :
    Store.read d (Store.write d m k v) j = if j = k then v else Store.read d m j := by
  unfold Store.write
  split
  · rename_i e; rw [Store.read_erase, e]
  · exact Store.read_insert k j v

@[simp] theorem Store.read_upd {m : Store α} (k j : Nat) (f : α → α) :
    Store.read d (Store.upd d m k f) j = if j = k then f (Store.read d m k) else Store.read d m j :=
  Store.read_write k j _

/-- A run of values written from `k` upward is read back there, and nowhere else changes. -/
theorem Store.read_writeList (vs : List α) {m : Store α} (k j : Nat) :
    Store.read d (Store.writeList d m k vs) j = if h : k ≤ j ∧ j - k < vs.length then vs[j - k]'h.2 else Store.read d m j := by
  induction vs generalizing m k with
  | nil => simp [Store.writeList]
  | cons v vs ih =>
    simp only [Store.writeList]
    rw [ih]
    by_cases e : j = k
    · subst e; rw [dif_neg (by omega)]; simp
    · by_cases h : k ≤ j ∧ j - k < vs.length + 1
      · rw [dif_pos (by omega), dif_pos (by simpa using h)]
        simp only [List.getElem_cons]
        rw [dif_neg (by omega)]
        simp only [Nat.sub_sub]
      · rw [dif_neg (by omega), dif_neg (by simpa using h), Store.read_write, if_neg e]

end Sys2Proof.Machine
end

