-- ==== Sys2Proof/Laws/FrameOps.lean ====
section
/-!
SUPPORT. Sys2Proof/Laws/FrameOps.lean: what each operation of Machine/Ops.lean may change, one lemma per operation.
-/

namespace Sys2Proof.Machine
set_option Elab.async false

theorem updGroup_only (s : State) a1 a2 : Effect [.sf] s (State.updGroup s a1 a2) := by
  unfold State.updGroup
  exact Effect.set_sf (by decide) .refl
theorem clearSram_only (s : State) : Effect [.mem] s (State.clearSram s) :=
  Effect.of_mem (by decide) Effect.refl (Store.wf_filter _)
theorem worn_only (s : State) a1 a2 : Effect [.mm] s (State.worn s a1 a2) := by
  unfold State.worn
  refine Effect.of_ite ?_ ?_
  · exact .refl
  · lift_lets -underBinder
    intro x0 x1 x2
    exact Effect.set_mm (by decide) .refl
theorem irq_only (s : State) a1 : Effect [.hp] s (State.irq s a1) := by
  unfold State.irq
  exact Effect.set_hp (by decide) .refl
theorem writeRecord_only (s : State) a1 : Effect [.cn, .hp, .mm] s (State.writeRecord s a1) := by
  unfold State.writeRecord
  lift_lets -underBinder
  intro x0 x1
  have h2 : Effect [.cn, .hp, .mm] s x1 := by
    exact Effect.step (worn_only _ _ _) .refl (by decide)
  clear_value x1
  intro x3 x4
  have h5 : Effect [.cn, .hp, .mm] s x4 := by
    exact Effect.set_cn (by decide) h2
  clear_value x4
  refine Effect.of_ite ?_ ?_
  · exact Effect.step (irq_only _ _) h5 (by decide)
  · exact h5
theorem toScree_only (s : State) a1 : Effect [.cn] s (State.toScree s a1) := by
  unfold State.toScree
  lift_lets -underBinder
  intro x0 x1 x2 x3 x4 x5
  exact Effect.set_cn (by decide) .refl
theorem enqueue_only (s : State) a1 : Effect [.cn] s (State.enqueue s a1) := by
  unfold State.enqueue
  lift_lets -underBinder
  intro x0 x1 x2 x3 x4
  have h5 : Effect [.cn] s x4 := by
    exact Effect.set_cn (by decide) .refl
  clear_value x4
  intro x6
  refine Effect.of_ite ?_ ?_
  · refine Effect.of_ite ?_ ?_
    · exact h5
    · refine Effect.of_ite ?_ ?_
      · exact Effect.set_cn (by decide) h5
      · exact Effect.step (toScree_only _ _) h5 (by decide)
  · exact Effect.set_cn (by decide) .refl
theorem file_only (s : State) a1 : Effect [.cn, .hp, .mm] s (State.file s a1) := by
  unfold State.file
  lift_lets -underBinder
  intro x0
  refine Effect.of_ite ?_ ?_
  · exact .refl
  · refine Effect.of_ite ?_ ?_
    · refine Effect.of_ite ?_ ?_
      · exact Effect.step (writeRecord_only _ _) .refl (by decide)
      · exact Effect.step (toScree_only _ _) .refl (by decide)
    · refine Effect.of_ite ?_ ?_
      · exact Effect.step (enqueue_only _ _) .refl (by decide)
      · refine Effect.of_ite ?_ ?_
        · exact Effect.step (enqueue_only _ _) .refl (by decide)
        · exact Effect.step (toScree_only _ _) .refl (by decide)
theorem report_only (s : State) a1 a2 a3 a4 : Effect [.cn, .cp, .hp, .mm] s (State.report s a1 a2 a3 a4) := by
  unfold State.report
  split
  exact Effect.step (file_only _ _) (Effect.set_cp (by decide) .refl) (by decide)
theorem clearRange_only (s : State) (lo hi : Nat) : Effect [.mem] s (State.clearRange s lo hi) :=
  Effect.of_mem (by decide) Effect.refl (Store.wf_filter _)
theorem updCtl_only (s : State) a1 a2 : Effect [.can] s (State.updCtl s a1 a2) := by
  unfold State.updCtl
  exact Effect.set_can (by decide) .refl
theorem send_only (s : State) a1 : Effect [.sent] s (State.send s a1) := by
  unfold State.send
  exact Effect.set_sent (by decide) .refl
theorem updPort_only (s : State) a1 a2 : Effect [.eth] s (State.updPort s a1 a2) := by
  unfold State.updPort
  exact Effect.set_eth (by decide) .refl
theorem takeBytes_only (s : State) a1 : Effect [.free] s (State.takeBytes s a1).2 := by
  unfold State.takeBytes
  dsimp only
  exact Effect.set_free (by decide) .refl
theorem takeBytes_only_of {s : State} {a1} {r t} (h : State.takeBytes s a1 = (r, t)) : Effect [.free] s t := by
  have := takeBytes_only s a1
  rwa [h] at this
theorem updLatch_only (s : State) a1 a2 : Effect [.la] s (State.updLatch s a1 a2) := by
  unfold State.updLatch
  exact Effect.set_la (by decide) .refl
theorem updChan_only (s : State) a1 a2 : Effect [.fb] s (State.updChan s a1 a2) := by
  unfold State.updChan
  exact Effect.set_fb (by decide) .refl
theorem wrN_only (s : State) (a : Nat) (bs : List Nat) : Effect [.mem] s (State.wrN s a bs) :=
  Effect.of_mem (by decide) Effect.refl (Store.wf_writeList _ _)
theorem updTable_only (s : State) a1 a2 : Effect [.lt] s (State.updTable s a1 a2) := by
  unfold State.updTable
  exact Effect.set_lt (by decide) .refl
theorem updEvt_only (s : State) a1 a2 : Effect [.ev] s (State.updEvt s a1 a2) := by
  unfold State.updEvt
  exact Effect.set_ev (by decide) .refl
theorem updApwm_only (s : State) a1 a2 : Effect [.ap] s (State.updApwm s a1 a2) := by
  unfold State.updApwm
  exact Effect.set_ap (by decide) .refl
theorem updStage_only (s : State) a1 a2 : Effect [.st] s (State.updStage s a1 a2) := by
  unfold State.updStage
  exact Effect.set_st (by decide) .refl
theorem updMachine_only (s : State) a1 a2 : Effect [.mc] s (State.updMachine s a1 a2) := by
  unfold State.updMachine
  exact Effect.set_mc (by decide) .refl
theorem updMod_only (s : State) a1 a2 : Effect [.md] s (State.updMod s a1 a2) := by
  unfold State.updMod
  exact Effect.set_md (by decide) .refl
theorem updDraft_only (s : State) a1 a2 : Effect [.pm] s (State.updDraft s a1 a2) := by
  unfold State.updDraft
  exact Effect.set_pm (by decide) .refl
theorem copyRange_only (s : State) (src dst n : Nat) : Effect [.mem] s (State.copyRange s src dst n) :=
  Effect.of_mem (by decide) (clearRange_only _ _ _) fun h => Store.wf_foldl_write _ _ _ h
theorem updSeg_only (s : State) a1 a2 : Effect [.cp] s (State.updSeg s a1 a2) := by
  unfold State.updSeg
  exact Effect.set_cp (by decide) .refl
theorem updAxis_only (s : State) a1 a2 : Effect [.ax] s (State.updAxis s a1 a2) := by
  unfold State.updAxis
  exact Effect.set_ax (by decide) .refl
theorem updSlot_only (s : State) a1 a2 : Effect [.rg] s (State.updSlot s a1 a2) := by
  unfold State.updSlot
  exact Effect.set_rg (by decide) .refl
theorem elapse_only (s : State) a1 : Effect [.tm, .ag, .free] s (State.elapse s a1) := by
  unfold State.elapse
  refine Effect.of_ite ?_ ?_
  · exact .refl
  · lift_lets -underBinder
    intro x0 x1 x2 x3
    split
    · exact Effect.of_mk (x := s) .refl
    · exact Effect.of_mk (x := s) .refl
theorem updSpur_only (s : State) a1 a2 : Effect [.sp] s (State.updSpur s a1 a2) := by
  unfold State.updSpur
  exact Effect.set_sp (by decide) .refl
theorem updRate_only (s : State) a1 a2 : Effect [.rm] s (State.updRate s a1 a2) := by
  unfold State.updRate
  exact Effect.set_rm (by decide) .refl
theorem updSout_only (s : State) a1 a2 : Effect [.sf] s (State.updSout s a1 a2) := by
  unfold State.updSout
  exact Effect.set_sf (by decide) .refl
theorem updPath_only (s : State) a1 a2 : Effect [.pg] s (State.updPath s a1 a2) := by
  unfold State.updPath
  exact Effect.set_pg (by decide) .refl
theorem updSafeAxis_only (s : State) a1 a2 : Effect [.sf] s (State.updSafeAxis s a1 a2) := by
  unfold State.updSafeAxis
  exact Effect.set_sf (by decide) .refl
theorem take_only (s : State) a1 : Effect [.free] s (State.take s a1).2 := by
  unfold State.take
  dsimp only
  exact Effect.set_free (by decide) .refl
theorem take_only_of {s : State} {a1} {r t} (h : State.take s a1 = (r, t)) : Effect [.free] s t := by
  have := take_only s a1
  rwa [h] at this
theorem updPair_only (s : State) a1 a2 : Effect [.sf] s (State.updPair s a1 a2) := by
  unfold State.updPair
  exact Effect.set_sf (by decide) .refl
theorem driveFault_only (s : State) a1 : Effect [.hp, .pw] s (State.driveFault s a1) := by
  unfold State.driveFault
  lift_lets -underBinder
  intro x0 x1
  have h2 : Effect [.hp, .pw] s x1 := by
    exact Effect.set_pw (by decide) .refl
  clear_value x1
  refine Effect.of_ite ?_ ?_
  · exact Effect.step (irq_only _ _) h2 (by decide)
  · exact h2
theorem updGroupPwm_only (s : State) a1 a2 : Effect [.gp] s (State.updGroupPwm s a1 a2) := by
  unfold State.updGroupPwm
  exact Effect.set_gp (by decide) .refl
theorem releaseFault_only (s : State) a1 : Effect [.pw] s (State.releaseFault s a1) := by
  unfold State.releaseFault
  exact Effect.set_pw (by decide) .refl

end Sys2Proof.Machine
end

