-- ==== Sys2Proof/Laws/FrameLinks.lean ====
section
/-!
SUPPORT. Sys2Proof/Laws/FrameLinks.lean: what each operation of Machine/Links.lean may change, one lemma per operation.
-/

namespace Sys2Proof.Machine
set_option Elab.async false

theorem mailbox_only (s : State) a1 a2 a3 : Effect [.hp] s (State.mailbox s a1 a2 a3) := by
  unfold State.mailbox
  refine Effect.of_ite ?_ ?_
  · exact Effect.step (irq_only _ _) (Effect.set_hp (by decide) .refl) (by decide)
  · exact Effect.set_hp (by decide) .refl
theorem udp_only (s : State) a1 a2 a3 a4 : Effect [.eth, .sent] s (State.udp s a1 a2 a3 a4) := by
  unfold State.udp
  refine Effect.of_ite ?_ ?_
  · exact .refl
  · lift_lets -underBinder
    intro x0
    split
    · exact Effect.step (send_only _ _) .refl (by decide)
    · exact Effect.step (send_only _ _) (Effect.step (updPort_only _ _ _) .refl (by decide)) (by decide)
theorem begin_only (s : State) a1 a2 : Effect [.can] s (State.begin s a1 a2) := by
  unfold State.begin
  exact Effect.step (updCtl_only _ _ _) .refl (by decide)
theorem arbitrate_only (s : State) a1 : Effect [.can] s (State.arbitrate s a1) := by
  unfold State.arbitrate
  lift_lets -underBinder
  intro x0
  refine Effect.of_ite ?_ ?_
  · exact .refl
  · split
    · exact Effect.step (begin_only _ _ _) .refl (by decide)
    · exact .refl
theorem canPost_only (s : State) a1 a2 a3 : Effect [.can] s (State.canPost s a1 a2 a3) := by
  unfold State.canPost
  lift_lets -underBinder
  intro x0
  refine Effect.of_ite ?_ ?_
  · exact Effect.step (arbitrate_only _ _) (Effect.step (updCtl_only _ _ _) .refl (by decide)) (by decide)
  · exact Effect.step (updCtl_only _ _ _) .refl (by decide)
theorem canPacket_only (s : State) a1 a2 : Effect [.can] s (State.canPacket s a1 a2) := by
  unfold State.canPacket
  lift_lets -underBinder
  intro x0 x1 x2
  have h3 : Effect [.can] s x2 := by
    exact Effect.step (updCtl_only _ _ _) .refl (by decide)
  clear_value x2
  refine Effect.of_foldl _ ?_ (fun y4 a5 h6 => ?_)
  · exact h3
  · exact Effect.step (canPost_only _ _ _ _) h6 (by decide)
theorem deliver_only (s : State) a1 a2 a3 a4 : Effect [.hp, .eth, .can, .sent] s (State.deliver s a1 a2 a3 a4) := by
  unfold State.deliver
  split
  · exact Effect.step (mailbox_only _ _ _ _) .refl (by decide)
  · exact Effect.step (udp_only _ _ _ _ _) .refl (by decide)
  · exact Effect.step (canPacket_only _ _ _) .refl (by decide)
theorem refill_only (n : Nat) (s : State) : Effect [.hp] s (State.refill n s) := by
  induction n generalizing s with
  | zero => exact Effect.refl
  | succ n ih =>
    unfold State.refill
    split
    · exact Effect.refl
    · split
      · refine Effect.step (ih _) (Effect.step (irq_only ..) ?_ (by decide)) (fun _ h => h)
        exact Effect.of_mk .refl
      · exact Effect.refl

end Sys2Proof.Machine
end

