-- ==== Sys2Proof/Laws/FrameJournal.lean ====
section
/-!
SUPPORT. Sys2Proof/Laws/FrameJournal.lean: what each operation of Machine/Journal.lean may change, one lemma per operation.
-/

namespace Sys2Proof.Machine
set_option Elab.async false

theorem finish_only (s : State) a1 a2 : Effect [.jn] s (State.finish s a1 a2) := by
  unfold State.finish
  split
  · exact Effect.set_jn (by decide) .refl
  · exact .refl
theorem reply_only (s : State) a1 a2 a3 a4 a5 a6 a7 a8 : Effect [.hp, .eth, .can, .sent] s (State.reply s a1 a2 a3 a4 a5 a6 a7 a8) := by
  unfold State.reply
  exact Effect.step (deliver_only _ _ _ _ _) .refl (by decide)
theorem refuse_only (s : State) a1 a2 a3 : Effect [.hp, .eth, .can, .sent] s (State.refuse s a1 a2 a3) := by
  unfold State.refuse
  exact Effect.step (reply_only _ _ _ _ _ _ _ _ _) .refl (by decide)
theorem updSession_only (s : State) a1 a2 : Effect [.jn] s (State.updSession s a1 a2) := by
  unfold State.updSession
  exact Effect.set_jn (by decide) .refl
theorem putEntry_only (s : State) a1 a2 : Effect [.jn, .mm] s (State.putEntry s a1 a2) := by
  unfold State.putEntry
  lift_lets -underBinder
  intro x0 x1
  have h2 : Effect [.jn, .mm] s x1 := by
    refine Effect.of_ite ?_ ?_
    · exact .refl
    · exact Effect.step (worn_only _ _ _) .refl (by decide)
  clear_value x1
  intro x3
  have h4 : Effect [.jn, .mm] s x3 := by
    refine Effect.of_ite ?_ ?_
    · exact h2
    · exact Effect.step (worn_only _ _ _) h2 (by decide)
  clear_value x3
  intro x5
  exact Effect.set_jn (by decide) h4
theorem complete_only (s : State) a1 a2 a3 a4 a5 a6 : Effect [.jn, .mm] s (State.complete s a1 a2 a3 a4 a5 a6) := by
  unfold State.complete
  exact Effect.step (putEntry_only _ _ _) .refl (by decide)
theorem reportOne_only (s : State) a1 : Effect [.cn, .jn, .cp, .hp, .eth, .can, .mm, .sent] s (State.reportOne s a1) := by
  unfold State.reportOne
  lift_lets -underBinder
  intro x0 x1
  have h2 : Effect [.cn, .jn, .cp, .hp, .eth, .can, .mm, .sent] s x1 := by
    refine Effect.of_ite ?_ ?_
    · exact .refl
    · exact Effect.step (complete_only _ _ _ _ _ _ _) .refl (by decide)
  clear_value x1
  split
  · exact h2
  · lift_lets -underBinder
    intro x8
    split
    · refine Effect.of_ite ?_ ?_
      · exact Effect.step (deliver_only _ _ _ _ _) h2 (by decide)
      · exact Effect.step (report_only _ _ _ _ _) h2 (by decide)
    · exact Effect.step (deliver_only _ _ _ _ _) h2 (by decide)
theorem markStarted_only (s : State) a1 : Effect [.jn, .mm] s (State.markStarted s a1) := by
  unfold State.markStarted
  lift_lets -underBinder
  intro x0 x1
  have h2 : Effect [.jn, .mm] s x1 := by
    exact Effect.step (putEntry_only _ _ _) .refl (by decide)
  clear_value x1
  intro x3
  exact Effect.set_jn (by decide) h2
theorem finishAt_only (s : State) a1 a2 a3 : Effect [.jn] s (State.finishAt s a1 a2 a3) := by
  unfold State.finishAt
  lift_lets -underBinder
  intro x0
  have h1 : Effect [.jn] s x0 := by
    exact Effect.step (finish_only _ _ _) .refl (by decide)
  clear_value x0
  intro x2
  exact Effect.set_jn (by decide) h1
theorem reportNext_only (s : State) : Effect [.cn, .jn, .cp, .hp, .eth, .can, .mm, .sent] s (State.reportNext s) := by
  unfold State.reportNext
  split
  · exact .refl
  · exact Effect.step (reportOne_only _ _) (Effect.set_jn (by decide) .refl) (by decide)
theorem reportAll_only (n : Nat) (s : State) : Effect [.cn, .jn, .cp, .hp, .eth, .can, .mm, .sent] s (State.reportAll n s) := by
  induction n generalizing s with
  | zero => exact Effect.refl
  | succ n ih =>
    unfold State.reportAll
    split
    · exact Effect.refl
    · exact Effect.step (ih _) (reportNext_only ..) (fun _ h => h)

end Sys2Proof.Machine
end

