-- ==== Sys2Proof/Laws/FrameTimebase.lean ====
section
/-!
SUPPORT. Sys2Proof/Laws/FrameTimebase.lean: what each operation of Machine/Timebase.lean may change, one lemma per operation.
-/

namespace Sys2Proof.Machine
set_option Elab.async false

theorem servoFree_only (s : State) : Effect [.tm] s (servoFree s) := by
  unfold servoFree
  exact Effect.set_tm (by decide) .refl
theorem cmdJournalMark_only a0 (s : State) : Effect [.cn] s (cmdJournalMark a0 s).2 := by
  unfold cmdJournalMark
  lift_lets -underBinder
  intro x0 x1 x2 x3
  have h4 : Effect [.cn] s x3 := by
    exact Effect.set_cn (by decide) .refl
  intro x5
  refine Effect.of_ite2 ?_ ?_
  · dsimp only
    exact .refl
  · refine Effect.of_ite2 ?_ ?_
    · dsimp only
      exact Effect.step (enqueue_only _ _) h4 (by decide)
    · dsimp only
      exact Effect.set_cn (by decide) h4
theorem cmdJournalMark_only_of {a0} {s : State} {r t} (h : cmdJournalMark a0 s = (r, t)) : Effect [.cn] s t := by
  have := cmdJournalMark_only a0 s
  rwa [h] at this
theorem stepBy_only a0 a1 (s : State) : Effect [.tm, .cn, .fb, .cp, .hp, .mm] s (stepBy a0 a1 s) := by
  unfold stepBy
  lift_lets -underBinder
  intro x0 x1 x2 x3
  have h4 : Effect [.tm, .cn, .fb, .cp, .hp, .mm] s x3 := by
    exact Effect.of_mk (x := s) .refl
  clear_value x3
  exact Effect.step (report_only _ _ _ _ _) (Effect.step (irq_only _ _) h4 (by decide)) (by decide)
theorem stepTo_only a0 a1 (s : State) : Effect [.tm, .cn, .fb, .cp, .hp, .mm] s (stepTo a0 a1 s) := by
  unfold stepTo
  exact Effect.step (stepBy_only _ _ _) (Effect.set_tm (by decide) .refl) (by decide)
theorem cmdTimeSet_only a0 (s : State) : Effect [.tm, .cn, .fb, .cp, .hp, .mm] s (cmdTimeSet a0 s).2 := by
  unfold cmdTimeSet
  split
  · dsimp only
    exact .refl
  · refine Effect.of_ite2 ?_ ?_
    · dsimp only
      exact .refl
    · refine Effect.of_ite2 ?_ ?_
      · dsimp only
        exact .refl
      · dsimp only
        exact Effect.step (stepTo_only _ _ _) .refl (by decide)
theorem cmdTimeSet_only_of {a0} {s : State} {r t} (h : cmdTimeSet a0 s = (r, t)) : Effect [.tm, .cn, .fb, .cp, .hp, .mm] s t := by
  have := cmdTimeSet_only a0 s
  rwa [h] at this
theorem cmdJournalRead_state (c : Cmd) (s : State) : (cmdJournalRead c s).2 = s := by
  unfold cmdJournalRead
  dsimp only
  split
  · rfl
  · split
    · rfl
    · split
      · rfl
      · rfl
theorem cmdJournalRead_only (c : Cmd) (s : State) : Effect [] s (cmdJournalRead c s).2 := by
  rw [cmdJournalRead_state]
  exact .refl
theorem cmdJournalRead_only_of {c : Cmd} {s : State} {r t} (h : cmdJournalRead c s = (r, t)) : Effect [] s t := by
  have := cmdJournalRead_only c s
  rwa [h] at this
theorem cmdTimeGet_only a0 (s : State) : Effect [] s (cmdTimeGet a0 s).2 := by
  unfold cmdTimeGet
  dsimp only
  exact .refl
theorem cmdTimeGet_only_of {a0} {s : State} {r t} (h : cmdTimeGet a0 s = (r, t)) : Effect [] s t := by
  have := cmdTimeGet_only a0 s
  rwa [h] at this
theorem screeRelease_only (s : State) : Effect [.cn] s (screeRelease s) := by
  unfold screeRelease
  refine Effect.of_ite ?_ ?_
  · exact .refl
  · split
    · exact .refl
    · exact Effect.step (enqueue_only _ _) (Effect.set_cn (by decide) .refl) (by decide)
theorem offsetAlarm_only a0 (s : State) : Effect [.tm, .cn, .cp, .hp, .mm] s (offsetAlarm a0 s) := by
  unfold offsetAlarm
  lift_lets -underBinder
  intro x0 x1
  refine Effect.of_ite ?_ ?_
  · exact Effect.step (report_only _ _ _ _ _) (Effect.set_tm (by decide) .refl) (by decide)
  · exact .refl
theorem servoLock_only (s : State) a1 : Effect [.tm, .cn, .cp, .hp, .mm] s (servoLock s a1) := by
  unfold servoLock
  lift_lets -underBinder
  intro x0 x1 x2 x3 x4 x5
  have h6 : Effect [.tm, .cn, .cp, .hp, .mm] s x5 := by
    exact Effect.set_tm (by decide) .refl
  clear_value x5
  split
  · lift_lets -underBinder
    intro x9
    have h10 : Effect [.tm, .cn, .cp, .hp, .mm] s x9 := by
      exact Effect.step (offsetAlarm_only _ _) h6 (by decide)
    clear_value x9
    intro x11
    refine Effect.of_ite ?_ ?_
    · exact Effect.set_tm (by decide) h10
    · exact h10
  · refine Effect.of_ite ?_ ?_
    · exact Effect.step (report_only _ _ _ _ _) (Effect.set_tm (by decide) h6) (by decide)
    · exact h6
  · exact h6
theorem servoLaw_only (s : State) a1 a2 : Effect [.tm] s (servoLaw s a1 a2) := by
  unfold servoLaw
  lift_lets -underBinder
  intro x0 x1 x2 x3 x4
  exact Effect.set_tm (by decide) .refl
theorem measure_only a0 a1 (s : State) : Effect [.tm, .cn, .fb, .cp, .hp, .mm] s (measure a0 a1 s).1 := by
  unfold measure
  refine Effect.of_ite1 ?_ ?_
  · dsimp only
    exact .refl
  · refine Effect.of_ite1 ?_ ?_
    · dsimp only
      exact Effect.step (report_only _ _ _ _ _) .refl (by decide)
    · lift_lets -underBinder
      intro x0 x1 x2
      have h3 : Effect [.tm, .cn, .fb, .cp, .hp, .mm] s x2 := by
        exact Effect.set_tm (by decide) .refl
      clear_value x2
      intro x4 x5 x6 x7
      have h8 : Effect [.tm, .cn, .fb, .cp, .hp, .mm] s x7 := by
        refine Effect.of_ite ?_ ?_
        · exact Effect.step (report_only _ _ _ _ _) (Effect.set_tm (by decide) h3) (by decide)
        · exact h3
      clear_value x7
      intro x9 x10 x11
      have h12 : Effect [.tm, .cn, .fb, .cp, .hp, .mm] s x11 := by
        exact Effect.set_tm (by decide) h8
      clear_value x11
      intro x13 x14
      have h15 : Effect [.tm, .cn, .fb, .cp, .hp, .mm] s x14 := by
        exact Effect.step (stepBy_only _ _ _) (Effect.step (offsetAlarm_only _ _) h12 (by decide)) (by decide)
      clear_value x14
      intro x16
      refine Effect.of_ite1 ?_ ?_
      · dsimp only
        exact h3
      · refine Effect.of_ite1 ?_ ?_
        · dsimp only
          exact Effect.set_tm (by decide) h15
        · dsimp only
          exact Effect.step (servoLock_only _ _) (Effect.step (servoLaw_only _ _ _) h12 (by decide)) (by decide)
theorem measure_only_of {a0} {a1} {s : State} {r t} (h : measure a0 a1 s = (t, r)) : Effect [.tm, .cn, .fb, .cp, .hp, .mm] s t := by
  have := measure_only a0 a1 s
  rwa [h] at this
theorem ppsEdge_only (s : State) : Effect [.tm, .cn, .fb, .cp, .hp, .mm] s (ppsEdge s) := by
  unfold ppsEdge
  refine Effect.of_ite ?_ ?_
  · exact .refl
  · lift_lets -underBinder
    intro x0 x1 x2 x3 x4
    refine Effect.of_ite ?_ ?_
    · exact Effect.step (report_only _ _ _ _ _) .refl (by decide)
    · split
      rename_i v8
      refine Effect.of_ite ?_ ?_
      · exact Effect.step (measure_only_of v8) (Effect.set_tm (by decide) .refl) (by decide)
      · exact Effect.set_tm (by decide) (Effect.step (measure_only_of v8) (Effect.set_tm (by decide) .refl) (by decide))
theorem execPpsEdge_only a0 (s : State) : ∃ t, execPpsEdge a0 s = .next t ∧ Effect [.tm, .cn, .fb, .cp, .hp, .ag, .mm, .free] s t := by
  refine ⟨_, rfl, ?_⟩
  exact Effect.step (ppsEdge_only _) (Effect.step (elapse_only _ _) .refl (by decide)) (by decide)
theorem writeOne_only (s : State) a1 : Effect [.cn, .jn, .hp, .mm] s (writeOne s a1) := by
  unfold writeOne
  lift_lets -underBinder
  intro x0 x1
  have h2 : Effect [.cn, .jn, .hp, .mm] s x1 := by
    exact Effect.step (writeRecord_only _ _) .refl (by decide)
  clear_value x1
  refine Effect.of_ite ?_ ?_
  · split
    · exact Effect.step (finish_only _ _ _) (Effect.set_cn (by decide) h2) (by decide)
    · exact h2
  · exact h2
theorem armNotice_only (s : State) : Effect [.cn] s (armNotice s) := by
  unfold armNotice
  refine Effect.of_ite ?_ ?_
  · exact Effect.set_cn (by decide) .refl
  · exact .refl
theorem enterMarks_only (s : State) : Effect [.cn] s (enterMarks s) := by
  unfold enterMarks
  split
  · refine Effect.of_ite ?_ ?_
    · exact Effect.step (enqueue_only _ _) (Effect.set_cn (by decide) .refl) (by decide)
    · exact .refl
  · exact .refl
theorem recordWrite_only (s : State) : Effect [.cn, .jn, .hp, .mm] s (recordWrite s) := by
  unfold recordWrite
  refine Effect.of_ite ?_ ?_
  · exact .refl
  · split
    · exact Effect.step (writeOne_only _ _) (Effect.set_cn (by decide) .refl) (by decide)
    · exact Effect.step (armNotice_only _) (Effect.step (enterMarks_only _) (Effect.step (writeOne_only _ _) (Effect.set_cn (by decide) .refl) (by decide)) (by decide)) (by decide)
    · exact .refl
theorem execTimeMeasurement_only a0 a1 a2 (s : State) : ∃ t, execTimeMeasurement a0 a1 a2 s = .next t ∧ Effect [.tm, .cn, .fb, .cp, .hp, .ag, .mm, .free] s t := by
  refine ⟨_, rfl, ?_⟩
  exact Effect.step (measure_only _ _ _) (Effect.step (elapse_only _ _) .refl (by decide)) (by decide)
theorem journalFlushed_only (s : State) : Effect [.cn, .jn, .hp, .mm] s (journalFlushed s) := by
  unfold journalFlushed
  split
  · exact .refl
  · lift_lets -underBinder
    intro x5 x6 x7
    have h8 : Effect [.cn, .jn, .hp, .mm] s x7 := by
      refine Effect.of_foldl _ ?_ (fun y9 a10 h11 => ?_)
      · exact Effect.set_cn (by decide) .refl
      · exact Effect.step (writeOne_only _ _) h11 (by decide)
    clear_value x7
    intro x12
    split
    exact Effect.step (writeRecord_only _ _) (Effect.set_cn (by decide) h8) (by decide)
theorem execScreeRelease_only a0 (s : State) : ∃ t, execScreeRelease a0 s = .next t ∧ Effect [.tm, .cn, .ag, .free] s t := by
  refine ⟨_, rfl, ?_⟩
  exact Effect.step (screeRelease_only _) (Effect.step (elapse_only _ _) .refl (by decide)) (by decide)
theorem sourceLost_only (s : State) : Effect [.tm, .cn, .cp, .hp, .mm] s (sourceLost s) := by
  unfold sourceLost
  lift_lets -underBinder
  intro x0 x1 x2 x3
  have h4 : Effect [.tm, .cn, .cp, .hp, .mm] s x3 := by
    exact Effect.set_tm (by decide) .refl
  clear_value x3
  intro x5 x6
  refine Effect.of_ite ?_ ?_
  · exact .refl
  · refine Effect.of_ite ?_ ?_
    · exact Effect.step (report_only _ _ _ _ _) (Effect.step (report_only _ _ _ _ _) (Effect.set_tm (by decide) h4) (by decide)) (by decide)
    · refine Effect.of_ite ?_ ?_
      · exact Effect.step (report_only _ _ _ _ _) (Effect.set_tm (by decide) h4) (by decide)
      · exact Effect.step (report_only _ _ _ _ _) (Effect.set_tm (by decide) h4) (by decide)
theorem holdoverTimeout_only (s : State) : Effect [.tm, .cn, .cp, .hp, .mm] s (holdoverTimeout s) := by
  unfold holdoverTimeout
  refine Effect.of_ite ?_ ?_
  · exact .refl
  · exact Effect.step (report_only _ _ _ _ _) (Effect.set_tm (by decide) .refl) (by decide)
theorem execHoldoverTimeout_only a0 (s : State) : ∃ t, execHoldoverTimeout a0 s = .next t ∧ Effect [.tm, .cn, .cp, .hp, .ag, .mm, .free] s t := by
  refine ⟨_, rfl, ?_⟩
  exact Effect.step (holdoverTimeout_only _) (Effect.step (elapse_only _ _) .refl (by decide)) (by decide)
theorem execTimeSourceLost_only a0 (s : State) : ∃ t, execTimeSourceLost a0 s = .next t ∧ Effect [.tm, .cn, .cp, .hp, .ag, .mm, .free] s t := by
  refine ⟨_, rfl, ?_⟩
  exact Effect.step (sourceLost_only _) (Effect.step (elapse_only _ _) .refl (by decide)) (by decide)
theorem execCairnRecordWrite_only a0 (s : State) : ∃ t, execCairnRecordWrite a0 s = .next t ∧ Effect [.tm, .cn, .jn, .hp, .ag, .mm, .free] s t := by
  refine ⟨_, rfl, ?_⟩
  exact Effect.step (recordWrite_only _) (Effect.step (elapse_only _ _) .refl (by decide)) (by decide)
theorem execJournalFlushed_only a0 (s : State) : ∃ t, execJournalFlushed a0 s = .next t ∧ Effect [.tm, .cn, .jn, .hp, .ag, .mm, .free] s t := by
  refine ⟨_, rfl, ?_⟩
  exact Effect.step (journalFlushed_only _) (Effect.step (elapse_only _ _) .refl (by decide)) (by decide)

end Sys2Proof.Machine
end

