-- ==== Sys2Proof/Laws/FrameStages.lean ====
section
/-!
SUPPORT. Sys2Proof/Laws/FrameStages.lean: what each operation of Machine/Stages.lean may change, one lemma per operation.
-/

namespace Sys2Proof.Machine
set_option Elab.async false

theorem loseContinuity_only a0 (s : State) : Effect [.mc] s (loseContinuity a0 s) := by
  unfold loseContinuity
  refine Effect.of_ite ?_ ?_
  · exact .refl
  · exact Effect.set_mc (by decide) .refl
theorem disableGroup_only a0 (s : State) : Effect [.st, .mc] s (disableGroup a0 s) := by
  unfold disableGroup
  lift_lets -underBinder
  intro x0
  have h1 : Effect [.st, .mc] s x0 := by
    exact Effect.set_st (by decide) .refl
  clear_value x0
  exact Effect.set_mc (by decide) h1
theorem apwmSetMode_only a0 a1 (s : State) : Effect [.ap] s (apwmSetMode a0 a1 s) := by
  unfold apwmSetMode
  lift_lets -underBinder
  intro x0
  exact Effect.step (updApwm_only _ _ _) .refl (by decide)
theorem identFail_only a0 a1 a2 (s : State) : Effect [.cn, .jn, .mc, .cp, .hp, .mm] s (identFail a0 a1 a2 s) := by
  unfold identFail
  split
  · exact .refl
  · lift_lets -underBinder
    intro x5
    have h6 : Effect [.cn, .jn, .mc, .cp, .hp, .mm] s x5 := by
      exact Effect.step (finish_only _ _ _) (Effect.step (updMachine_only _ _ _) .refl (by decide)) (by decide)
    clear_value x5
    exact Effect.step (report_only _ _ _ _ _) h6 (by decide)
theorem latchStage_only a0 a1 a2 (s : State) : Effect [.cn, .jn, .sp, .st, .mc, .cp, .hp, .mm] s (latchStage a0 a1 a2 s) := by
  unfold latchStage
  lift_lets -underBinder
  intro x0 x1 x2
  have h3 : Effect [.cn, .jn, .sp, .st, .mc, .cp, .hp, .mm] s x2 := by
    exact Effect.step (updStage_only _ _ _) .refl (by decide)
  clear_value x2
  intro x4
  have h5 : Effect [.cn, .jn, .sp, .st, .mc, .cp, .hp, .mm] s x4 := by
    exact Effect.set_sp (by decide) h3
  clear_value x4
  intro x6
  have h7 : Effect [.cn, .jn, .sp, .st, .mc, .cp, .hp, .mm] s x6 := by
    exact Effect.step (report_only _ _ _ _ _) h5 (by decide)
  clear_value x6
  refine Effect.of_ite ?_ ?_
  · exact .refl
  · split
    · exact Effect.step (identFail_only _ _ _ _) h7 (by decide)
    · exact h7
theorem tripInput_only a0 a1 a2 (s : State) : Effect [.cn, .jn, .sp, .st, .mc, .cp, .hp, .mm] s (tripInput a0 a1 a2 s) := by
  unfold tripInput
  refine Effect.of_ite ?_ ?_
  · exact .refl
  · lift_lets -underBinder
    intro x0 x1 x2 x3
    have h4 : Effect [.cn, .jn, .sp, .st, .mc, .cp, .hp, .mm] s x3 := by
      exact Effect.step (updStage_only _ _ _) .refl (by decide)
    clear_value x3
    refine Effect.of_ite ?_ ?_
    · exact Effect.step (latchStage_only _ _ _ _) h4 (by decide)
    · exact h4
theorem loadAll_only a0 (s : State) : Effect [.st] s (loadAll a0 s) := by
  unfold loadAll
  refine Effect.of_foldl _ ?_ (fun y0 a1 h2 => ?_)
  · exact .refl
  · refine Effect.of_ite ?_ ?_
    · exact Effect.step (updStage_only _ _ _) h2 (by decide)
    · exact h2
theorem writeDuty_only a0 a1 a2 (s : State) : Effect [.st] s (writeDuty a0 a1 a2 s) := by
  unfold writeDuty
  exact Effect.step (updStage_only _ _ _) .refl (by decide)
theorem cmdStageEnable_only a0 (s : State) : Effect [.mc] s (cmdStageEnable a0 s).2 := by
  unfold cmdStageEnable
  split
  · dsimp only
    exact .refl
  · split
    · dsimp only
      exact .refl
    · dsimp only
      exact Effect.step (updMachine_only _ _ _) .refl (by decide)
theorem cmdStageEnable_only_of {a0} {s : State} {r t} (h : cmdStageEnable a0 s = (r, t)) : Effect [.mc] s t := by
  have := cmdStageEnable_only a0 s
  rwa [h] at this
theorem cmdStageDisable_only a0 (s : State) : Effect [.mc] s (cmdStageDisable a0 s).2 := by
  unfold cmdStageDisable
  split
  · dsimp only
    exact .refl
  · refine Effect.of_ite2 ?_ ?_
    · dsimp only
      exact .refl
    · refine Effect.of_ite2 ?_ ?_
      · dsimp only
        exact .refl
      · dsimp only
        exact Effect.step (updMachine_only _ _ _) .refl (by decide)
theorem cmdStageDisable_only_of {a0} {s : State} {r t} (h : cmdStageDisable a0 s = (r, t)) : Effect [.mc] s t := by
  have := cmdStageDisable_only a0 s
  rwa [h] at this
theorem cmdMachineIdentify_only a0 (s : State) : Effect [.mc] s (cmdMachineIdentify a0 s).2 := by
  unfold cmdMachineIdentify
  lift_lets -underBinder
  intro x0 x1 x2 x3 x4 x5
  have h6 : Effect [.mc] s x5.2 := by
    unfold x5
    dsimp only
    exact Effect.step (updMachine_only _ _ _) .refl (by decide)
  clear_value x5
  refine Effect.of_ite2 ?_ ?_
  · dsimp only
    exact .refl
  · refine Effect.of_ite2 ?_ ?_
    · dsimp only
      exact .refl
    · refine Effect.of_ite2 ?_ ?_
      · dsimp only
        exact .refl
      · refine Effect.of_ite2 ?_ ?_
        · refine Effect.of_ite2 ?_ ?_
          · exact h6
          · dsimp only
            exact .refl
        · refine Effect.of_ite2 ?_ ?_
          · dsimp only
            exact .refl
          · exact h6
theorem cmdMachineIdentify_only_of {a0} {s : State} {r t} (h : cmdMachineIdentify a0 s = (r, t)) : Effect [.mc] s t := by
  have := cmdMachineIdentify_only a0 s
  rwa [h] at this
theorem cmdTripClear_only a0 (s : State) : Effect [.cn, .st, .cp, .hp, .mm] s (cmdTripClear a0 s).2 := by
  unfold cmdTripClear
  lift_lets -underBinder
  intro x0 x1 x2 x3
  refine Effect.of_ite2 ?_ ?_
  · dsimp only
    exact Effect.step (report_only _ _ _ _ _) .refl (by decide)
  · refine Effect.of_ite2 ?_ ?_
    · dsimp only
      exact .refl
    · dsimp only
      exact Effect.step (report_only _ _ _ _ _) (Effect.step (updStage_only _ _ _) .refl (by decide)) (by decide)
theorem cmdTripClear_only_of {a0} {s : State} {r t} (h : cmdTripClear a0 s = (r, t)) : Effect [.cn, .st, .cp, .hp, .mm] s t := by
  have := cmdTripClear_only a0 s
  rwa [h] at this
theorem finishAll_only a0 a1 a2 (s : State) : Effect [.jn] s (finishAll a0 a1 a2 s) := by
  unfold finishAll
  refine Effect.of_foldl _ ?_ (fun y0 a1 h2 => ?_)
  · exact .refl
  · exact Effect.step (finishAt_only _ _ _ _) h2 (by decide)
theorem stagesStop_only (s : State) : Effect [.cn, .jn, .st, .mc, .ap, .cp, .hp, .mm] s (stagesStop s) := by
  unfold stagesStop
  lift_lets -underBinder
  intro x0
  have h1 : Effect [.cn, .jn, .st, .mc, .ap, .cp, .hp, .mm] s x0 := by
    exact Effect.set_st (by decide) .refl
  clear_value x0
  intro x2
  have h3 : Effect [.cn, .jn, .st, .mc, .ap, .cp, .hp, .mm] s x2 := by
    refine Effect.of_foldl _ ?_ (fun y4 a5 h6 => ?_)
    · exact h1
    · lift_lets -underBinder
      intro x7
      exact Effect.step (finishAll_only _ _ _ _) (Effect.step (identFail_only _ _ _ _) (Effect.step (updMachine_only _ _ _) h6 (by decide)) (by decide)) (by decide)
  clear_value x2
  refine Effect.of_foldl _ ?_ (fun y8 a9 h10 => ?_)
  · exact h3
  · refine Effect.of_ite ?_ ?_
    · exact Effect.step (updApwm_only _ _ _) h10 (by decide)
    · exact h10
theorem identFailover_only (s : State) : Effect [.cn, .jn, .mc, .cp, .hp, .mm] s (identFailover s) := by
  unfold identFailover
  refine Effect.of_foldl _ ?_ (fun y0 a1 h2 => ?_)
  · exact .refl
  · exact Effect.step (identFail_only _ _ _ _) h2 (by decide)
theorem mainDc_only a0 a1 (s : State) : Effect [.cn, .md, .cp, .hp, .mm] s (mainDc a0 a1 s) := by
  unfold mainDc
  lift_lets -underBinder
  intro x0 x1 x2 x3
  have h4 : Effect [.cn, .md, .cp, .hp, .mm] s x3 := by
    exact Effect.step (updMod_only _ _ _) .refl (by decide)
  clear_value x3
  refine Effect.of_ite ?_ ?_
  · exact Effect.step (report_only _ _ _ _ _) h4 (by decide)
  · exact h4
theorem mainPhase_only a0 a1 (s : State) : Effect [.cn, .jn, .sp, .st, .md, .mc, .cp, .hp, .mm] s (mainPhase a0 a1 s) := by
  unfold mainPhase
  lift_lets -underBinder
  intro x0 x1 x2 x3 x4
  have h5 : Effect [.cn, .jn, .sp, .st, .md, .mc, .cp, .hp, .mm] s x4 := by
    exact Effect.step (updMod_only _ _ _) .refl (by decide)
  clear_value x4
  refine Effect.of_ite ?_ ?_
  · exact Effect.step (latchStage_only _ _ _ _) h5 (by decide)
  · exact h5
theorem sinc3Result_only a0 a1 (s : State) : Effect [.cn, .jn, .sp, .st, .md, .mc, .cp, .hp, .mm] s (sinc3Result a0 a1 s) := by
  unfold sinc3Result
  refine Effect.of_ite ?_ ?_
  · exact .refl
  · refine Effect.of_ite ?_ ?_
    · refine Effect.of_ite ?_ ?_
      · exact Effect.step (mainDc_only _ _ _) .refl (by decide)
      · exact .refl
    · refine Effect.of_ite ?_ ?_
      · exact Effect.step (mainPhase_only _ _ _) .refl (by decide)
      · exact .refl
theorem identDemand_only a0 (s : State) : Effect [.cn, .jn, .mc, .cp, .hp, .mm] s (identDemand a0 s) := by
  unfold identDemand
  refine Effect.of_foldl _ ?_ (fun y0 a1 h2 => ?_)
  · exact .refl
  · refine Effect.of_ite ?_ ?_
    · exact Effect.step (identFail_only _ _ _ _) h2 (by decide)
    · exact h2
theorem apwmRidgeStart_only (s : State) : Effect [.ap] s (apwmRidgeStart s) := by
  unfold apwmRidgeStart
  refine Effect.of_foldl _ ?_ (fun y0 a1 h2 => ?_)
  · exact .refl
  · refine Effect.of_ite ?_ ?_
    · exact Effect.step (apwmSetMode_only _ _ _) h2 (by decide)
    · exact h2
theorem makeUnavailable_only a0 a1 (s : State) : Effect [.cn, .mc, .sf, .cp, .hp, .mm] s (makeUnavailable a0 a1 s) := by
  unfold makeUnavailable
  refine Effect.of_ite ?_ ?_
  · exact .refl
  · lift_lets -underBinder
    intro x0
    have h1 : Effect [.cn, .mc, .sf, .cp, .hp, .mm] s x0 := by
      exact Effect.step (updMachine_only _ _ _) .refl (by decide)
    clear_value x0
    intro x2 x3
    have h4 : Effect [.cn, .mc, .sf, .cp, .hp, .mm] s x3 := by
      exact Effect.set_sf (by decide) h1
    clear_value x3
    exact Effect.step (report_only _ _ _ _ _) h4 (by decide)
theorem latchChannel_only a0 a1 (s : State) : Effect [.cn, .jn, .sp, .st, .mc, .cp, .hp, .mm] s (latchChannel a0 a1 s) := by
  unfold latchChannel
  refine Effect.of_foldl _ ?_ (fun y0 a1 h2 => ?_)
  · exact .refl
  · exact Effect.step (latchStage_only _ _ _ _) h2 (by decide)
theorem identCommit_only a0 a1 a2 a3 a4 (s : State) : Effect [.rg, .mc] s (identCommit a0 a1 a2 a3 a4 s) := by
  unfold identCommit
  lift_lets -underBinder
  intro x0 x1
  have h2 : Effect [.rg, .mc] s x1 := by
    exact Effect.step (updMachine_only _ _ _) .refl (by decide)
  clear_value x1
  intro x3
  refine Effect.of_ite ?_ ?_
  · exact Effect.set_rg (by decide) h2
  · exact Effect.set_rg (by decide) h2
theorem interruptExpired_only a0 (s : State) : Effect [.cn, .mc, .sf, .cp, .hp, .mm] s (interruptExpired a0 s) := by
  unfold interruptExpired
  split
  · refine Effect.of_ite ?_ ?_
    · exact Effect.step (makeUnavailable_only _ _ _) .refl (by decide)
    · exact .refl
  · exact .refl
theorem dropBanks_only (s : State) : Effect [.cn, .mc, .sf, .cp, .hp, .mm] s (dropBanks s) := by
  unfold dropBanks
  refine Effect.of_foldl _ ?_ (fun y0 a1 h2 => ?_)
  · exact .refl
  · lift_lets -underBinder
    intro x3 x4 x5
    refine Effect.of_ite ?_ ?_
    · exact h2
    · clear_value x5
      split
      · exact h2
      · refine Effect.of_ite ?_ ?_
        · exact Effect.step (makeUnavailable_only _ _ _) h2 (by decide)
        · refine Effect.of_ite ?_ ?_
          · exact h2
          · exact Effect.step (report_only _ _ _ _ _) (Effect.step (updMachine_only _ _ _) h2 (by decide)) (by decide)
      · exact Effect.step (makeUnavailable_only _ _ _) h2 (by decide)
theorem feedbackSwitch_only (s : State) : Effect [.cn, .mc, .sf, .cp, .hp, .mm] s (feedbackSwitch s) := by
  unfold feedbackSwitch
  refine Effect.of_foldl _ ?_ (fun y0 a1 h2 => ?_)
  · exact .refl
  · lift_lets -underBinder
    intro x3 x4 x5
    refine Effect.of_ite ?_ ?_
    · exact h2
    · refine Effect.of_ite ?_ ?_
      · exact Effect.step (report_only _ _ _ _ _) (Effect.step (updMachine_only _ _ _) h2 (by decide)) (by decide)
      · exact Effect.step (makeUnavailable_only _ _ _) h2 (by decide)
theorem takeDisable_only a0 (s : State) : Effect [.cn, .jn, .st, .mc, .cp, .hp, .mm] s (takeDisable a0 s) := by
  unfold takeDisable
  lift_lets -underBinder
  intro x0 x1 x2
  have h3 : Effect [.cn, .jn, .st, .mc, .cp, .hp, .mm] s x2 := by
    refine Effect.of_foldl _ ?_ (fun y4 a5 h6 => ?_)
    · exact .refl
    · exact Effect.step (updStage_only _ _ _) h6 (by decide)
  clear_value x2
  intro x7
  have h8 : Effect [.cn, .jn, .st, .mc, .cp, .hp, .mm] s x7 := by
    refine Effect.of_ite ?_ ?_
    · exact h3
    · exact Effect.step (report_only _ _ _ _ _) h3 (by decide)
  clear_value x7
  exact Effect.step (finishAll_only _ _ _ _) (Effect.step (updMachine_only _ _ _) h8 (by decide)) (by decide)
theorem takeEnable_only a0 (s : State) : Effect [.cn, .jn, .st, .mc, .cp, .hp, .mm] s (takeEnable a0 s) := by
  unfold takeEnable
  lift_lets -underBinder
  intro x0 x1 x2 x3 x4 x5 x6
  have h7 : Effect [.cn, .jn, .st, .mc, .cp, .hp, .mm] s x6 := by
    refine Effect.of_foldl _ ?_ (fun y8 a9 h10 => ?_)
    · exact .refl
    · exact Effect.step (updStage_only _ _ _) h10 (by decide)
  clear_value x6
  intro x11 x12
  have h13 : Effect [.cn, .jn, .st, .mc, .cp, .hp, .mm] s x12 := by
    exact Effect.step (updMachine_only _ _ _) h7 (by decide)
  clear_value x12
  intro x14
  have h15 : Effect [.cn, .jn, .st, .mc, .cp, .hp, .mm] s x14 := by
    unfold x14
    clear_value x11
    split
    · refine Effect.of_ite ?_ ?_
      · exact h13
      · exact Effect.step (report_only _ _ _ _ _) h13 (by decide)
    · exact Effect.step (report_only _ _ _ _ _) h13 (by decide)
    · exact h13
  clear_value x14
  intro x28
  have h29 : Effect [.cn, .jn, .st, .mc, .cp, .hp, .mm] s x28 := by
    refine Effect.of_ite ?_ ?_
    · exact h15
    · exact Effect.step (report_only _ _ _ _ _) h15 (by decide)
  clear_value x28
  refine Effect.of_ite ?_ ?_
  · dsimp only [x2]
    exact Effect.step (finishAll_only _ _ _ _) (Effect.step (updMachine_only _ _ _) .refl (by decide)) (by decide)
  · refine Effect.of_ite ?_ ?_
    · dsimp only [x2]
      exact Effect.step (finishAll_only _ _ _ _) (Effect.step (updMachine_only _ _ _) .refl (by decide)) (by decide)
    · refine Effect.of_ite ?_ ?_
      · dsimp only [x2]
        exact Effect.step (finishAll_only _ _ _ _) (Effect.step (updMachine_only _ _ _) .refl (by decide)) (by decide)
      · dsimp only [x2]
        exact Effect.step (finishAll_only _ _ _ _) (Effect.step (updMachine_only _ _ _) h29 (by decide)) (by decide)
theorem takeEnables_only a0 (s : State) : Effect [.cn, .jn, .st, .mc, .cp, .hp, .mm] s (takeEnables a0 s) := by
  unfold takeEnables
  refine Effect.of_foldl _ ?_ (fun y0 a1 h2 => ?_)
  · exact .refl
  · lift_lets -underBinder
    intro x3
    have h4 : Effect [.cn, .jn, .st, .mc, .cp, .hp, .mm] s x3 := by
      refine Effect.of_ite ?_ ?_
      · exact h2
      · exact Effect.step (takeDisable_only _ _) h2 (by decide)
    clear_value x3
    refine Effect.of_ite ?_ ?_
    · exact h4
    · exact Effect.step (takeEnable_only _ _) h4 (by decide)
theorem intervalEdge_only a0 a1 a2 (s : State) : Effect [.st] s (intervalEdge a0 a1 a2 s) := by
  unfold intervalEdge
  lift_lets -underBinder
  intro x0 x1 x2 x3 x4
  refine Effect.of_ite ?_ ?_
  · exact .refl
  · refine Effect.of_ite ?_ ?_
    · exact .refl
    · refine Effect.of_ite ?_ ?_
      · exact .refl
      · refine Effect.of_ite ?_ ?_
        · exact .refl
        · exact Effect.step (updStage_only _ _ _) .refl (by decide)
theorem execTorqueInterruptExpired_only a0 a1 (s : State) : ∃ t, execTorqueInterruptExpired a0 a1 s = .next t ∧ Effect [.tm, .cn, .mc, .sf, .cp, .hp, .ag, .mm, .free] s t := by
  refine ⟨_, rfl, ?_⟩
  exact Effect.step (interruptExpired_only _ _) (Effect.step (elapse_only _ _) .refl (by decide)) (by decide)
theorem loadAllProxy_only a0 (s : State) : Effect [.cn, .st, .gp, .cp, .hp, .mm] s (loadAllProxy a0 s) := by
  unfold loadAllProxy
  split
  · refine Effect.of_ite ?_ ?_
    · lift_lets -underBinder
      intro x7 x8
      have h9 : Effect [.cn, .st, .gp, .cp, .hp, .mm] s x8 := by
        exact Effect.step (loadAll_only _ _) (Effect.step (updGroupPwm_only _ _ _) .refl (by decide)) (by decide)
      clear_value x8
      refine Effect.of_ite ?_ ?_
      · exact h9
      · exact Effect.step (report_only _ _ _ _ _) h9 (by decide)
    · exact .refl
  · exact .refl
theorem execLoadAllProxy_only a0 a1 (s : State) : ∃ t, execLoadAllProxy a0 a1 s = .next t ∧ Effect [.tm, .cn, .st, .gp, .cp, .hp, .ag, .mm, .free] s t := by
  refine ⟨_, rfl, ?_⟩
  exact Effect.step (loadAllProxy_only _ _) (Effect.step (elapse_only _ _) .refl (by decide)) (by decide)
theorem fastDc_only a0 a1 (s : State) : Effect [.cn, .jn, .sp, .st, .md, .mc, .cp, .hp, .mm] s (fastDc a0 a1 s) := by
  unfold fastDc
  lift_lets -underBinder
  intro x0
  have h1 : Effect [.cn, .jn, .sp, .st, .md, .mc, .cp, .hp, .mm] s x0 := by
    exact Effect.step (updMod_only _ _ _) .refl (by decide)
  clear_value x0
  intro x2
  have h3 : Effect [.cn, .jn, .sp, .st, .md, .mc, .cp, .hp, .mm] s x2 := by
    exact Effect.step (updMod_only _ _ _) h1 (by decide)
  clear_value x2
  refine Effect.of_ite ?_ ?_
  · exact Effect.step (updMod_only _ _ _) h1 (by decide)
  · refine Effect.of_ite ?_ ?_
    · exact Effect.step (latchChannel_only _ _ _) h3 (by decide)
    · exact h3
theorem fastPhase_only a0 a1 a2 (s : State) : Effect [.cn, .jn, .sp, .st, .md, .mc, .cp, .hp, .mm] s (fastPhase a0 a1 a2 s) := by
  unfold fastPhase
  lift_lets -underBinder
  intro x0 x1
  have h2 : Effect [.cn, .jn, .sp, .st, .md, .mc, .cp, .hp, .mm] s x1 := by
    exact Effect.step (updMod_only _ _ _) (Effect.step (updMod_only _ _ _) .refl (by decide)) (by decide)
  clear_value x1
  intro x3
  split
  · exact Effect.step (updStage_only _ _ _) h2 (by decide)
  · lift_lets -underBinder
    intro x9
    have h10 : Effect [.cn, .jn, .sp, .st, .md, .mc, .cp, .hp, .mm] s x9 := by
      exact Effect.step (updStage_only _ _ _) h2 (by decide)
    clear_value x9
    refine Effect.of_ite ?_ ?_
    · exact Effect.step (latchStage_only _ _ _ _) h10 (by decide)
    · exact h10
theorem sinc2Result_only a0 a1 a2 (s : State) : Effect [.cn, .jn, .sp, .st, .md, .mc, .cp, .hp, .mm] s (sinc2Result a0 a1 a2 s) := by
  unfold sinc2Result
  refine Effect.of_ite ?_ ?_
  · exact .refl
  · refine Effect.of_ite ?_ ?_
    · refine Effect.of_ite ?_ ?_
      · exact Effect.step (fastDc_only _ _ _) .refl (by decide)
      · exact .refl
    · refine Effect.of_ite ?_ ?_
      · exact Effect.step (fastPhase_only _ _ _ _) .refl (by decide)
      · exact .refl
theorem apwmFlip_only a0 (s : State) : Effect [.ap] s (apwmFlip a0 s) := by
  unfold apwmFlip
  exact Effect.step (updApwm_only _ _ _) .refl (by decide)
theorem apwmTimeout_only a0 (s : State) : Effect [.cn, .ap, .cp, .hp, .mm] s (apwmTimeout a0 s) := by
  unfold apwmTimeout
  lift_lets -underBinder
  intro x0 x1 x2 x3
  have h4 : Effect [.cn, .ap, .cp, .hp, .mm] s x3 := by
    exact Effect.step (report_only _ _ _ _ _) (Effect.step (apwmFlip_only _ _) (Effect.step (updApwm_only _ _ _) .refl (by decide)) (by decide)) (by decide)
  clear_value x3
  refine Effect.of_ite ?_ ?_
  · exact .refl
  · refine Effect.of_ite ?_ ?_
    · exact h4
    · exact Effect.step (report_only _ _ _ _ _) (Effect.step (updApwm_only _ _ _) h4 (by decide)) (by decide)
theorem execApwmTimeout_only a0 a1 (s : State) : ∃ t, execApwmTimeout a0 a1 s = .next t ∧ Effect [.tm, .cn, .ap, .cp, .hp, .ag, .mm, .free] s t := by
  refine ⟨_, rfl, ?_⟩
  exact Effect.step (apwmTimeout_only _ _) (Effect.step (elapse_only _ _) .refl (by decide)) (by decide)
theorem stageReload_only a0 a1 (s : State) : Effect [.st, .mc] s (stageReload a0 a1 s) := by
  unfold stageReload
  lift_lets -underBinder
  intro x0 x1 x2 x3 x4 x5 x6 x7
  have h8 : Effect [.st, .mc] s x7 := by
    exact Effect.step (updStage_only _ _ _) .refl (by decide)
  clear_value x7
  refine Effect.of_ite ?_ ?_
  · exact .refl
  · split
    · refine Effect.of_ite ?_ ?_
      · exact Effect.step (updMachine_only _ _ _) h8 (by decide)
      · exact h8
    · exact h8
theorem execStageReload_only a0 a1 a2 (s : State) : ∃ t, execStageReload a0 a1 a2 s = .next t ∧ Effect [.tm, .st, .mc, .ag, .free] s t := by
  refine ⟨_, rfl, ?_⟩
  exact Effect.step (stageReload_only _ _ _) (Effect.step (elapse_only _ _) .refl (by decide)) (by decide)
theorem execTripInputLatch_only a0 a1 a2 a3 (s : State) : ∃ t, execTripInputLatch a0 a1 a2 a3 s = .next t ∧ Effect [.tm, .cn, .jn, .sp, .st, .mc, .cp, .hp, .ag, .mm, .free] s t := by
  refine ⟨_, rfl, ?_⟩
  exact Effect.step (tripInput_only _ _ _ _) (Effect.step (elapse_only _ _) .refl (by decide)) (by decide)
theorem execSinc2Result_only a0 a1 a2 a3 (s : State) : ∃ t, execSinc2Result a0 a1 a2 a3 s = .next t ∧ Effect [.tm, .cn, .jn, .sp, .st, .md, .mc, .cp, .hp, .ag, .mm, .free] s t := by
  refine ⟨_, rfl, ?_⟩
  exact Effect.step (sinc2Result_only _ _ _ _) (Effect.step (elapse_only _ _) .refl (by decide)) (by decide)
theorem execSinc3Result_only a0 a1 a2 (s : State) : ∃ t, execSinc3Result a0 a1 a2 s = .next t ∧ Effect [.tm, .cn, .jn, .sp, .st, .md, .mc, .cp, .hp, .ag, .mm, .free] s t := by
  refine ⟨_, rfl, ?_⟩
  exact Effect.step (sinc3Result_only _ _ _) (Effect.step (elapse_only _ _) .refl (by decide)) (by decide)
theorem apwmPickEnd_only a0 (s : State) : Effect [.ap] s (apwmPickEnd a0 s) := by
  unfold apwmPickEnd
  lift_lets -underBinder
  intro x0
  refine Effect.of_ite ?_ ?_
  · exact .refl
  · exact Effect.step (updApwm_only _ _ _) .refl (by decide)
theorem execApwmPickEnd_only a0 a1 (s : State) : ∃ t, execApwmPickEnd a0 a1 s = .next t ∧ Effect [.tm, .ap, .ag, .free] s t := by
  refine ⟨_, rfl, ?_⟩
  exact Effect.step (apwmPickEnd_only _ _) (Effect.step (elapse_only _ _) .refl (by decide)) (by decide)
theorem modulatorRun_only a0 a1 (s : State) : Effect [.cn, .jn, .sp, .st, .md, .mc, .cp, .hp, .mm] s (modulatorRun a0 a1 s) := by
  unfold modulatorRun
  refine Effect.of_ite ?_ ?_
  · exact .refl
  · refine Effect.of_ite ?_ ?_
    · refine Effect.of_ite ?_ ?_
      · exact .refl
      · lift_lets -underBinder
        intro x0 x1
        have h2 : Effect [.cn, .jn, .sp, .st, .md, .mc, .cp, .hp, .mm] s x1 := by
          exact Effect.step (updMod_only _ _ _) .refl (by decide)
        clear_value x1
        refine Effect.of_ite ?_ ?_
        · exact Effect.step (latchChannel_only _ _ _) h2 (by decide)
        · exact h2
    · refine Effect.of_ite ?_ ?_
      · exact .refl
      · lift_lets -underBinder
        intro x3 x4
        have h5 : Effect [.cn, .jn, .sp, .st, .md, .mc, .cp, .hp, .mm] s x4 := by
          exact Effect.step (updMod_only _ _ _) .refl (by decide)
        clear_value x4
        refine Effect.of_ite ?_ ?_
        · exact Effect.step (latchStage_only _ _ _ _) h5 (by decide)
        · exact h5
theorem identifyComplete_only a0 a1 (s : State) : Effect [.cn, .jn, .rg, .mc, .cp, .hp, .mm] s (identifyComplete a0 a1 s) := by
  unfold identifyComplete
  split
  · exact .refl
  · lift_lets -underBinder
    intro x5
    split
    · refine Effect.of_ite ?_ ?_
      · exact .refl
      · refine Effect.of_ite ?_ ?_
        · exact Effect.step (identFail_only _ _ _ _) .refl (by decide)
        · lift_lets -underBinder
          intro x10
          exact Effect.step (identCommit_only _ _ _ _ _ _) .refl (by decide)
    · exact Effect.step (identFail_only _ _ _ _) .refl (by decide)
    · exact .refl
    · refine Effect.of_ite ?_ ?_
      · exact .refl
      · lift_lets -underBinder
        intro x26
        exact Effect.step (identCommit_only _ _ _ _ _ _) .refl (by decide)
    · exact .refl
theorem execModulatorStuck_only a0 a1 a2 (s : State) : ∃ t, execModulatorStuck a0 a1 a2 s = .next t ∧ Effect [.tm, .cn, .jn, .sp, .st, .md, .mc, .cp, .hp, .ag, .mm, .free] s t := by
  refine ⟨_, rfl, ?_⟩
  exact Effect.step (modulatorRun_only _ _ _) (Effect.step (elapse_only _ _) .refl (by decide)) (by decide)
theorem execPwmIntervalEdge_only a0 a1 a2 a3 (s : State) : ∃ t, execPwmIntervalEdge a0 a1 a2 a3 s = .next t ∧ Effect [.tm, .st, .ag, .free] s t := by
  refine ⟨_, rfl, ?_⟩
  exact Effect.step (intervalEdge_only _ _ _ _) (Effect.step (elapse_only _ _) .refl (by decide)) (by decide)
theorem execLoadAllWrite_only a0 a1 (s : State) : ∃ t, execLoadAllWrite a0 a1 s = .next t ∧ Effect [.tm, .st, .ag, .free] s t := by
  refine ⟨_, rfl, ?_⟩
  refine Effect.of_ite ?_ ?_
  · exact Effect.step (loadAll_only _ _) (Effect.step (elapse_only _ _) .refl (by decide)) (by decide)
  · exact Effect.step (elapse_only _ _) .refl (by decide)
theorem carrierWatchdog_only a0 (s : State) : Effect [.cn, .st, .mc, .sf, .cp, .hp, .mm] s (carrierWatchdog a0 s) := by
  unfold carrierWatchdog
  lift_lets -underBinder
  intro x0 x1 x2
  have h3 : Effect [.cn, .st, .mc, .sf, .cp, .hp, .mm] s x2 := by
    exact Effect.step (report_only _ _ _ _ _) .refl (by decide)
  clear_value x2
  intro x4
  have h5 : Effect [.cn, .st, .mc, .sf, .cp, .hp, .mm] s x4 := by
    exact Effect.step (disableGroup_only _ _) (Effect.step (updGroup_only _ _ _) h3 (by decide)) (by decide)
  clear_value x4
  intro x6
  refine Effect.of_ite ?_ ?_
  · exact .refl
  · exact Effect.set_sf (by decide) h5
theorem execCarrierWatchdog_only a0 a1 (s : State) : ∃ t, execCarrierWatchdog a0 a1 s = .next t ∧ Effect [.tm, .cn, .st, .mc, .sf, .cp, .hp, .ag, .mm, .free] s t := by
  refine ⟨_, rfl, ?_⟩
  exact Effect.step (carrierWatchdog_only _ _) (Effect.step (elapse_only _ _) .refl (by decide)) (by decide)
theorem apwmIntervalEnd_only a0 a1 (s : State) : Effect [.ap] s (apwmIntervalEnd a0 a1 s) := by
  unfold apwmIntervalEnd
  lift_lets -underBinder
  intro x0
  have h1 : Effect [.ap] s x0 := by
    exact Effect.step (updApwm_only _ _ _) .refl (by decide)
  clear_value x0
  intro x2 x3
  refine Effect.of_ite ?_ ?_
  · exact h1
  · refine Effect.of_ite ?_ ?_
    · refine Effect.of_ite ?_ ?_
      · exact Effect.step (apwmFlip_only _ _) (Effect.step (updApwm_only _ _ _) h1 (by decide)) (by decide)
      · exact h1
    · refine Effect.of_ite ?_ ?_
      · exact Effect.step (apwmFlip_only _ _) h1 (by decide)
      · exact h1
theorem execApwmIntervalEnd_only a0 a1 a2 (s : State) : ∃ t, execApwmIntervalEnd a0 a1 a2 s = .next t ∧ Effect [.tm, .ap, .ag, .free] s t := by
  refine ⟨_, rfl, ?_⟩
  exact Effect.step (apwmIntervalEnd_only _ _ _) (Effect.step (elapse_only _ _) .refl (by decide)) (by decide)
theorem execIdentifyComplete_only a0 a1 a2 (s : State) : ∃ t, execIdentifyComplete a0 a1 a2 s = .next t ∧ Effect [.tm, .cn, .jn, .rg, .mc, .cp, .hp, .ag, .mm, .free] s t := by
  refine ⟨_, rfl, ?_⟩
  exact Effect.step (identifyComplete_only _ _ _) (Effect.step (elapse_only _ _) .refl (by decide)) (by decide)

end Sys2Proof.Machine
end

