-- ==== Sys2Proof/Laws/FrameLearning.lean ====
section
/-!
SUPPORT. Sys2Proof/Laws/FrameLearning.lean: what each operation of Machine/Learning.lean may change, one lemma per operation.
-/

namespace Sys2Proof.Machine
set_option Elab.async false

theorem ltSet_only a0 a1 a2 (s : State) : Effect [.cn, .lt, .cp, .hp, .mm] s (ltSet a0 a1 a2 s) := by
  unfold ltSet
  lift_lets -underBinder
  intro x0 x1
  have h2 : Effect [.cn, .lt, .cp, .hp, .mm] s x1 := by
    exact Effect.step (updTable_only _ _ _) .refl (by decide)
  clear_value x1
  refine Effect.of_ite ?_ ?_
  · exact h2
  · exact Effect.step (report_only _ _ _ _ _) (Effect.step (updTable_only _ _ _) h2 (by decide)) (by decide)
theorem ltClear_only a0 a1 (s : State) : Effect [.cn, .lt, .cp, .hp, .mm] s (ltClear a0 a1 s) := by
  unfold ltClear
  exact Effect.step (report_only _ _ _ _ _) (Effect.step (updTable_only _ _ _) .refl (by decide)) (by decide)
theorem ltCommit_only a0 a1 a2 (s : State) : Effect [.cn, .lt, .cp, .hp, .mm] s (ltCommit a0 a1 a2 s) := by
  unfold ltCommit
  lift_lets -underBinder
  intro x0 x1
  refine Effect.of_ite ?_ ?_
  · exact .refl
  · refine Effect.of_ite ?_ ?_
    · refine Effect.of_ite ?_ ?_
      · exact Effect.step (ltSet_only _ _ _ _) .refl (by decide)
      · refine Effect.of_ite ?_ ?_
        · exact Effect.step (ltSet_only _ _ _ _) (Effect.step (ltClear_only _ _ _) .refl (by decide)) (by decide)
        · exact Effect.step (ltClear_only _ _ _) .refl (by decide)
    · refine Effect.of_ite ?_ ?_
      · exact Effect.step (ltClear_only _ _ _) .refl (by decide)
      · exact .refl
theorem ltCause_only a0 a1 (s : State) : Effect [.cn, .lt, .cp, .hp, .mm] s (ltCause a0 a1 s) := by
  unfold ltCause
  lift_lets -underBinder
  intro x0 x1
  split
  · exact .refl
  · exact Effect.step (ltSet_only _ _ _ _) .refl (by decide)
  · exact Effect.step (ltSet_only _ _ _ _) .refl (by decide)
theorem ltApply_only a0 a1 (s : State) : Effect [.cn, .lt, .cp, .hp, .mm] s (ltApply a0 a1 s).2 := by
  unfold ltApply
  lift_lets -underBinder
  intro x0 x1 x2 x3
  split
  · refine Effect.of_ite2 ?_ ?_
    · dsimp only
      exact .refl
    · dsimp only
      exact Effect.step (ltCause_only _ _ _) .refl (by decide)
  · lift_lets -underBinder
    intro x8
    refine Effect.of_ite2 ?_ ?_
    · dsimp only
      exact .refl
    · dsimp only
      exact Effect.step (ltSet_only _ _ _ _) .refl (by decide)
  · refine Effect.of_ite2 ?_ ?_
    · dsimp only
      exact .refl
    · lift_lets -underBinder
      intro x11
      have h12 : Effect [.cn, .lt, .cp, .hp, .mm] s x11 := by
        exact Effect.step (ltClear_only _ _ _) .refl (by decide)
      clear_value x11
      dsimp only
      refine Effect.of_ite ?_ ?_
      · exact Effect.step (ltSet_only _ _ _ _) h12 (by decide)
      · exact h12
  · dsimp only
    exact .refl
  · refine Effect.of_ite2 ?_ ?_
    · dsimp only
      exact .refl
    · lift_lets -underBinder
      intro x20 x21
      have h22 : Effect [.cn, .lt, .cp, .hp, .mm] s x21 := by
        exact Effect.step (updTable_only _ _ _) .refl (by decide)
      clear_value x21
      dsimp only
      exact Effect.step (report_only _ _ _ _ _) h22 (by decide)
theorem ltApply_only_of {a0} {a1} {s : State} {r t} (h : ltApply a0 a1 s = (r, t)) : Effect [.cn, .lt, .cp, .hp, .mm] s t := by
  have := ltApply_only a0 a1 s
  rwa [h] at this
theorem cmdLearn_only a0 (s : State) : Effect [.cn, .lt, .cp, .hp, .mm] s (cmdLearn a0 s).2 := by
  unfold cmdLearn
  lift_lets -underBinder
  intro x0 x1 x2
  refine Effect.of_ite2 ?_ ?_
  · dsimp only
    exact .refl
  · refine Effect.of_ite2 ?_ ?_
    · dsimp only
      exact .refl
    · refine Effect.of_ite2 ?_ ?_
      · dsimp only
        exact .refl
      · refine Effect.of_ite2 ?_ ?_
        · refine Effect.of_ite2 ?_ ?_
          · dsimp only
            exact .refl
          · dsimp only
            exact Effect.step (report_only _ _ _ _ _) (Effect.step (updTable_only _ _ _) .refl (by decide)) (by decide)
        · refine Effect.of_ite2 ?_ ?_
          · dsimp only
            exact Effect.step (updTable_only _ _ _) .refl (by decide)
          · exact Effect.step (ltApply_only _ _ _) .refl (by decide)
theorem cmdLearn_only_of {a0} {s : State} {r t} (h : cmdLearn a0 s = (r, t)) : Effect [.cn, .lt, .cp, .hp, .mm] s t := by
  have := cmdLearn_only a0 s
  rwa [h] at this
theorem ltCauseAll_only a0 a1 (s : State) : Effect [.cn, .lt, .cp, .hp, .mm] s (ltCauseAll a0 a1 s) := by
  unfold ltCauseAll
  refine Effect.of_foldl _ ?_ (fun y0 a1 h2 => ?_)
  · exact .refl
  · refine Effect.of_ite ?_ ?_
    · exact Effect.step (ltCause_only _ _ _) h2 (by decide)
    · exact h2
theorem ltFrame_only (s : State) : Effect [.cn, .jn, .lt, .cp, .hp, .mm] s (ltFrame s) := by
  unfold ltFrame
  refine Effect.of_foldl _ ?_ (fun y0 a1 h2 => ?_)
  · exact .refl
  · lift_lets -underBinder
    intro x3
    refine Effect.of_ite ?_ ?_
    · exact h2
    · refine Effect.of_foldl _ ?_ (fun y4 a5 h6 => ?_)
      · exact Effect.step (updTable_only _ _ _) h2 (by decide)
      · split
        rename_i v10
        exact Effect.step (finishAt_only _ _ _ _) (Effect.step (ltApply_only_of v10) h6 (by decide)) (by decide)
theorem ltStart_only a0 (s : State) : Effect [.cn, .lt, .cp, .hp, .mm] s (ltStart a0 s) := by
  unfold ltStart
  refine Effect.of_foldl _ ?_ (fun y0 a1 h2 => ?_)
  · exact .refl
  · lift_lets -underBinder
    intro x3 x4 x5
    refine Effect.of_ite ?_ ?_
    · exact Effect.step (updTable_only _ _ _) h2 (by decide)
    · refine Effect.of_ite ?_ ?_
      · exact Effect.step (updTable_only _ _ _) h2 (by decide)
      · split
        · exact Effect.step (updTable_only _ _ _) h2 (by decide)
        · split
          · exact Effect.step (report_only _ _ _ _ _) (Effect.step (updTable_only _ _ _) h2 (by decide)) (by decide)
          · split
            exact Effect.step (updTable_only _ _ _) h2 (by decide)
theorem obsFlag_only a0 (s : State) : Effect [.cn, .ax, .cp, .hp, .mm] s (obsFlag a0 s) := by
  unfold obsFlag
  lift_lets -underBinder
  intro x0
  exact Effect.step (report_only _ _ _ _ _) (Effect.step (updAxis_only _ _ _) .refl (by decide)) (by decide)
theorem obsSuspend_only a0 (s : State) : Effect [.ax] s (obsSuspend a0 s) := by
  unfold obsSuspend
  exact Effect.step (updAxis_only _ _ _) .refl (by decide)
theorem obsWatch_only a0 (s : State) : Effect [.ax] s (obsWatch a0 s) := by
  unfold obsWatch
  exact Effect.step (updAxis_only _ _ _) .refl (by decide)
theorem obsCleared_only a0 (s : State) : Effect [.cn, .ax, .cp, .hp, .mm] s (obsCleared a0 s) := by
  unfold obsCleared
  split
  · refine Effect.of_ite ?_ ?_
    · exact .refl
    · exact Effect.step (report_only _ _ _ _ _) (Effect.step (updAxis_only _ _ _) .refl (by decide)) (by decide)
  · exact .refl
theorem obsSettle_only a0 (s : State) : Effect [.ax] s (obsSettle a0 s) := by
  unfold obsSettle
  lift_lets -underBinder
  intro x0
  refine Effect.of_ite ?_ ?_
  · exact .refl
  · split
    · refine Effect.of_ite ?_ ?_
      · exact .refl
      · exact Effect.step (updAxis_only _ _ _) .refl (by decide)
    · exact Effect.step (updAxis_only _ _ _) .refl (by decide)
theorem ltSample_only a0 a1 (s : State) : Effect [.cn, .lt, .cp, .hp, .mm] s (ltSample a0 a1 s) := by
  unfold ltSample
  lift_lets -underBinder
  intro x0 x1 x2
  have h3 : Effect [.cn, .lt, .cp, .hp, .mm] s x2 := by
    refine Effect.of_ite ?_ ?_
    · exact Effect.step (ltCause_only _ _ _) .refl (by decide)
    · exact .refl
  clear_value x2
  intro x4
  have h5 : Effect [.cn, .lt, .cp, .hp, .mm] s x4 := by
    refine Effect.of_ite ?_ ?_
    · exact Effect.step (ltCause_only _ _ _) h3 (by decide)
    · exact h3
  clear_value x4
  intro x6
  have h7 : Effect [.cn, .lt, .cp, .hp, .mm] s x6 := by
    refine Effect.of_ite ?_ ?_
    · exact h5
    · exact Effect.step (ltCause_only _ _ _) h5 (by decide)
  clear_value x6
  intro x8 x9
  exact Effect.step (updTable_only _ _ _) h7 (by decide)
theorem ltSamples_only a0 (s : State) : Effect [.cn, .lt, .cp, .hp, .mm] s (ltSamples a0 s) := by
  unfold ltSamples
  refine Effect.of_foldl _ ?_ (fun y0 a1 h2 => ?_)
  · exact .refl
  · exact Effect.step (ltSample_only _ _ _) h2 (by decide)
theorem obsLaw_only a0 (s : State) : Effect [.ax] s (obsLaw a0 s) := by
  unfold obsLaw
  lift_lets -underBinder
  intro x0 x1 x2 x3 x4 x5 x6
  refine Effect.of_ite ?_ ?_
  · exact .refl
  · exact Effect.step (updAxis_only _ _ _) .refl (by decide)
theorem ltUpdate_only a0 a1 (s : State) : Effect [.lt] s (ltUpdate a0 a1 s) := by
  unfold ltUpdate
  lift_lets -underBinder
  intro x0 x1 x2 x3 x4 x5 x6 x7 x8 x9 x10 x11 x12
  exact Effect.step (updTable_only _ _ _) .refl (by decide)
theorem ltLearn_only a0 a1 (s : State) : Effect [.lt] s (ltLearn a0 a1 s) := by
  unfold ltLearn
  refine Effect.of_foldl _ ?_ (fun y0 a1 h2 => ?_)
  · exact .refl
  · lift_lets -underBinder
    intro x3 x4
    have h5 : Effect [.lt] s x4 := by
      exact Effect.step (updTable_only _ _ _) h2 (by decide)
    clear_value x4
    refine Effect.of_ite ?_ ?_
    · exact Effect.step (ltUpdate_only _ _ _) h5 (by decide)
    · exact h5
theorem execObsResidualCleared_only a0 a1 (s : State) : ∃ t, execObsResidualCleared a0 a1 s = .next t ∧ Effect [.tm, .cn, .ax, .cp, .hp, .ag, .mm, .free] s t := by
  refine ⟨_, rfl, ?_⟩
  exact Effect.step (obsCleared_only _ _) (Effect.step (elapse_only _ _) .refl (by decide)) (by decide)
theorem execObsSettleEnd_only a0 a1 (s : State) : ∃ t, execObsSettleEnd a0 a1 s = .next t ∧ Effect [.tm, .ax, .ag, .free] s t := by
  refine ⟨_, rfl, ?_⟩
  exact Effect.step (obsSettle_only _ _) (Effect.step (elapse_only _ _) .refl (by decide)) (by decide)

end Sys2Proof.Machine
end

