-- ==== Sys2Proof/Laws/FrameAxes.lean ====
section
/-!
SUPPORT. Sys2Proof/Laws/FrameAxes.lean: what each operation of Machine/Axes.lean may change, one lemma per operation.
-/

namespace Sys2Proof.Machine
set_option Elab.async false

theorem cmdPath_only a0 (s : State) : Effect [.ax] s (cmdPath a0 s).2 := by
  unfold cmdPath
  lift_lets -underBinder
  intro x0
  split
  · dsimp only
    exact .refl
  · refine Effect.of_ite2 ?_ ?_
    · dsimp only
      exact .refl
    · refine Effect.of_ite2 ?_ ?_
      · dsimp only
        exact .refl
      · dsimp only
        exact Effect.step (updAxis_only _ _ _) .refl (by decide)
theorem cmdPath_only_of {a0} {s : State} {r t} (h : cmdPath a0 s = (r, t)) : Effect [.ax] s t := by
  have := cmdPath_only a0 s
  rwa [h] at this
theorem cmdAxis_only a0 (s : State) : Effect [.ax] s (cmdAxis a0 s).2 := by
  unfold cmdAxis
  lift_lets -underBinder
  intro x0
  refine Effect.of_ite2 ?_ ?_
  · dsimp only
    exact .refl
  · refine Effect.of_ite2 ?_ ?_
    · dsimp only
      exact .refl
    · dsimp only
      exact Effect.step (updAxis_only _ _ _) .refl (by decide)
theorem cmdAxis_only_of {a0} {s : State} {r t} (h : cmdAxis a0 s = (r, t)) : Effect [.ax] s t := by
  have := cmdAxis_only a0 s
  rwa [h] at this
theorem rmAdvance_only a0 (s : State) : Effect [.rm] s (rmAdvance a0 s) := by
  unfold rmAdvance
  exact Effect.step (updRate_only _ _ _) .refl (by decide)
theorem emitStep_only a0 a1 (s : State) : Effect [.rm] s (emitStep a0 a1 s) := by
  unfold emitStep
  exact Effect.step (updRate_only _ _ _) .refl (by decide)
theorem stepEmit_only a0 (s : State) : Effect [.rm] s (stepEmit a0 s) := by
  unfold stepEmit
  refine Effect.of_ite ?_ ?_
  · exact .refl
  · lift_lets -underBinder
    intro x0
    have h1 : Effect [.rm] s x0 := by
      exact Effect.step (rmAdvance_only _ _) .refl (by decide)
    intro x2 x3 x4
    refine Effect.of_ite ?_ ?_
    · exact h1
    · refine Effect.of_ite ?_ ?_
      · exact Effect.step (updRate_only _ _ _) h1 (by decide)
      · refine Effect.of_ite ?_ ?_
        · exact h1
        · exact Effect.step (emitStep_only _ _ _) h1 (by decide)
theorem homeShift_only a0 a1 (s : State) : Effect [.ax] s (homeShift a0 a1 s) := by
  unfold homeShift
  exact Effect.step (updAxis_only _ _ _) .refl (by decide)
theorem homeDone_only a0 a1 (s : State) : Effect [.cn, .jn, .fb, .ax, .lt, .cp, .hp, .mm] s (homeDone a0 a1 s) := by
  unfold homeDone
  lift_lets -underBinder
  intro x0 x1
  have h2 : Effect [.cn, .jn, .fb, .ax, .lt, .cp, .hp, .mm] s x1 := by
    unfold x1
    split
    · exact Effect.step (updChan_only _ _ _) .refl (by decide)
    · exact .refl
  clear_value x1
  intro x8
  have h9 : Effect [.cn, .jn, .fb, .ax, .lt, .cp, .hp, .mm] s x8 := by
    exact Effect.step (report_only _ _ _ _ _) (Effect.step (finishAt_only _ _ _ _) h2 (by decide)) (by decide)
  clear_value x8
  intro x10
  have h11 : Effect [.cn, .jn, .fb, .ax, .lt, .cp, .hp, .mm] s x10 := by
    exact Effect.step (updAxis_only _ _ _) h9 (by decide)
  clear_value x10
  exact Effect.step (ltCauseAll_only _ _ _) h11 (by decide)
theorem setProfile_only a0 a1 a2 a3 (s : State) : Effect [.ax] s (setProfile a0 a1 a2 a3 s) := by
  unfold setProfile
  lift_lets -underBinder
  intro x0
  exact Effect.step (updAxis_only _ _ _) .refl (by decide)
theorem homeEvent_only a0 a1 a2 (s : State) : Effect [.cn, .jn, .fb, .ax, .lt, .cp, .hp, .mm] s (homeEvent a0 a1 a2 s) := by
  unfold homeEvent
  lift_lets -underBinder
  intro x0
  have h1 : Effect [.cn, .jn, .fb, .ax, .lt, .cp, .hp, .mm] s x0 := by
    exact Effect.step (homeShift_only _ _ _) .refl (by decide)
  clear_value x0
  intro x2
  have h3 : Effect [.cn, .jn, .fb, .ax, .lt, .cp, .hp, .mm] s x2 := by
    exact Effect.step (setProfile_only _ _ _ _ _) h1 (by decide)
  clear_value x2
  refine Effect.of_ite ?_ ?_
  · exact Effect.step (homeDone_only _ _ _) h1 (by decide)
  · refine Effect.of_ite ?_ ?_
    · exact Effect.step (homeDone_only _ _ _) h1 (by decide)
    · exact Effect.step (updAxis_only _ _ _) h3 (by decide)
theorem homeRun_only a0 a1 (s : State) : Effect [.ax] s (homeRun a0 a1 s) := by
  unfold homeRun
  lift_lets -underBinder
  intro x0 x1
  exact Effect.step (setProfile_only _ _ _ _ _) .refl (by decide)
theorem takeHome_only a0 a1 (s : State) : Effect [.cn, .jn, .fb, .ax, .lt, .cp, .hp, .mm] s (takeHome a0 a1 s).2 := by
  unfold takeHome
  lift_lets -underBinder
  intro x0 x1 x2 x3 x4 x5 x6 x7
  have h8 : Effect [.cn, .jn, .fb, .ax, .lt, .cp, .hp, .mm] s x7 := by
    exact Effect.step (updAxis_only _ _ _) .refl (by decide)
  clear_value x7
  refine Effect.of_ite2 ?_ ?_
  · dsimp only
    exact .refl
  · refine Effect.of_ite2 ?_ ?_
    · dsimp only
      exact Effect.step (homeEvent_only _ _ _ _) (Effect.step (updAxis_only _ _ _) .refl (by decide)) (by decide)
    · refine Effect.of_ite2 ?_ ?_
      · dsimp only
        exact h8
      · dsimp only
        exact Effect.step (homeRun_only _ _ _) h8 (by decide)
theorem takeHome_only_of {a0} {a1} {s : State} {r t} (h : takeHome a0 a1 s = (r, t)) : Effect [.cn, .jn, .fb, .ax, .lt, .cp, .hp, .mm] s t := by
  have := takeHome_only a0 a1 s
  rwa [h] at this
theorem endStops_only a0 a1 (s : State) : Effect [.jn, .ax] s (endStops a0 a1 s) := by
  unfold endStops
  lift_lets -underBinder
  intro x0
  exact Effect.step (finishAll_only _ _ _ _) (Effect.step (updAxis_only _ _ _) .refl (by decide)) (by decide)
theorem stopWith_only a0 a1 a2 a3 (s : State) : Effect [.ax] s (stopWith a0 a1 a2 a3 s) := by
  unfold stopWith
  lift_lets -underBinder
  intro x0 x1
  have h2 : Effect [.ax] s x1 := by
    exact Effect.step (updAxis_only _ _ _) .refl (by decide)
  clear_value x1
  refine Effect.of_ite ?_ ?_
  · exact Effect.step (updAxis_only _ _ _) h2 (by decide)
  · exact Effect.step (updAxis_only _ _ _) (Effect.step (setProfile_only _ _ _ _ _) h2 (by decide)) (by decide)
theorem stopMode_only a0 a1 (s : State) : Effect [.ax] s (stopMode a0 a1 s) := by
  unfold stopMode
  refine Effect.of_ite ?_ ?_
  · exact Effect.step (stopWith_only _ _ _ _ _) .refl (by decide)
  · exact Effect.step (stopWith_only _ _ _ _ _) .refl (by decide)
theorem pathAbort_only a0 a1 (s : State) : Effect [.jn, .ax, .pg] s (pathAbort a0 a1 s) := by
  unfold pathAbort
  split
  · exact .refl
  · lift_lets -underBinder
    intro x5
    have h6 : Effect [.jn, .ax, .pg] s x5 := by
      unfold x5
      split
      · exact Effect.step (finishAt_only _ _ _ _) .refl (by decide)
      · exact .refl
    clear_value x5
    intro x12
    have h13 : Effect [.jn, .ax, .pg] s x12 := by
      exact Effect.step (updPath_only _ _ _) h6 (by decide)
    clear_value x12
    refine Effect.of_foldl _ ?_ (fun y14 a15 h16 => ?_)
    · exact h13
    · refine Effect.of_ite ?_ ?_
      · exact h16
      · exact Effect.step (stopMode_only _ _ _) h16 (by decide)
theorem endMove_only a0 a1 (s : State) : Effect [.cn, .jn, .ax, .cp, .hp, .mm] s (endMove a0 a1 s) := by
  unfold endMove
  lift_lets -underBinder
  intro x0 x1 x2
  have h3 : Effect [.cn, .jn, .ax, .cp, .hp, .mm] s x2 := by
    unfold x2
    dsimp only [x1]
    split
    · exact Effect.step (finishAt_only _ _ _ _) .refl (by decide)
    · exact .refl
  clear_value x2
  intro x9
  have h10 : Effect [.cn, .jn, .ax, .cp, .hp, .mm] s x9 := by
    unfold x9
    dsimp only [x1]
    split
    · exact Effect.step (finishAt_only _ _ _ _) h3 (by decide)
    · exact h3
  clear_value x9
  intro x16
  have h17 : Effect [.cn, .jn, .ax, .cp, .hp, .mm] s x16 := by
    unfold x16
    dsimp only [x1]
    split
    · exact Effect.step (finishAt_only _ _ _ _) h10 (by decide)
    · exact h10
  clear_value x16
  intro x23
  have h24 : Effect [.cn, .jn, .ax, .cp, .hp, .mm] s x23 := by
    refine Effect.of_ite ?_ ?_
    · exact Effect.step (report_only _ _ _ _ _) h17 (by decide)
    · exact h17
  clear_value x23
  exact Effect.step (updAxis_only _ _ _) h24 (by decide)
theorem rmStop_only (s : State) : Effect [.rm] s (rmStop s) := by
  unfold rmStop
  refine Effect.of_foldl _ ?_ (fun y0 a1 h2 => ?_)
  · exact .refl
  · exact Effect.step (updRate_only _ _ _) (Effect.step (rmAdvance_only _ _) h2 (by decide)) (by decide)
theorem planMoveVel_only a0 a1 (s : State) : Effect [.ax] s (planMoveVel a0 a1 s) := by
  unfold planMoveVel
  lift_lets -underBinder
  intro x0 x1 x2
  have h3 : Effect [.ax] s x2 := by
    exact Effect.step (updAxis_only _ _ _) .refl (by decide)
  clear_value x2
  intro x4 x5 x6 x7 x8 x9
  refine Effect.of_ite ?_ ?_
  · exact Effect.step (setProfile_only _ _ _ _ _) h3 (by decide)
  · exact Effect.step (updAxis_only _ _ _) (Effect.step (setProfile_only _ _ _ _ _) h3 (by decide)) (by decide)
theorem takeLimits_only a0 a1 (s : State) : Effect [.ax] s (takeLimits a0 a1 s).2 := by
  unfold takeLimits
  lift_lets -underBinder
  intro x0 x1 x2 x3
  have h4 : Effect [.ax] s x3 := by
    exact Effect.step (updAxis_only _ _ _) .refl (by decide)
  clear_value x3
  intro x5
  refine Effect.of_ite2 ?_ ?_
  · dsimp only
    exact .refl
  · refine Effect.of_ite2 ?_ ?_
    · dsimp only
      exact h4
    · refine Effect.of_ite2 ?_ ?_
      · split
        · dsimp only
          exact h4
        · split
          · dsimp only
            exact .refl
          · dsimp only
            exact Effect.step (setProfile_only _ _ _ _ _) h4 (by decide)
      · refine Effect.of_ite2 ?_ ?_
        · dsimp only
          exact Effect.step (planMoveVel_only _ _ _) h4 (by decide)
        · dsimp only
          exact h4
theorem takeLimits_only_of {a0} {a1} {s : State} {r t} (h : takeLimits a0 a1 s = (r, t)) : Effect [.ax] s t := by
  have := takeLimits_only a0 a1 s
  rwa [h] at this
theorem rmClear_only a0 a1 (s : State) : Effect [.rm] s (rmClear a0 a1 s) := by
  unfold rmClear
  refine Effect.of_ite ?_ ?_
  · exact .refl
  · exact Effect.step (updRate_only _ _ _) .refl (by decide)
theorem homeAbort_only a0 a1 (s : State) : Effect [.cn, .jn, .ax, .cp, .hp, .mm] s (homeAbort a0 a1 s) := by
  unfold homeAbort
  lift_lets -underBinder
  intro x0
  have h1 : Effect [.cn, .jn, .ax, .cp, .hp, .mm] s x0 := by
    exact Effect.step (endMove_only _ _ _) .refl (by decide)
  clear_value x0
  refine Effect.of_ite ?_ ?_
  · exact Effect.step (updAxis_only _ _ _) h1 (by decide)
  · exact Effect.step (stopMode_only _ _ _) h1 (by decide)
theorem axisOff_only a0 (s : State) : Effect [.jn, .mc, .ax] s (axisOff a0 s) := by
  unfold axisOff
  lift_lets -underBinder
  intro x0
  have h1 : Effect [.jn, .mc, .ax] s x0 := by
    exact Effect.step (endStops_only _ _ _) .refl (by decide)
  clear_value x0
  intro x2
  have h3 : Effect [.jn, .mc, .ax] s x2 := by
    unfold x2
    split
    · exact Effect.step (finishAt_only _ _ _ _) h1 (by decide)
    · exact h1
  clear_value x2
  intro x10
  have h11 : Effect [.jn, .mc, .ax] s x10 := by
    refine Effect.of_foldl _ ?_ (fun y12 a13 h14 => ?_)
    · exact h3
    · exact Effect.step (updMachine_only _ _ _) h14 (by decide)
  clear_value x10
  exact Effect.step (updAxis_only _ _ _) h11 (by decide)
theorem axisOn_only a0 a1 (s : State) : Effect [.cn, .ax, .cp, .hp, .mm] s (axisOn a0 a1 s) := by
  unfold axisOn
  lift_lets -underBinder
  intro x0 x1 x2
  have h3 : Effect [.cn, .ax, .cp, .hp, .mm] s x2 := by
    exact Effect.step (updAxis_only _ _ _) .refl (by decide)
  clear_value x2
  intro x4 x5
  have h6 : Effect [.cn, .ax, .cp, .hp, .mm] s x5 := by
    exact Effect.step (updAxis_only _ _ _) h3 (by decide)
  clear_value x5
  exact Effect.step (report_only _ _ _ _ _) (Effect.step (obsSuspend_only _ _) h6 (by decide)) (by decide)
theorem gearBreak_only a0 a1 (s : State) : Effect [.cn, .ax, .cp, .hp, .mm] s (gearBreak a0 a1 s) := by
  unfold gearBreak
  exact Effect.step (stopMode_only _ _ _) (Effect.step (report_only _ _ _ _ _) .refl (by decide)) (by decide)
theorem axisFault_only a0 a1 (s : State) : Effect [.cn, .jn, .mc, .ax, .pg, .sf, .cp, .hp, .mm] s (axisFault a0 a1 s) := by
  unfold axisFault
  lift_lets -underBinder
  intro x0 x1 x2
  have h3 : Effect [.cn, .jn, .mc, .ax, .pg, .sf, .cp, .hp, .mm] s x2 := by
    exact Effect.step (pathAbort_only _ _ _) (Effect.step (endMove_only _ _ _) .refl (by decide)) (by decide)
  clear_value x2
  intro x4
  have h5 : Effect [.cn, .jn, .mc, .ax, .pg, .sf, .cp, .hp, .mm] s x4 := by
    exact Effect.step (report_only _ _ _ _ _) (Effect.step (updAxis_only _ _ _) h3 (by decide)) (by decide)
  clear_value x4
  refine Effect.of_ite ?_ ?_
  · exact .refl
  · split
    · exact Effect.step (stopMode_only _ _ _) h5 (by decide)
    · exact Effect.step (updAxis_only _ _ _) (Effect.step (endStops_only _ _ _) h5 (by decide)) (by decide)
    · exact Effect.step (gearBreak_only _ _ _) h5 (by decide)
    · lift_lets -underBinder
      intro x13
      have h14 : Effect [.cn, .jn, .mc, .ax, .pg, .sf, .cp, .hp, .mm] s x13 := by
        exact Effect.step (updAxis_only _ _ _) (Effect.step (endStops_only _ _ _) h5 (by decide)) (by decide)
      clear_value x13
      intro x15
      refine Effect.of_foldl _ ?_ (fun y16 a17 h18 => ?_)
      · exact Effect.set_sf (by decide) h14
      · exact Effect.step (updMachine_only _ _ _) h18 (by decide)
theorem rmWrite_only a0 a1 (s : State) : Effect [.rm] s (rmWrite a0 a1 s) := by
  unfold rmWrite
  lift_lets -underBinder
  intro x0 x1
  have h2 : Effect [.rm] s x1 := by
    exact Effect.step (rmAdvance_only _ _) .refl (by decide)
  clear_value x1
  exact Effect.step (updRate_only _ _ _) h2 (by decide)
theorem takeMove_only a0 a1 (s : State) : Effect [.ax] s (takeMove a0 a1 s).2 := by
  unfold takeMove
  lift_lets -underBinder
  intro x0 x1 x2 x3
  refine Effect.of_ite2 ?_ ?_
  · dsimp only
    exact .refl
  · refine Effect.of_ite2 ?_ ?_
    · dsimp only
      exact .refl
    · refine Effect.of_ite2 ?_ ?_
      · dsimp only
        exact Effect.step (updAxis_only _ _ _) .refl (by decide)
      · dsimp only
        exact Effect.step (updAxis_only _ _ _) (Effect.step (setProfile_only _ _ _ _ _) .refl (by decide)) (by decide)
theorem takeMove_only_of {a0} {a1} {s : State} {r t} (h : takeMove a0 a1 s = (r, t)) : Effect [.ax] s t := by
  have := takeMove_only a0 a1 s
  rwa [h] at this
theorem takePathStart_only a0 a1 (s : State) : Effect [.ax, .pg] s (takePathStart a0 a1 s).2 := by
  unfold takePathStart
  lift_lets -underBinder
  intro x0 x1 x2 x3
  have h4 : Effect [.ax, .pg] s x3 := by
    exact Effect.step (updPath_only _ _ _) .refl (by decide)
  clear_value x3
  refine Effect.of_ite2 ?_ ?_
  · dsimp only
    exact .refl
  · refine Effect.of_ite2 ?_ ?_
    · dsimp only
      exact .refl
    · refine Effect.of_ite2 ?_ ?_
      · dsimp only
        exact .refl
      · dsimp only
        refine Effect.of_foldl _ ?_ (fun y5 a6 h7 => ?_)
        · exact h4
        · exact Effect.step (updAxis_only _ _ _) h7 (by decide)
theorem takePathStart_only_of {a0} {a1} {s : State} {r t} (h : takePathStart a0 a1 s = (r, t)) : Effect [.ax, .pg] s t := by
  have := takePathStart_only a0 a1 s
  rwa [h] at this
theorem pathStep_only a0 (s : State) : Effect [.cn, .jn, .ax, .pg, .cp, .hp, .mm] s (pathStep a0 s) := by
  unfold pathStep
  lift_lets -underBinder
  intro x0 x1
  refine Effect.of_ite ?_ ?_
  · exact .refl
  · split
    · exact .refl
    · lift_lets -underBinder
      intro x8 x9
      have h10 : Effect [.cn, .jn, .ax, .pg, .cp, .hp, .mm] s x9 := by
        refine Effect.of_foldl _ ?_ (fun y11 a12 h13 => ?_)
        · exact .refl
        · lift_lets -underBinder
          intro x14 x15
          split
          exact Effect.step (updAxis_only _ _ _) h13 (by decide)
      clear_value x9
      intro x21
      have h22 : Effect [.cn, .jn, .ax, .pg, .cp, .hp, .mm] s x21 := by
        exact Effect.step (updPath_only _ _ _) h10 (by decide)
      clear_value x21
      intro x23
      have h24 : Effect [.cn, .jn, .ax, .pg, .cp, .hp, .mm] s x23 := by
        refine Effect.of_ite ?_ ?_
        · exact Effect.step (report_only _ _ _ _ _) (Effect.step (updPath_only _ _ _) h22 (by decide)) (by decide)
        · exact h22
      clear_value x23
      intro x25 x26 x27
      have h28 : Effect [.cn, .jn, .ax, .pg, .cp, .hp, .mm] s x27 := by
        exact Effect.step (updPath_only _ _ _) h24 (by decide)
      clear_value x27
      intro x29
      have h30 : Effect [.cn, .jn, .ax, .pg, .cp, .hp, .mm] s x29 := by
        refine Effect.step (report_only _ _ _ _ _) ?_ (by decide)
        dsimp only [x26]
        split
        · exact Effect.step (finishAt_only _ _ _ _) h28 (by decide)
        · exact h28
      clear_value x29
      refine Effect.of_ite ?_ ?_
      · exact Effect.step (updPath_only _ _ _) h10 (by decide)
      · refine Effect.of_ite ?_ ?_
        · exact h24
        · refine Effect.of_ite ?_ ?_
          · dsimp only [x26]
            split
            · refine Effect.step (finishAt_only _ _ _ _) ?_ (by decide)
              refine Effect.of_foldl _ ?_ (fun y39 a40 h41 => ?_)
              · exact h28
              · exact Effect.step (updAxis_only _ _ _) h41 (by decide)
            · refine Effect.of_foldl _ ?_ (fun y44 a45 h46 => ?_)
              · exact h28
              · exact Effect.step (updAxis_only _ _ _) h46 (by decide)
          · refine Effect.of_foldl _ ?_ (fun y47 a48 h49 => ?_)
            · exact h30
            · exact Effect.step (stopMode_only _ _ _) h49 (by decide)
theorem gearStep_only a0 a1 (s : State) : Effect [.ax] s (gearStep a0 a1 s) := by
  unfold gearStep
  split
  lift_lets -underBinder
  intro x4 x5 x6 x7
  exact Effect.step (updAxis_only _ _ _) .refl (by decide)
theorem gearOn_only a0 a1 (s : State) : Effect [.cn, .ax, .cp, .hp, .mm] s (gearOn a0 a1 s) := by
  unfold gearOn
  lift_lets -underBinder
  intro x0
  exact Effect.step (report_only _ _ _ _ _) (Effect.step (updAxis_only _ _ _) .refl (by decide)) (by decide)
theorem takeEnableAxis_only a0 a1 (s : State) : Effect [.cn, .ax, .cp, .hp, .mm] s (takeEnableAxis a0 a1 s).2 := by
  unfold takeEnableAxis
  lift_lets -underBinder
  intro x0 x1
  refine Effect.of_ite2 ?_ ?_
  · dsimp only
    exact .refl
  · refine Effect.of_ite2 ?_ ?_
    · dsimp only
      exact .refl
    · refine Effect.of_ite2 ?_ ?_
      · dsimp only
        exact Effect.step (updAxis_only _ _ _) .refl (by decide)
      · dsimp only
        exact Effect.step (axisOn_only _ _ _) .refl (by decide)
theorem takeEnableAxis_only_of {a0} {a1} {s : State} {r t} (h : takeEnableAxis a0 a1 s = (r, t)) : Effect [.cn, .ax, .cp, .hp, .mm] s t := by
  have := takeEnableAxis_only a0 a1 s
  rwa [h] at this
theorem takeDisableAxis_only a0 (s : State) : Effect [.cn, .jn, .mc, .ax, .cp, .hp, .mm] s (takeDisableAxis a0 s).2 := by
  unfold takeDisableAxis
  lift_lets -underBinder
  intro x0
  refine Effect.of_ite2 ?_ ?_
  · dsimp only
    exact .refl
  · dsimp only
    exact Effect.step (report_only _ _ _ _ _) (Effect.step (axisOff_only _ _) .refl (by decide)) (by decide)
theorem takeDisableAxis_only_of {a0} {s : State} {r t} (h : takeDisableAxis a0 s = (r, t)) : Effect [.cn, .jn, .mc, .ax, .cp, .hp, .mm] s t := by
  have := takeDisableAxis_only a0 s
  rwa [h] at this
theorem takeMoveVel_only a0 a1 (s : State) : Effect [.cn, .jn, .ax, .cp, .hp, .mm] s (takeMoveVel a0 a1 s).2 := by
  unfold takeMoveVel
  lift_lets -underBinder
  intro x0 x1 x2
  refine Effect.of_ite2 ?_ ?_
  · dsimp only
    exact .refl
  · refine Effect.of_ite2 ?_ ?_
    · dsimp only
      exact .refl
    · refine Effect.of_ite2 ?_ ?_
      · dsimp only
        exact .refl
      · refine Effect.of_ite2 ?_ ?_
        · dsimp only
          exact .refl
        · dsimp only
          exact Effect.step (updAxis_only _ _ _) (Effect.step (planMoveVel_only _ _ _) (Effect.step (endMove_only _ _ _) .refl (by decide)) (by decide)) (by decide)
theorem takeMoveVel_only_of {a0} {a1} {s : State} {r t} (h : takeMoveVel a0 a1 s = (r, t)) : Effect [.cn, .jn, .ax, .cp, .hp, .mm] s t := by
  have := takeMoveVel_only a0 a1 s
  rwa [h] at this
theorem takeRetarget_only a0 a1 (s : State) : Effect [.ax] s (takeRetarget a0 a1 s).2 := by
  unfold takeRetarget
  lift_lets -underBinder
  intro x0 x1 x2
  refine Effect.of_ite2 ?_ ?_
  · dsimp only
    exact .refl
  · refine Effect.of_ite2 ?_ ?_
    · dsimp only
      exact .refl
    · split
      · dsimp only
        exact .refl
      · dsimp only
        exact .refl
      · dsimp only
        exact Effect.step (setProfile_only _ _ _ _ _) .refl (by decide)
theorem takeRetarget_only_of {a0} {a1} {s : State} {r t} (h : takeRetarget a0 a1 s = (r, t)) : Effect [.ax] s t := by
  have := takeRetarget_only a0 a1 s
  rwa [h] at this
theorem takeStop_only a0 a1 (s : State) : Effect [.cn, .jn, .ax, .pg, .cp, .hp, .mm] s (takeStop a0 a1 s).2 := by
  unfold takeStop
  lift_lets -underBinder
  intro x0 x1 x2
  have h3 : Effect [.cn, .jn, .ax, .pg, .cp, .hp, .mm] s x2 := by
    exact Effect.step (pathAbort_only _ _ _) (Effect.step (endMove_only _ _ _) .refl (by decide)) (by decide)
  clear_value x2
  refine Effect.of_ite2 ?_ ?_
  · dsimp only
    exact .refl
  · refine Effect.of_ite2 ?_ ?_
    · dsimp only
      exact .refl
    · refine Effect.of_ite2 ?_ ?_
      · dsimp only
        exact .refl
      · dsimp only
        exact Effect.step (updAxis_only _ _ _) (Effect.step (stopMode_only _ _ _) h3 (by decide)) (by decide)
theorem takeStop_only_of {a0} {a1} {s : State} {r t} (h : takeStop a0 a1 s = (r, t)) : Effect [.cn, .jn, .ax, .pg, .cp, .hp, .mm] s t := by
  have := takeStop_only a0 a1 s
  rwa [h] at this
theorem takePathAppend_only a0 a1 (s : State) : Effect [.pg] s (takePathAppend a0 a1 s).2 := by
  unfold takePathAppend
  lift_lets -underBinder
  intro x0 x1 x2 x3 x4
  have h5 : Effect [.pg] s x4 := by
    exact Effect.step (updPath_only _ _ _) .refl (by decide)
  clear_value x4
  refine Effect.of_ite2 ?_ ?_
  · dsimp only
    exact .refl
  · refine Effect.of_ite2 ?_ ?_
    · dsimp only
      exact .refl
    · refine Effect.of_ite2 ?_ ?_
      · dsimp only
        exact .refl
      · dsimp only
        exact h5
theorem takePathAppend_only_of {a0} {a1} {s : State} {r t} (h : takePathAppend a0 a1 s = (r, t)) : Effect [.pg] s t := by
  have := takePathAppend_only a0 a1 s
  rwa [h] at this
theorem takeEngage_only a0 a1 (s : State) : Effect [.cn, .jn, .ax, .cp, .hp, .mm] s (takeEngage a0 a1 s).2 := by
  unfold takeEngage
  lift_lets -underBinder
  intro x0 x1 x2
  split
  refine Effect.of_ite2 ?_ ?_
  · dsimp only
    exact .refl
  · refine Effect.of_ite2 ?_ ?_
    · dsimp only
      exact .refl
    · refine Effect.of_ite2 ?_ ?_
      · refine Effect.of_ite2 ?_ ?_
        · dsimp only
          exact .refl
        · dsimp only
          exact Effect.step (gearOn_only _ _ _) (Effect.step (endMove_only _ _ _) .refl (by decide)) (by decide)
      · lift_lets -underBinder
        intro x7
        have h8 : Effect [.cn, .jn, .ax, .cp, .hp, .mm] s x7 := by
          exact Effect.step (endMove_only _ _ _) .refl (by decide)
        clear_value x7
        intro x9
        dsimp only
        exact Effect.step (updAxis_only _ _ _) (Effect.step (setProfile_only _ _ _ _ _) h8 (by decide)) (by decide)
theorem takeEngage_only_of {a0} {a1} {s : State} {r t} (h : takeEngage a0 a1 s = (r, t)) : Effect [.cn, .jn, .ax, .cp, .hp, .mm] s t := by
  have := takeEngage_only a0 a1 s
  rwa [h] at this
theorem takeDisengage_only a0 a1 (s : State) : Effect [.cn, .jn, .ax, .cp, .hp, .mm] s (takeDisengage a0 a1 s).2 := by
  unfold takeDisengage
  lift_lets -underBinder
  intro x0 x1
  have h2 : Effect [.cn, .jn, .ax, .cp, .hp, .mm] s x1 := by
    exact Effect.step (updAxis_only _ _ _) (Effect.step (endMove_only _ _ _) .refl (by decide)) (by decide)
  clear_value x1
  refine Effect.of_ite2 ?_ ?_
  · dsimp only
    exact .refl
  · refine Effect.of_ite2 ?_ ?_
    · dsimp only
      exact .refl
    · refine Effect.of_ite2 ?_ ?_
      · dsimp only
        exact Effect.step (stopMode_only _ _ _) h2 (by decide)
      · dsimp only
        exact Effect.step (planMoveVel_only _ _ _) (Effect.step (updAxis_only _ _ _) h2 (by decide)) (by decide)
theorem takeDisengage_only_of {a0} {a1} {s : State} {r t} (h : takeDisengage a0 a1 s = (r, t)) : Effect [.cn, .jn, .ax, .cp, .hp, .mm] s t := by
  have := takeDisengage_only a0 a1 s
  rwa [h] at this
theorem takeOne_only a0 a1 (s : State) : Effect [.cn, .jn, .mc, .fb, .ax, .pg, .lt, .cp, .hp, .mm] s (takeOne a0 a1 s).2 := by
  unfold takeOne
  lift_lets -underBinder
  intro x0
  refine Effect.of_ite2 ?_ ?_
  · dsimp only
    exact .refl
  · refine Effect.of_ite2 ?_ ?_
    · dsimp only
      exact .refl
    · split
      · exact Effect.step (takeEnableAxis_only _ _ _) .refl (by decide)
      · exact Effect.step (takeDisableAxis_only _ _) .refl (by decide)
      · exact Effect.step (takeMove_only _ _ _) .refl (by decide)
      · exact Effect.step (takeMove_only _ _ _) .refl (by decide)
      · exact Effect.step (takeMoveVel_only _ _ _) .refl (by decide)
      · exact Effect.step (takeRetarget_only _ _ _) .refl (by decide)
      · exact Effect.step (takeLimits_only _ _ _) .refl (by decide)
      · exact Effect.step (takeStop_only _ _ _) .refl (by decide)
      · exact Effect.step (takeHome_only _ _ _) .refl (by decide)
      · exact Effect.step (takePathAppend_only _ _ _) .refl (by decide)
      · exact Effect.step (takePathStart_only _ _ _) .refl (by decide)
      · exact Effect.step (takeEngage_only _ _ _) .refl (by decide)
      · exact Effect.step (takeDisengage_only _ _ _) .refl (by decide)
theorem takeOne_only_of {a0} {a1} {s : State} {r t} (h : takeOne a0 a1 s = (r, t)) : Effect [.cn, .jn, .mc, .fb, .ax, .pg, .lt, .cp, .hp, .mm] s t := by
  have := takeOne_only a0 a1 s
  rwa [h] at this
theorem takeDue_only (a n : Nat) (s : State) : Effect [.cn, .jn, .mc, .fb, .ax, .pg, .lt, .cp, .hp, .mm] s (takeDue a n s) := by
  induction n generalizing s with
  | zero => exact .refl
  | succ n ih =>
    unfold takeDue
    split
    · exact .refl
    · rename_i c cs h
      refine Effect.of_ite .refl ?_
      cases h2 : takeOne a c (s.updAxis a fun x => { x with queue := cs }) with
      | mk r s' =>
        dsimp only
        simp only [h2]
        have h3 : Effect [.cn, .jn, .mc, .fb, .ax, .pg, .lt, .cp, .hp, .mm] s s' :=
          Effect.step (takeOne_only_of h2) (Effect.weaken (updAxis_only _ _ _) (by decide)) (fun _ h => h)
        refine Effect.step (ih _) ?_ (fun _ h => h)
        cases r with
        | pending => exact h3
        | done => exact Effect.step (finishAt_only _ _ _ _) h3 (by decide)
theorem homeStep_only a0 (s : State) : Effect [.cn, .jn, .fb, .ax, .lt, .cp, .hp, .mm] s (homeStep a0 s) := by
  unfold homeStep
  lift_lets -underBinder
  intro x0
  split
  · exact .refl
  · refine Effect.of_ite ?_ ?_
    · exact .refl
    · lift_lets -underBinder
      intro x6 x7 x8 x9 x10 x11
      have h12 : Effect [.cn, .jn, .fb, .ax, .lt, .cp, .hp, .mm] s x11 := by
        exact Effect.step (updAxis_only _ _ _) .refl (by decide)
      clear_value x11
      intro x13 x14 x15
      have h16 : Effect [.cn, .jn, .fb, .ax, .lt, .cp, .hp, .mm] s x15 := by
        exact Effect.step (updAxis_only _ _ _) h12 (by decide)
      clear_value x15
      intro x17
      refine Effect.of_ite ?_ ?_
      · exact Effect.step (homeAbort_only _ _ _) h12 (by decide)
      · refine Effect.of_ite ?_ ?_
        · exact Effect.step (homeAbort_only _ _ _) h12 (by decide)
        · refine Effect.of_ite ?_ ?_
          · refine Effect.of_ite ?_ ?_
            · refine Effect.of_ite ?_ ?_
              · exact Effect.step (homeAbort_only _ _ _) h12 (by decide)
              · exact h12
            · refine Effect.of_ite ?_ ?_
              · exact h16
              · exact Effect.step (homeRun_only _ _ _) h16 (by decide)
          · refine Effect.of_ite ?_ ?_
            · exact Effect.step (homeAbort_only _ _ _) h12 (by decide)
            · refine Effect.of_ite ?_ ?_
              · refine Effect.of_ite ?_ ?_
                · exact h12
                · exact Effect.step (updAxis_only _ _ _) h12 (by decide)
              · refine Effect.of_ite ?_ ?_
                · split
                  · refine Effect.of_ite ?_ ?_
                    · exact h12
                    · exact Effect.step (homeEvent_only _ _ _ _) h12 (by decide)
                  · exact h12
                · refine Effect.of_ite ?_ ?_
                  · exact h12
                  · split
                    · refine Effect.of_ite ?_ ?_
                      · exact Effect.step (updAxis_only _ _ _) h12 (by decide)
                      · split
                        · exact Effect.step (homeEvent_only _ _ _ _) h12 (by decide)
                        · exact Effect.step (homeEvent_only _ _ _ _) h12 (by decide)
                    · exact h12
theorem stepFeed_only a0 (s : State) : Effect [.rm] s (stepFeed a0 s) := by
  unfold stepFeed
  lift_lets -underBinder
  intro x0 x1 x2
  have h3 : Effect [.rm] s x2 := by
    exact Effect.step (rmAdvance_only _ _) .refl (by decide)
  clear_value x2
  intro x4
  refine Effect.of_ite ?_ ?_
  · exact .refl
  · exact Effect.step (rmWrite_only _ _ _) h3 (by decide)
theorem rmStale_only a0 (s : State) : Effect [.cn, .rm, .cp, .hp, .mm] s (rmStale a0 s) := by
  unfold rmStale
  refine Effect.of_ite ?_ ?_
  · exact .refl
  · lift_lets -underBinder
    intro x0
    have h1 : Effect [.cn, .rm, .cp, .hp, .mm] s x0 := by
      exact Effect.step (rmAdvance_only _ _) .refl (by decide)
    clear_value x0
    split
    · exact h1
    · refine Effect.of_ite ?_ ?_
      · exact h1
      · exact Effect.step (report_only _ _ _ _ _) (Effect.step (updRate_only _ _ _) h1 (by decide)) (by decide)

end Sys2Proof.Machine
end

