-- ==== Sys2Proof/Laws/FrameAxisSample.lean ====
section
/-!
SUPPORT. Sys2Proof/Laws/FrameAxisSample.lean: what each operation of Machine/AxisSample.lean may change, one lemma per operation.
-/

namespace Sys2Proof.Machine
set_option Elab.async false

theorem execRmStepEmit_only a0 a1 (s : State) : ∃ t, execRmStepEmit a0 a1 s = .next t ∧ Effect [.tm, .rm, .ag, .free] s t := by
  refine ⟨_, rfl, ?_⟩
  exact Effect.step (stepEmit_only _ _) (Effect.step (elapse_only _ _) .refl (by decide)) (by decide)
theorem moveInterrupted_only a0 (s : State) : Effect [.cn, .cp, .hp, .mm] s (moveInterrupted a0 s) := by
  unfold moveInterrupted
  lift_lets -underBinder
  intro x0 x1
  refine Effect.of_foldl _ ?_ (fun y2 a3 h4 => ?_)
  · exact .refl
  · split
    · exact Effect.step (report_only _ _ _ _ _) h4 (by decide)
    · exact h4
theorem axesStop_only (s : State) : Effect [.cn, .jn, .mc, .rm, .ax, .pg, .cp, .hp, .mm] s (axesStop s) := by
  unfold axesStop
  lift_lets -underBinder
  intro x0
  have h1 : Effect [.cn, .jn, .mc, .rm, .ax, .pg, .cp, .hp, .mm] s x0 := by
    refine Effect.of_foldl _ ?_ (fun y2 a3 h4 => ?_)
    · exact .refl
    · lift_lets -underBinder
      intro x5 x6 x7
      have h8 : Effect [.cn, .jn, .mc, .rm, .ax, .pg, .cp, .hp, .mm] s x7 := by
        refine Effect.of_ite ?_ ?_
        · exact Effect.step (moveInterrupted_only _ _) h4 (by decide)
        · exact h4
      clear_value x7
      intro x9
      have h10 : Effect [.cn, .jn, .mc, .rm, .ax, .pg, .cp, .hp, .mm] s x9 := by
        exact Effect.step (endStops_only _ _ _) (Effect.step (pathAbort_only _ _ _) (Effect.step (endMove_only _ _ _) h8 (by decide)) (by decide)) (by decide)
      clear_value x9
      intro x11
      have h12 : Effect [.cn, .jn, .mc, .rm, .ax, .pg, .cp, .hp, .mm] s x11 := by
        refine Effect.of_foldl _ ?_ (fun y13 a14 h15 => ?_)
        · exact h10
        · exact Effect.step (updMachine_only _ _ _) h15 (by decide)
      clear_value x11
      refine Effect.of_ite ?_ ?_
      · exact h4
      · exact Effect.step (updAxis_only _ _ _) h12 (by decide)
  clear_value x0
  exact Effect.step (rmStop_only _) h1 (by decide)
theorem demandStep_only a0 (s : State) : Effect [.cn, .jn, .ax, .pg, .cp, .hp, .mm] s (demandStep a0 s) := by
  unfold demandStep
  lift_lets -underBinder
  intro x0 x1 x2
  have h3 : Effect [.cn, .jn, .ax, .pg, .cp, .hp, .mm] s x2 := by
    exact Effect.step (updAxis_only _ _ _) .refl (by decide)
  clear_value x2
  intro x4
  have h5 : Effect [.cn, .jn, .ax, .pg, .cp, .hp, .mm] s x4 := by
    exact Effect.step (pathAbort_only _ _ _) (Effect.step (endMove_only _ _ _) h3 (by decide)) (by decide)
  clear_value x4
  refine Effect.of_ite ?_ ?_
  · exact h3
  · refine Effect.of_ite ?_ ?_
    · exact Effect.step (stopMode_only _ _ _) h5 (by decide)
    · exact h5
theorem axisInterrupt_only a0 (s : State) : Effect [.cn, .jn, .mc, .ax, .pg, .cp, .hp, .mm] s (axisInterrupt a0 s) := by
  unfold axisInterrupt
  lift_lets -underBinder
  intro x0
  have h1 : Effect [.cn, .jn, .mc, .ax, .pg, .cp, .hp, .mm] s x0 := by
    exact Effect.step (pathAbort_only _ _ _) (Effect.step (endMove_only _ _ _) (Effect.step (moveInterrupted_only _ _) .refl (by decide)) (by decide)) (by decide)
  clear_value x0
  intro x2
  have h3 : Effect [.cn, .jn, .mc, .ax, .pg, .cp, .hp, .mm] s x2 := by
    exact Effect.step (endStops_only _ _ _) h1 (by decide)
  clear_value x2
  intro x4
  have h5 : Effect [.cn, .jn, .mc, .ax, .pg, .cp, .hp, .mm] s x4 := by
    unfold x4
    split
    · exact Effect.step (finish_only _ _ _) h3 (by decide)
    · exact h3
  clear_value x4
  intro x12
  have h13 : Effect [.cn, .jn, .mc, .ax, .pg, .cp, .hp, .mm] s x12 := by
    refine Effect.of_foldl _ ?_ (fun y14 a15 h16 => ?_)
    · exact h5
    · exact Effect.step (finish_only _ _ _) h16 (by decide)
  clear_value x12
  exact Effect.step (axisOff_only _ _) (Effect.step (updAxis_only _ _ _) h13 (by decide)) (by decide)
theorem axesDropped_only (s : State) : Effect [.cn, .jn, .mc, .ax, .pg, .cp, .hp, .mm] s (axesDropped s) := by
  unfold axesDropped
  refine Effect.of_foldl _ ?_ (fun y0 a1 h2 => ?_)
  · exact .refl
  · refine Effect.of_ite ?_ ?_
    · exact h2
    · lift_lets -underBinder
      intro x3
      have h4 : Effect [.cn, .jn, .mc, .ax, .pg, .cp, .hp, .mm] s x3 := by
        refine Effect.of_foldl _ ?_ (fun y5 a6 h7 => ?_)
        · exact h2
        · exact Effect.step (finish_only _ _ _) h7 (by decide)
      clear_value x3
      exact Effect.step (axisInterrupt_only _ _) (Effect.step (updAxis_only _ _ _) h4 (by decide)) (by decide)
theorem obsDue_only a0 (s : State) : Effect [.cn, .jn, .ax, .pg, .cp, .hp, .mm] s (obsDue a0 s) := by
  unfold obsDue
  refine Effect.of_ite ?_ ?_
  · exact .refl
  · lift_lets -underBinder
    intro x0
    have h1 : Effect [.cn, .jn, .ax, .pg, .cp, .hp, .mm] s x0 := by
      exact Effect.step (obsFlag_only _ _) .refl (by decide)
    clear_value x0
    intro x2
    refine Effect.of_ite ?_ ?_
    · exact Effect.step (stopMode_only _ _ _) (Effect.step (pathAbort_only _ _ _) (Effect.step (endMove_only _ _ _) h1 (by decide)) (by decide)) (by decide)
    · exact h1
theorem remoteReply_only a0 a1 a2 a3 a4 a5 a6 a7 (s : State) : Effect [.cn, .jn, .ax, .cp, .hp, .mm] s (remoteReply a0 a1 a2 a3 a4 a5 a6 a7 s) := by
  unfold remoteReply
  lift_lets -underBinder
  intro x0 x1 x2
  have h3 : Effect [.cn, .jn, .ax, .cp, .hp, .mm] s x2 := by
    exact Effect.step (updAxis_only _ _ _) .refl (by decide)
  clear_value x2
  intro x4
  have h5 : Effect [.cn, .jn, .ax, .cp, .hp, .mm] s x4 := by
    unfold x4
    split
    · refine Effect.of_ite ?_ ?_
      · lift_lets -underBinder
        intro x10 x11
        exact Effect.step (axisOn_only _ _ _) (Effect.step (finish_only _ _ _) h3 (by decide)) (by decide)
      · exact h3
    · exact h3
  clear_value x4
  intro x14
  refine Effect.of_ite ?_ ?_
  · exact h5
  · refine Effect.of_ite ?_ ?_
    · exact Effect.step (updAxis_only _ _ _) (Effect.step (endMove_only _ _ _) h5 (by decide)) (by decide)
    · refine Effect.of_ite ?_ ?_
      · exact Effect.step (endStops_only _ _ _) (Effect.step (updAxis_only _ _ _) h5 (by decide)) (by decide)
      · exact h5
theorem remoteDue_only a0 (s : State) : Effect [.cn, .jn, .mc, .ax, .pg, .sf, .cp, .hp, .mm] s (remoteDue a0 s) := by
  unfold remoteDue
  lift_lets -underBinder
  intro x0
  refine Effect.of_ite ?_ ?_
  · exact Effect.step (axisFault_only _ _ _) .refl (by decide)
  · exact .refl
theorem execRemoteLost_only a0 a1 (s : State) : ∃ t, execRemoteLost a0 a1 s = .next t ∧ Effect [.tm, .cn, .jn, .mc, .ax, .pg, .sf, .cp, .hp, .ag, .mm, .free] s t := by
  refine ⟨_, rfl, ?_⟩
  exact Effect.step (remoteDue_only _ _) (Effect.step (elapse_only _ _) .refl (by decide)) (by decide)
theorem axisPosition_only a0 (s : State) : Effect [.ax] s (axisPosition a0 s) := by
  unfold axisPosition
  split
  · exact .refl
  · lift_lets -underBinder
    intro x5 x6 x7 x8
    exact Effect.step (updAxis_only _ _ _) .refl (by decide)
theorem execObsResidual_only a0 a1 (s : State) : ∃ t, execObsResidual a0 a1 s = .next t ∧ Effect [.tm, .cn, .jn, .ax, .pg, .cp, .hp, .ag, .mm, .free] s t := by
  refine ⟨_, rfl, ?_⟩
  exact Effect.step (obsDue_only _ _) (Effect.step (elapse_only _ _) .refl (by decide)) (by decide)
theorem followDue_only a0 (s : State) : Effect [.cn, .jn, .mc, .ax, .pg, .sf, .cp, .hp, .mm] s (followDue a0 s) := by
  unfold followDue
  split
  · refine Effect.of_ite ?_ ?_
    · exact Effect.step (axisFault_only _ _ _) .refl (by decide)
    · exact .refl
  · exact .refl
theorem followStep_only a0 (s : State) : Effect [.cn, .jn, .mc, .ax, .pg, .sf, .cp, .hp, .mm] s (followStep a0 s) := by
  unfold followStep
  refine Effect.of_ite ?_ ?_
  · exact Effect.step (followDue_only _ _) (Effect.step (updAxis_only _ _ _) .refl (by decide)) (by decide)
  · exact Effect.step (updAxis_only _ _ _) .refl (by decide)
theorem setpointSent_only a0 a1 (s : State) : Effect [.ax] s (setpointSent a0 a1 s) := by
  unfold setpointSent
  exact Effect.step (updAxis_only _ _ _) .refl (by decide)
theorem remoteMiss_only a0 (s : State) : Effect [.ax] s (remoteMiss a0 s) := by
  unfold remoteMiss
  refine Effect.of_ite ?_ ?_
  · exact .refl
  · split
    · exact Effect.step (updAxis_only _ _ _) .refl (by decide)
    · exact .refl
theorem syncStep_only a0 a1 (s : State) : Effect [.cn, .jn, .ax, .cp, .hp, .mm] s (syncStep a0 a1 s) := by
  unfold syncStep
  lift_lets -underBinder
  intro x0 x1 x2
  have h3 : Effect [.cn, .jn, .ax, .cp, .hp, .mm] s x2 := by
    unfold x2
    split
    · exact Effect.step (finishAt_only _ _ _ _) .refl (by decide)
    · exact .refl
  clear_value x2
  refine Effect.of_ite ?_ ?_
  · exact Effect.step (gearOn_only _ _ _) h3 (by decide)
  · refine Effect.of_ite ?_ ?_
    · exact Effect.step (updAxis_only _ _ _) (Effect.step (setProfile_only _ _ _ _ _) .refl (by decide)) (by decide)
    · exact .refl
theorem motionEnd_only a0 (s : State) : Effect [.cn, .jn, .fb, .ax, .lt, .cp, .hp, .mm] s (motionEnd a0 s) := by
  unfold motionEnd
  lift_lets -underBinder
  intro x0 x1
  split
  · exact Effect.step (endStops_only _ _ _) (Effect.step (updAxis_only _ _ _) .refl (by decide)) (by decide)
  · split
    · refine Effect.of_ite ?_ ?_
      · exact Effect.step (homeDone_only _ _ _) .refl (by decide)
      · exact .refl
    · exact .refl
  · refine Effect.of_ite ?_ ?_
    · exact .refl
    · lift_lets -underBinder
      intro x13
      have h14 : Effect [.cn, .jn, .fb, .ax, .lt, .cp, .hp, .mm] s x13 := by
        exact Effect.step (report_only _ _ _ _ _) .refl (by decide)
      clear_value x13
      exact Effect.step (updAxis_only _ _ _) (Effect.step (endMove_only _ _ _) h14 (by decide)) (by decide)
  · exact .refl
theorem axisMotion_only a0 (s : State) : Effect [.cn, .jn, .fb, .ax, .pg, .lt, .cp, .hp, .mm] s (axisMotion a0 s) := by
  unfold axisMotion
  lift_lets -underBinder
  intro x0 x1
  have h2 : Effect [.cn, .jn, .fb, .ax, .pg, .lt, .cp, .hp, .mm] s x1 := by
    refine Effect.of_ite ?_ ?_
    · exact .refl
    · exact Effect.step (updAxis_only _ _ _) .refl (by decide)
  clear_value x1
  refine Effect.of_ite ?_ ?_
  · exact Effect.step (updAxis_only _ _ _) h2 (by decide)
  · refine Effect.of_ite ?_ ?_
    · split
      · exact Effect.step (pathStep_only _ _) h2 (by decide)
      · exact h2
    · split
      · exact Effect.step (gearStep_only _ _ _) h2 (by decide)
      · lift_lets -underBinder
        intro x17
        split
        lift_lets -underBinder
        intro x23
        have h24 : Effect [.cn, .jn, .fb, .ax, .pg, .lt, .cp, .hp, .mm] s x23 := by
          exact Effect.step (updAxis_only _ _ _) h2 (by decide)
        clear_value x23
        split
        · exact Effect.step (syncStep_only _ _ _) h24 (by decide)
        · refine Effect.of_ite ?_ ?_
          · exact Effect.step (motionEnd_only _ _) h24 (by decide)
          · exact h24
      · exact Effect.step (updAxis_only _ _ _) h2 (by decide)
theorem ownPosition_only a0 (s : State) : Effect [.ax] s (ownPosition a0 s) := by
  unfold ownPosition
  refine Effect.of_ite ?_ ?_
  · exact Effect.step (updAxis_only _ _ _) .refl (by decide)
  · exact .refl
theorem shareUpdate_only a0 (s : State) : Effect [.cn, .ax, .cp, .hp, .mm] s (shareUpdate a0 s) := by
  unfold shareUpdate
  refine Effect.of_foldl _ ?_ (fun y0 a1 h2 => ?_)
  · exact .refl
  · lift_lets -underBinder
    intro x3 x4 x5 x6
    refine Effect.of_ite ?_ ?_
    · dsimp only [x6]
      refine Effect.of_ite ?_ ?_
      · exact Effect.step (report_only _ _ _ _ _) (Effect.step (obsSuspend_only _ _) (Effect.step (updAxis_only _ _ _) h2 (by decide)) (by decide)) (by decide)
      · exact Effect.step (obsSuspend_only _ _) (Effect.step (updAxis_only _ _ _) h2 (by decide)) (by decide)
    · refine Effect.of_ite ?_ ?_
      · dsimp only [x6]
        refine Effect.of_ite ?_ ?_
        · exact Effect.step (report_only _ _ _ _ _) (Effect.step (obsSuspend_only _ _) (Effect.step (updAxis_only _ _ _) h2 (by decide)) (by decide)) (by decide)
        · exact Effect.step (obsSuspend_only _ _) (Effect.step (updAxis_only _ _ _) h2 (by decide)) (by decide)
      · exact h2
theorem inPositionDue_only a0 (s : State) : Effect [.cn, .jn, .ax, .cp, .hp, .mm] s (inPositionDue a0 s) := by
  unfold inPositionDue
  split
  · refine Effect.of_ite ?_ ?_
    · exact .refl
    · exact Effect.step (updAxis_only _ _ _) (Effect.step (endMove_only _ _ _) .refl (by decide)) (by decide)
  · exact .refl
theorem inPositionStep_only a0 (s : State) : Effect [.cn, .jn, .ax, .cp, .hp, .mm] s (inPositionStep a0 s) := by
  unfold inPositionStep
  refine Effect.of_ite ?_ ?_
  · exact .refl
  · refine Effect.of_ite ?_ ?_
    · exact Effect.step (inPositionDue_only _ _) (Effect.step (updAxis_only _ _ _) .refl (by decide)) (by decide)
    · exact Effect.step (updAxis_only _ _ _) .refl (by decide)
theorem limitStep_only a0 (s : State) : Effect [.cn, .jn, .ax, .pg, .cp, .hp, .mm] s (limitStep a0 s) := by
  unfold limitStep
  lift_lets -underBinder
  intro x0 x1 x2
  have h3 : Effect [.cn, .jn, .ax, .pg, .cp, .hp, .mm] s x2 := by
    exact Effect.step (report_only _ _ _ _ _) .refl (by decide)
  clear_value x2
  refine Effect.of_ite ?_ ?_
  · exact .refl
  · exact Effect.step (stopMode_only _ _ _) (Effect.step (pathAbort_only _ _ _) (Effect.step (endMove_only _ _ _) h3 (by decide)) (by decide)) (by decide)
theorem gearDue_only a0 (s : State) : Effect [.cn, .ax, .cp, .hp, .mm] s (gearDue a0 s) := by
  unfold gearDue
  lift_lets -underBinder
  intro x0
  refine Effect.of_ite ?_ ?_
  · exact Effect.step (gearBreak_only _ _ _) .refl (by decide)
  · exact .refl
theorem gearWatch_only a0 (s : State) : Effect [.cn, .jn, .mc, .ax, .pg, .sf, .cp, .hp, .mm] s (gearWatch a0 s) := by
  unfold gearWatch
  lift_lets -underBinder
  intro x0 x1
  refine Effect.of_ite ?_ ?_
  · exact .refl
  · refine Effect.of_ite ?_ ?_
    · exact Effect.step (axisFault_only _ _ _) .refl (by decide)
    · exact Effect.step (gearDue_only _ _) (Effect.step (updAxis_only _ _ _) .refl (by decide)) (by decide)
theorem axisSupervise_only a0 (s : State) : Effect [.cn, .jn, .mc, .fb, .ax, .pg, .lt, .sf, .cp, .hp, .mm] s (axisSupervise a0 s) := by
  unfold axisSupervise
  lift_lets -underBinder
  intro x0 x1
  have h2 : Effect [.cn, .jn, .mc, .fb, .ax, .pg, .lt, .sf, .cp, .hp, .mm] s x1 := by
    exact Effect.step (demandStep_only _ _) .refl (by decide)
  intro x3
  have h4 : Effect [.cn, .jn, .mc, .fb, .ax, .pg, .lt, .sf, .cp, .hp, .mm] s x3 := by
    unfold x3
    split
    · exact h2
    · lift_lets -underBinder
      intro x10
      refine Effect.of_ite ?_ ?_
      · exact Effect.step (axisFault_only _ _ _) h2 (by decide)
      · exact Effect.step (updAxis_only _ _ _) h2 (by decide)
  intro x11
  have h12 : Effect [.cn, .jn, .mc, .fb, .ax, .pg, .lt, .sf, .cp, .hp, .mm] s x11 := by
    refine Effect.of_ite ?_ ?_
    · exact Effect.step (shareUpdate_only _ _) h4 (by decide)
    · exact h4
  clear_value x11
  intro x13
  have h14 : Effect [.cn, .jn, .mc, .fb, .ax, .pg, .lt, .sf, .cp, .hp, .mm] s x13 := by
    refine Effect.of_ite ?_ ?_
    · exact Effect.step (axisFault_only _ _ _) h12 (by decide)
    · exact h12
  clear_value x13
  intro x15
  have h16 : Effect [.cn, .jn, .mc, .fb, .ax, .pg, .lt, .sf, .cp, .hp, .mm] s x15 := by
    exact Effect.step (remoteDue_only _ _) (Effect.step (followStep_only _ _) h14 (by decide)) (by decide)
  clear_value x15
  refine Effect.of_ite ?_ ?_
  · exact h2
  · refine Effect.of_ite ?_ ?_
    · exact Effect.step (homeStep_only _ _) h2 (by decide)
    · refine Effect.of_ite ?_ ?_
      · exact h2
      · refine Effect.of_ite ?_ ?_
        · exact h16
        · exact Effect.step (inPositionStep_only _ _) (Effect.step (homeStep_only _ _) (Effect.step (limitStep_only _ _) (Effect.step (gearWatch_only _ _) h16 (by decide)) (by decide)) (by decide)) (by decide)
theorem shareTorque_only a0 a1 (s : State) : Effect [.mc] s (shareTorque a0 a1 s) := by
  unfold shareTorque
  lift_lets -underBinder
  intro x0 x1
  refine Effect.of_foldl _ ?_ (fun y2 a3 h4 => ?_)
  · exact .refl
  · exact Effect.step (updMachine_only _ _ _) h4 (by decide)
theorem axisLoops_only a0 (s : State) : Effect [.mc, .ax] s (axisLoops a0 s) := by
  unfold axisLoops
  lift_lets -underBinder
  intro x0 x1 x2 x3 x4 x5 x6 x7 x8 x9 x10 x11 x12 x13 x14 x15 x16
  refine Effect.of_ite ?_ ?_
  · exact .refl
  · refine Effect.of_ite ?_ ?_
    · exact Effect.step (shareTorque_only _ _ _) (Effect.step (updAxis_only _ _ _) .refl (by decide)) (by decide)
    · exact Effect.step (shareTorque_only _ _ _) (Effect.step (updAxis_only _ _ _) .refl (by decide)) (by decide)
theorem obsStep_only a0 (s : State) : Effect [.cn, .jn, .ax, .pg, .cp, .hp, .mm] s (obsStep a0 s) := by
  unfold obsStep
  refine Effect.of_ite ?_ ?_
  · exact .refl
  · lift_lets -underBinder
    intro x0
    have h1 : Effect [.cn, .jn, .ax, .pg, .cp, .hp, .mm] s x0 := by
      refine Effect.of_ite ?_ ?_
      · exact Effect.step (updAxis_only _ _ _) .refl (by decide)
      · exact Effect.step (obsSettle_only _ _) .refl (by decide)
    clear_value x0
    exact Effect.step (obsCleared_only _ _) (Effect.step (obsDue_only _ _) (Effect.step (obsWatch_only _ _) (Effect.step (obsLaw_only _ _) h1 (by decide)) (by decide)) (by decide)) (by decide)
theorem axisSample_only a0 (s : State) : Effect [.cn, .jn, .mc, .fb, .rm, .ax, .pg, .lt, .sf, .cp, .hp, .mm] s (axisSample a0 s) := by
  unfold axisSample
  refine Effect.of_ite ?_ ?_
  · exact .refl
  · lift_lets -underBinder
    intro x0
    have h1 : Effect [.cn, .jn, .mc, .fb, .rm, .ax, .pg, .lt, .sf, .cp, .hp, .mm] s x0 := by
      exact Effect.step (remoteMiss_only _ _) (Effect.step (axisPosition_only _ _) .refl (by decide)) (by decide)
    clear_value x0
    intro x2
    have h3 : Effect [.cn, .jn, .mc, .fb, .rm, .ax, .pg, .lt, .sf, .cp, .hp, .mm] s x2 := by
      exact Effect.step (axisMotion_only _ _) (Effect.step (updAxis_only _ _ _) h1 (by decide)) (by decide)
    clear_value x2
    intro x4
    have h5 : Effect [.cn, .jn, .mc, .fb, .rm, .ax, .pg, .lt, .sf, .cp, .hp, .mm] s x4 := by
      exact Effect.step (ownPosition_only _ _) (Effect.step (takeDue_only _ _ _) h3 (by decide)) (by decide)
    clear_value x4
    intro x6
    have h7 : Effect [.cn, .jn, .mc, .fb, .rm, .ax, .pg, .lt, .sf, .cp, .hp, .mm] s x6 := by
      exact Effect.step (axisSupervise_only _ _) h5 (by decide)
    clear_value x6
    intro x8
    have h9 : Effect [.cn, .jn, .mc, .fb, .rm, .ax, .pg, .lt, .sf, .cp, .hp, .mm] s x8 := by
      exact Effect.step (axisLoops_only _ _) (Effect.step (ltSamples_only _ _) h7 (by decide)) (by decide)
    clear_value x8
    exact Effect.step (stepFeed_only _ _) (Effect.step (obsStep_only _ _) (Effect.step (ltLearn_only _ _ _) h9 (by decide)) (by decide)) (by decide)
theorem execAxisSample_only a0 a1 (s : State) : ∃ t, execAxisSample a0 a1 s = .next t ∧ Effect [.tm, .cn, .jn, .mc, .fb, .rm, .ax, .pg, .lt, .sf, .cp, .hp, .ag, .mm, .free] s t := by
  refine ⟨_, rfl, ?_⟩
  exact Effect.step (axisSample_only _ _) (Effect.step (elapse_only _ _) .refl (by decide)) (by decide)
theorem execFollowingErrorFault_only a0 a1 (s : State) : ∃ t, execFollowingErrorFault a0 a1 s = .next t ∧ Effect [.tm, .cn, .jn, .mc, .ax, .pg, .sf, .cp, .hp, .ag, .mm, .free] s t := by
  refine ⟨_, rfl, ?_⟩
  exact Effect.step (followDue_only _ _) (Effect.step (elapse_only _ _) .refl (by decide)) (by decide)
theorem execRmStatusClear_only a0 a1 a2 (s : State) : ∃ t, execRmStatusClear a0 a1 a2 s = .next t ∧ Effect [.tm, .rm, .ag, .free] s t := by
  refine ⟨_, rfl, ?_⟩
  exact Effect.step (rmClear_only _ _ _) (Effect.step (elapse_only _ _) .refl (by decide)) (by decide)
theorem execRmStale_only a0 a1 (s : State) : ∃ t, execRmStale a0 a1 s = .next t ∧ Effect [.tm, .cn, .rm, .cp, .hp, .ag, .mm, .free] s t := by
  refine ⟨_, rfl, ?_⟩
  exact Effect.step (rmStale_only _ _) (Effect.step (elapse_only _ _) .refl (by decide)) (by decide)
theorem remoteTimeout_only a0 (s : State) : Effect [.jn, .ax] s (remoteTimeout a0 s) := by
  unfold remoteTimeout
  split
  · refine Effect.of_ite ?_ ?_
    · exact .refl
    · exact Effect.step (updAxis_only _ _ _) (Effect.step (finish_only _ _ _) .refl (by decide)) (by decide)
  · exact .refl
theorem execAxisEnableRemoteTimeout_only a0 a1 (s : State) : ∃ t, execAxisEnableRemoteTimeout a0 a1 s = .next t ∧ Effect [.tm, .jn, .ax, .ag, .free] s t := by
  refine ⟨_, rfl, ?_⟩
  exact Effect.step (remoteTimeout_only _ _) (Effect.step (elapse_only _ _) .refl (by decide)) (by decide)
theorem execMoveInPosition_only a0 a1 (s : State) : ∃ t, execMoveInPosition a0 a1 s = .next t ∧ Effect [.tm, .cn, .jn, .ax, .cp, .hp, .ag, .mm, .free] s t := by
  refine ⟨_, rfl, ?_⟩
  exact Effect.step (inPositionDue_only _ _) (Effect.step (elapse_only _ _) .refl (by decide)) (by decide)
theorem execGearBroken_only a0 a1 (s : State) : ∃ t, execGearBroken a0 a1 s = .next t ∧ Effect [.tm, .cn, .ax, .cp, .hp, .ag, .mm, .free] s t := by
  refine ⟨_, rfl, ?_⟩
  exact Effect.step (gearDue_only _ _) (Effect.step (elapse_only _ _) .refl (by decide)) (by decide)

end Sys2Proof.Machine
end

