-- ==== Sys2Proof/Laws/FrameFeedback.lean ====
section
/-!
SUPPORT. Sys2Proof/Laws/FrameFeedback.lean: what each operation of Machine/Feedback.lean may change, one lemma per operation.
-/

namespace Sys2Proof.Machine
set_option Elab.async false

theorem takeCaptures_only a0 (s : State) : Effect [.la] s (takeCaptures a0 s).2 := by
  unfold takeCaptures
  lift_lets -underBinder
  intro x0
  dsimp only
  exact Effect.step (updLatch_only _ _ _) .refl (by decide)
theorem takeCaptures_only_of {a0} {s : State} {r t} (h : takeCaptures a0 s = (r, t)) : Effect [.la] s t := by
  have := takeCaptures_only a0 s
  rwa [h] at this
theorem fbClear_only a0 (s : State) : Effect [.cn, .fb, .cp, .hp, .mm] s (fbClear a0 s).2 := by
  unfold fbClear
  lift_lets -underBinder
  intro x0 x1
  refine Effect.of_ite2 ?_ ?_
  · dsimp only
    exact Effect.step (report_only _ _ _ _ _) .refl (by decide)
  · refine Effect.of_ite2 ?_ ?_
    · dsimp only
      exact .refl
    · dsimp only
      exact Effect.step (report_only _ _ _ _ _) (Effect.step (updChan_only _ _ _) .refl (by decide)) (by decide)
theorem fbClear_only_of {a0} {s : State} {r t} (h : fbClear a0 s = (r, t)) : Effect [.cn, .fb, .cp, .hp, .mm] s t := by
  have := fbClear_only a0 s
  rwa [h] at this
theorem indexModeWritten_only a0 a1 (s : State) : Effect [.fb] s (indexModeWritten a0 a1 s) := by
  unfold indexModeWritten
  exact Effect.step (updChan_only _ _ _) .refl (by decide)
theorem posInvalid_only a0 a1 (s : State) : Effect [.cn, .fb, .cp, .hp, .mm] s (posInvalid a0 a1 s) := by
  unfold posInvalid
  refine Effect.of_ite ?_ ?_
  · exact Effect.step (report_only _ _ _ _ _) (Effect.step (updChan_only _ _ _) .refl (by decide)) (by decide)
  · exact .refl
theorem pinRefresh_only a0 (s : State) : Effect [.ev] s (pinRefresh a0 s) := by
  unfold pinRefresh
  refine Effect.of_ite ?_ ?_
  · refine Effect.of_ite ?_ ?_
    · exact .refl
    · exact Effect.step (updEvt_only _ _ _) .refl (by decide)
  · exact Effect.step (updEvt_only _ _ _) .refl (by decide)
theorem latchDisarm_only a0 (s : State) : Effect [.jn, .la] s (latchDisarm a0 s) := by
  unfold latchDisarm
  lift_lets -underBinder
  intro x0 x1
  have h2 : Effect [.jn, .la] s x1 := by
    exact Effect.step (updLatch_only _ _ _) .refl (by decide)
  clear_value x1
  split
  · exact Effect.step (finish_only _ _ _) h2 (by decide)
  · exact h2
theorem fbCommit_only a0 a1 (s : State) : Effect [.cn, .jn, .mc, .fb, .ev, .la, .cp, .hp, .mm] s (fbCommit a0 a1 s) := by
  unfold fbCommit
  lift_lets -underBinder
  intro x0 x1 x2
  have h3 : Effect [.cn, .jn, .mc, .fb, .ev, .la, .cp, .hp, .mm] s x2 := by
    exact Effect.step (updChan_only _ _ _) .refl (by decide)
  clear_value x2
  intro x4
  have h5 : Effect [.cn, .jn, .mc, .fb, .ev, .la, .cp, .hp, .mm] s x4 := by
    exact Effect.step (posInvalid_only _ _ _) h3 (by decide)
  clear_value x4
  refine Effect.of_ite ?_ ?_
  · refine Effect.of_ite ?_ ?_
    · exact Effect.step (loseContinuity_only _ _) h5 (by decide)
    · exact Effect.set_mc (by decide) h5
  · refine Effect.of_ite ?_ ?_
    · exact Effect.step (updChan_only _ _ _) .refl (by decide)
    · refine Effect.of_ite ?_ ?_
      · exact Effect.step (pinRefresh_only _ _) .refl (by decide)
      · refine Effect.of_ite ?_ ?_
        · exact Effect.step (latchDisarm_only _ _) .refl (by decide)
        · exact .refl
theorem cmdCompareLoad_only a0 (s : State) : Effect [.fb] s (cmdCompareLoad a0 s).2 := by
  unfold cmdCompareLoad
  lift_lets -underBinder
  intro x0 x1 x2
  refine Effect.of_ite2 ?_ ?_
  · dsimp only
    exact .refl
  · dsimp only
    exact Effect.step (updChan_only _ _ _) .refl (by decide)
theorem cmdCompareLoad_only_of {a0} {s : State} {r t} (h : cmdCompareLoad a0 s = (r, t)) : Effect [.fb] s t := by
  have := cmdCompareLoad_only a0 s
  rwa [h] at this
theorem cmdLatchArm_only a0 (s : State) : Effect [.jn, .la] s (cmdLatchArm a0 s).2 := by
  unfold cmdLatchArm
  lift_lets -underBinder
  intro x0 x1 x2 x3
  have h4 : Effect [.jn, .la] s x3 := by
    exact Effect.step (updLatch_only _ _ _) (Effect.step (latchDisarm_only _ _) .refl (by decide)) (by decide)
  clear_value x3
  refine Effect.of_ite2 ?_ ?_
  · dsimp only
    exact .refl
  · refine Effect.of_ite2 ?_ ?_
    · dsimp only
      exact .refl
    · dsimp only
      exact h4
theorem cmdLatchArm_only_of {a0} {s : State} {r t} (h : cmdLatchArm a0 s = (r, t)) : Effect [.jn, .la] s t := by
  have := cmdLatchArm_only a0 s
  rwa [h] at this
theorem cmpApply_only a0 a1 (s : State) : Effect [.jn, .fb] s (cmpApply a0 a1 s) := by
  unfold cmpApply
  lift_lets -underBinder
  intro x0 x1 x2 x3 x4
  exact Effect.step (finish_only _ _ _) (Effect.step (updChan_only _ _ _) .refl (by decide)) (by decide)
theorem cmpDue_only a0 (s : State) : Effect [.jn, .fb] s (cmpDue a0 s) := by
  unfold cmpDue
  lift_lets -underBinder
  intro x0 x1 x2
  refine Effect.of_ite ?_ ?_
  · exact .refl
  · refine Effect.of_foldl _ ?_ (fun y3 a4 h5 => ?_)
    · exact Effect.step (updChan_only _ _ _) .refl (by decide)
    · exact Effect.step (cmpApply_only _ _ _) h5 (by decide)
theorem cmpDueAll_only (s : State) : Effect [.jn, .fb] s (cmpDueAll s) := by
  unfold cmpDueAll
  refine Effect.of_foldl _ ?_ (fun y0 a1 h2 => ?_)
  · exact .refl
  · exact Effect.step (cmpDue_only _ _) h2 (by decide)
theorem cmpFrame_only (s : State) : Effect [.jn, .fb] s (cmpFrame s) := by
  unfold cmpFrame
  lift_lets -underBinder
  intro x0
  have h1 : Effect [.jn, .fb] s x0 := by
    exact Effect.step (cmpDueAll_only _) .refl (by decide)
  clear_value x0
  intro x2
  exact Effect.set_fb (by decide) h1
theorem latchEdge_only a0 a1 (s : State) : Effect [.cn, .jn, .la, .cp, .hp, .mm] s (latchEdge a0 a1 s) := by
  unfold latchEdge
  refine Effect.of_ite ?_ ?_
  · exact .refl
  · lift_lets -underBinder
    intro x0 x1
    have h2 : Effect [.cn, .jn, .la, .cp, .hp, .mm] s x1 := by
      exact Effect.step (updLatch_only _ _ _) .refl (by decide)
    clear_value x1
    intro x3 x4
    have h5 : Effect [.cn, .jn, .la, .cp, .hp, .mm] s x4 := by
      exact Effect.step (updLatch_only _ _ _) h2 (by decide)
    clear_value x4
    refine Effect.of_ite ?_ ?_
    · exact h2
    · refine Effect.of_ite ?_ ?_
      · refine Effect.of_ite ?_ ?_
        · exact Effect.step (updLatch_only _ _ _) h2 (by decide)
        · refine Effect.of_ite ?_ ?_
          · exact h2
          · exact Effect.step (report_only _ _ _ _ _) (Effect.step (updLatch_only _ _ _) h2 (by decide)) (by decide)
      · split
        · exact Effect.step (finishAt_only _ _ _ _) h5 (by decide)
        · exact h5
theorem execLatchEdge_only a0 a1 a2 (s : State) : ∃ t, execLatchEdge a0 a1 a2 s = .next t ∧ Effect [.tm, .cn, .jn, .la, .cp, .hp, .ag, .mm, .free] s t := by
  refine ⟨_, rfl, ?_⟩
  exact Effect.step (latchEdge_only _ _ _) (Effect.step (elapse_only _ _) .refl (by decide)) (by decide)
theorem pinAct_only a0 a1 a2 (s : State) : Effect [.ev] s (pinAct a0 a1 a2 s) := by
  unfold pinAct
  refine Effect.of_ite ?_ ?_
  · exact .refl
  · lift_lets -underBinder
    intro x0
    split
    · exact Effect.step (updEvt_only _ _ _) .refl (by decide)
    · exact Effect.step (updEvt_only _ _ _) .refl (by decide)
    · exact Effect.step (updEvt_only _ _ _) .refl (by decide)
    · lift_lets -underBinder
      intro x8
      exact Effect.step (updEvt_only _ _ _) .refl (by decide)
theorem cmpFire_only a0 a1 (s : State) : Effect [.fb, .ev] s (cmpFire a0 a1 s) := by
  unfold cmpFire
  lift_lets -underBinder
  intro x0
  exact Effect.step (pinAct_only _ _ _ _) (Effect.step (updChan_only _ _ _) .refl (by decide)) (by decide)
theorem cmpFires_only a0 a1 a2 a3 a4 (s : State) : Effect [.fb, .ev] s (cmpFires a0 a1 a2 a3 a4 s) := by
  unfold cmpFires
  refine Effect.of_foldl _ ?_ (fun y0 a1 h2 => ?_)
  · exact .refl
  · lift_lets -underBinder
    intro x3 x4 x5
    refine Effect.of_ite ?_ ?_
    · exact Effect.step (cmpFire_only _ _ _) h2 (by decide)
    · exact h2
theorem countedEdge_only a0 a1 (s : State) : Effect [.jn, .fb, .ev] s (countedEdge a0 a1 s) := by
  unfold countedEdge
  lift_lets -underBinder
  intro x0
  have h1 : Effect [.jn, .fb, .ev] s x0 := by
    exact Effect.step (cmpDue_only _ _) .refl (by decide)
  clear_value x0
  intro x2 x3 x4 x5 x6 x7
  refine Effect.of_ite ?_ ?_
  · exact h1
  · exact Effect.step (cmpFires_only _ _ _ _ _ _) (Effect.step (updChan_only _ _ _) h1 (by decide)) (by decide)
theorem fbFault_only a0 a1 (s : State) : Effect [.cn, .fb, .cp, .hp, .mm] s (fbFault a0 a1 s) := by
  unfold fbFault
  refine Effect.of_ite ?_ ?_
  · exact .refl
  · lift_lets -underBinder
    intro x0
    have h1 : Effect [.cn, .fb, .cp, .hp, .mm] s x0 := by
      exact Effect.step (updChan_only _ _ _) .refl (by decide)
    clear_value x0
    exact Effect.step (report_only _ _ _ _ _) h1 (by decide)
theorem illegalStep_only a0 (s : State) : Effect [.cn, .mc, .fb, .cp, .hp, .mm] s (illegalStep a0 s) := by
  unfold illegalStep
  refine Effect.of_ite ?_ ?_
  · exact .refl
  · lift_lets -underBinder
    intro x0 x1 x2
    have h3 : Effect [.cn, .mc, .fb, .cp, .hp, .mm] s x2 := by
      exact Effect.step (updChan_only _ _ _) .refl (by decide)
    clear_value x2
    clear_value x1
    split
    · refine Effect.of_ite ?_ ?_
      · exact Effect.step (loseContinuity_only _ _) (Effect.step (posInvalid_only _ _ _) (Effect.step (fbFault_only _ _ _) h3 (by decide)) (by decide)) (by decide)
      · exact h3
    · exact h3
theorem hallChange_only a0 a1 (s : State) : Effect [.cn, .jn, .mc, .fb, .ev, .cp, .hp, .mm] s (hallChange a0 a1 s) := by
  unfold hallChange
  lift_lets -underBinder
  intro x0 x1 x2
  have h3 : Effect [.cn, .jn, .mc, .fb, .ev, .cp, .hp, .mm] s x2 := by
    exact Effect.step (updChan_only _ _ _) .refl (by decide)
  clear_value x2
  refine Effect.of_ite ?_ ?_
  · exact .refl
  · refine Effect.of_ite ?_ ?_
    · exact h3
    · refine Effect.of_ite ?_ ?_
      · exact Effect.step (countedEdge_only _ _ _) h3 (by decide)
      · refine Effect.of_ite ?_ ?_
        · exact Effect.step (countedEdge_only _ _ _) h3 (by decide)
        · exact Effect.step (illegalStep_only _ _) h3 (by decide)
theorem serialTake_only a0 a1 (s : State) : Effect [.jn, .fb, .ev] s (serialTake a0 a1 s) := by
  unfold serialTake
  lift_lets -underBinder
  intro x0
  have h1 : Effect [.jn, .fb, .ev] s x0 := by
    exact Effect.step (cmpDue_only _ _) .refl (by decide)
  clear_value x0
  intro x2 x3
  have h4 : Effect [.jn, .fb, .ev] s x3 := by
    exact Effect.step (updChan_only _ _ _) h1 (by decide)
  clear_value x3
  intro x5
  have h6 : Effect [.jn, .fb, .ev] s x5 := by
    refine Effect.of_ite ?_ ?_
    · exact Effect.step (cmpFires_only _ _ _ _ _ _) h4 (by decide)
    · exact h4
  clear_value x5
  refine Effect.of_ite ?_ ?_
  · exact Effect.step (cmpFires_only _ _ _ _ _ _) h6 (by decide)
  · exact h6
theorem serialGood_only a0 a1 (s : State) : Effect [.cn, .jn, .fb, .ev, .cp, .hp, .mm] s (serialGood a0 a1 s) := by
  unfold serialGood
  lift_lets -underBinder
  intro x0 x1
  split
  lift_lets -underBinder
  intro x6
  have h7 : Effect [.cn, .jn, .fb, .ev, .cp, .hp, .mm] s x6 := by
    exact Effect.step (updChan_only _ _ _) .refl (by decide)
  clear_value x6
  refine Effect.of_ite ?_ ?_
  · exact Effect.step (fbFault_only _ _ _) h7 (by decide)
  · refine Effect.of_ite ?_ ?_
    · exact Effect.step (updChan_only _ _ _) h7 (by decide)
    · exact Effect.step (serialTake_only _ _ _) h7 (by decide)
theorem ssiEnd_only a0 a1 (s : State) : Effect [.cn, .jn, .fb, .ev, .cp, .hp, .mm] s (ssiEnd a0 a1 s) := by
  unfold ssiEnd
  lift_lets -underBinder
  intro x0 x1 x2
  have h3 : Effect [.cn, .jn, .fb, .ev, .cp, .hp, .mm] s x2 := by
    exact Effect.step (updChan_only _ _ _) .refl (by decide)
  clear_value x2
  refine Effect.of_ite ?_ ?_
  · exact Effect.step (fbFault_only _ _ _) h3 (by decide)
  · exact Effect.step (serialGood_only _ _ _) h3 (by decide)
theorem bissEnd_only a0 a1 (s : State) : Effect [.cn, .jn, .fb, .ev, .cp, .hp, .mm] s (bissEnd a0 a1 s) := by
  unfold bissEnd
  lift_lets -underBinder
  intro x0 x1 x2
  have h3 : Effect [.cn, .jn, .fb, .ev, .cp, .hp, .mm] s x2 := by
    unfold x2
    dsimp only [x1]
    exact Effect.step (updChan_only _ _ _) .refl (by decide)
  clear_value x2
  intro x4 x5
  have h6 : Effect [.cn, .jn, .fb, .ev, .cp, .hp, .mm] s x5 := by
    unfold x5
    dsimp only [x1]
    exact Effect.step (updChan_only _ _ _) h3 (by decide)
  clear_value x5
  intro x7 x8 x9
  have h10 : Effect [.cn, .jn, .fb, .ev, .cp, .hp, .mm] s x9 := by
    refine Effect.step (updChan_only _ _ _) ?_ (by decide)
    dsimp only [x1]
    exact Effect.step (updChan_only _ _ _) h6 (by decide)
  clear_value x9
  intro x11
  have h12 : Effect [.cn, .jn, .fb, .ev, .cp, .hp, .mm] s x11 := by
    unfold x11
    dsimp only [x1]
    exact Effect.step (updChan_only _ _ _) h10 (by decide)
  clear_value x11
  intro x13
  have h14 : Effect [.cn, .jn, .fb, .ev, .cp, .hp, .mm] s x13 := by
    refine Effect.of_ite ?_ ?_
    · exact h12
    · exact Effect.step (fbFault_only _ _ _) h12 (by decide)
  clear_value x13
  intro x15 x16
  have h17 : Effect [.cn, .jn, .fb, .ev, .cp, .hp, .mm] s x16 := by
    refine Effect.of_ite ?_ ?_
    · exact Effect.step (updChan_only _ _ _) h14 (by decide)
    · exact h14
  clear_value x16
  intro x18
  have h19 : Effect [.cn, .jn, .fb, .ev, .cp, .hp, .mm] s x18 := by
    refine Effect.of_ite ?_ ?_
    · exact Effect.step (report_only _ _ _ _ _) h17 (by decide)
    · exact h17
  clear_value x18
  refine Effect.of_ite ?_ ?_
  · exact Effect.step (fbFault_only _ _ _) h3 (by decide)
  · refine Effect.of_ite ?_ ?_
    · exact Effect.step (fbFault_only _ _ _) h6 (by decide)
    · refine Effect.of_ite ?_ ?_
      · refine Effect.of_ite ?_ ?_
        · exact Effect.step (fbFault_only _ _ _) h10 (by decide)
        · exact h10
      · exact Effect.step (serialGood_only _ _ _) h19 (by decide)
theorem serialEnd_only a0 a1 (s : State) : Effect [.cn, .jn, .fb, .ev, .cp, .hp, .mm] s (serialEnd a0 a1 s) := by
  unfold serialEnd
  refine Effect.of_ite ?_ ?_
  · exact .refl
  · lift_lets -underBinder
    intro x0
    have h1 : Effect [.cn, .jn, .fb, .ev, .cp, .hp, .mm] s x0 := by
      exact Effect.step (updChan_only _ _ _) .refl (by decide)
    clear_value x0
    refine Effect.of_ite ?_ ?_
    · exact Effect.step (ssiEnd_only _ _ _) h1 (by decide)
    · exact Effect.step (bissEnd_only _ _ _) h1 (by decide)
theorem snapWords_only a0 a1 (s : State) : Effect [.fb] s (snapWords a0 a1 s) := by
  unfold snapWords
  lift_lets -underBinder
  intro x0
  split
  lift_lets -underBinder
  intro x5
  exact Effect.step (updChan_only _ _ _) .refl (by decide)
theorem snapSpeed_only a0 a1 a2 (s : State) : Effect [.fb] s (snapSpeed a0 a1 a2 s) := by
  unfold snapSpeed
  split
  exact Effect.step (updChan_only _ _ _) .refl (by decide)
theorem snapshotOne_only a0 a1 a2 a3 (s : State) : Effect [.cn, .fb, .cp, .hp, .mm] s (snapshotOne a0 a1 a2 a3 s) := by
  unfold snapshotOne
  lift_lets -underBinder
  intro x0 x1 x2 x3 x4
  have h5 : Effect [.cn, .fb, .cp, .hp, .mm] s x4 := by
    exact Effect.step (updChan_only _ _ _) .refl (by decide)
  clear_value x4
  intro x6
  have h7 : Effect [.cn, .fb, .cp, .hp, .mm] s x6 := by
    refine Effect.of_ite ?_ ?_
    · exact Effect.step (fbFault_only _ _ _) h5 (by decide)
    · exact h5
  clear_value x6
  refine Effect.of_ite ?_ ?_
  · exact .refl
  · refine Effect.of_ite ?_ ?_
    · exact Effect.step (snapWords_only _ _ _) h7 (by decide)
    · refine Effect.of_ite ?_ ?_
      · exact Effect.step (snapWords_only _ _ _) (Effect.step (updChan_only _ _ _) h7 (by decide)) (by decide)
      · exact Effect.step (snapWords_only _ _ _) (Effect.step (snapSpeed_only _ _ _ _) h7 (by decide)) (by decide)
theorem snapshotAll_only (s : State) : Effect [.cn, .fb, .cp, .hp, .mm] s (snapshotAll s) := by
  unfold snapshotAll
  lift_lets -underBinder
  intro x0
  refine Effect.of_foldl _ ?_ (fun y1 a2 h3 => ?_)
  · exact .refl
  · exact Effect.step (snapshotOne_only _ _ _ _ _) h3 (by decide)
theorem serialReady_only a0 (s : State) : Effect [.cn, .jn, .fb, .ev, .cp, .hp, .mm] s (serialReady a0 s) := by
  unfold serialReady
  lift_lets -underBinder
  intro x0 x1
  have h2 : Effect [.cn, .jn, .fb, .ev, .cp, .hp, .mm] s x1 := by
    exact Effect.step (updChan_only _ _ _) .refl (by decide)
  intro x3 x4
  have h5 : Effect [.cn, .jn, .fb, .ev, .cp, .hp, .mm] s x4 := by
    unfold x4
    split
    · exact Effect.step (serialTake_only _ _ _) h2 (by decide)
    · exact Effect.step (updChan_only _ _ _) h2 (by decide)
  intro x11
  have h12 : Effect [.cn, .jn, .fb, .ev, .cp, .hp, .mm] s x11 := by
    refine Effect.of_ite ?_ ?_
    · exact Effect.step (fbFault_only _ _ _) h5 (by decide)
    · exact h5
  clear_value x11
  intro x13
  refine Effect.of_ite ?_ ?_
  · exact .refl
  · exact Effect.step (snapWords_only _ _ _) (Effect.step (snapSpeed_only _ _ _ _) h12 (by decide)) (by decide)
theorem execSerialReadyTransfer_only a0 a1 (s : State) : ∃ t, execSerialReadyTransfer a0 a1 s = .next t ∧ Effect [.tm, .cn, .jn, .fb, .ev, .cp, .hp, .ag, .mm, .free] s t := by
  refine ⟨_, rfl, ?_⟩
  exact Effect.step (serialReady_only _ _) (Effect.step (elapse_only _ _) .refl (by decide)) (by decide)
theorem shiftCount_only a0 a1 (s : State) : Effect [.fb] s (shiftCount a0 a1 s) := by
  unfold shiftCount
  lift_lets -underBinder
  intro x0
  exact Effect.step (updChan_only _ _ _) .refl (by decide)
theorem indexEvent_only a0 a1 (s : State) : Effect [.cn, .mc, .fb, .cp, .hp, .mm] s (indexEvent a0 a1 s) := by
  unfold indexEvent
  refine Effect.of_ite ?_ ?_
  · exact .refl
  · lift_lets -underBinder
    intro x0 x1
    have h2 : Effect [.cn, .mc, .fb, .cp, .hp, .mm] s x1 := by
      exact Effect.step (updChan_only _ _ _) .refl (by decide)
    clear_value x1
    intro x3 x4
    have h5 : Effect [.cn, .mc, .fb, .cp, .hp, .mm] s x4 := by
      exact Effect.step (updChan_only _ _ _) h2 (by decide)
    clear_value x4
    refine Effect.of_ite ?_ ?_
    · exact h2
    · clear_value x0
      split
      · refine Effect.of_ite ?_ ?_
        · exact Effect.step (updChan_only _ _ _) (Effect.step (shiftCount_only _ _ _) h5 (by decide)) (by decide)
        · exact h5
      · lift_lets -underBinder
        intro x12
        refine Effect.of_ite ?_ ?_
        · exact Effect.step (loseContinuity_only _ _) (Effect.step (posInvalid_only _ _ _) (Effect.step (fbFault_only _ _ _) h5 (by decide)) (by decide)) (by decide)
        · exact h5
      · exact h5
theorem execIndexEvent_only a0 a1 a2 (s : State) : ∃ t, execIndexEvent a0 a1 a2 s = .next t ∧ Effect [.tm, .cn, .mc, .fb, .cp, .hp, .ag, .mm, .free] s t := by
  refine ⟨_, rfl, ?_⟩
  exact Effect.step (indexEvent_only _ _ _) (Effect.step (elapse_only _ _) .refl (by decide)) (by decide)
theorem snapshotIdle_only (s : State) : Effect [.cn, .fb, .cp, .hp, .mm] s (snapshotIdle s) := by
  unfold snapshotIdle
  lift_lets -underBinder
  intro x0
  refine Effect.of_foldl _ ?_ (fun y1 a2 h3 => ?_)
  · exact .refl
  · exact Effect.step (snapshotOne_only _ _ _ _ _) h3 (by decide)
theorem stepEdge_only a0 a1 a2 (s : State) : Effect [.cn, .jn, .mc, .fb, .ev, .cp, .hp, .mm] s (stepEdge a0 a1 a2 s) := by
  unfold stepEdge
  refine Effect.of_ite ?_ ?_
  · exact .refl
  · refine Effect.of_ite ?_ ?_
    · exact Effect.step (illegalStep_only _ _) .refl (by decide)
    · exact Effect.step (countedEdge_only _ _ _) .refl (by decide)
theorem execStepDirEdge_only a0 a1 a2 a3 (s : State) : ∃ t, execStepDirEdge a0 a1 a2 a3 s = .next t ∧ Effect [.tm, .cn, .jn, .mc, .fb, .ev, .cp, .hp, .ag, .mm, .free] s t := by
  refine ⟨_, rfl, ?_⟩
  exact Effect.step (stepEdge_only _ _ _ _) (Effect.step (elapse_only _ _) .refl (by decide)) (by decide)
theorem fbWake_only (s : State) : Effect [.cn, .mc, .fb, .cp, .hp, .mm] s (fbWake s) := by
  unfold fbWake
  refine Effect.of_foldl _ ?_ (fun y0 a1 h2 => ?_)
  · exact .refl
  · refine Effect.of_ite ?_ ?_
    · exact h2
    · lift_lets -underBinder
      intro x3
      have h4 : Effect [.cn, .mc, .fb, .cp, .hp, .mm] s x3 := by
        exact Effect.step (updChan_only _ _ _) h2 (by decide)
      clear_value x3
      refine Effect.of_ite ?_ ?_
      · exact h4
      · exact Effect.step (loseContinuity_only _ _) (Effect.step (posInvalid_only _ _ _) h4 (by decide)) (by decide)
theorem fbStandby_only (s : State) : Effect [.fb] s (fbStandby s) := by
  unfold fbStandby
  refine Effect.of_foldl _ ?_ (fun y0 a1 h2 => ?_)
  · exact .refl
  · refine Effect.of_ite ?_ ?_
    · exact h2
    · exact Effect.step (updChan_only _ _ _) h2 (by decide)
theorem pulseEnd_only a0 (s : State) : Effect [.ev] s (pulseEnd a0 s) := by
  unfold pulseEnd
  split
  · refine Effect.of_ite ?_ ?_
    · exact .refl
    · exact Effect.step (updEvt_only _ _ _) .refl (by decide)
  · exact .refl
theorem execCmpPulseEnd_only a0 a1 (s : State) : ∃ t, execCmpPulseEnd a0 a1 s = .next t ∧ Effect [.tm, .ev, .ag, .free] s t := by
  refine ⟨_, rfl, ?_⟩
  exact Effect.step (pulseEnd_only _ _) (Effect.step (elapse_only _ _) .refl (by decide)) (by decide)
theorem serialPoll_only (s : State) : Effect [.cn, .fb, .cp, .hp, .mm] s (serialPoll s) := by
  unfold serialPoll
  refine Effect.of_ite ?_ ?_
  · exact .refl
  · lift_lets -underBinder
    intro x0
    have h1 : Effect [.cn, .fb, .cp, .hp, .mm] s x0 := by
      exact Effect.step (snapshotIdle_only _) .refl (by decide)
    clear_value x0
    refine Effect.of_foldl _ ?_ (fun y2 a3 h4 => ?_)
    · exact h1
    · refine Effect.of_ite ?_ ?_
      · exact Effect.step (updChan_only _ _ _) h4 (by decide)
      · exact h4
theorem alarmInput_only a0 a1 (s : State) : Effect [.cn, .fb, .cp, .hp, .mm] s (alarmInput a0 a1 s) := by
  unfold alarmInput
  lift_lets -underBinder
  intro x0 x1
  have h2 : Effect [.cn, .fb, .cp, .hp, .mm] s x1 := by
    exact Effect.step (updChan_only _ _ _) .refl (by decide)
  clear_value x1
  refine Effect.of_ite ?_ ?_
  · exact Effect.step (fbFault_only _ _ _) h2 (by decide)
  · exact h2
theorem execIllegalTransition_only a0 a1 (s : State) : ∃ t, execIllegalTransition a0 a1 s = .next t ∧ Effect [.tm, .cn, .mc, .fb, .cp, .hp, .ag, .mm, .free] s t := by
  refine ⟨_, rfl, ?_⟩
  refine Effect.of_ite ?_ ?_
  · exact Effect.step (illegalStep_only _ _) (Effect.step (elapse_only _ _) .refl (by decide)) (by decide)
  · exact Effect.step (elapse_only _ _) .refl (by decide)
theorem execFbAlarmInput_only a0 a1 a2 (s : State) : ∃ t, execFbAlarmInput a0 a1 a2 s = .next t ∧ Effect [.tm, .cn, .fb, .cp, .hp, .ag, .mm, .free] s t := by
  refine ⟨_, rfl, ?_⟩
  exact Effect.step (alarmInput_only _ _ _) (Effect.step (elapse_only _ _) .refl (by decide)) (by decide)
theorem execSerialTransactionEnd_only a0 a1 a2 (s : State) : ∃ t, execSerialTransactionEnd a0 a1 a2 s = .next t ∧ Effect [.tm, .cn, .jn, .fb, .ev, .cp, .hp, .ag, .mm, .free] s t := by
  refine ⟨_, rfl, ?_⟩
  exact Effect.step (serialEnd_only _ _ _) (Effect.step (elapse_only _ _) .refl (by decide)) (by decide)
theorem execSerialPollTimer_only a0 (s : State) : ∃ t, execSerialPollTimer a0 s = .next t ∧ Effect [.tm, .cn, .fb, .cp, .hp, .ag, .mm, .free] s t := by
  refine ⟨_, rfl, ?_⟩
  exact Effect.step (serialPoll_only _) (Effect.step (elapse_only _ _) .refl (by decide)) (by decide)
theorem execQuadEdge_only a0 a1 a2 (s : State) : ∃ t, execQuadEdge a0 a1 a2 s = .next t ∧ Effect [.tm, .jn, .fb, .ev, .ag, .free] s t := by
  refine ⟨_, rfl, ?_⟩
  refine Effect.of_ite ?_ ?_
  · exact Effect.step (countedEdge_only _ _ _) (Effect.step (elapse_only _ _) .refl (by decide)) (by decide)
  · exact Effect.step (elapse_only _ _) .refl (by decide)
theorem execHallChange_only a0 a1 a2 (s : State) : ∃ t, execHallChange a0 a1 a2 s = .next t ∧ Effect [.tm, .cn, .jn, .mc, .fb, .ev, .cp, .hp, .ag, .mm, .free] s t := by
  refine ⟨_, rfl, ?_⟩
  exact Effect.step (hallChange_only _ _ _) (Effect.step (elapse_only _ _) .refl (by decide)) (by decide)

end Sys2Proof.Machine
end

