-- ==== Sys2Proof/Laws/FrameWindows.lean ====
section
/-!
SUPPORT. Sys2Proof/Laws/FrameWindows.lean: what each operation of Machine/Windows.lean may change, one lemma per operation.
-/

namespace Sys2Proof.Machine
set_option Elab.async false

theorem updWin_only (s : State) a1 a2 : Effect [.mm] s (State.updWin s a1 a2) := by
  unfold State.updWin
  exact Effect.set_mm (by decide) .refl
theorem cwFlag_only a0 a1 (s : State) : Effect [.cn, .cp, .hp, .mm] s (cwFlag a0 a1 s) := by
  unfold cwFlag
  lift_lets -underBinder
  intro x0 x1
  have h2 : Effect [.cn, .cp, .hp, .mm] s x1 := by
    exact Effect.step (updWin_only _ _ _) .refl (by decide)
  clear_value x1
  refine Effect.of_ite ?_ ?_
  · exact h2
  · exact Effect.step (report_only _ _ _ _ _) h2 (by decide)
theorem wrAdvance_only a0 a1 (s : State) : Effect [.cn, .cp, .hp, .mm] s (wrAdvance a0 a1 s) := by
  unfold wrAdvance
  refine Effect.of_ite ?_ ?_
  · exact .refl
  · refine Effect.of_ite ?_ ?_
    · exact Effect.step (cwFlag_only _ _ _) .refl (by decide)
    · exact Effect.step (updWin_only _ _ _) .refl (by decide)
theorem ringWrite_only a0 a1 a2 (s : State) : Effect [.mem] s (ringWrite a0 a1 a2 s) := by
  unfold ringWrite
  refine Effect.of_foldl _ ?_ (fun y0 a1 h2 => ?_)
  · exact .refl
  · exact Effect.step (wrN_only _ _ _) h2 (by decide)
theorem cwSetup_only a0 a1 a2 (s : State) : Effect [.mm] s (cwSetup a0 a1 a2 s) := by
  unfold cwSetup
  refine Effect.of_ite ?_ ?_
  · exact .refl
  · refine Effect.of_ite ?_ ?_
    · refine Effect.of_ite ?_ ?_
      · exact Effect.step (updWin_only _ _ _) .refl (by decide)
      · exact .refl
    · refine Effect.of_ite ?_ ?_
      · exact Effect.step (updWin_only _ _ _) .refl (by decide)
      · exact .refl
theorem rdAdvance_only a0 a1 (s : State) : Effect [.cn, .cp, .hp, .mm] s (rdAdvance a0 a1 s) := by
  unfold rdAdvance
  refine Effect.of_ite ?_ ?_
  · exact .refl
  · refine Effect.of_ite ?_ ?_
    · exact Effect.step (cwFlag_only _ _ _) .refl (by decide)
    · exact Effect.step (updWin_only _ _ _) .refl (by decide)
theorem cwStatusWrite_only a0 a1 (s : State) : Effect [.mm] s (cwStatusWrite a0 a1 s) := by
  unfold cwStatusWrite
  refine Effect.of_ite ?_ ?_
  · exact .refl
  · exact Effect.step (updWin_only _ _ _) .refl (by decide)
theorem producerWrite_only a0 a1 a2 (s : State) : Effect [.cn, .cp, .hp, .mm, .mem] s (producerWrite a0 a1 a2 s) := by
  unfold producerWrite
  refine Effect.of_ite ?_ ?_
  · exact .refl
  · lift_lets -underBinder
    intro x0
    refine Effect.of_ite ?_ ?_
    · exact Effect.step (cwFlag_only _ _ _) .refl (by decide)
    · exact Effect.step (ringWrite_only _ _ _ _) .refl (by decide)
theorem consumerRead_only a0 a1 a2 (s : State) : Effect [.cn, .cp, .hp, .mm] s (consumerRead a0 a1 a2 s) := by
  unfold consumerRead
  refine Effect.of_ite ?_ ?_
  · exact .refl
  · lift_lets -underBinder
    intro x0
    split
    rename_i v4
    refine Effect.set_mm (by decide) ?_
    have he5 := congrArg Prod.snd v4
    dsimp only at he5
    rw [← he5]
    refine Effect.of_ite2 ?_ ?_
    · dsimp only
      exact Effect.step (cwFlag_only _ _ _) .refl (by decide)
    · dsimp only
      exact .refl
theorem execCwConsumerRead_only a0 a1 a2 a3 (s : State) : ∃ t, execCwConsumerRead a0 a1 a2 a3 s = .next t ∧ Effect [.tm, .cn, .cp, .hp, .ag, .mm, .free] s t := by
  refine ⟨_, rfl, ?_⟩
  exact Effect.step (consumerRead_only _ _ _ _) (Effect.step (elapse_only _ _) .refl (by decide)) (by decide)
theorem execCwWrAdvance_only a0 a1 a2 (s : State) : ∃ t, execCwWrAdvance a0 a1 a2 s = .next t ∧ Effect [.tm, .cn, .cp, .hp, .ag, .mm, .free] s t := by
  refine ⟨_, rfl, ?_⟩
  exact Effect.step (wrAdvance_only _ _ _) (Effect.step (elapse_only _ _) .refl (by decide)) (by decide)
theorem execCwRdAdvance_only a0 a1 a2 (s : State) : ∃ t, execCwRdAdvance a0 a1 a2 s = .next t ∧ Effect [.tm, .cn, .cp, .hp, .ag, .mm, .free] s t := by
  refine ⟨_, rfl, ?_⟩
  exact Effect.step (rdAdvance_only _ _ _) (Effect.step (elapse_only _ _) .refl (by decide)) (by decide)
theorem execCwStatusWrite_only a0 a1 a2 (s : State) : ∃ t, execCwStatusWrite a0 a1 a2 s = .next t ∧ Effect [.tm, .ag, .mm, .free] s t := by
  refine ⟨_, rfl, ?_⟩
  exact Effect.step (cwStatusWrite_only _ _ _) (Effect.step (elapse_only _ _) .refl (by decide)) (by decide)
theorem execCwProducerWrite_only a0 a1 a2 a3 (s : State) : ∃ t, execCwProducerWrite a0 a1 a2 a3 s = .next t ∧ Effect [.tm, .cn, .cp, .hp, .ag, .mm, .mem, .free] s t := by
  refine ⟨_, rfl, ?_⟩
  exact Effect.step (producerWrite_only _ _ _ _) (Effect.step (elapse_only _ _) .refl (by decide)) (by decide)

end Sys2Proof.Machine
end

