-- ==== Sys2Proof/Laws/FrameCapture.lean ====
section
/-!
SUPPORT. Sys2Proof/Laws/FrameCapture.lean: what each operation of Machine/Capture.lean may change, one lemma per operation.
-/

namespace Sys2Proof.Machine
set_option Elab.async false

theorem captureReset_only (s : State) : Effect [.cp] s (captureReset s) := by
  unfold captureReset
  exact Effect.set_cp (by decide) .refl
theorem streamPut_only a0 a1 a2 (s : State) : Effect [.cn, .cp, .hp, .mm, .mem] s (streamPut a0 a1 a2 s).1 := by
  unfold streamPut
  lift_lets -underBinder
  intro x0 x1 x2
  have h3 : Effect [.cn, .cp, .hp, .mm, .mem] s x2 := by
    exact Effect.step (wrAdvance_only _ _ _) (Effect.step (ringWrite_only _ _ _ _) .refl (by decide)) (by decide)
  clear_value x2
  intro x4
  refine Effect.of_ite1 ?_ ?_
  · dsimp only
    exact Effect.step (cwFlag_only _ _ _) .refl (by decide)
  · dsimp only
    exact Effect.set_cp (by decide) h3
theorem streamPut_only_of {a0} {a1} {a2} {s : State} {r t} (h : streamPut a0 a1 a2 s = (t, r)) : Effect [.cn, .cp, .hp, .mm, .mem] s t := by
  have := streamPut_only a0 a1 a2 s
  rwa [h] at this
theorem segEnd_only a0 a1 a2 (s : State) : Effect [.cp] s (segEnd a0 a1 a2 s) := by
  unfold segEnd
  lift_lets -underBinder
  intro x0 x1 x2
  have h3 : Effect [.cp] s x2 := by
    exact Effect.step (updSeg_only _ _ _) .refl (by decide)
  clear_value x2
  intro x4
  exact Effect.set_cp (by decide) h3
theorem capOverflow_only a0 (s : State) : Effect [.cn, .cp, .hp, .mm] s (capOverflow a0 s) := by
  unfold capOverflow
  refine Effect.of_ite ?_ ?_
  · exact .refl
  · lift_lets -underBinder
    intro x0 x1 x2
    have h3 : Effect [.cn, .cp, .hp, .mm] s x2 := by
      exact Effect.step (segEnd_only _ _ _ _) (Effect.set_cp (by decide) .refl) (by decide)
    clear_value x2
    exact Effect.step (report_only _ _ _ _ _) h3 (by decide)
theorem streamAll_only (i : Nat) (l : List CapRecord) (s : State) : Effect [.cn, .cp, .hp, .mm, .mem] s (streamAll i l s) := by
  induction l generalizing s i with
  | nil => exact .refl
  | cons r rs ih =>
    unfold streamAll
    split
    rename_i h
    refine Effect.of_ite ?_ ?_
    · exact Effect.step (ih _ _) (Effect.weaken (streamPut_only_of h) (by decide)) (fun _ h => h)
    · exact Effect.step (capOverflow_only ..) (Effect.weaken (streamPut_only_of h) (by decide)) (by decide)
theorem segRecord_only a0 (s : State) : Effect [.cn, .cp, .hp, .mm, .mem] s (segRecord a0 s) := by
  unfold segRecord
  lift_lets -underBinder
  intro x0
  split
  · refine Effect.of_ite ?_ ?_
    · lift_lets -underBinder
      intro x7 x8
      have h9 : Effect [.cn, .cp, .hp, .mm, .mem] s x8 := by
        exact Effect.step (updSeg_only _ _ _) .refl (by decide)
      clear_value x8
      intro x10 x11
      have h12 : Effect [.cn, .cp, .hp, .mm, .mem] s x11 := by
        exact Effect.set_cp (by decide) h9
      clear_value x11
      refine Effect.of_ite ?_ ?_
      · exact Effect.step (streamAll_only _ _ _) h12 (by decide)
      · exact h12
    · lift_lets -underBinder
      intro x13 x14
      have h15 : Effect [.cn, .cp, .hp, .mm, .mem] s x14 := by
        exact Effect.step (updSeg_only _ _ _) .refl (by decide)
      clear_value x14
      refine Effect.of_ite ?_ ?_
      · exact Effect.step (streamAll_only _ _ _) h15 (by decide)
      · exact h15
  · lift_lets -underBinder
    intro x18 x19 x20
    have h21 : Effect [.cn, .cp, .hp, .mm, .mem] s x20 := by
      exact Effect.step (updSeg_only _ _ _) .refl (by decide)
    clear_value x20
    intro x22
    exact Effect.set_cp (by decide) h21
theorem blockEnd_only a0 a1 (s : State) : Effect [.cn, .cp, .hp, .mm, .mem] s (blockEnd a0 a1 s) := by
  unfold blockEnd
  lift_lets -underBinder
  intro x0 x1 x2
  refine Effect.of_ite ?_ ?_
  · exact .refl
  · exact Effect.step (segRecord_only _ _) (Effect.set_cp (by decide) .refl) (by decide)
theorem capStop_only a0 (s : State) : Effect [.cn, .cp, .hp, .mm, .mem] s (capStop a0 s) := by
  unfold capStop
  refine Effect.of_ite ?_ ?_
  · exact .refl
  · lift_lets -underBinder
    intro x0 x1 x2
    have h3 : Effect [.cn, .cp, .hp, .mm, .mem] s x2 := by
      exact Effect.step (blockEnd_only _ _ _) .refl (by decide)
    clear_value x2
    intro x4
    refine Effect.of_ite ?_ ?_
    · exact Effect.step (report_only _ _ _ _ _) (Effect.set_cp (by decide) .refl) (by decide)
    · exact Effect.step (report_only _ _ _ _ _) (Effect.step (segEnd_only _ _ _ _) (Effect.set_cp (by decide) h3) (by decide)) (by decide)
theorem updEvid_only (s : State) a1 : Effect [.cp] s (State.updEvid s a1) := by
  unfold State.updEvid
  exact Effect.set_cp (by decide) .refl
theorem evidEnd_only a0 (s : State) : Effect [.cn, .cp, .hp, .mm] s (evidEnd a0 s) := by
  unfold evidEnd
  split
  · exact .refl
  · lift_lets -underBinder
    intro x5 x6 x7
    have h8 : Effect [.cn, .cp, .hp, .mm] s x7 := by
      refine Effect.of_ite ?_ ?_
      · exact .refl
      · exact Effect.step (updSeg_only _ _ _) .refl (by decide)
    clear_value x7
    intro x9
    have h10 : Effect [.cn, .cp, .hp, .mm] s x9 := by
      exact Effect.step (updSeg_only _ _ _) h8 (by decide)
    clear_value x9
    intro x11
    have h12 : Effect [.cn, .cp, .hp, .mm] s x11 := by
      exact Effect.step (updEvid_only _ _) h10 (by decide)
    clear_value x11
    intro x13
    exact Effect.step (report_only _ _ _ _ _) h12 (by decide)
theorem captureCommit_only a0 a1 (s : State) : Effect [.cn, .cp, .hp, .mm, .mem] s (captureCommit a0 a1 s) := by
  unfold captureCommit
  lift_lets -underBinder
  intro x0
  have h1 : Effect [.cn, .cp, .hp, .mm, .mem] s x0 := by
    refine Effect.of_ite ?_ ?_
    · exact Effect.step (capStop_only _ _) .refl (by decide)
    · exact .refl
  clear_value x0
  refine Effect.of_ite ?_ ?_
  · exact Effect.step (updEvid_only _ _) (Effect.step (evidEnd_only _ _) h1 (by decide)) (by decide)
  · exact h1
theorem cmdCaptureArm_only a0 (s : State) : Effect [.cp] s (cmdCaptureArm a0 s).2 := by
  unfold cmdCaptureArm
  lift_lets -underBinder
  intro x0 x1 x2 x3
  have h4 : Effect [.cp] s x3 := by
    refine Effect.of_ite ?_ ?_
    · refine Effect.of_foldl _ ?_ (fun y5 a6 h7 => ?_)
      · exact .refl
      · exact Effect.step (updSeg_only _ _ _) h7 (by decide)
    · exact .refl
  clear_value x3
  intro x8 x9
  refine Effect.of_ite2 ?_ ?_
  · dsimp only
    exact .refl
  · refine Effect.of_ite2 ?_ ?_
    · dsimp only
      exact .refl
    · refine Effect.of_ite2 ?_ ?_
      · dsimp only
        exact h4
      · dsimp only
        exact Effect.set_cp (by decide) h4
theorem cmdCaptureArm_only_of {a0} {s : State} {r t} (h : cmdCaptureArm a0 s = (r, t)) : Effect [.cp] s t := by
  have := cmdCaptureArm_only a0 s
  rwa [h] at this
theorem segStart_only a0 (s : State) : Effect [.cp] s (segStart a0 s) := by
  unfold segStart
  lift_lets -underBinder
  intro x0 x1
  have h2 : Effect [.cp] s x1 := by
    exact Effect.step (updSeg_only _ _ _) .refl (by decide)
  clear_value x1
  intro x3
  exact Effect.set_cp (by decide) h2
theorem armBegin_only (s : State) : Effect [.cn, .jn, .cp, .hp, .mm] s (armBegin s) := by
  unfold armBegin
  split
  · exact .refl
  · split
    · exact Effect.step (finish_only _ _ _) (Effect.set_cp (by decide) .refl) (by decide)
    · lift_lets -underBinder
      intro x10 x11
      have h12 : Effect [.cn, .jn, .cp, .hp, .mm] s x11 := by
        exact Effect.set_cp (by decide) .refl
      clear_value x11
      intro x13
      have h14 : Effect [.cn, .jn, .cp, .hp, .mm] s x13 := by
        exact Effect.step (segStart_only _ _) h12 (by decide)
      clear_value x13
      intro x15
      exact Effect.step (finish_only _ _ _) (Effect.step (report_only _ _ _ _ _) h14 (by decide)) (by decide)
theorem armIdle_only (s : State) : Effect [.cn, .jn, .cp, .hp, .mm] s (armIdle s) := by
  unfold armIdle
  refine Effect.of_ite ?_ ?_
  · exact .refl
  · exact Effect.step (armBegin_only _) .refl (by decide)
theorem cmdCaptureStop_only a0 (s : State) : Effect [.cn, .jn, .cp, .hp, .mm, .mem] s (cmdCaptureStop a0 s).2 := by
  unfold cmdCaptureStop
  lift_lets -underBinder
  intro x0 x1 x2 x3
  have h4 : Effect [.cn, .jn, .cp, .hp, .mm, .mem] s x3 := by
    unfold x3
    split
    · exact Effect.step (finish_only _ _ _) (Effect.set_cp (by decide) .refl) (by decide)
    · exact .refl
  clear_value x3
  intro x10 x11 x12 x13 x14 x15
  have h16 : Effect [.cn, .jn, .cp, .hp, .mm, .mem] s x15 := by
    refine Effect.of_foldl _ ?_ (fun y17 a18 h19 => ?_)
    · exact .refl
    · exact Effect.step (updSeg_only _ _ _) h19 (by decide)
  clear_value x15
  refine Effect.of_ite2 ?_ ?_
  · dsimp only
    exact Effect.step (capStop_only _ _) h4 (by decide)
  · refine Effect.of_ite2 ?_ ?_
    · dsimp only
      exact .refl
    · refine Effect.of_ite2 ?_ ?_
      · dsimp only
        exact .refl
      · dsimp only
        refine Effect.of_ite ?_ ?_
        · exact h16
        · exact Effect.step (report_only _ _ _ _ _) h16 (by decide)
theorem cmdCaptureStop_only_of {a0} {s : State} {r t} (h : cmdCaptureStop a0 s = (r, t)) : Effect [.cn, .jn, .cp, .hp, .mm, .mem] s t := by
  have := cmdCaptureStop_only a0 s
  rwa [h] at this
theorem cmdCaptureRead_only a0 (s : State) : Effect [] s (cmdCaptureRead a0 s).2 := by
  unfold cmdCaptureRead
  lift_lets -underBinder
  intro x0 x1 x2 x3 x4 x5
  refine Effect.of_ite2 ?_ ?_
  · dsimp only
    exact .refl
  · refine Effect.of_ite2 ?_ ?_
    · dsimp only
      exact .refl
    · refine Effect.of_ite2 ?_ ?_
      · dsimp only
        exact .refl
      · dsimp only
        exact .refl
theorem cmdCaptureRead_only_of {a0} {s : State} {r t} (h : cmdCaptureRead a0 s = (r, t)) : Effect [] s t := by
  have := cmdCaptureRead_only a0 s
  rwa [h] at this
theorem cmdCaptureStatus_only a0 (s : State) : Effect [] s (cmdCaptureStatus a0 s).2 := by
  unfold cmdCaptureStatus
  lift_lets -underBinder
  intro x0 x1 x2 x3
  dsimp only
  exact .refl
theorem cmdCaptureStatus_only_of {a0} {s : State} {r t} (h : cmdCaptureStatus a0 s = (r, t)) : Effect [] s t := by
  have := cmdCaptureStatus_only a0 s
  rwa [h] at this
theorem evidSample_only a0 a1 (s : State) : Effect [.cn, .cp, .hp, .mm] s (evidSample a0 a1 s) := by
  unfold evidSample
  refine Effect.of_ite ?_ ?_
  · exact .refl
  · lift_lets -underBinder
    intro x0
    have h1 : Effect [.cn, .cp, .hp, .mm] s x0 := by
      exact Effect.step (updEvid_only _ _) .refl (by decide)
    clear_value x0
    intro x2 x3
    have h4 : Effect [.cn, .cp, .hp, .mm] s x3 := by
      exact Effect.step (updEvid_only _ _) h1 (by decide)
    clear_value x3
    refine Effect.of_ite ?_ ?_
    · exact h1
    · split
      · lift_lets -underBinder
        intro x8
        have h9 : Effect [.cn, .cp, .hp, .mm] s x8 := by
          exact Effect.step (updSeg_only _ _ _) h4 (by decide)
        clear_value x8
        refine Effect.of_ite ?_ ?_
        · exact Effect.step (evidEnd_only _ _) h9 (by decide)
        · exact h9
      · lift_lets -underBinder
        intro x12
        exact Effect.step (updEvid_only _ _) h4 (by decide)
theorem capRearm_only (s : State) : Effect [.cn, .cp, .hp, .mm] s (capRearm s) := by
  unfold capRearm
  refine Effect.of_ite ?_ ?_
  · exact .refl
  · split
    · exact Effect.step (segStart_only _ _) .refl (by decide)
    · exact Effect.step (report_only _ _ _ _ _) (Effect.set_cp (by decide) .refl) (by decide)
theorem seqAct_only a0 a1 a2 a3 (s : State) : Effect [.cp] s (seqAct a0 a1 a2 a3 s).1 := by
  unfold seqAct
  lift_lets -underBinder
  intro x0 x1 x2
  have h3 : Effect [.cp] s x2 := by
    refine Effect.of_ite ?_ ?_
    · exact Effect.set_cp (by decide) .refl
    · exact .refl
  clear_value x2
  intro x4 x5
  have h6 : Effect [.cp] s x5 := by
    refine Effect.of_ite ?_ ?_
    · exact Effect.set_cp (by decide) h3
    · exact h3
  clear_value x5
  refine Effect.of_ite1 ?_ ?_
  · dsimp only
    exact Effect.set_cp (by decide) .refl
  · dsimp only
    exact h6
theorem seqAct_only_of {a0} {a1} {a2} {a3} {s : State} {r t} (h : seqAct a0 a1 a2 a3 s = (t, r)) : Effect [.cp] s t := by
  have := seqAct_only a0 a1 a2 a3 s
  rwa [h] at this
theorem seqStep_only a0 a1 (s : State) : Effect [.cp] s (seqStep a0 a1 s).1 := by
  unfold seqStep
  refine Effect.of_ite1 ?_ ?_
  · dsimp only
    exact .refl
  · split
    · dsimp only
      exact .refl
    · lift_lets -underBinder
      intro x5
      split
      split
      lift_lets -underBinder
      intro x14 x15 x16 x17
      have h18 : Effect [.cp] s x17 := by
        exact Effect.set_cp (by decide) .refl
      clear_value x17
      refine Effect.of_ite1 ?_ ?_
      · exact Effect.step (seqAct_only _ _ _ _ _) h18 (by decide)
      · refine Effect.of_ite1 ?_ ?_
        · exact Effect.step (seqAct_only _ _ _ _ _) h18 (by decide)
        · dsimp only
          exact h18
theorem seqStep_only_of {a0} {a1} {s : State} {r t} (h : seqStep a0 a1 s = (t, r)) : Effect [.cp] s t := by
  have := seqStep_only a0 a1 s
  rwa [h] at this
theorem segComplete_only a0 (s : State) : Effect [.cn, .cp, .hp, .mm] s (segComplete a0 s) := by
  unfold segComplete
  lift_lets -underBinder
  intro x0 x1 x2
  have h3 : Effect [.cn, .cp, .hp, .mm] s x2 := by
    exact Effect.step (report_only _ _ _ _ _) (Effect.step (segEnd_only _ _ _ _) .refl (by decide)) (by decide)
  clear_value x2
  intro x4
  refine Effect.of_ite ?_ ?_
  · exact .refl
  · refine Effect.of_ite ?_ ?_
    · exact Effect.set_cp (by decide) h3
    · exact h3
theorem userSample_only a0 a1 (s : State) : Effect [.cn, .cp, .hp, .mm, .mem] s (userSample a0 a1 s) := by
  unfold userSample
  lift_lets -underBinder
  intro x0
  have h1 : Effect [.cn, .cp, .hp, .mm, .mem] s x0 := by
    exact Effect.step (capRearm_only _) .refl (by decide)
  clear_value x0
  refine Effect.of_ite ?_ ?_
  · exact h1
  · split
    rename_i v5
    lift_lets -underBinder
    intro x6 x7
    have h8 : Effect [.cn, .cp, .hp, .mm, .mem] s x7 := by
      exact Effect.set_cp (by decide) (Effect.step (seqStep_only_of v5) h1 (by decide))
    intro x9
    have h10 : Effect [.cn, .cp, .hp, .mm, .mem] s x9 := by
      refine Effect.of_ite ?_ ?_
      · exact Effect.step (segComplete_only _ _) (Effect.step (blockEnd_only _ _ _) h8 (by decide)) (by decide)
      · exact h8
    clear_value x9
    refine Effect.of_ite ?_ ?_
    · exact Effect.step (capStop_only _ _) h10 (by decide)
    · exact h10
theorem frameSamples_only (s : State) : Effect [.cn, .cp, .hp, .mm, .mem] s (frameSamples s) := by
  unfold frameSamples
  split
  · exact .refl
  · lift_lets -underBinder
    intro x6 x7
    have h8 : Effect [.cn, .cp, .hp, .mm, .mem] s x7 := by
      exact Effect.step (evidSample_only _ _ _) .refl (by decide)
    intro x9 x10
    have h11 : Effect [.cn, .cp, .hp, .mm, .mem] s x10 := by
      exact Effect.set_cp (by decide) h8
    refine Effect.of_ite ?_ ?_
    · exact Effect.step (userSample_only _ _ _) h11 (by decide)
    · exact h11
theorem captureRidgeStop_only (s : State) : Effect [.cn, .cp, .hp, .mm, .mem] s (captureRidgeStop s) := by
  unfold captureRidgeStop
  lift_lets -underBinder
  intro x0
  have h1 : Effect [.cn, .cp, .hp, .mm, .mem] s x0 := by
    exact Effect.step (frameSamples_only _) .refl (by decide)
  intro x2 x3
  have h4 : Effect [.cn, .cp, .hp, .mm, .mem] s x3 := by
    exact Effect.set_cp (by decide) h1
  refine Effect.of_ite ?_ ?_
  · exact Effect.step (capStop_only _ _) h4 (by decide)
  · exact h4
theorem captureIdle_only (s : State) : Effect [.cn, .cp, .hp, .mm, .mem] s (captureIdle s) := by
  unfold captureIdle
  refine Effect.of_ite ?_ ?_
  · exact .refl
  · lift_lets -underBinder
    intro x0
    have h1 : Effect [.cn, .cp, .hp, .mm, .mem] s x0 := by
      exact Effect.step (evidSample_only _ _ _) .refl (by decide)
    clear_value x0
    intro x2
    refine Effect.of_ite ?_ ?_
    · exact Effect.step (userSample_only _ _ _) h1 (by decide)
    · refine Effect.of_ite ?_ ?_
      · exact h1
      · exact Effect.set_cp (by decide) h1
theorem evidTrigger_only a0 a1 a2 (s : State) : Effect [.cn, .cp, .hp, .mm] s (evidTrigger a0 a1 a2 s) := by
  unfold evidTrigger
  refine Effect.of_ite ?_ ?_
  · exact .refl
  · split
    · exact Effect.step (updEvid_only _ _) .refl (by decide)
    · exact Effect.step (report_only _ _ _ _ _) (Effect.step (updEvid_only _ _) .refl (by decide)) (by decide)
    · lift_lets -underBinder
      intro x13 x14 x15
      have h16 : Effect [.cn, .cp, .hp, .mm] s x15 := by
        exact Effect.step (updEvid_only _ _) .refl (by decide)
      clear_value x15
      exact Effect.step (updSeg_only _ _ _) h16 (by decide)
theorem execCaptureOverflow_only a0 a1 (s : State) : ∃ t, execCaptureOverflow a0 a1 s = .next t ∧ Effect [.tm, .cn, .cp, .hp, .ag, .mm, .free] s t := by
  refine ⟨_, rfl, ?_⟩
  exact Effect.step (capOverflow_only _ _) (Effect.step (elapse_only _ _) .refl (by decide)) (by decide)
theorem captureFrame_only (s : State) : Effect [.cn, .jn, .cp, .hp, .mm, .mem] s (captureFrame s) := by
  unfold captureFrame
  lift_lets -underBinder
  intro x0
  have h1 : Effect [.cn, .jn, .cp, .hp, .mm, .mem] s x0 := by
    exact Effect.step (frameSamples_only _) .refl (by decide)
  clear_value x0
  intro x2 x3
  have h4 : Effect [.cn, .jn, .cp, .hp, .mm, .mem] s x3 := by
    refine Effect.of_ite ?_ ?_
    · exact h1
    · exact Effect.set_cp (by decide) h1
  clear_value x3
  intro x5
  have h6 : Effect [.cn, .jn, .cp, .hp, .mm, .mem] s x5 := by
    refine Effect.of_ite ?_ ?_
    · exact Effect.step (armBegin_only _) h4 (by decide)
    · exact h4
  clear_value x5
  intro x7
  have h8 : Effect [.cn, .jn, .cp, .hp, .mm, .mem] s x7 := by
    exact Effect.step (updEvid_only _ _) h6 (by decide)
  clear_value x7
  intro x9 x10 x11 x12
  exact Effect.set_cp (by decide) h8
theorem streamSend_only (s : State) : Effect [.cn, .cp, .hp, .mm, .sent] s (streamSend s) := by
  unfold streamSend
  refine Effect.of_ite ?_ ?_
  · exact .refl
  · lift_lets -underBinder
    intro x0 x1 x2
    split
    · exact .refl
    · lift_lets -underBinder
      intro x10 x11 x12 x13 x14
      split
      · refine Effect.of_ite ?_ ?_
        · exact .refl
        · exact Effect.step (send_only _ _) .refl (by decide)
      · refine Effect.of_ite ?_ ?_
        · exact .refl
        · lift_lets -underBinder
          intro x20 x21 x22 x23
          have h24 : Effect [.cn, .cp, .hp, .mm, .sent] s x23 := by
            exact Effect.step (rdAdvance_only _ _ _) .refl (by decide)
          clear_value x23
          intro x25 x26
          exact Effect.step (send_only _ _) (Effect.set_cp (by decide) h24) (by decide)
theorem captureEvent_only a0 a1 (s : State) : Effect [.cn, .cp, .hp, .mm, .mem] s (captureEvent a0 a1 s) := by
  unfold captureEvent
  refine Effect.of_ite ?_ ?_
  · exact .refl
  · lift_lets -underBinder
    intro x0 x1 x2 x3 x4
    have h5 : Effect [.cn, .cp, .hp, .mm, .mem] s x4 := by
      refine Effect.of_ite ?_ ?_
      · exact Effect.set_cp (by decide) .refl
      · exact .refl
    clear_value x4
    intro x6 x7 x8
    refine Effect.of_ite ?_ ?_
    · exact h5
    · refine Effect.of_ite ?_ ?_
      · refine Effect.of_ite ?_ ?_
        · exact Effect.step (capOverflow_only _ _) h5 (by decide)
        · exact Effect.set_cp (by decide) h5
      · exact Effect.step (userSample_only _ _ _) h5 (by decide)
theorem execCaptureEvent_only a0 a1 a2 (s : State) : ∃ t, execCaptureEvent a0 a1 a2 s = .next t ∧ Effect [.tm, .cn, .cp, .hp, .ag, .mm, .mem, .free] s t := by
  refine ⟨_, rfl, ?_⟩
  exact Effect.step (captureEvent_only _ _ _) (Effect.step (elapse_only _ _) .refl (by decide)) (by decide)
theorem captureRearm_only (s : State) : Effect [.cn, .cp, .hp, .mm, .mem] s (captureRearm s) := by
  unfold captureRearm
  refine Effect.of_ite ?_ ?_
  · exact .refl
  · lift_lets -underBinder
    intro x0 x1 x2
    have h3 : Effect [.cn, .cp, .hp, .mm, .mem] s x2 := by
      exact Effect.step (capRearm_only _) (Effect.set_cp (by decide) .refl) (by decide)
    clear_value x2
    refine Effect.of_foldl _ ?_ (fun y4 a5 h6 => ?_)
    · exact h3
    · exact Effect.step (userSample_only _ _ _) h6 (by decide)
theorem execCaptureRearm_only a0 (s : State) : ∃ t, execCaptureRearm a0 s = .next t ∧ Effect [.tm, .cn, .cp, .hp, .ag, .mm, .mem, .free] s t := by
  refine ⟨_, rfl, ?_⟩
  exact Effect.step (captureRearm_only _) (Effect.step (elapse_only _ _) .refl (by decide)) (by decide)
theorem execCaptureStreamSend_only a0 (s : State) : ∃ t, execCaptureStreamSend a0 s = .next t ∧ Effect [.tm, .cn, .cp, .hp, .ag, .mm, .sent, .free] s t := by
  refine ⟨_, rfl, ?_⟩
  exact Effect.step (streamSend_only _) (Effect.step (elapse_only _ _) .refl (by decide)) (by decide)
theorem execCaptureIdleTick_only a0 (s : State) : ∃ t, execCaptureIdleTick a0 s = .next t ∧ Effect [.tm, .cn, .cp, .hp, .ag, .mm, .mem, .free] s t := by
  refine ⟨_, rfl, ?_⟩
  exact Effect.step (captureIdle_only _) (Effect.step (elapse_only _ _) .refl (by decide)) (by decide)

end Sys2Proof.Machine
end

