-- ==== Sys2Proof/Laws/FrameCan.lean ====
section
/-!
SUPPORT. Sys2Proof/Laws/FrameCan.lean: what each operation of Machine/Can.lean may change, one lemma per operation.
-/

namespace Sys2Proof.Machine
set_option Elab.async false

theorem sdoObject_only_of {s : State} {n index sub : Nat} {v t} (h : s.sdoObject n index sub = some (v, t)) : Effect [.free] s t := by
  unfold State.sdoObject at h
  dsimp only at h
  split at h <;> first
    | exact take_only_of (Option.some.inj h)
    | (cases h; exact .refl)
    | (split at h <;> first | exact take_only_of (Option.some.inj h) | cases h)
theorem cancelDone_only a0 a1 (s : State) : Effect [.jn] s (cancelDone a0 a1 s) := by
  unfold cancelDone
  refine Effect.of_foldl _ ?_ (fun y0 a1 h2 => ?_)
  · exact .refl
  · exact Effect.step (finish_only _ _ _) h2 (by decide)
theorem canDrop_only a0 a1 (s : State) : Effect [.jn, .can] s (canDrop a0 a1 s) := by
  unfold canDrop
  lift_lets -underBinder
  intro x0
  have h1 : Effect [.jn, .can] s x0 := by
    refine Effect.of_foldl _ ?_ (fun y2 a3 h4 => ?_)
    · exact .refl
    · lift_lets -underBinder
      intro x5
      have h6 : Effect [.jn, .can] s x5 := by
        unfold x5
        split
        · exact Effect.step (finish_only _ _ _) h4 (by decide)
        · exact h4
      clear_value x5
      exact Effect.step (cancelDone_only _ _ _) h6 (by decide)
  clear_value x0
  exact Effect.step (updCtl_only _ _ _) h1 (by decide)
theorem canStart_only a0 (s : State) : Effect [.can] s (canStart a0 s) := by
  unfold canStart
  exact Effect.step (arbitrate_only _ _) (Effect.step (updCtl_only _ _ _) .refl (by decide)) (by decide)
theorem canCommit_only a0 (s : State) : Effect [.jn, .can] s (canCommit a0 s) := by
  unfold canCommit
  refine Effect.of_ite ?_ ?_
  · exact Effect.step (updCtl_only _ _ _) (Effect.step (canDrop_only _ _ _) .refl (by decide)) (by decide)
  · refine Effect.of_ite ?_ ?_
    · exact Effect.step (canStart_only _ _) (Effect.step (updCtl_only _ _ _) .refl (by decide)) (by decide)
    · exact .refl
theorem cmdCanSend_only a0 (s : State) : Effect [.can] s (cmdCanSend a0 s).2 := by
  unfold cmdCanSend
  lift_lets -underBinder
  intro x0 x1 x2 x3 x4 x5 x6 x7 x8
  refine Effect.of_ite2 ?_ ?_
  · dsimp only
    exact .refl
  · clear_value x7
    split
    · dsimp only
      exact .refl
    · refine Effect.of_ite2 ?_ ?_
      · dsimp only
        exact .refl
      · lift_lets -underBinder
        intro x12 x13
        dsimp only
        exact Effect.step (arbitrate_only _ _) (Effect.step (updCtl_only _ _ _) .refl (by decide)) (by decide)
theorem cmdCanSend_only_of {a0} {s : State} {r t} (h : cmdCanSend a0 s = (r, t)) : Effect [.can] s t := by
  have := cmdCanSend_only a0 s
  rwa [h] at this
theorem txFree_only a0 a1 (s : State) : Effect [.can] s (txFree a0 a1 s) := by
  unfold txFree
  lift_lets -underBinder
  intro x0
  have h1 : Effect [.can] s x0 := by
    exact Effect.step (updCtl_only _ _ _) .refl (by decide)
  clear_value x0
  exact Effect.step (arbitrate_only _ _) h1 (by decide)
theorem cmdCanCancel_only a0 (s : State) : Effect [.jn, .can] s (cmdCanCancel a0 s).2 := by
  unfold cmdCanCancel
  lift_lets -underBinder
  intro x0 x1 x2
  split
  · dsimp only
    exact .refl
  · refine Effect.of_ite2 ?_ ?_
    · dsimp only
      exact .refl
    · lift_lets -underBinder
      intro x7
      have h8 : Effect [.jn, .can] s x7 := by
        unfold x7
        split
        · exact Effect.step (finish_only _ _ _) .refl (by decide)
        · exact .refl
      clear_value x7
      dsimp only
      exact Effect.step (txFree_only _ _ _) h8 (by decide)
  · refine Effect.of_ite2 ?_ ?_
    · dsimp only
      exact .refl
    · dsimp only
      exact Effect.step (updCtl_only _ _ _) .refl (by decide)
theorem cmdCanCancel_only_of {a0} {s : State} {r t} (h : cmdCanCancel a0 s = (r, t)) : Effect [.jn, .can] s t := by
  have := cmdCanCancel_only a0 s
  rwa [h] at this
theorem fifoTake_only (n k room : Nat) (s : State) : Effect [.can] s (fifoTake n k room s).2 := by
  induction k generalizing s room with
  | zero => exact Effect.refl
  | succ k ih =>
    unfold fifoTake
    extract_lets
    split
    · dsimp only
      split
      · exact Effect.refl
      · exact Effect.step (ih _ _) (updCtl_only ..) (fun _ h => h)
    · exact Effect.refl
theorem fifoTake_only_of {n k room s r t} (h : fifoTake n k room s = (r, t)) : Effect [.can] s t := by
  have := fifoTake_only n k room s
  rwa [h] at this
theorem cmdCanRead_only a0 (s : State) : Effect [.can] s (cmdCanRead a0 s).2 := by
  unfold cmdCanRead
  lift_lets -underBinder
  intro x0
  refine Effect.of_ite2 ?_ ?_
  · dsimp only
    exact .refl
  · split
    rename_i v4
    dsimp only
    exact Effect.step (fifoTake_only_of v4) .refl (by decide)
theorem cmdCanRead_only_of {a0} {s : State} {r t} (h : cmdCanRead a0 s = (r, t)) : Effect [.can] s t := by
  have := cmdCanRead_only a0 s
  rwa [h] at this
theorem boxWrite_only a0 a1 a2 (s : State) : Effect [.can] s (boxWrite a0 a1 a2 s) := by
  unfold boxWrite
  exact Effect.step (updCtl_only _ _ _) .refl (by decide)
theorem canCounters_only a0 a1 a2 (s : State) : Effect [.cn, .cp, .hp, .can, .mm] s (canCounters a0 a1 a2 s) := by
  unfold canCounters
  lift_lets -underBinder
  intro x0 x1 x2
  have h3 : Effect [.cn, .cp, .hp, .can, .mm] s x2 := by
    exact Effect.step (updCtl_only _ _ _) .refl (by decide)
  clear_value x2
  refine Effect.of_ite ?_ ?_
  · exact h3
  · exact Effect.step (report_only _ _ _ _ _) h3 (by decide)
theorem fifoWrite_only a0 a1 (s : State) : Effect [.can] s (fifoWrite a0 a1 s) := by
  unfold fifoWrite
  exact Effect.step (updCtl_only _ _ _) .refl (by decide)
theorem nmtCommand_only a0 a1 (s : State) : Effect [.can] s (nmtCommand a0 a1 s) := by
  unfold nmtCommand
  lift_lets -underBinder
  intro x0
  refine Effect.of_ite ?_ ?_
  · exact .refl
  · exact Effect.step (updCtl_only _ _ _) .refl (by decide)
theorem heartbeat_only a0 a1 a2 (s : State) : Effect [.can] s (heartbeat a0 a1 a2 s) := by
  unfold heartbeat
  refine Effect.of_ite ?_ ?_
  · exact .refl
  · exact Effect.step (updCtl_only _ _ _) .refl (by decide)
theorem canReceive_only a0 a1 (s : State) : Effect [.cn, .cp, .hp, .can, .mm] s (canReceive a0 a1 s) := by
  unfold canReceive
  refine Effect.of_ite ?_ ?_
  · exact .refl
  · lift_lets -underBinder
    intro x0
    have h1 : Effect [.cn, .cp, .hp, .can, .mm] s x0 := by
      exact Effect.step (canCounters_only _ _ _ _) .refl (by decide)
    clear_value x0
    intro x2 x3 x4
    have h5 : Effect [.cn, .cp, .hp, .can, .mm] s x4 := by
      unfold x4
      split
      · exact Effect.step (boxWrite_only _ _ _ _) h1 (by decide)
      · exact Effect.step (boxWrite_only _ _ _ _) h1 (by decide)
      · exact Effect.step (fifoWrite_only _ _ _) h1 (by decide)
      · exact h1
    clear_value x4
    refine Effect.of_ite ?_ ?_
    · exact h5
    · refine Effect.of_ite ?_ ?_
      · exact Effect.step (nmtCommand_only _ _ _) h5 (by decide)
      · refine Effect.of_ite ?_ ?_
        · exact Effect.step (heartbeat_only _ _ _ _) h5 (by decide)
        · exact h5
theorem execCanFrameRx_only a0 a1 a2 (s : State) : ∃ t, execCanFrameRx a0 a1 a2 s = .next t ∧ Effect [.tm, .cn, .cp, .hp, .can, .ag, .mm, .free] s t := by
  refine ⟨_, rfl, ?_⟩
  exact Effect.step (canReceive_only _ _ _) (Effect.step (elapse_only _ _) .refl (by decide)) (by decide)
theorem canopen_only a0 a1 a2 a3 (s : State) : Effect [.can] s (canopen a0 a1 a2 a3 s) := by
  unfold canopen
  exact Effect.step (canPost_only _ _ _ _) .refl (by decide)
theorem canWakeAll_only (s : State) : Effect [.can] s (canWakeAll s) := by
  unfold canWakeAll
  refine Effect.of_foldl _ ?_ (fun y0 a1 h2 => ?_)
  · exact .refl
  · refine Effect.of_ite ?_ ?_
    · exact Effect.step (canStart_only _ _) h2 (by decide)
    · exact Effect.step (updCtl_only _ _ _) h2 (by decide)
theorem canStandby_only a0 (s : State) : Effect [.jn, .can] s (canStandby a0 s) := by
  unfold canStandby
  refine Effect.of_foldl _ ?_ (fun y0 a1 h2 => ?_)
  · exact .refl
  · lift_lets -underBinder
    intro x3
    have h4 : Effect [.jn, .can] s x3 := by
      exact Effect.step (canDrop_only _ _ _) h2 (by decide)
    clear_value x3
    intro x5
    exact Effect.step (updCtl_only _ _ _) h4 (by decide)
theorem hbSend_only a0 (s : State) : Effect [.can] s (hbSend a0 s) := by
  unfold hbSend
  lift_lets -underBinder
  intro x0 x1
  have h2 : Effect [.can] s x1 := by
    exact Effect.step (canopen_only _ _ _ _ _) .refl (by decide)
  clear_value x1
  refine Effect.of_ite ?_ ?_
  · exact .refl
  · exact Effect.step (updCtl_only _ _ _) h2 (by decide)
theorem ttReceive_only a0 a1 a2 (s : State) : Effect [.tm, .cn, .fb, .cp, .hp, .can, .mm] s (ttReceive a0 a1 a2 s) := by
  unfold ttReceive
  lift_lets -underBinder
  intro x0 x1 x2
  have h3 : Effect [.tm, .cn, .fb, .cp, .hp, .can, .mm] s x2 := by
    exact Effect.step (boxWrite_only _ _ _ _) .refl (by decide)
  clear_value x2
  intro x4 x5 x6 x7
  have h8 : Effect [.tm, .cn, .fb, .cp, .hp, .can, .mm] s x7 := by
    exact Effect.step (updCtl_only _ _ _) h3 (by decide)
  clear_value x7
  refine Effect.of_ite ?_ ?_
  · exact .refl
  · clear_value x6
    split
    · refine Effect.of_ite ?_ ?_
      · exact Effect.step (measure_only _ _ _) h8 (by decide)
      · exact h8
    · exact h8
theorem execCanTtReferenceRx_only a0 a1 a2 a3 (s : State) : ∃ t, execCanTtReferenceRx a0 a1 a2 a3 s = .next t ∧ Effect [.tm, .cn, .fb, .cp, .hp, .can, .ag, .mm, .free] s t := by
  refine ⟨_, rfl, ?_⟩
  exact Effect.step (ttReceive_only _ _ _ _) (Effect.step (elapse_only _ _) .refl (by decide)) (by decide)
theorem sdoServe_only a0 a1 (s : State) : Effect [.can, .free] s (sdoServe a0 a1 s) := by
  unfold sdoServe
  lift_lets -underBinder
  intro x0 x1 x2
  refine Effect.of_ite ?_ ?_
  · exact .refl
  · split
    rename_i v6
    refine Effect.step (canopen_only _ _ _ _ _) ?_ (by decide)
    have he7 := congrArg Prod.snd v6
    dsimp only at he7
    rw [← he7]
    split
    · dsimp only
      exact .refl
    · rename_i v13
      refine Effect.of_ite2 ?_ ?_
      · dsimp only
        exact Effect.step (sdoObject_only_of v13) .refl (by decide)
      · dsimp only
        exact .refl
theorem execCanopenSdoRequest_only a0 a1 a2 (s : State) : ∃ t, execCanopenSdoRequest a0 a1 a2 s = .next t ∧ Effect [.tm, .can, .ag, .free] s t := by
  refine ⟨_, rfl, ?_⟩
  exact Effect.step (sdoServe_only _ _ _) (Effect.step (elapse_only _ _) .refl (by decide)) (by decide)
theorem hbLost_only a0 a1 (s : State) : Effect [.cn, .jn, .mc, .ax, .pg, .sf, .cp, .hp, .can, .mm] s (hbLost a0 a1 s) := by
  unfold hbLost
  lift_lets -underBinder
  intro x0 x1 x2
  have h3 : Effect [.cn, .jn, .mc, .ax, .pg, .sf, .cp, .hp, .can, .mm] s x2 := by
    exact Effect.step (report_only _ _ _ _ _) (Effect.step (updCtl_only _ _ _) .refl (by decide)) (by decide)
  clear_value x2
  refine Effect.of_ite ?_ ?_
  · exact .refl
  · split
    · exact Effect.step (axisFault_only _ _ _) h3 (by decide)
    · exact h3
theorem execCanopenHbLost_only a0 a1 a2 (s : State) : ∃ t, execCanopenHbLost a0 a1 a2 s = .next t ∧ Effect [.tm, .cn, .jn, .mc, .ax, .pg, .sf, .cp, .hp, .can, .ag, .mm, .free] s t := by
  refine ⟨_, rfl, ?_⟩
  exact Effect.step (hbLost_only _ _ _) (Effect.step (elapse_only _ _) .refl (by decide)) (by decide)
theorem ttLost_only a0 (s : State) : Effect [.cn, .cp, .hp, .can, .mm] s (ttLost a0 s) := by
  unfold ttLost
  lift_lets -underBinder
  intro x0
  refine Effect.of_ite ?_ ?_
  · exact .refl
  · exact Effect.step (report_only _ _ _ _ _) (Effect.step (updCtl_only _ _ _) .refl (by decide)) (by decide)
theorem emcy_only a0 a1 a2 a3 (s : State) : Effect [.cn, .ax, .cp, .hp, .mm] s (emcy a0 a1 a2 a3 s) := by
  unfold emcy
  refine Effect.of_ite ?_ ?_
  · exact .refl
  · lift_lets -underBinder
    intro x0
    have h1 : Effect [.cn, .ax, .cp, .hp, .mm] s x0 := by
      exact Effect.step (report_only _ _ _ _ _) .refl (by decide)
    clear_value x0
    split
    · exact Effect.step (updAxis_only _ _ _) h1 (by decide)
    · exact h1
theorem execCanopenEmcy_only a0 a1 a2 a3 a4 (s : State) : ∃ t, execCanopenEmcy a0 a1 a2 a3 a4 s = .next t ∧ Effect [.tm, .cn, .ax, .cp, .hp, .ag, .mm, .free] s t := by
  refine ⟨_, rfl, ?_⟩
  exact Effect.step (emcy_only _ _ _ _ _) (Effect.step (elapse_only _ _) .refl (by decide)) (by decide)
theorem canLockTimeout_only a0 a1 (s : State) : Effect [.cn, .cp, .hp, .can, .mm] s (canLockTimeout a0 a1 s) := by
  unfold canLockTimeout
  split
  · refine Effect.of_ite ?_ ?_
    · exact .refl
    · exact Effect.step (report_only _ _ _ _ _) (Effect.step (updCtl_only _ _ _) .refl (by decide)) (by decide)
  · exact .refl
theorem execCanLockTimeout_only a0 a1 a2 (s : State) : ∃ t, execCanLockTimeout a0 a1 a2 s = .next t ∧ Effect [.tm, .cn, .cp, .hp, .can, .ag, .mm, .free] s t := by
  refine ⟨_, rfl, ?_⟩
  exact Effect.step (canLockTimeout_only _ _ _) (Effect.step (elapse_only _ _) .refl (by decide)) (by decide)
theorem door_only a0 a1 a2 (s : State) : Effect [.cn, .cp, .hp, .can, .mm] s (door a0 a1 a2 s) := by
  unfold door
  refine Effect.of_ite ?_ ?_
  · exact .refl
  · exact Effect.step (report_only _ _ _ _ _) (Effect.step (updCtl_only _ _ _) .refl (by decide)) (by decide)
theorem execCanopenDoor_only a0 a1 a2 a3 (s : State) : ∃ t, execCanopenDoor a0 a1 a2 a3 s = .next t ∧ Effect [.tm, .cn, .cp, .hp, .can, .ag, .mm, .free] s t := by
  refine ⟨_, rfl, ?_⟩
  exact Effect.step (door_only _ _ _ _) (Effect.step (elapse_only _ _) .refl (by decide)) (by decide)
theorem ppLimits_only a0 a1 (s : State) : Effect [.can] s (ppLimits a0 a1 s) := by
  unfold ppLimits
  lift_lets -underBinder
  intro x0 x1
  refine Effect.of_foldl _ ?_ (fun y2 a3 h4 => ?_)
  · exact .refl
  · exact Effect.step (canopen_only _ _ _ _ _) h4 (by decide)
theorem syncSend_only a0 (s : State) : Effect [.ax, .can] s (syncSend a0 s) := by
  unfold syncSend
  refine Effect.of_ite ?_ ?_
  · exact .refl
  · lift_lets -underBinder
    intro x0
    refine Effect.of_ite ?_ ?_
    · exact .refl
    · refine Effect.of_foldl _ ?_ (fun y1 a2 h3 => ?_)
      · exact Effect.step (canopen_only _ _ _ _ _) .refl (by decide)
      · lift_lets -underBinder
        intro x4
        have h5 : Effect [.ax, .can] s x4 := by
          refine Effect.of_ite ?_ ?_
          · exact Effect.step (ppLimits_only _ _ _) h3 (by decide)
          · exact h3
        clear_value x4
        intro x6 x7
        have h8 : Effect [.ax, .can] s x7 := by
          exact Effect.step (canopen_only _ _ _ _ _) h5 (by decide)
        clear_value x7
        refine Effect.of_ite ?_ ?_
        · exact Effect.step (updAxis_only _ _ _) h8 (by decide)
        · exact Effect.step (setpointSent_only _ _ _) h8 (by decide)
theorem ttSend_only a0 (s : State) : Effect [.can] s (ttSend a0 s) := by
  unfold ttSend
  lift_lets -underBinder
  intro x0 x1 x2 x3
  have h4 : Effect [.can] s x3 := by
    exact Effect.step (updCtl_only _ _ _) .refl (by decide)
  clear_value x3
  refine Effect.of_ite ?_ ?_
  · exact .refl
  · exact Effect.step (canPost_only _ _ _ _) h4 (by decide)
theorem canLock_only a0 a1 a2 (s : State) : Effect [.can] s (canLock a0 a1 a2 s) := by
  unfold canLock
  refine Effect.of_ite ?_ ?_
  · exact Effect.step (updCtl_only _ _ _) .refl (by decide)
  · exact .refl
theorem execCanBufferLock_only a0 a1 a2 a3 (s : State) : ∃ t, execCanBufferLock a0 a1 a2 a3 s = .next t ∧ Effect [.tm, .can, .ag, .free] s t := by
  refine ⟨_, rfl, ?_⟩
  exact Effect.step (canLock_only _ _ _ _) (Effect.step (elapse_only _ _) .refl (by decide)) (by decide)
theorem segmentTimeout_only a0 (s : State) : Effect [.can] s (segmentTimeout a0 s) := by
  unfold segmentTimeout
  split
  · refine Effect.of_ite ?_ ?_
    · exact .refl
    · exact Effect.step (updCtl_only _ _ _) .refl (by decide)
  · exact .refl
theorem execCanCmdPartialTimeout_only a0 a1 (s : State) : ∃ t, execCanCmdPartialTimeout a0 a1 s = .next t ∧ Effect [.tm, .can, .ag, .free] s t := by
  refine ⟨_, rfl, ?_⟩
  exact Effect.step (segmentTimeout_only _ _) (Effect.step (elapse_only _ _) .refl (by decide)) (by decide)
theorem ttMark_only a0 a1 a2 (s : State) : Effect [.can] s (ttMark a0 a1 a2 s) := by
  unfold ttMark
  lift_lets -underBinder
  intro x0 x1
  split
  · refine Effect.of_ite ?_ ?_
    · exact Effect.step (begin_only _ _ _) .refl (by decide)
    · exact .refl
  · exact .refl
theorem execCanTtTimeMark_only a0 a1 a2 a3 (s : State) : ∃ t, execCanTtTimeMark a0 a1 a2 a3 s = .next t ∧ Effect [.tm, .can, .ag, .free] s t := by
  refine ⟨_, rfl, ?_⟩
  exact Effect.step (ttMark_only _ _ _ _) (Effect.step (elapse_only _ _) .refl (by decide)) (by decide)
theorem canBusOff_only a0 (s : State) : Effect [.cn, .jn, .cp, .hp, .can, .mm] s (canBusOff a0 s) := by
  unfold canBusOff
  lift_lets -underBinder
  intro x0 x1 x2
  have h3 : Effect [.cn, .jn, .cp, .hp, .can, .mm] s x2 := by
    exact Effect.step (report_only _ _ _ _ _) (Effect.step (updCtl_only _ _ _) .refl (by decide)) (by decide)
  clear_value x2
  intro x4
  refine Effect.of_ite ?_ ?_
  · exact Effect.step (report_only _ _ _ _ _) (Effect.step (updCtl_only _ _ _) (Effect.step (canDrop_only _ _ _) h3 (by decide)) (by decide)) (by decide)
  · exact h3
theorem txDone_only a0 a1 a2 a3 a4 (s : State) : Effect [.cn, .jn, .cp, .hp, .can, .mm, .sent] s (txDone a0 a1 a2 a3 a4 s) := by
  unfold txDone
  lift_lets -underBinder
  intro x0 x1
  have h2 : Effect [.cn, .jn, .cp, .hp, .can, .mm, .sent] s x1 := by
    exact Effect.step (canCounters_only _ _ _ _) .refl (by decide)
  clear_value x1
  intro x3
  have h4 : Effect [.cn, .jn, .cp, .hp, .can, .mm, .sent] s x3 := by
    exact Effect.step (send_only _ _) h2 (by decide)
  clear_value x3
  intro x5
  have h6 : Effect [.cn, .jn, .cp, .hp, .can, .mm, .sent] s x5 := by
    unfold x5
    split
    · exact Effect.step (finishAt_only _ _ _ _) h4 (by decide)
    · exact h4
  clear_value x5
  intro x12
  have h13 : Effect [.cn, .jn, .cp, .hp, .can, .mm, .sent] s x12 := by
    refine Effect.of_ite ?_ ?_
    · exact Effect.step (updCtl_only _ _ _) h6 (by decide)
    · exact h6
  clear_value x12
  intro x14
  have h15 : Effect [.cn, .jn, .cp, .hp, .can, .mm, .sent] s x14 := by
    unfold x14
    split
    · exact Effect.step (finish_only _ _ _) h2 (by decide)
    · exact h2
  clear_value x14
  intro x21
  have h22 : Effect [.cn, .jn, .cp, .hp, .can, .mm, .sent] s x21 := by
    exact Effect.step (updCtl_only _ _ _) h2 (by decide)
  clear_value x21
  intro x23
  have h24 : Effect [.cn, .jn, .cp, .hp, .can, .mm, .sent] s x23 := by
    refine Effect.of_ite ?_ ?_
    · exact Effect.step (txFree_only _ _ _) (Effect.step (cancelDone_only _ _ _) h13 (by decide)) (by decide)
    · refine Effect.of_ite ?_ ?_
      · exact Effect.step (txFree_only _ _ _) (Effect.step (cancelDone_only _ _ _) h15 (by decide)) (by decide)
      · refine Effect.of_ite ?_ ?_
        · exact h22
        · exact Effect.step (arbitrate_only _ _) h22 (by decide)
  clear_value x23
  refine Effect.of_ite ?_ ?_
  · exact .refl
  · refine Effect.of_ite ?_ ?_
    · exact Effect.step (canBusOff_only _ _) (Effect.step (updCtl_only _ _ _) h24 (by decide)) (by decide)
    · exact h24
theorem tpdo_only a0 a1 a2 a3 (s : State) : Effect [.cn, .jn, .ax, .cp, .hp, .can, .mm] s (tpdo a0 a1 a2 a3 s) := by
  unfold tpdo
  refine Effect.of_ite ?_ ?_
  · exact .refl
  · lift_lets -underBinder
    intro x0 x1
    have h2 : Effect [.cn, .jn, .ax, .cp, .hp, .can, .mm] s x1 := by
      exact Effect.step (updCtl_only _ _ _) .refl (by decide)
    clear_value x1
    split
    · exact h2
    · refine Effect.of_ite ?_ ?_
      · exact h2
      · lift_lets -underBinder
        intro x8 x9
        exact Effect.step (remoteReply_only _ _ _ _ _ _ _ _ _) h2 (by decide)
theorem execCanopenTpdo_only a0 a1 a2 a3 a4 (s : State) : ∃ t, execCanopenTpdo a0 a1 a2 a3 a4 s = .next t ∧ Effect [.tm, .cn, .jn, .ax, .cp, .hp, .can, .ag, .mm, .free] s t := by
  refine ⟨_, rfl, ?_⟩
  exact Effect.step (tpdo_only _ _ _ _ _) (Effect.step (elapse_only _ _) .refl (by decide)) (by decide)
theorem execCanopenSyncSend_only a0 a1 (s : State) : ∃ t, execCanopenSyncSend a0 a1 s = .next t ∧ Effect [.tm, .ax, .can, .ag, .free] s t := by
  refine ⟨_, rfl, ?_⟩
  exact Effect.step (syncSend_only _ _) (Effect.step (elapse_only _ _) .refl (by decide)) (by decide)
theorem execCanTtRefLost_only a0 a1 (s : State) : ∃ t, execCanTtRefLost a0 a1 s = .next t ∧ Effect [.tm, .cn, .cp, .hp, .can, .ag, .mm, .free] s t := by
  refine ⟨_, rfl, ?_⟩
  exact Effect.step (ttLost_only _ _) (Effect.step (elapse_only _ _) .refl (by decide)) (by decide)
theorem cmdSegment_only a0 a1 a2 (s : State) : Effect [.can] s (cmdSegment a0 a1 a2 s).2 := by
  unfold cmdSegment
  lift_lets -underBinder
  intro x0 x1
  have h2 : Effect [.can] s x1 := by
    exact Effect.step (boxWrite_only _ _ _ _) .refl (by decide)
  clear_value x1
  intro x3
  have h4 : Effect [.can] s x3 := by
    exact Effect.step (updCtl_only _ _ _) h2 (by decide)
  clear_value x3
  intro x5 x6 x7 x8
  refine Effect.of_ite2 ?_ ?_
  · dsimp only
    exact .refl
  · clear_value x8
    split
    · dsimp only
      exact Effect.step (updCtl_only _ _ _) h4 (by decide)
    · lift_lets -underBinder
      intro x13
      refine Effect.of_ite2 ?_ ?_
      · dsimp only
        exact Effect.step (updCtl_only _ _ _) h4 (by decide)
      · dsimp only
        exact Effect.step (updCtl_only _ _ _) h4 (by decide)
theorem cmdSegment_only_of {a0} {a1} {a2} {s : State} {r t} (h : cmdSegment a0 a1 a2 s = (r, t)) : Effect [.can] s t := by
  have := cmdSegment_only a0 a1 a2 s
  rwa [h] at this
theorem canRecovered_only a0 (s : State) : Effect [.cn, .cp, .hp, .can, .mm] s (canRecovered a0 s) := by
  unfold canRecovered
  lift_lets -underBinder
  intro x0 x1
  refine Effect.of_ite ?_ ?_
  · exact .refl
  · exact Effect.step (arbitrate_only _ _) (Effect.step (report_only _ _ _ _ _) (Effect.step (updCtl_only _ _ _) .refl (by decide)) (by decide)) (by decide)
theorem execCanRecovered_only a0 a1 (s : State) : ∃ t, execCanRecovered a0 a1 s = .next t ∧ Effect [.tm, .cn, .cp, .hp, .can, .ag, .mm, .free] s t := by
  refine ⟨_, rfl, ?_⟩
  exact Effect.step (canRecovered_only _ _) (Effect.step (elapse_only _ _) .refl (by decide)) (by decide)
theorem canRelease_only a0 a1 a2 (s : State) : Effect [.can] s (canRelease a0 a1 a2 s) := by
  unfold canRelease
  split
  · refine Effect.of_ite ?_ ?_
    · exact .refl
    · exact Effect.step (updCtl_only _ _ _) .refl (by decide)
  · exact .refl
theorem execCanBufferRelease_only a0 a1 a2 a3 (s : State) : ∃ t, execCanBufferRelease a0 a1 a2 a3 s = .next t ∧ Effect [.tm, .can, .ag, .free] s t := by
  refine ⟨_, rfl, ?_⟩
  exact Effect.step (canRelease_only _ _ _ _) (Effect.step (elapse_only _ _) .refl (by decide)) (by decide)
theorem sendTimeout_only a0 a1 (s : State) : Effect [.jn, .can] s (sendTimeout a0 a1 s) := by
  unfold sendTimeout
  lift_lets -underBinder
  intro x0
  split
  · refine Effect.of_ite ?_ ?_
    · exact .refl
    · exact Effect.step (txFree_only _ _ _) (Effect.step (finish_only _ _ _) .refl (by decide)) (by decide)
  · exact .refl
theorem execCanSendTimeout_only a0 a1 a2 (s : State) : ∃ t, execCanSendTimeout a0 a1 a2 s = .next t ∧ Effect [.tm, .jn, .can, .ag, .free] s t := by
  refine ⟨_, rfl, ?_⟩
  exact Effect.step (sendTimeout_only _ _ _) (Effect.step (elapse_only _ _) .refl (by decide)) (by decide)
theorem execCanTtReferenceSend_only a0 a1 (s : State) : ∃ t, execCanTtReferenceSend a0 a1 s = .next t ∧ Effect [.tm, .can, .ag, .free] s t := by
  refine ⟨_, rfl, ?_⟩
  exact Effect.step (ttSend_only _ _) (Effect.step (elapse_only _ _) .refl (by decide)) (by decide)
theorem execCanFrameTxDone_only a0 a1 a2 a3 a4 a5 (s : State) : ∃ t, execCanFrameTxDone a0 a1 a2 a3 a4 a5 s = .next t ∧ Effect [.tm, .cn, .jn, .cp, .hp, .can, .ag, .mm, .sent, .free] s t := by
  refine ⟨_, rfl, ?_⟩
  exact Effect.step (txDone_only _ _ _ _ _ _) (Effect.step (elapse_only _ _) .refl (by decide)) (by decide)
theorem execCanopenHeartbeatSend_only a0 a1 (s : State) : ∃ t, execCanopenHeartbeatSend a0 a1 s = .next t ∧ Effect [.tm, .can, .ag, .free] s t := by
  refine ⟨_, rfl, ?_⟩
  exact Effect.step (hbSend_only _ _) (Effect.step (elapse_only _ _) .refl (by decide)) (by decide)

end Sys2Proof.Machine
end

