-- ==== Sys2Proof/Laws/FrameField.lean ====
section
/-!
SUPPORT. Sys2Proof/Laws/FrameField.lean: what each operation of Machine/Field.lean may change, one lemma per operation.
-/

namespace Sys2Proof.Machine
set_option Elab.async false

theorem outRefresh_only (s : State) : Effect [.fd] s (outRefresh s) := by
  unfold outRefresh
  refine Effect.of_foldl _ ?_ (fun y0 a1 h2 => ?_)
  · exact .refl
  · lift_lets -underBinder
    intro x3 x4 x5
    exact Effect.set_fd (by decide) h2
theorem fieldSilent_only (s : State) : Effect [.fd] s (fieldSilent s) := by
  unfold fieldSilent
  exact Effect.step (outRefresh_only _) (Effect.set_fd (by decide) .refl) (by decide)
theorem joinCommit_only a0 (s : State) : Effect [.fd] s (joinCommit a0 s) := by
  unfold joinCommit
  lift_lets -underBinder
  intro x0 x1
  exact Effect.step (outRefresh_only _) (Effect.set_fd (by decide) .refl) (by decide)
theorem clearFaults_only a0 a1 (s : State) : Effect [.cn, .cp, .fd, .hp, .mm] s (clearFaults a0 a1 s) := by
  unfold clearFaults
  refine Effect.of_foldl _ ?_ (fun y0 a1 h2 => ?_)
  · exact .refl
  · refine Effect.of_ite ?_ ?_
    · exact Effect.step (report_only _ _ _ _ _) (Effect.set_fd (by decide) h2) (by decide)
    · exact h2
theorem cmdIoWrite_only a0 (s : State) : Effect [.cn, .cp, .fd, .hp, .mm] s (cmdIoWrite a0 s).2 := by
  unfold cmdIoWrite
  lift_lets -underBinder
  intro x0 x1 x2 x3 x4 x5
  have h6 : Effect [.cn, .cp, .fd, .hp, .mm] s x5 := by
    exact Effect.step (clearFaults_only _ _ _) (Effect.set_fd (by decide) .refl) (by decide)
  clear_value x5
  intro x7
  refine Effect.of_ite2 ?_ ?_
  · dsimp only
    exact .refl
  · refine Effect.of_ite2 ?_ ?_
    · dsimp only
      exact .refl
    · refine Effect.of_ite2 ?_ ?_
      · dsimp only
        exact h6
      · dsimp only
        exact Effect.set_fd (by decide) h6
theorem cmdIoWrite_only_of {a0} {s : State} {r t} (h : cmdIoWrite a0 s = (r, t)) : Effect [.cn, .cp, .fd, .hp, .mm] s t := by
  have := cmdIoWrite_only a0 s
  rwa [h] at this
theorem cmdIoRead_only a0 (s : State) : Effect [] s (cmdIoRead a0 s).2 := by
  unfold cmdIoRead
  dsimp only
  exact .refl
theorem cmdIoRead_only_of {a0} {s : State} {r t} (h : cmdIoRead a0 s = (r, t)) : Effect [] s t := by
  have := cmdIoRead_only a0 s
  rwa [h] at this
theorem countersSave_only (s : State) : Effect [.fd] s (countersSave s) := by
  unfold countersSave
  exact Effect.set_fd (by decide) .refl
theorem linkLostB_only (s : State) : Effect [.cn, .jn, .cp, .fd, .hp, .mm] s (linkLostB s) := by
  unfold linkLostB
  refine Effect.of_ite ?_ ?_
  · exact .refl
  · lift_lets -underBinder
    intro x0 x1 x2
    have h3 : Effect [.cn, .jn, .cp, .fd, .hp, .mm] s x2 := by
      exact Effect.step (outRefresh_only _) (Effect.set_fd (by decide) .refl) (by decide)
    clear_value x2
    intro x4
    have h5 : Effect [.cn, .jn, .cp, .fd, .hp, .mm] s x4 := by
      refine Effect.of_foldl _ ?_ (fun y6 a7 h8 => ?_)
      · exact h3
      · exact Effect.step (finish_only _ _ _) h8 (by decide)
    clear_value x4
    exact Effect.step (report_only _ _ _ _ _) h5 (by decide)
theorem resetLevel_only a0 (s : State) : Effect [.sf] s (resetLevel a0 s) := by
  unfold resetLevel
  lift_lets -underBinder
  intro x0 x1
  refine Effect.of_ite ?_ ?_
  · exact Effect.set_sf (by decide) .refl
  · split
    · refine Effect.of_ite ?_ ?_
      · exact Effect.set_sf (by decide) .refl
      · exact .refl
    · refine Effect.of_ite ?_ ?_
      · exact .refl
      · exact Effect.set_sf (by decide) .refl
theorem execFieldLinkLostB_only a0 (s : State) : ∃ t, execFieldLinkLostB a0 s = .next t ∧ Effect [.tm, .cn, .jn, .cp, .fd, .hp, .ag, .mm, .free] s t := by
  refine ⟨_, rfl, ?_⟩
  exact Effect.step (linkLostB_only _) (Effect.step (elapse_only _ _) .refl (by decide)) (by decide)
theorem linkLostA_only (s : State) : Effect [.cn, .cp, .fd, .hp, .mm] s (linkLostA s) := by
  unfold linkLostA
  refine Effect.of_ite ?_ ?_
  · exact .refl
  · exact Effect.step (report_only _ _ _ _ _) (Effect.set_fd (by decide) .refl) (by decide)
theorem fieldFrame_only (s : State) : Effect [.fd] s (fieldFrame s) := by
  unfold fieldFrame
  exact Effect.set_fd (by decide) .refl
theorem fieldStart_only (s : State) : Effect [.fd] s (fieldStart s) := by
  unfold fieldStart
  exact Effect.set_fd (by decide) .refl
theorem monStep_only a0 a1 (s : State) : Effect [.fd] s (monStep a0 a1 s) := by
  unfold monStep
  lift_lets -underBinder
  intro x0 x1 x2 x3 x4 x5
  refine Effect.of_ite ?_ ?_
  · exact .refl
  · exact Effect.set_fd (by decide) .refl
theorem monResetStep_only a0 (s : State) : Effect [.sf, .fd] s (monResetStep a0 s) := by
  unfold monResetStep
  lift_lets -underBinder
  intro x0 x1 x2 x3
  exact Effect.step (resetLevel_only _ _) (Effect.set_fd (by decide) .refl) (by decide)
theorem inputSample_only a0 a1 (s : State) : Effect [.sf, .fd] s (inputSample a0 a1 s) := by
  unfold inputSample
  refine Effect.of_ite ?_ ?_
  · exact .refl
  · lift_lets -underBinder
    intro x0 x1 x2
    have h3 : Effect [.sf, .fd] s x2 := by
      refine Effect.of_foldl _ ?_ (fun y4 a5 h6 => ?_)
      · exact .refl
      · lift_lets -underBinder
        intro x7 x8 x9 x10
        have h11 : Effect [.sf, .fd] s x10 := by
          exact Effect.set_fd (by decide) h6
        clear_value x10
        exact Effect.step (monStep_only _ _ _) h11 (by decide)
    clear_value x2
    intro x12 x13 x14
    exact Effect.step (monResetStep_only _ _) (Effect.set_fd (by decide) h3) (by decide)
theorem execOperationCounterSave_only a0 (s : State) : ∃ t, execOperationCounterSave a0 s = .next t ∧ Effect [.tm, .fd, .ag, .free] s t := by
  refine ⟨_, rfl, ?_⟩
  exact Effect.step (countersSave_only _) (Effect.step (elapse_only _ _) .refl (by decide)) (by decide)
theorem supplyMeasure_only a0 a1 (s : State) : Effect [.cn, .cp, .fd, .hp, .mm] s (supplyMeasure a0 a1 s) := by
  unfold supplyMeasure
  refine Effect.of_ite ?_ ?_
  · exact .refl
  · split
    split
    lift_lets -underBinder
    intro x8 x9
    have h10 : Effect [.cn, .cp, .fd, .hp, .mm] s x9 := by
      exact Effect.step (outRefresh_only _) (Effect.set_fd (by decide) .refl) (by decide)
    clear_value x9
    intro x11
    have h12 : Effect [.cn, .cp, .fd, .hp, .mm] s x11 := by
      refine Effect.of_ite ?_ ?_
      · exact Effect.step (report_only _ _ _ _ _) h10 (by decide)
      · exact h10
    clear_value x11
    refine Effect.of_ite ?_ ?_
    · exact Effect.step (report_only _ _ _ _ _) h12 (by decide)
    · exact h12
theorem writeApplied_only a0 (s : State) : Effect [.jn, .fd] s (writeApplied a0 s) := by
  unfold writeApplied
  split
  · exact .refl
  · lift_lets -underBinder
    intro x9 x10
    have h11 : Effect [.jn, .fd] s x10 := by
      exact Effect.set_fd (by decide) .refl
    clear_value x10
    intro x12 x13 x14
    refine Effect.of_ite ?_ ?_
    · exact Effect.step (finish_only _ _ _) h11 (by decide)
    · exact Effect.step (finish_only _ _ _) (Effect.step (outRefresh_only _) (Effect.set_fd (by decide) h11) (by decide)) (by decide)
theorem execIoWriteApplied_only a0 a1 (s : State) : ∃ t, execIoWriteApplied a0 a1 s = .next t ∧ Effect [.tm, .jn, .fd, .ag, .free] s t := by
  refine ⟨_, rfl, ?_⟩
  exact Effect.step (writeApplied_only _ _) (Effect.step (elapse_only _ _) .refl (by decide)) (by decide)
theorem linkRestored_only a0 (s : State) : Effect [.cn, .cp, .fd, .hp, .mm] s (linkRestored a0 s) := by
  unfold linkRestored
  lift_lets -underBinder
  intro x0
  clear_value x0
  split
  · exact .refl
  · lift_lets -underBinder
    intro x4 x5
    have h6 : Effect [.cn, .cp, .fd, .hp, .mm] s x5 := by
      refine Effect.of_ite ?_ ?_
      · exact Effect.set_fd (by decide) .refl
      · exact Effect.set_fd (by decide) .refl
    clear_value x5
    exact Effect.step (report_only _ _ _ _ _) h6 (by decide)
theorem execFieldLinkRestored_only a0 a1 (s : State) : ∃ t, execFieldLinkRestored a0 a1 s = .next t ∧ Effect [.tm, .cn, .cp, .fd, .hp, .ag, .mm, .free] s t := by
  refine ⟨_, rfl, ?_⟩
  exact Effect.step (linkRestored_only _ _) (Effect.step (elapse_only _ _) .refl (by decide)) (by decide)
theorem outFault_only a0 a1 (s : State) : Effect [.cn, .cp, .fd, .hp, .mm] s (outFault a0 a1 s) := by
  unfold outFault
  refine Effect.of_ite ?_ ?_
  · exact .refl
  · lift_lets -underBinder
    intro x0 x1
    have h2 : Effect [.cn, .cp, .fd, .hp, .mm] s x1 := by
      exact Effect.set_fd (by decide) .refl
    clear_value x1
    exact Effect.step (report_only _ _ _ _ _) (Effect.step (outRefresh_only _) h2 (by decide)) (by decide)
theorem execOutFaultSet_only a0 a1 a2 (s : State) : ∃ t, execOutFaultSet a0 a1 a2 s = .next t ∧ Effect [.tm, .cn, .cp, .fd, .hp, .ag, .mm, .free] s t := by
  refine ⟨_, rfl, ?_⟩
  exact Effect.step (outFault_only _ _ _) (Effect.step (elapse_only _ _) .refl (by decide)) (by decide)
theorem execFieldInputSample_only a0 a1 a2 (s : State) : ∃ t, execFieldInputSample a0 a1 a2 s = .next t ∧ Effect [.tm, .sf, .fd, .ag, .free] s t := by
  refine ⟨_, rfl, ?_⟩
  exact Effect.step (inputSample_only _ _ _) (Effect.step (elapse_only _ _) .refl (by decide)) (by decide)
theorem execFieldLinkLost_only a0 (s : State) : ∃ t, execFieldLinkLost a0 s = .next t ∧ Effect [.tm, .cn, .cp, .fd, .hp, .ag, .mm, .free] s t := by
  refine ⟨_, rfl, ?_⟩
  exact Effect.step (linkLostA_only _) (Effect.step (elapse_only _ _) .refl (by decide)) (by decide)
theorem execFieldSupplyMeasure_only a0 a1 a2 (s : State) : ∃ t, execFieldSupplyMeasure a0 a1 a2 s = .next t ∧ Effect [.tm, .cn, .cp, .fd, .hp, .ag, .mm, .free] s t := by
  refine ⟨_, rfl, ?_⟩
  exact Effect.step (supplyMeasure_only _ _ _) (Effect.step (elapse_only _ _) .refl (by decide)) (by decide)

end Sys2Proof.Machine
end

