-- ==== Sys2Proof/Laws/FrameMonitor.lean ====
section
/-!
SUPPORT. Sys2Proof/Laws/FrameMonitor.lean: what each operation of Machine/Monitor.lean may change, one lemma per operation.
-/

namespace Sys2Proof.Machine
set_option Elab.async false

theorem monReport_only a0 a1 a2 (s : State) : Effect [.cn, .cp, .hp, .mm] s (monReport a0 a1 a2 s) := by
  unfold monReport
  lift_lets -underBinder
  intro x0 x1
  have h2 : Effect [.cn, .cp, .hp, .mm] s x1 := by
    exact Effect.set_cp (by decide) .refl
  intro x3 x4
  refine Effect.of_ite ?_ ?_
  · exact Effect.step (file_only _ _) h2 (by decide)
  · refine Effect.of_ite ?_ ?_
    · exact Effect.set_cn (by decide) h2
    · exact Effect.set_cn (by decide) h2
theorem smFinish_only a0 a1 (s : State) : Effect [.jn, .sf] s (smFinish a0 a1 s) := by
  unfold smFinish
  split
  · exact Effect.step (finishAt_only _ _ _ _) (Effect.set_sf (by decide) .refl) (by decide)
  · exact .refl
theorem releaseEnd_only a0 (s : State) : Effect [.cn, .jn, .sf, .cp, .hp, .mm] s (releaseEnd a0 s) := by
  unfold releaseEnd
  lift_lets -underBinder
  intro x0
  have h1 : Effect [.cn, .jn, .sf, .cp, .hp, .mm] s x0 := by
    refine Effect.of_ite ?_ ?_
    · exact .refl
    · exact Effect.step (monReport_only _ _ _ _) .refl (by decide)
  clear_value x0
  split
  · exact Effect.step (smFinish_only _ _ _) h1 (by decide)
  · exact h1
theorem releaseStep_only a0 a1 (s : State) : Effect [.cn, .jn, .sf, .cp, .hp, .mm] s (releaseStep a0 a1 s) := by
  unfold releaseStep
  lift_lets -underBinder
  intro x0 x1 x2
  refine Effect.of_foldl _ ?_ (fun y3 a4 h5 => ?_)
  · exact Effect.set_sf (by decide) .refl
  · exact Effect.step (releaseEnd_only _ _) h5 (by decide)
theorem saEstimate_only a0 a1 (s : State) : Effect [.sf] s (saEstimate a0 a1 s) := by
  unfold saEstimate
  lift_lets -underBinder
  intro x0 x1 x2 x3 x4 x5 x6 x7 x8
  split
  lift_lets -underBinder
  intro x13 x14 x15 x16 x17
  exact Effect.step (updSafeAxis_only _ _ _) .refl (by decide)
theorem armedSto_only a0 (s : State) : Effect [.cn, .sf, .cp, .hp, .mm] s (armedSto a0 s) := by
  unfold armedSto
  refine Effect.of_ite ?_ ?_
  · exact .refl
  · lift_lets -underBinder
    intro x0
    have h1 : Effect [.cn, .sf, .cp, .hp, .mm] s x0 := by
      exact Effect.step (updGroup_only _ _ _) .refl (by decide)
    clear_value x0
    exact Effect.step (evidTrigger_only _ _ _ _) (Effect.step (monReport_only _ _ _ _) h1 (by decide)) (by decide)
theorem smSbc_only a0 a1 (s : State) : Effect [.cn, .sf, .cp, .hp, .mm] s (smSbc a0 a1 s) := by
  unfold smSbc
  lift_lets -underBinder
  intro x0 x1
  have h2 : Effect [.cn, .sf, .cp, .hp, .mm] s x1 := by
    exact Effect.step (updGroup_only _ _ _) .refl (by decide)
  clear_value x1
  refine Effect.of_foldl _ ?_ (fun y3 a4 h5 => ?_)
  · exact h2
  · refine Effect.of_ite ?_ ?_
    · exact Effect.step (monReport_only _ _ _ _) (Effect.step (updSout_only _ _ _) h5 (by decide)) (by decide)
    · exact h5
theorem smSto_only a0 a1 (s : State) : Effect [.cn, .jn, .mc, .sf, .cp, .hp, .mm] s (smSto a0 a1 s) := by
  unfold smSto
  lift_lets -underBinder
  intro x0
  have h1 : Effect [.cn, .jn, .mc, .sf, .cp, .hp, .mm] s x0 := by
    refine Effect.of_ite ?_ ?_
    · exact Effect.step (releaseStep_only _ _ _) (Effect.step (updGroup_only _ _ _) .refl (by decide)) (by decide)
    · exact .refl
  clear_value x0
  intro x2 x3
  have h4 : Effect [.cn, .jn, .mc, .sf, .cp, .hp, .mm] s x3 := by
    unfold x3
    clear_value x2
    split
    · exact Effect.step (armedSto_only _ _) (Effect.step (monReport_only _ _ _ _) (Effect.step (irq_only _ _) (Effect.step (identDemand_only _ _) (Effect.step (updGroup_only _ _ _) h1 (by decide)) (by decide)) (by decide)) (by decide)) (by decide)
    · exact Effect.step (armedSto_only _ _) (Effect.step (monReport_only _ _ _ _) (Effect.step (irq_only _ _) (Effect.step (identDemand_only _ _) (Effect.step (updGroup_only _ _ _) h1 (by decide)) (by decide)) (by decide)) (by decide)) (by decide)
    · exact Effect.step (armedSto_only _ _) (Effect.step (monReport_only _ _ _ _) (Effect.step (irq_only _ _) (Effect.step (identDemand_only _ _) (Effect.step (updGroup_only _ _ _) h1 (by decide)) (by decide)) (by decide)) (by decide)) (by decide)
    · exact h1
    · exact h1
  clear_value x3
  exact Effect.step (smSbc_only _ _ _) h4 (by decide)
theorem smSs1_only a0 a1 (s : State) : Effect [.cn, .jn, .mc, .sf, .cp, .hp, .mm] s (smSs1 a0 a1 s) := by
  unfold smSs1
  lift_lets -underBinder
  intro x0
  have h1 : Effect [.cn, .jn, .mc, .sf, .cp, .hp, .mm] s x0 := by
    refine Effect.of_ite ?_ ?_
    · exact Effect.step (releaseStep_only _ _ _) (Effect.step (updGroup_only _ _ _) .refl (by decide)) (by decide)
    · exact .refl
  clear_value x0
  refine Effect.of_ite ?_ ?_
  · exact h1
  · exact Effect.step (irq_only _ _) (Effect.step (identDemand_only _ _) (Effect.step (updGroup_only _ _ _) h1 (by decide)) (by decide)) (by decide)
theorem smAct_only a0 a1 (s : State) : Effect [.cn, .jn, .mc, .sf, .cp, .hp, .mm] s (smAct a0 a1 s) := by
  unfold smAct
  split
  · exact Effect.step (smSto_only _ _ _) .refl (by decide)
  · exact Effect.step (smSs1_only _ _ _) .refl (by decide)
theorem brakeStop_only a0 (s : State) : Effect [.cn, .jn, .ax, .sf, .cp, .hp, .mm] s (brakeStop a0 s) := by
  unfold brakeStop
  split
  · exact .refl
  · lift_lets -underBinder
    intro x5 x6
    have h7 : Effect [.cn, .jn, .ax, .sf, .cp, .hp, .mm] s x6 := by
      exact Effect.set_sf (by decide) .refl
    clear_value x6
    intro x8
    have h9 : Effect [.cn, .jn, .ax, .sf, .cp, .hp, .mm] s x8 := by
      exact Effect.step (updSout_only _ _ _) h7 (by decide)
    clear_value x8
    intro x10
    have h11 : Effect [.cn, .jn, .ax, .sf, .cp, .hp, .mm] s x10 := by
      exact Effect.step (updAxis_only _ _ _) h9 (by decide)
    clear_value x10
    exact Effect.step (evidEnd_only _ _) (Effect.step (smFinish_only _ _ _) h11 (by decide)) (by decide)
theorem smTake_only a0 a1 a2 a3 (s : State) : Effect [.cn, .jn, .mc, .ax, .sf, .cp, .hp, .mm] s (smTake a0 a1 a2 a3 s) := by
  unfold smTake
  lift_lets -underBinder
  intro x0 x1 x2
  have h3 : Effect [.cn, .jn, .mc, .ax, .sf, .cp, .hp, .mm] s x2 := by
    refine Effect.of_foldl _ ?_ (fun y4 a5 h6 => ?_)
    · exact .refl
    · exact Effect.step (updGroup_only _ _ _) h6 (by decide)
  clear_value x2
  intro x7
  have h8 : Effect [.cn, .jn, .mc, .ax, .sf, .cp, .hp, .mm] s x7 := by
    refine Effect.of_ite ?_ ?_
    · exact h3
    · exact Effect.step (evidTrigger_only _ _ _ _) (Effect.step (monReport_only _ _ _ _) h3 (by decide)) (by decide)
  clear_value x7
  intro x9
  have h10 : Effect [.cn, .jn, .mc, .ax, .sf, .cp, .hp, .mm] s x9 := by
    refine Effect.of_foldl _ ?_ (fun y11 a12 h13 => ?_)
    · exact h8
    · exact Effect.step (smAct_only _ _ _) h13 (by decide)
  clear_value x9
  refine Effect.of_ite ?_ ?_
  · exact h10
  · exact Effect.step (brakeStop_only _ _) h10 (by decide)
theorem slipTake_only a0 a1 a2 (s : State) : Effect [.cn, .jn, .mc, .ax, .sf, .cp, .hp, .mm] s (slipTake a0 a1 a2 s) := by
  unfold slipTake
  lift_lets -underBinder
  intro x0 x1
  have h2 : Effect [.cn, .jn, .mc, .ax, .sf, .cp, .hp, .mm] s x1 := by
    exact Effect.step (smTake_only _ _ _ _ _) .refl (by decide)
  clear_value x1
  refine Effect.of_ite ?_ ?_
  · exact h2
  · exact Effect.step (monReport_only _ _ _ _) h2 (by decide)
theorem pairEval_only a0 (s : State) : Effect [.cn, .jn, .mc, .ax, .sf, .cp, .hp, .mm] s (pairEval a0 s) := by
  unfold pairEval
  refine Effect.of_ite ?_ ?_
  · exact .refl
  · lift_lets -underBinder
    intro x0 x1 x2
    have h3 : Effect [.cn, .jn, .mc, .ax, .sf, .cp, .hp, .mm] s x2 := by
      refine Effect.of_ite ?_ ?_
      · exact Effect.step (smTake_only _ _ _ _ _) .refl (by decide)
      · exact .refl
    clear_value x2
    intro x4
    have h5 : Effect [.cn, .jn, .mc, .ax, .sf, .cp, .hp, .mm] s x4 := by
      refine Effect.of_ite ?_ ?_
      · exact Effect.step (smTake_only _ _ _ _ _) h3 (by decide)
      · exact h3
    clear_value x4
    refine Effect.of_ite ?_ ?_
    · exact Effect.step (smTake_only _ _ _ _ _) h5 (by decide)
    · exact h5
theorem discLatch_only a0 a1 a2 (s : State) : Effect [.cn, .sf, .cp, .hp, .mm] s (discLatch a0 a1 a2 s) := by
  unfold discLatch
  refine Effect.of_ite ?_ ?_
  · exact Effect.step (updPair_only _ _ _) .refl (by decide)
  · exact Effect.step (monReport_only _ _ _ _) (Effect.step (updPair_only _ _ _) .refl (by decide)) (by decide)
theorem discTiming_only a0 a1 a2 a3 (s : State) : Effect [.cn, .sf, .cp, .hp, .mm, .free] s (discTiming a0 a1 a2 a3 s) := by
  unfold discTiming
  lift_lets -underBinder
  intro x0 x1 x2 x3 x4
  refine Effect.of_ite ?_ ?_
  · exact Effect.step (discLatch_only _ _ _ _) .refl (by decide)
  · refine Effect.of_ite ?_ ?_
    · refine Effect.of_ite ?_ ?_
      · exact Effect.step (updPair_only _ _ _) .refl (by decide)
      · refine Effect.of_ite ?_ ?_
        · exact Effect.step (discLatch_only _ _ _ _) .refl (by decide)
        · split
          rename_i v8
          refine Effect.of_ite ?_ ?_
          · exact Effect.step (discLatch_only _ _ _ _) (Effect.step (take_only_of v8) .refl (by decide)) (by decide)
          · exact Effect.step (updPair_only _ _ _) (Effect.step (take_only_of v8) .refl (by decide)) (by decide)
    · refine Effect.of_ite ?_ ?_
      · exact Effect.step (discLatch_only _ _ _ _) .refl (by decide)
      · refine Effect.of_ite ?_ ?_
        · split
          rename_i v12
          refine Effect.of_ite ?_ ?_
          · exact Effect.step (discLatch_only _ _ _ _) (Effect.step (take_only_of v12) .refl (by decide)) (by decide)
          · exact Effect.step (take_only_of v12) .refl (by decide)
        · exact .refl
theorem discStart_only a0 a1 a2 (s : State) : Effect [.cn, .sf, .cp, .hp, .mm, .free] s (discStart a0 a1 a2 s) := by
  unfold discStart
  refine Effect.of_ite ?_ ?_
  · exact .refl
  · lift_lets -underBinder
    intro x0 x1 x2 x3 x4
    refine Effect.of_ite ?_ ?_
    · refine Effect.of_ite ?_ ?_
      · exact .refl
      · split
        rename_i v8
        refine Effect.of_ite ?_ ?_
        · exact Effect.step (discLatch_only _ _ _ _) (Effect.step (take_only_of v8) .refl (by decide)) (by decide)
        · exact Effect.step (take_only_of v8) .refl (by decide)
    · exact Effect.step (updPair_only _ _ _) .refl (by decide)
theorem discClean_only a0 (s : State) : Effect [.sf] s (discClean a0 s) := by
  unfold discClean
  lift_lets -underBinder
  intro x0 x1 x2
  refine Effect.of_ite ?_ ?_
  · exact .refl
  · refine Effect.of_ite ?_ ?_
    · exact Effect.step (updPair_only _ _ _) .refl (by decide)
    · refine Effect.of_ite ?_ ?_
      · refine Effect.of_ite ?_ ?_
        · exact .refl
        · exact Effect.step (updPair_only _ _ _) .refl (by decide)
      · refine Effect.of_ite ?_ ?_
        · exact Effect.step (updPair_only _ _ _) .refl (by decide)
        · exact .refl
theorem pairLatch_only a0 (s : State) : Effect [.cn, .sf, .cp, .hp, .mm, .free] s (pairLatch a0 s) := by
  unfold pairLatch
  refine Effect.of_ite ?_ ?_
  · exact Effect.step (updPair_only _ _ _) .refl (by decide)
  · lift_lets -underBinder
    intro x0 x1 x2 x3
    have h4 : Effect [.cn, .sf, .cp, .hp, .mm, .free] s x3 := by
      exact Effect.step (updPair_only _ _ _) .refl (by decide)
    clear_value x3
    intro x5
    have h6 : Effect [.cn, .sf, .cp, .hp, .mm, .free] s x5 := by
      unfold x5
      split
      · exact Effect.step (discTiming_only _ _ _ _ _) h4 (by decide)
      · exact Effect.step (discStart_only _ _ _ _) h4 (by decide)
    clear_value x5
    intro x14
    have h15 : Effect [.cn, .sf, .cp, .hp, .mm, .free] s x14 := by
      unfold x14
      split
      · refine Effect.of_ite ?_ ?_
        · exact Effect.step (discTiming_only _ _ _ _ _) h6 (by decide)
        · exact h6
      · exact h6
    clear_value x14
    intro x23
    have h24 : Effect [.cn, .sf, .cp, .hp, .mm, .free] s x23 := by
      exact Effect.step (discClean_only _ _) h15 (by decide)
    clear_value x23
    exact Effect.step (updPair_only _ _ _) h24 (by decide)
theorem slsStep_only a0 a1 (s : State) : Effect [.sf] s (slsStep a0 a1 s) := by
  unfold slsStep
  refine Effect.of_ite ?_ ?_
  · exact Effect.step (updSafeAxis_only _ _ _) .refl (by decide)
  · lift_lets -underBinder
    intro x0 x1
    exact Effect.step (updSafeAxis_only _ _ _) .refl (by decide)
theorem saSls_only a0 (s : State) : Effect [.cn, .jn, .mc, .ax, .sf, .cp, .hp, .mm] s (saSls a0 s) := by
  unfold saSls
  lift_lets -underBinder
  intro x0
  have h1 : Effect [.cn, .jn, .mc, .ax, .sf, .cp, .hp, .mm] s x0 := by
    refine Effect.of_foldl _ ?_ (fun y2 a3 h4 => ?_)
    · exact .refl
    · exact Effect.step (slsStep_only _ _ _) h4 (by decide)
  clear_value x0
  intro x5 x6
  refine Effect.of_ite ?_ ?_
  · exact Effect.step (smTake_only _ _ _ _ _) h1 (by decide)
  · exact h1
theorem saSos_only a0 (s : State) : Effect [.cn, .jn, .mc, .ax, .sf, .cp, .hp, .mm] s (saSos a0 s) := by
  unfold saSos
  lift_lets -underBinder
  intro x0 x1 x2 x3 x4
  have h5 : Effect [.cn, .jn, .mc, .ax, .sf, .cp, .hp, .mm] s x4 := by
    exact Effect.step (updSafeAxis_only _ _ _) .refl (by decide)
  clear_value x4
  intro x6
  have h7 : Effect [.cn, .jn, .mc, .ax, .sf, .cp, .hp, .mm] s x6 := by
    exact Effect.step (smTake_only _ _ _ _ _) h5 (by decide)
  clear_value x6
  intro x8
  refine Effect.of_ite ?_ ?_
  · exact Effect.step (updSafeAxis_only _ _ _) .refl (by decide)
  · refine Effect.of_ite ?_ ?_
    · exact h5
    · exact Effect.step (monReport_only _ _ _ _) (Effect.step (updSafeAxis_only _ _ _) h7 (by decide)) (by decide)
theorem saRead_only a0 a1 (s : State) : Effect [.sf] s (saRead a0 a1 s) := by
  unfold saRead
  lift_lets -underBinder
  intro x0 x1 x2 x3 x4 x5 x6
  have h7 : Effect [.sf] s x6 := by
    exact Effect.step (updSafeAxis_only _ _ _) .refl (by decide)
  clear_value x6
  split
  · exact h7
  · lift_lets -underBinder
    intro x13
    exact Effect.step (updSafeAxis_only _ _ _) h7 (by decide)
theorem saSdi_only a0 (s : State) : Effect [.cn, .jn, .mc, .ax, .sf, .cp, .hp, .mm] s (saSdi a0 s) := by
  unfold saSdi
  lift_lets -underBinder
  intro x0 x1 x2 x3 x4
  have h5 : Effect [.cn, .jn, .mc, .ax, .sf, .cp, .hp, .mm] s x4 := by
    exact Effect.step (updSafeAxis_only _ _ _) .refl (by decide)
  clear_value x4
  intro x6
  refine Effect.of_ite ?_ ?_
  · exact Effect.step (smTake_only _ _ _ _ _) h5 (by decide)
  · exact h5
theorem saSpeed_only a0 a1 a2 (s : State) : Effect [.cn, .jn, .mc, .ax, .sf, .cp, .hp, .mm] s (saSpeed a0 a1 a2 s) := by
  unfold saSpeed
  lift_lets -underBinder
  intro x0
  have h1 : Effect [.cn, .jn, .mc, .ax, .sf, .cp, .hp, .mm] s x0 := by
    refine Effect.of_ite ?_ ?_
    · exact Effect.step (smTake_only _ _ _ _ _) .refl (by decide)
    · exact .refl
  clear_value x0
  refine Effect.of_ite ?_ ?_
  · exact Effect.step (smTake_only _ _ _ _ _) h1 (by decide)
  · exact h1
theorem saSlip_only a0 (s : State) : Effect [.cn, .jn, .mc, .ax, .sf, .cp, .hp, .mm] s (saSlip a0 s) := by
  unfold saSlip
  split
  · exact .refl
  · lift_lets -underBinder
    intro x5 x6 x7 x8 x9 x10
    have h11 : Effect [.cn, .jn, .mc, .ax, .sf, .cp, .hp, .mm] s x10 := by
      exact Effect.step (updSafeAxis_only _ _ _) .refl (by decide)
    clear_value x10
    intro x12 x13
    have h14 : Effect [.cn, .jn, .mc, .ax, .sf, .cp, .hp, .mm] s x13 := by
      refine Effect.of_ite ?_ ?_
      · exact Effect.step (slipTake_only _ _ _ _) h11 (by decide)
      · exact h11
    clear_value x13
    intro x15 x16 x17 x18
    have h19 : Effect [.cn, .jn, .mc, .ax, .sf, .cp, .hp, .mm] s x18 := by
      exact Effect.step (updSafeAxis_only _ _ _) h14 (by decide)
    clear_value x18
    refine Effect.of_ite ?_ ?_
    · exact Effect.step (updSafeAxis_only _ _ _) h14 (by decide)
    · refine Effect.of_ite ?_ ?_
      · exact h19
      · exact Effect.step (slipTake_only _ _ _ _) h19 (by decide)
theorem saPlaus_only a0 a1 (s : State) : Effect [.cn, .jn, .mc, .ax, .sf, .cp, .hp, .mm] s (saPlaus a0 a1 s) := by
  unfold saPlaus
  lift_lets -underBinder
  intro x0
  split
  · exact Effect.step (updSafeAxis_only _ _ _) .refl (by decide)
  · refine Effect.of_ite ?_ ?_
    · exact .refl
    · lift_lets -underBinder
      intro x6 x7
      have h8 : Effect [.cn, .jn, .mc, .ax, .sf, .cp, .hp, .mm] s x7 := by
        exact Effect.step (updSafeAxis_only _ _ _) .refl (by decide)
      clear_value x7
      intro x9
      have h10 : Effect [.cn, .jn, .mc, .ax, .sf, .cp, .hp, .mm] s x9 := by
        exact Effect.step (saEstimate_only _ _ _) .refl (by decide)
      clear_value x9
      intro x11 x12 x13 x14 x15 x16
      have h17 : Effect [.cn, .jn, .mc, .ax, .sf, .cp, .hp, .mm] s x16 := by
        exact Effect.step (updSafeAxis_only _ _ _) h10 (by decide)
      clear_value x16
      intro x18 x19
      have h20 : Effect [.cn, .jn, .mc, .ax, .sf, .cp, .hp, .mm] s x19 := by
        exact Effect.step (smTake_only _ _ _ _ _) h17 (by decide)
      clear_value x19
      refine Effect.of_ite ?_ ?_
      · refine Effect.of_ite ?_ ?_
        · exact Effect.step (smTake_only _ _ _ _ _) h8 (by decide)
        · exact h8
      · refine Effect.of_ite ?_ ?_
        · exact Effect.step (updSafeAxis_only _ _ _) h10 (by decide)
        · refine Effect.of_ite ?_ ?_
          · exact h17
          · refine Effect.of_ite ?_ ?_
            · exact h20
            · exact Effect.step (monReport_only _ _ _ _) h20 (by decide)
theorem groupSs1_only a0 (s : State) : Effect [.cn, .jn, .mc, .ax, .sf, .cp, .hp, .mm] s (groupSs1 a0 s) := by
  unfold groupSs1
  split
  · exact .refl
  · lift_lets -underBinder
    intro x7 x8 x9 x10 x11
    refine Effect.of_ite ?_ ?_
    · exact Effect.step (smTake_only _ _ _ _ _) .refl (by decide)
    · refine Effect.of_ite ?_ ?_
      · exact Effect.step (smSto_only _ _ _) .refl (by decide)
      · exact .refl
theorem saEval_only a0 a1 a2 (s : State) : Effect [.cn, .jn, .mc, .ax, .sf, .cp, .hp, .mm] s (saEval a0 a1 a2 s) := by
  unfold saEval
  split
  · exact .refl
  · lift_lets -underBinder
    intro x5
    have h6 : Effect [.cn, .jn, .mc, .ax, .sf, .cp, .hp, .mm] s x5 := by
      exact Effect.step (saSos_only _ _) (Effect.step (saRead_only _ _ _) .refl (by decide)) (by decide)
    clear_value x5
    intro x7
    have h8 : Effect [.cn, .jn, .mc, .ax, .sf, .cp, .hp, .mm] s x7 := by
      exact Effect.step (saSdi_only _ _) (Effect.step (saSls_only _ _) (Effect.step (saSpeed_only _ _ _ _) h6 (by decide)) (by decide)) (by decide)
    clear_value x7
    intro x9
    have h10 : Effect [.cn, .jn, .mc, .ax, .sf, .cp, .hp, .mm] s x9 := by
      exact Effect.step (saSlip_only _ _) (Effect.step (saPlaus_only _ _ _) h8 (by decide)) (by decide)
    clear_value x9
    refine Effect.of_ite ?_ ?_
    · exact h6
    · refine Effect.of_foldl _ ?_ (fun y11 a12 h13 => ?_)
      · exact h10
      · refine Effect.of_ite ?_ ?_
        · exact Effect.step (groupSs1_only _ _) h13 (by decide)
        · exact h13
theorem monEnter_only (s : State) : Effect [.cn] s (monEnter s) := by
  unfold monEnter
  lift_lets -underBinder
  intro x0 x1 x2
  exact Effect.set_cn (by decide) .refl

end Sys2Proof.Machine
end

