-- ==== Sys2Proof/Laws/FrameParams.lean ====
section
/-!
SUPPORT. Sys2Proof/Laws/FrameParams.lean: what each operation of Machine/Params.lean may change, one lemma per operation.
-/

namespace Sys2Proof.Machine
set_option Elab.async false

theorem cmdGetParam_only a0 (s : State) : Effect [] s (cmdGetParam a0 s).2 := by
  unfold cmdGetParam
  lift_lets -underBinder
  intro x0 x1
  refine Effect.of_ite2 ?_ ?_
  · dsimp only
    exact .refl
  · split
    · dsimp only
      exact .refl
    · lift_lets -underBinder
      intro x7
      dsimp only
      exact .refl
theorem cmdGetParam_only_of {a0} {s : State} {r t} (h : cmdGetParam a0 s = (r, t)) : Effect [] s t := by
  have := cmdGetParam_only a0 s
  rwa [h] at this
theorem cmdGetParamInfo_only a0 (s : State) : Effect [] s (cmdGetParamInfo a0 s).2 := by
  unfold cmdGetParamInfo
  lift_lets -underBinder
  intro x0
  split
  · dsimp only
    exact .refl
  · dsimp only
    exact .refl
theorem cmdGetParamInfo_only_of {a0} {s : State} {r t} (h : cmdGetParamInfo a0 s = (r, t)) : Effect [] s t := by
  have := cmdGetParamInfo_only a0 s
  rwa [h] at this
theorem over_only (s : State) a1 : Effect [.pm] s (State.over s a1) := by
  unfold State.over
  exact Effect.set_pm (by decide) .refl

end Sys2Proof.Machine
end

