-- ==== Sys2Proof/Laws/FrameMonitorRun.lean ====
section
/-!
SUPPORT. Sys2Proof/Laws/FrameMonitorRun.lean: what each operation of Machine/MonitorRun.lean may change, one lemma per operation.
-/

namespace Sys2Proof.Machine
set_option Elab.async false

theorem smRestart_only (s : State) : Effect [.st, .mc, .sf, .fd] s (smRestart s) := by
  unfold smRestart
  lift_lets -underBinder
  intro x0
  have h1 : Effect [.st, .mc, .sf, .fd] s x0 := by
    refine Effect.of_foldl _ ?_ (fun y2 a3 h4 => ?_)
    · exact .refl
    · exact Effect.step (disableGroup_only _ _) (Effect.step (updGroup_only _ _ _) h4 (by decide)) (by decide)
  clear_value x0
  intro x5 x6
  exact Effect.of_mk (x := x0) h1
theorem cmdSafety_only a0 (s : State) : Effect [.sf] s (cmdSafety a0 s).2 := by
  unfold cmdSafety
  dsimp only
  exact Effect.set_sf (by decide) .refl
theorem cmdSafety_only_of {a0} {s : State} {r t} (h : cmdSafety a0 s = (r, t)) : Effect [.sf] s t := by
  have := cmdSafety_only a0 s
  rwa [h] at this
theorem groupOut_only a0 (s : State) : Effect [.cn, .jn, .st, .mc, .sf, .cp, .hp, .mm] s (groupOut a0 s) := by
  unfold groupOut
  lift_lets -underBinder
  intro x0 x1 x2
  have h3 : Effect [.cn, .jn, .st, .mc, .sf, .cp, .hp, .mm] s x2 := by
    exact Effect.step (updGroup_only _ _ _) .refl (by decide)
  clear_value x2
  intro x4
  have h5 : Effect [.cn, .jn, .st, .mc, .sf, .cp, .hp, .mm] s x4 := by
    refine Effect.of_foldl _ ?_ (fun y6 a7 h8 => ?_)
    · exact h3
    · refine Effect.of_ite ?_ ?_
      · exact Effect.step (updSout_only _ _ _) h8 (by decide)
      · exact h8
  clear_value x4
  intro x9
  have h10 : Effect [.cn, .jn, .st, .mc, .sf, .cp, .hp, .mm] s x9 := by
    exact Effect.step (updGroup_only _ _ _) .refl (by decide)
  clear_value x9
  refine Effect.of_ite ?_ ?_
  · refine Effect.of_ite ?_ ?_
    · exact Effect.step (updGroup_only _ _ _) .refl (by decide)
    · exact Effect.step (releaseStep_only _ _ _) h5 (by decide)
  · refine Effect.of_ite ?_ ?_
    · exact Effect.step (updGroup_only _ _ _) .refl (by decide)
    · refine Effect.of_ite ?_ ?_
      · exact h10
      · exact Effect.step (disableGroup_only _ _) h10 (by decide)
theorem soutOut_only a0 (s : State) : Effect [.sf, .fd] s (soutOut a0 s) := by
  unfold soutOut
  lift_lets -underBinder
  intro x0
  have h1 : Effect [.sf, .fd] s x0 := by
    refine Effect.of_ite ?_ ?_
    · exact Effect.step (updSout_only _ _ _) .refl (by decide)
    · exact .refl
  clear_value x0
  intro x2 x3 x4 x5
  have h6 : Effect [.sf, .fd] s x5 := by
    exact Effect.step (updSout_only _ _ _) h1 (by decide)
  clear_value x5
  intro x7
  refine Effect.of_ite ?_ ?_
  · exact Effect.set_fd (by decide) h6
  · exact h6
theorem smOutputs_only (s : State) : Effect [.cn, .jn, .st, .mc, .sf, .cp, .fd, .hp, .mm] s (smOutputs s) := by
  unfold smOutputs
  lift_lets -underBinder
  intro x0
  have h1 : Effect [.cn, .jn, .st, .mc, .sf, .cp, .fd, .hp, .mm] s x0 := by
    refine Effect.of_foldl _ ?_ (fun y2 a3 h4 => ?_)
    · exact .refl
    · exact Effect.step (groupOut_only _ _) h4 (by decide)
  clear_value x0
  refine Effect.of_foldl _ ?_ (fun y5 a6 h7 => ?_)
  · exact h1
  · exact Effect.step (soutOut_only _ _) h7 (by decide)
theorem latentBegin_only a0 (s : State) : Effect [.sf] s (latentBegin a0 s) := by
  unfold latentBegin
  exact Effect.step (updGroup_only _ _ _) .refl (by decide)
theorem latentDueRun_only a0 (s : State) : Effect [.sf] s (latentDueRun a0 s) := by
  unfold latentDueRun
  refine Effect.of_ite ?_ ?_
  · exact .refl
  · exact Effect.step (latentBegin_only _ _) .refl (by decide)
theorem execLatentTestDue_only a0 a1 (s : State) : ∃ t, execLatentTestDue a0 a1 s = .next t ∧ Effect [.tm, .sf, .ag, .free] s t := by
  refine ⟨_, rfl, ?_⟩
  exact Effect.step (latentDueRun_only _ _) (Effect.step (elapse_only _ _) .refl (by decide)) (by decide)
theorem smWrite_only a0 a1 (s : State) : Effect [.jn, .sf] s (smWrite a0 a1 s) := by
  unfold smWrite
  split
  · exact Effect.step (smFinish_only _ _ _) .refl (by decide)
  · exact Effect.step (smFinish_only _ _ _) (Effect.set_sf (by decide) .refl) (by decide)
theorem execSbcOutputOff_only a0 a1 (s : State) : ∃ t, execSbcOutputOff a0 a1 s = .next t ∧ Effect [.tm, .sf, .ag, .free] s t := by
  refine ⟨_, rfl, ?_⟩
  dsimp only
  refine Effect.of_ite ?_ ?_
  · exact Effect.step (updSout_only _ _ _) (Effect.step (elapse_only _ _) .refl (by decide)) (by decide)
  · exact Effect.step (elapse_only _ _) .refl (by decide)
theorem slipDue_only a0 (s : State) : Effect [.cn, .jn, .mc, .ax, .sf, .cp, .hp, .mm] s (slipDue a0 s) := by
  unfold slipDue
  split
  · exact .refl
  · refine Effect.of_ite ?_ ?_
    · exact .refl
    · exact Effect.step (slipTake_only _ _ _ _) .refl (by decide)
theorem outTestFault_only a0 (s : State) : Effect [.cn, .jn, .mc, .ax, .sf, .cp, .hp, .mm] s (outTestFault a0 s) := by
  unfold outTestFault
  lift_lets -underBinder
  intro x0 x1
  have h2 : Effect [.cn, .jn, .mc, .ax, .sf, .cp, .hp, .mm] s x1 := by
    refine Effect.of_ite ?_ ?_
    · exact .refl
    · exact Effect.step (monReport_only _ _ _ _) (Effect.step (updSout_only _ _ _) .refl (by decide)) (by decide)
  clear_value x1
  exact Effect.step (smTake_only _ _ _ _ _) h2 (by decide)
theorem soutCheck_only a0 a1 (s : State) : Effect [.cn, .jn, .mc, .ax, .sf, .cp, .hp, .mm] s (soutCheck a0 a1 s) := by
  unfold soutCheck
  lift_lets -underBinder
  intro x0
  have h1 : Effect [.cn, .jn, .mc, .ax, .sf, .cp, .hp, .mm] s x0 := by
    exact Effect.step (updSout_only _ _ _) .refl (by decide)
  clear_value x0
  intro x2 x3 x4
  have h5 : Effect [.cn, .jn, .mc, .ax, .sf, .cp, .hp, .mm] s x4 := by
    exact Effect.step (updSout_only _ _ _) h1 (by decide)
  clear_value x4
  intro x6
  refine Effect.of_ite ?_ ?_
  · exact h1
  · refine Effect.of_ite ?_ ?_
    · refine Effect.of_ite ?_ ?_
      · exact Effect.step (updSout_only _ _ _) h5 (by decide)
      · exact Effect.step (smTake_only _ _ _ _ _) h5 (by decide)
    · refine Effect.of_ite ?_ ?_
      · exact Effect.step (outTestFault_only _ _) h5 (by decide)
      · exact h5
theorem smNow_only {ps : List Part} (f : State → State) (hf : ∀ s, Effect ps s (f s)) (hp : Part.sf ∈ ps) (s : State) :
    Effect ps s (smNow f s) := by
  have h : Effect ps s (f { s with sf := { s.sf with last := some s.tm.now, lastNs := s.busNs } }) :=
    (hf _).step (Effect.of_mk (x := s) .refl (h_sf := .inl hp)) fun _ h => h
  exact Effect.of_mk (x := f { s with sf := { s.sf with last := some s.tm.now, lastNs := s.busNs } }) h (h_sf := .inl hp)
theorem smCause_only a0 (s : State) : Effect [.cn, .jn, .mc, .ax, .sf, .cp, .hp, .mm] s (smCause a0 s) := by
  unfold smCause
  refine Effect.of_ite ?_ ?_
  · exact .refl
  · refine Effect.step (smNow_only (ps := [.cn, .jn, .mc, .ax, .sf, .cp, .hp, .mm]) _ (fun s0 => ?_) (by decide) _) ?_ (by decide)
    · exact Effect.step (smTake_only _ _ _ _ _) .refl (by decide)
    · exact .refl
theorem execClockCrossCheckFail_only a0 (s : State) : ∃ t, execClockCrossCheckFail a0 s = .next t ∧ Effect [.tm, .cn, .jn, .mc, .ax, .sf, .cp, .hp, .ag, .mm, .free] s t := by
  refine ⟨_, rfl, ?_⟩
  exact Effect.step (smCause_only _ _) (Effect.step (elapse_only _ _) .refl (by decide)) (by decide)
theorem smEvent_only {ps : List Part} (f : State → State) (hf : ∀ s, Effect ps s (f s)) (hp : Part.sf ∈ ps) (s : State) :
    Effect ps s (smEvent f s) :=
  Effect.of_ite Effect.refl (smNow_only f hf hp s)
theorem slipAnchor_only a0 (s : State) : Effect [.sf] s (slipAnchor a0 s) := by
  unfold slipAnchor
  refine Effect.of_ite ?_ ?_
  · exact .refl
  · exact Effect.step (updSafeAxis_only _ _ _) .refl (by decide)
theorem execSlipAnchor_only a0 a1 (s : State) : ∃ t, execSlipAnchor a0 a1 s = .next t ∧ Effect [.tm, .sf, .ag, .free] s t := by
  refine ⟨_, rfl, ?_⟩
  refine Effect.step (smEvent_only (ps := [.tm, .sf, .ag, .free]) _ (fun s0 => ?_) (by decide) _) ?_ (by decide)
  · exact Effect.step (slipAnchor_only _ _) .refl (by decide)
  · exact Effect.step (elapse_only _ _) .refl (by decide)
theorem resetConditions_only a0 (s : State) : Effect [.sf] s (resetConditions a0 s) := by
  unfold resetConditions
  lift_lets -underBinder
  intro x0
  have h1 : Effect [.sf] s x0 := by
    refine Effect.of_foldl _ ?_ (fun y2 a3 h4 => ?_)
    · exact .refl
    · refine Effect.of_ite ?_ ?_
      · exact Effect.step (updPair_only _ _ _) h4 (by decide)
      · exact h4
  clear_value x0
  intro x5
  have h6 : Effect [.sf] s x5 := by
    refine Effect.of_foldl _ ?_ (fun y7 a8 h9 => ?_)
    · exact h1
    · exact Effect.step (updGroup_only _ _ _) h9 (by decide)
  clear_value x5
  intro x10
  have h11 : Effect [.sf] s x10 := by
    refine Effect.of_foldl _ ?_ (fun y12 a13 h14 => ?_)
    · exact h6
    · refine Effect.of_ite ?_ ?_
      · exact h14
      · lift_lets -underBinder
        intro x15 x16
        refine Effect.of_foldl _ ?_ (fun y17 a18 h19 => ?_)
        · exact h14
        · exact Effect.step (updGroup_only _ _ _) h19 (by decide)
  clear_value x10
  refine Effect.of_foldl _ ?_ (fun y20 a21 h22 => ?_)
  · exact h11
  · lift_lets -underBinder
    intro x23 x24
    have h25 : Effect [.sf] s x24 := by
      exact Effect.step (updSafeAxis_only _ _ _) h22 (by decide)
    clear_value x24
    split
    · refine Effect.of_ite ?_ ?_
      · refine Effect.of_foldl _ ?_ (fun y29 a30 h31 => ?_)
        · exact h25
        · exact Effect.step (updGroup_only _ _ _) h31 (by decide)
      · exact h25
    · exact h25
theorem resetGroup_only a0 a1 (s : State) : Effect [.sf] s (resetGroup a0 a1 s).2 := by
  unfold resetGroup
  lift_lets -underBinder
  intro x0 x1
  split
  · refine Effect.of_ite2 ?_ ?_
    · dsimp only
      exact Effect.step (updGroup_only _ _ _) .refl (by decide)
    · dsimp only
      exact .refl
  · refine Effect.of_ite2 ?_ ?_
    · dsimp only
      exact Effect.step (updGroup_only _ _ _) .refl (by decide)
    · dsimp only
      exact .refl
  · refine Effect.of_ite2 ?_ ?_
    · dsimp only
      exact .refl
    · refine Effect.of_ite2 ?_ ?_
      · dsimp only
        exact .refl
      · dsimp only
        exact Effect.step (updGroup_only _ _ _) .refl (by decide)
  · dsimp only
    exact .refl
  · dsimp only
    exact .refl
theorem resetGroup_only_of {a0} {a1} {s : State} {r t} (h : resetGroup a0 a1 s = (r, t)) : Effect [.sf] s t := by
  have := resetGroup_only a0 a1 s
  rwa [h] at this
theorem smReset_only a0 a1 (s : State) : Effect [.jn, .sf] s (smReset a0 a1 s) := by
  unfold smReset
  lift_lets -underBinder
  intro x0 x1 x2
  have h3 : Effect [.jn, .sf] s x2 := by
    exact Effect.step (resetConditions_only _ _) .refl (by decide)
  clear_value x2
  intro x4
  have h5 : Effect [.jn, .sf] s x4 := by
    refine Effect.of_foldl _ ?_ (fun y6 a7 h8 => ?_)
    · exact h3
    · exact Effect.step (updGroup_only _ _ _) h8 (by decide)
  clear_value x4
  refine Effect.of_ite ?_ ?_
  · dsimp only [x0]
    split
    · exact Effect.step (smFinish_only _ _ _) .refl (by decide)
    · exact .refl
  · refine Effect.of_ite ?_ ?_
    · dsimp only [x0]
      split
      · exact Effect.step (smFinish_only _ _ _) .refl (by decide)
      · exact .refl
    · split
      rename_i v19
      lift_lets -underBinder
      intro x20 x21 x22
      have h23 : Effect [.jn, .sf] s x22 := by
        refine Effect.of_ite ?_ ?_
        · have he24 := congrArg Prod.snd v19
          dsimp only at he24
          rw [← he24]
          refine Effect.of_foldl2 _ ?_ (fun y25 a26 h27 => ?_)
          · dsimp only
            exact h5
          · exact Effect.step (resetGroup_only _ _ _) h27 (by decide)
        · refine Effect.set_sf (by decide) ?_
          have he28 := congrArg Prod.snd v19
          dsimp only at he28
          rw [← he28]
          refine Effect.of_foldl2 _ ?_ (fun y29 a30 h31 => ?_)
          · dsimp only
            exact h5
          · exact Effect.step (resetGroup_only _ _ _) h31 (by decide)
      clear_value x22
      refine Effect.of_ite ?_ ?_
      · dsimp only [x0]
        split
        · exact Effect.step (smFinish_only _ _ _) h23 (by decide)
        · exact h23
      · refine Effect.of_ite ?_ ?_
        · dsimp only [x0]
          split
          · exact Effect.step (smFinish_only _ _ _) h23 (by decide)
          · exact h23
        · exact h23
theorem smBegin_only a0 (s : State) : Effect [.jn, .sf] s (smBegin a0 s) := by
  unfold smBegin
  lift_lets -underBinder
  intro x0 x1
  refine Effect.of_ite ?_ ?_
  · exact Effect.step (smFinish_only _ _ _) .refl (by decide)
  · refine Effect.of_ite ?_ ?_
    · exact Effect.step (smFinish_only _ _ _) .refl (by decide)
    · exact Effect.step (smFinish_only _ _ _) (Effect.set_sf (by decide) .refl) (by decide)
theorem smLatent_only a0 (s : State) : Effect [.jn, .sf] s (smLatent a0 s) := by
  unfold smLatent
  lift_lets -underBinder
  intro x0 x1
  refine Effect.of_ite ?_ ?_
  · exact Effect.step (smFinish_only _ _ _) .refl (by decide)
  · refine Effect.of_foldl _ ?_ (fun y2 a3 h4 => ?_)
    · exact Effect.set_sf (by decide) .refl
    · exact Effect.step (latentBegin_only _ _) h4 (by decide)
theorem brakeNext_only (s : State) : Effect [.cn, .jn, .sf, .cp, .hp, .mm] s (brakeNext s) := by
  unfold brakeNext
  split
  · exact .refl
  · split
    · exact Effect.step (smFinish_only _ _ _) (Effect.set_sf (by decide) .refl) (by decide)
    · lift_lets -underBinder
      intro x11 x12
      have h13 : Effect [.cn, .jn, .sf, .cp, .hp, .mm] s x12 := by
        exact Effect.set_sf (by decide) .refl
      clear_value x12
      exact Effect.step (evidTrigger_only _ _ _ _) (Effect.step (updSout_only _ _ _) h13 (by decide)) (by decide)
theorem smBrake_only a0 (s : State) : Effect [.cn, .jn, .sf, .cp, .hp, .mm] s (smBrake a0 s) := by
  unfold smBrake
  lift_lets -underBinder
  intro x0 x1 x2 x3
  refine Effect.of_ite ?_ ?_
  · exact Effect.step (smFinish_only _ _ _) .refl (by decide)
  · split
    · refine Effect.of_ite ?_ ?_
      · exact Effect.step (smFinish_only _ _ _) .refl (by decide)
      · lift_lets -underBinder
        intro x10 x11
        exact Effect.step (brakeNext_only _) (Effect.set_sf (by decide) .refl) (by decide)
    · exact Effect.step (smFinish_only _ _ _) .refl (by decide)
theorem smValidate_only a0 a1 (s : State) : Effect [.jn, .sf] s (smValidate a0 a1 s) := by
  unfold smValidate
  lift_lets -underBinder
  intro x0
  split
  · exact Effect.step (smFinish_only _ _ _) .refl (by decide)
  · lift_lets -underBinder
    intro x8 x9
    exact Effect.step (smFinish_only _ _ _) (Effect.set_sf (by decide) .refl) (by decide)
theorem safetyLoad_only a0 (s : State) : Effect [.pm] s (safetyLoad a0 s) := by
  unfold safetyLoad
  lift_lets -underBinder
  intro x0 x1
  exact Effect.set_pm (by decide) .refl
theorem smActivate_only a0 a1 (s : State) : Effect [.cn, .jn, .pm, .st, .mc, .sf, .cp, .fd, .hp, .mm] s (smActivate a0 a1 s) := by
  unfold smActivate
  lift_lets -underBinder
  intro x0 x1 x2
  have h3 : Effect [.cn, .jn, .pm, .st, .mc, .sf, .cp, .fd, .hp, .mm] s x2 := by
    exact Effect.step (monReport_only _ _ _ _) (Effect.step (smFinish_only _ _ _) .refl (by decide)) (by decide)
  clear_value x2
  intro x4
  refine Effect.of_ite ?_ ?_
  · exact Effect.step (smFinish_only _ _ _) .refl (by decide)
  · refine Effect.of_ite ?_ ?_
    · exact Effect.step (smFinish_only _ _ _) .refl (by decide)
    · exact Effect.step (smRestart_only _) (Effect.step (safetyLoad_only _ _) (Effect.set_sf (by decide) h3) (by decide)) (by decide)
theorem smExec_only a0 (s : State) : Effect [.cn, .jn, .pm, .st, .mc, .sf, .cp, .fd, .hp, .mm] s (smExec a0 s) := by
  unfold smExec
  lift_lets -underBinder
  intro x0 x1
  have h2 : Effect [.cn, .jn, .pm, .st, .mc, .sf, .cp, .fd, .hp, .mm] s x1 := by
    exact Effect.set_sf (by decide) .refl
  clear_value x1
  split
  · exact Effect.step (smFinish_only _ _ _) h2 (by decide)
  · exact Effect.step (smFinish_only _ _ _) h2 (by decide)
  · split
    · exact Effect.step (smReset_only _ _ _) h2 (by decide)
    · exact Effect.step (smBegin_only _ _) h2 (by decide)
    · split
      · exact Effect.step (smLatent_only _ _) h2 (by decide)
      · exact Effect.step (smBrake_only _ _) h2 (by decide)
      · exact Effect.step (smFinish_only _ _ _) h2 (by decide)
    · split
      · exact Effect.step (smFinish_only _ _ _) h2 (by decide)
      · lift_lets -underBinder
        intro x31 x32 x33
        have h34 : Effect [.cn, .jn, .pm, .st, .mc, .sf, .cp, .fd, .hp, .mm] s x33 := by
          exact Effect.set_sf (by decide) h2
        clear_value x33
        refine Effect.of_ite ?_ ?_
        · exact Effect.step (smWrite_only _ _ _) h34 (by decide)
        · refine Effect.of_ite ?_ ?_
          · exact Effect.step (smValidate_only _ _ _) h34 (by decide)
          · exact Effect.step (smActivate_only _ _ _) h34 (by decide)
  · split
    · exact Effect.step (smReset_only _ _ _) h2 (by decide)
    · exact Effect.step (smBegin_only _ _) h2 (by decide)
    · split
      · exact Effect.step (smLatent_only _ _) h2 (by decide)
      · exact Effect.step (smBrake_only _ _) h2 (by decide)
      · exact Effect.step (smFinish_only _ _ _) h2 (by decide)
    · split
      · exact Effect.step (smFinish_only _ _ _) h2 (by decide)
      · lift_lets -underBinder
        intro x59 x60 x61
        have h62 : Effect [.cn, .jn, .pm, .st, .mc, .sf, .cp, .fd, .hp, .mm] s x61 := by
          exact Effect.set_sf (by decide) h2
        clear_value x61
        refine Effect.of_ite ?_ ?_
        · exact Effect.step (smWrite_only _ _ _) h62 (by decide)
        · refine Effect.of_ite ?_ ?_
          · exact Effect.step (smValidate_only _ _ _) h62 (by decide)
          · exact Effect.step (smActivate_only _ _ _) h62 (by decide)
theorem smMailbox_only (s : State) : Effect [.cn, .jn, .pm, .st, .mc, .sf, .cp, .fd, .hp, .mm] s (smMailbox s) := by
  unfold smMailbox
  refine Effect.of_foldl _ ?_ (fun y0 a1 h2 => ?_)
  · exact Effect.set_sf (by decide) .refl
  · exact Effect.step (smExec_only _ _) h2 (by decide)
theorem smRequest_only a0 (s : State) : Effect [.cn, .jn, .mc, .ax, .sf, .cp, .hp, .mm] s (smRequest a0 s) := by
  unfold smRequest
  refine Effect.of_ite ?_ ?_
  · exact Effect.step (smTake_only _ _ _ _ _) .refl (by decide)
  · exact Effect.step (smTake_only _ _ _ _ _) .refl (by decide)
theorem groupFb_only a0 a1 (s : State) : Effect [.cn, .jn, .mc, .ax, .sf, .cp, .hp, .mm] s (groupFb a0 a1 s) := by
  unfold groupFb
  lift_lets -underBinder
  intro x0
  have h1 : Effect [.cn, .jn, .mc, .ax, .sf, .cp, .hp, .mm] s x0 := by
    exact Effect.step (updGroup_only _ _ _) .refl (by decide)
  intro x2 x3
  have h4 : Effect [.cn, .jn, .mc, .ax, .sf, .cp, .hp, .mm] s x3 := by
    unfold x3
    split
    · refine Effect.of_ite ?_ ?_
      · exact h1
      · lift_lets -underBinder
        intro x8 x9
        have h10 : Effect [.cn, .jn, .mc, .ax, .sf, .cp, .hp, .mm] s x9 := by
          refine Effect.of_ite ?_ ?_
          · exact Effect.step (releaseStep_only _ _ _) (Effect.step (updGroup_only _ _ _) h1 (by decide)) (by decide)
          · exact h1
        clear_value x9
        intro x11
        have h12 : Effect [.cn, .jn, .mc, .ax, .sf, .cp, .hp, .mm] s x11 := by
          exact Effect.step (smTake_only _ _ _ _ _) h10 (by decide)
        clear_value x11
        refine Effect.of_ite ?_ ?_
        · exact h12
        · exact Effect.step (monReport_only _ _ _ _) h12 (by decide)
    · exact h1
  intro x15
  refine Effect.of_ite ?_ ?_
  · exact Effect.step (updGroup_only _ _ _) h4 (by decide)
  · exact h4
theorem brakeFail_only a0 (s : State) : Effect [.cn, .jn, .mc, .ax, .sf, .cp, .hp, .mm] s (brakeFail a0 s) := by
  unfold brakeFail
  lift_lets -underBinder
  intro x0 x1 x2
  have h3 : Effect [.cn, .jn, .mc, .ax, .sf, .cp, .hp, .mm] s x2 := by
    exact Effect.set_sf (by decide) .refl
  clear_value x2
  intro x4
  have h5 : Effect [.cn, .jn, .mc, .ax, .sf, .cp, .hp, .mm] s x4 := by
    exact Effect.step (monReport_only _ _ _ _) (Effect.step (updSafeAxis_only _ _ _) h3 (by decide)) (by decide)
  clear_value x4
  exact Effect.step (smTake_only _ _ _ _ _) (Effect.step (brakeStop_only _ _) h5 (by decide)) (by decide)
theorem brakeStep_only a0 (s : State) : Effect [.cn, .jn, .mc, .ax, .sf, .cp, .hp, .mm] s (brakeStep a0 s) := by
  unfold brakeStep
  lift_lets -underBinder
  intro x0
  split
  · lift_lets -underBinder
    intro x3
    dsimp only [x0]
    exact Effect.set_sf (by decide) (Effect.step (updAxis_only _ _ _) .refl (by decide))
  · dsimp only [x0]
    exact Effect.set_sf (by decide) (Effect.step (updAxis_only _ _ _) .refl (by decide))
  · refine Effect.of_ite ?_ ?_
    · exact Effect.step (brakeFail_only _ _) .refl (by decide)
    · dsimp only [x0]
      exact Effect.set_sf (by decide) .refl
  · lift_lets -underBinder
    intro x10
    have h11 : Effect [.cn, .jn, .mc, .ax, .sf, .cp, .hp, .mm] s x10 := by
      exact Effect.step (monReport_only _ _ _ _) (Effect.step (updSafeAxis_only _ _ _) .refl (by decide)) (by decide)
    clear_value x10
    dsimp only [x0]
    exact Effect.set_sf (by decide) (Effect.step (updSout_only _ _ _) (Effect.step (updAxis_only _ _ _) h11 (by decide)) (by decide))
  · exact Effect.step (brakeNext_only _) (Effect.step (evidEnd_only _ _) .refl (by decide)) (by decide)
theorem brakeRun_only (s : State) : Effect [.cn, .jn, .mc, .ax, .sf, .cp, .hp, .mm] s (brakeRun s) := by
  unfold brakeRun
  split
  · exact .refl
  · lift_lets -underBinder
    intro x5 x6 x7
    have h8 : Effect [.cn, .jn, .mc, .ax, .sf, .cp, .hp, .mm] s x7 := by
      exact Effect.set_sf (by decide) .refl
    clear_value x7
    intro x9
    refine Effect.of_ite ?_ ?_
    · exact Effect.step (brakeFail_only _ _) h8 (by decide)
    · refine Effect.of_ite ?_ ?_
      · exact Effect.step (brakeStep_only _ _) h8 (by decide)
      · refine Effect.of_ite ?_ ?_
        · exact Effect.step (updAxis_only _ _ _) h8 (by decide)
        · exact h8
theorem draftDiscard_only (s : State) : Effect [.sf] s (draftDiscard s) := by
  unfold draftDiscard
  split
  · exact .refl
  · exact Effect.set_sf (by decide) .refl
theorem smFunctions_only a0 (s : State) : Effect [.cn, .jn, .pm, .st, .mc, .ax, .sf, .cp, .fd, .hp, .mm] s (smFunctions a0 s) := by
  unfold smFunctions
  lift_lets -underBinder
  intro x0
  have h1 : Effect [.cn, .jn, .pm, .st, .mc, .ax, .sf, .cp, .fd, .hp, .mm] s x0 := by
    refine Effect.of_foldl _ ?_ (fun y2 a3 h4 => ?_)
    · exact .refl
    · exact Effect.step (pairEval_only _ _) h4 (by decide)
  clear_value x0
  intro x5 x6
  have h7 : Effect [.cn, .jn, .pm, .st, .mc, .ax, .sf, .cp, .fd, .hp, .mm] s x6 := by
    refine Effect.of_foldl _ ?_ (fun y8 a9 h10 => ?_)
    · exact Effect.set_sf (by decide) h1
    · exact Effect.step (smRequest_only _ _) h10 (by decide)
  clear_value x6
  intro x11
  have h12 : Effect [.cn, .jn, .pm, .st, .mc, .ax, .sf, .cp, .fd, .hp, .mm] s x11 := by
    refine Effect.of_foldl _ ?_ (fun y13 a14 h15 => ?_)
    · exact h7
    · exact Effect.step (groupFb_only _ _ _) h15 (by decide)
  clear_value x11
  intro x16
  have h17 : Effect [.cn, .jn, .pm, .st, .mc, .ax, .sf, .cp, .fd, .hp, .mm] s x16 := by
    refine Effect.of_foldl _ ?_ (fun y18 a19 h20 => ?_)
    · exact h12
    · exact Effect.step (soutCheck_only _ _ _) h20 (by decide)
  clear_value x16
  intro x21
  have h22 : Effect [.cn, .jn, .pm, .st, .mc, .ax, .sf, .cp, .fd, .hp, .mm] s x21 := by
    refine Effect.of_ite ?_ ?_
    · exact Effect.step (smTake_only _ _ _ _ _) h17 (by decide)
    · exact h17
  clear_value x21
  intro x23
  have h24 : Effect [.cn, .jn, .pm, .st, .mc, .ax, .sf, .cp, .fd, .hp, .mm] s x23 := by
    exact Effect.step (brakeRun_only _) h22 (by decide)
  clear_value x23
  intro x25
  have h26 : Effect [.cn, .jn, .pm, .st, .mc, .ax, .sf, .cp, .fd, .hp, .mm] s x25 := by
    refine Effect.of_ite ?_ ?_
    · exact Effect.step (draftDiscard_only _) h24 (by decide)
    · exact h24
  clear_value x25
  intro x27 x28
  have h29 : Effect [.cn, .jn, .pm, .st, .mc, .ax, .sf, .cp, .fd, .hp, .mm] s x28 := by
    refine Effect.of_ite ?_ ?_
    · exact Effect.step (smReset_only _ _ _) (Effect.set_sf (by decide) h26) (by decide)
    · exact h26
  clear_value x28
  exact Effect.step (smMailbox_only _) h29 (by decide)
theorem execHeartbeatLost_only a0 (s : State) : ∃ t, execHeartbeatLost a0 s = .next t ∧ Effect [.tm, .cn, .jn, .mc, .ax, .sf, .cp, .hp, .ag, .mm, .free] s t := by
  refine ⟨_, rfl, ?_⟩
  exact Effect.step (smCause_only _ _) (Effect.step (elapse_only _ _) .refl (by decide)) (by decide)
theorem execSafetyResetInput_only a0 a1 (s : State) : ∃ t, execSafetyResetInput a0 a1 s = .next t ∧ Effect [.tm, .sf, .fd, .ag, .free] s t := by
  refine ⟨_, rfl, ?_⟩
  dsimp only
  exact Effect.step (resetLevel_only _ _) (Effect.set_fd (by decide) (Effect.step (elapse_only _ _) .refl (by decide))) (by decide)
theorem execBrakeTestStep_only a0 (s : State) : ∃ t, execBrakeTestStep a0 s = .next t ∧ Effect [.tm, .cn, .jn, .mc, .ax, .sf, .cp, .hp, .ag, .mm, .free] s t := by
  refine ⟨_, rfl, ?_⟩
  refine Effect.step (smEvent_only (ps := [.tm, .cn, .jn, .mc, .ax, .sf, .cp, .hp, .ag, .mm, .free]) _ (fun s0 => ?_) (by decide) _) ?_ (by decide)
  · exact Effect.step (brakeRun_only _) .refl (by decide)
  · exact Effect.step (elapse_only _ _) .refl (by decide)
theorem execDiscrepancy_only a0 a1 (s : State) : ∃ t, execDiscrepancy a0 a1 s = .next t ∧ Effect [.tm, .cn, .jn, .mc, .ax, .sf, .cp, .hp, .ag, .mm, .free] s t := by
  refine ⟨_, rfl, ?_⟩
  refine Effect.step (smEvent_only (ps := [.tm, .cn, .jn, .mc, .ax, .sf, .cp, .hp, .ag, .mm, .free]) _ (fun s0 => ?_) (by decide) _) ?_ (by decide)
  · exact Effect.step (pairEval_only _ _) (Effect.step (pairLatch_only _ _) .refl (by decide)) (by decide)
  · exact Effect.step (elapse_only _ _) .refl (by decide)
theorem smPublish_only (s : State) : Effect [.sf] s (smPublish s) := by
  unfold smPublish
  lift_lets -underBinder
  intro x0 x1 x2 x3 x4
  exact Effect.set_sf (by decide) .refl
theorem monitorFault_only a0 a1 (s : State) : Effect [.cn, .jn, .mc, .ax, .sf, .cp, .hp, .pw, .mm] s (monitorFault a0 a1 s) := by
  unfold monitorFault
  refine Effect.of_ite ?_ ?_
  · exact .refl
  · refine Effect.step (smNow_only (ps := [.cn, .jn, .mc, .ax, .sf, .cp, .hp, .pw, .mm]) _ (fun s0 => ?_) (by decide) _) ?_ (by decide)
    · lift_lets -underBinder
      intro x1 x2
      have h3 : Effect [.cn, .jn, .mc, .ax, .sf, .cp, .hp, .pw, .mm] s0 x2 := by
        exact Effect.step (monReport_only _ _ _ _) (Effect.set_sf (by decide) .refl) (by decide)
      clear_value x2
      exact Effect.step (smTake_only _ _ _ _ _) (Effect.step (driveFault_only _ _) h3 (by decide)) (by decide)
    · exact .refl
theorem latentOverdue_only a0 (s : State) : Effect [.cn, .sf, .cp, .hp, .mm] s (latentOverdue a0 s) := by
  unfold latentOverdue
  refine Effect.of_ite ?_ ?_
  · exact .refl
  · lift_lets -underBinder
    intro x0 x1
    have h2 : Effect [.cn, .sf, .cp, .hp, .mm] s x1 := by
      refine Effect.of_ite ?_ ?_
      · exact .refl
      · exact Effect.step (monReport_only _ _ _ _) (Effect.step (updGroup_only _ _ _) .refl (by decide)) (by decide)
    clear_value x1
    refine Effect.of_ite ?_ ?_
    · exact h2
    · exact Effect.step (updGroup_only _ _ _) h2 (by decide)
theorem execOutputTestFault_only a0 a1 a2 (s : State) : ∃ t, execOutputTestFault a0 a1 a2 s = .next t ∧ Effect [.tm, .cn, .jn, .mc, .ax, .sf, .cp, .hp, .ag, .mm, .free] s t := by
  refine ⟨_, rfl, ?_⟩
  refine Effect.step (smEvent_only (ps := [.tm, .cn, .jn, .mc, .ax, .sf, .cp, .hp, .ag, .mm, .free]) _ (fun s0 => ?_) (by decide) _) ?_ (by decide)
  · refine Effect.of_ite ?_ ?_
    · exact Effect.step (soutCheck_only _ _ _) .refl (by decide)
    · exact .refl
  · exact Effect.step (elapse_only _ _) .refl (by decide)
theorem execMonitorFault_only a0 a1 a2 (s : State) : ∃ t, execMonitorFault a0 a1 a2 s = .next t ∧ Effect [.tm, .cn, .jn, .mc, .ax, .sf, .cp, .hp, .pw, .ag, .mm, .free] s t := by
  refine ⟨_, rfl, ?_⟩
  exact Effect.step (monitorFault_only _ _ _) (Effect.step (elapse_only _ _) .refl (by decide)) (by decide)
theorem plausDue_only a0 (s : State) : Effect [.cn, .jn, .mc, .ax, .sf, .cp, .hp, .mm] s (plausDue a0 s) := by
  unfold plausDue
  split
  · exact .refl
  · refine Effect.of_ite ?_ ?_
    · exact .refl
    · lift_lets -underBinder
      intro x5 x6 x7
      have h8 : Effect [.cn, .jn, .mc, .ax, .sf, .cp, .hp, .mm] s x7 := by
        exact Effect.step (smTake_only _ _ _ _ _) .refl (by decide)
      clear_value x7
      refine Effect.of_ite ?_ ?_
      · exact h8
      · exact Effect.step (monReport_only _ _ _ _) h8 (by decide)
theorem execPlausibilityFault_only a0 a1 (s : State) : ∃ t, execPlausibilityFault a0 a1 s = .next t ∧ Effect [.tm, .cn, .jn, .mc, .ax, .sf, .cp, .hp, .ag, .mm, .free] s t := by
  refine ⟨_, rfl, ?_⟩
  refine Effect.step (smEvent_only (ps := [.tm, .cn, .jn, .mc, .ax, .sf, .cp, .hp, .ag, .mm, .free]) _ (fun s0 => ?_) (by decide) _) ?_ (by decide)
  · exact Effect.step (plausDue_only _ _) .refl (by decide)
  · exact Effect.step (elapse_only _ _) .refl (by decide)
theorem testPulse_only a0 a1 a2 (s : State) : Effect [.cn, .jn, .mc, .ax, .sf, .cp, .hp, .mm] s (testPulse a0 a1 a2 s) := by
  unfold testPulse
  lift_lets -underBinder
  intro x0 x1 x2 x3 x4 x5 x6
  have h7 : Effect [.cn, .jn, .mc, .ax, .sf, .cp, .hp, .mm] s x6 := by
    exact Effect.set_sf (by decide) .refl
  clear_value x6
  refine Effect.of_ite ?_ ?_
  · exact .refl
  · refine Effect.of_ite ?_ ?_
    · exact Effect.step (updPair_only _ _ _) h7 (by decide)
    · refine Effect.step (smNow_only (ps := [.cn, .jn, .mc, .ax, .sf, .cp, .hp, .mm]) _ (fun s8 => ?_) (by decide) _) ?_ (by decide)
      · lift_lets -underBinder
        intro x9 x10
        have h11 : Effect [.cn, .jn, .mc, .ax, .sf, .cp, .hp, .mm] s8 x10 := by
          exact Effect.step (updPair_only _ _ _) .refl (by decide)
        clear_value x10
        intro x12
        have h13 : Effect [.cn, .jn, .mc, .ax, .sf, .cp, .hp, .mm] s8 x12 := by
          exact Effect.step (smTake_only _ _ _ _ _) h11 (by decide)
        clear_value x12
        refine Effect.of_ite ?_ ?_
        · exact h13
        · exact Effect.step (monReport_only _ _ _ _) h13 (by decide)
      · exact h7
theorem execInputTestPulse_only a0 a1 a2 a3 (s : State) : ∃ t, execInputTestPulse a0 a1 a2 a3 s = .next t ∧ Effect [.tm, .cn, .jn, .mc, .ax, .sf, .cp, .hp, .ag, .mm, .free] s t := by
  refine ⟨_, rfl, ?_⟩
  exact Effect.step (testPulse_only _ _ _ _) (Effect.step (elapse_only _ _) .refl (by decide)) (by decide)
theorem execGdFbFault_only a0 a1 (s : State) : ∃ t, execGdFbFault a0 a1 s = .next t ∧ Effect [.tm, .cn, .jn, .mc, .ax, .sf, .cp, .hp, .ag, .mm, .free] s t := by
  refine ⟨_, rfl, ?_⟩
  refine Effect.step (smEvent_only (ps := [.tm, .cn, .jn, .mc, .ax, .sf, .cp, .hp, .ag, .mm, .free]) _ (fun s0 => ?_) (by decide) _) ?_ (by decide)
  · refine Effect.of_ite ?_ ?_
    · exact Effect.step (groupFb_only _ _ _) .refl (by decide)
    · exact .refl
  · exact Effect.step (elapse_only _ _) .refl (by decide)
theorem execSs1TimeExpired_only a0 a1 (s : State) : ∃ t, execSs1TimeExpired a0 a1 s = .next t ∧ Effect [.tm, .cn, .jn, .mc, .ax, .sf, .cp, .hp, .ag, .mm, .free] s t := by
  refine ⟨_, rfl, ?_⟩
  refine Effect.step (smEvent_only (ps := [.tm, .cn, .jn, .mc, .ax, .sf, .cp, .hp, .ag, .mm, .free]) _ (fun s0 => ?_) (by decide) _) ?_ (by decide)
  · refine Effect.of_foldl _ ?_ (fun y1 a2 h3 => ?_)
    · exact .refl
    · refine Effect.of_ite ?_ ?_
      · exact Effect.step (groupSs1_only _ _) h3 (by decide)
      · exact h3
  · exact Effect.step (elapse_only _ _) .refl (by decide)
theorem offPulse_only a0 a1 (s : State) : Effect [.cn, .jn, .mc, .ax, .sf, .cp, .hp, .mm] s (offPulse a0 a1 s) := by
  unfold offPulse
  lift_lets -underBinder
  intro x0 x1 x2 x3
  have h4 : Effect [.cn, .jn, .mc, .ax, .sf, .cp, .hp, .mm] s x3 := by
    exact Effect.step (updSout_only _ _ _) .refl (by decide)
  clear_value x3
  refine Effect.of_ite ?_ ?_
  · exact .refl
  · refine Effect.of_ite ?_ ?_
    · exact h4
    · refine Effect.step (smNow_only (ps := [.cn, .jn, .mc, .ax, .sf, .cp, .hp, .mm]) _ (fun s5 => ?_) (by decide) _) ?_ (by decide)
      · exact Effect.step (outTestFault_only _ _) (Effect.step (updSout_only _ _ _) .refl (by decide)) (by decide)
      · exact h4
theorem execSafeOutputOffPulse_only a0 a1 a2 (s : State) : ∃ t, execSafeOutputOffPulse a0 a1 a2 s = .next t ∧ Effect [.tm, .cn, .jn, .mc, .ax, .sf, .cp, .hp, .ag, .mm, .free] s t := by
  refine ⟨_, rfl, ?_⟩
  exact Effect.step (offPulse_only _ _ _) (Effect.step (elapse_only _ _) .refl (by decide)) (by decide)
theorem execSlsGraceExpired_only a0 a1 (s : State) : ∃ t, execSlsGraceExpired a0 a1 s = .next t ∧ Effect [.tm, .cn, .jn, .mc, .ax, .sf, .cp, .hp, .ag, .mm, .free] s t := by
  refine ⟨_, rfl, ?_⟩
  refine Effect.step (smEvent_only (ps := [.tm, .cn, .jn, .mc, .ax, .sf, .cp, .hp, .ag, .mm, .free]) _ (fun s0 => ?_) (by decide) _) ?_ (by decide)
  · refine Effect.of_ite ?_ ?_
    · exact Effect.step (saSls_only _ _) .refl (by decide)
    · exact .refl
  · exact Effect.step (elapse_only _ _) .refl (by decide)
theorem execLatentTestOverdue_only a0 a1 (s : State) : ∃ t, execLatentTestOverdue a0 a1 s = .next t ∧ Effect [.tm, .cn, .sf, .cp, .hp, .ag, .mm, .free] s t := by
  refine ⟨_, rfl, ?_⟩
  refine Effect.step (smEvent_only (ps := [.tm, .cn, .sf, .cp, .hp, .ag, .mm, .free]) _ (fun s0 => ?_) (by decide) _) ?_ (by decide)
  · exact Effect.step (latentOverdue_only _ _) .refl (by decide)
  · exact Effect.step (elapse_only _ _) .refl (by decide)
theorem smCounts_only a0 (s : State) : Effect [.sf] s (smCounts a0 s) := by
  unfold smCounts
  refine Effect.of_foldl _ ?_ (fun y0 a1 h2 => ?_)
  · exact .refl
  · lift_lets -underBinder
    intro x3 x4
    exact Effect.set_sf (by decide) h2
theorem smPresent_only (s : State) : Effect [.sf] s (smPresent s) := by
  unfold smPresent
  lift_lets -underBinder
  intro x0
  refine Effect.of_foldl _ ?_ (fun y1 a2 h3 => ?_)
  · exact .refl
  · exact Effect.step (updGroup_only _ _ _) h3 (by decide)
theorem safetyCycle_only a0 (s : State) : Effect [.cn, .jn, .pm, .st, .mc, .ax, .sf, .cp, .fd, .hp, .mm, .free] s (safetyCycle a0 s) := by
  unfold safetyCycle
  lift_lets -underBinder
  intro x0 x1 x2
  have h3 : Effect [.cn, .jn, .pm, .st, .mc, .ax, .sf, .cp, .fd, .hp, .mm, .free] s x2 := by
    exact Effect.step (monEnter_only _) (Effect.step (smOutputs_only _) (Effect.set_sf (by decide) .refl) (by decide)) (by decide)
  clear_value x2
  intro x4
  have h5 : Effect [.cn, .jn, .pm, .st, .mc, .ax, .sf, .cp, .fd, .hp, .mm, .free] s x4 := by
    exact Effect.step (smCounts_only _ _) h3 (by decide)
  clear_value x4
  intro x6
  have h7 : Effect [.cn, .jn, .pm, .st, .mc, .ax, .sf, .cp, .fd, .hp, .mm, .free] s x6 := by
    refine Effect.of_ite ?_ ?_
    · exact h5
    · refine Effect.of_foldl _ ?_ (fun y8 a9 h10 => ?_)
      · exact h5
      · exact Effect.step (pairLatch_only _ _) h10 (by decide)
  clear_value x6
  intro x11
  have h12 : Effect [.cn, .jn, .pm, .st, .mc, .ax, .sf, .cp, .fd, .hp, .mm, .free] s x11 := by
    exact Effect.step (smPresent_only _) h7 (by decide)
  clear_value x11
  intro x13
  have h14 : Effect [.cn, .jn, .pm, .st, .mc, .ax, .sf, .cp, .fd, .hp, .mm, .free] s x13 := by
    refine Effect.of_foldl _ ?_ (fun y15 a16 h17 => ?_)
    · exact h12
    · exact Effect.step (saEval_only _ _ _ _) h17 (by decide)
  clear_value x13
  intro x18
  have h19 : Effect [.cn, .jn, .pm, .st, .mc, .ax, .sf, .cp, .fd, .hp, .mm, .free] s x18 := by
    refine Effect.of_ite ?_ ?_
    · exact h14
    · exact Effect.step (smFunctions_only _ _) h14 (by decide)
  clear_value x18
  refine Effect.of_ite ?_ ?_
  · exact .refl
  · refine Effect.of_ite ?_ ?_
    · exact Effect.step (smPublish_only _) (Effect.step (smMailbox_only _) h3 (by decide)) (by decide)
    · exact Effect.step (smPublish_only _) h19 (by decide)
theorem execSafetyDraftTimeout_only a0 (s : State) : ∃ t, execSafetyDraftTimeout a0 s = .next t ∧ Effect [.tm, .sf, .ag, .free] s t := by
  refine ⟨_, rfl, ?_⟩
  dsimp only
  split
  · refine Effect.of_ite ?_ ?_
    · exact Effect.step (draftDiscard_only _) (Effect.step (elapse_only _ _) .refl (by decide)) (by decide)
    · exact Effect.step (elapse_only _ _) .refl (by decide)
  · exact Effect.step (elapse_only _ _) .refl (by decide)
theorem latentReply_only (s : State) : Effect [.jn, .sf] s (latentReply s) := by
  unfold latentReply
  split
  · refine Effect.of_ite ?_ ?_
    · lift_lets -underBinder
      intro x5 x6 x7
      exact Effect.step (smFinish_only _ _ _) (Effect.set_sf (by decide) .refl) (by decide)
    · exact .refl
  · exact .refl
theorem latentEnd_only a0 a1 (s : State) : Effect [.cn, .jn, .mc, .ax, .sf, .cp, .hp, .mm] s (latentEnd a0 a1 s) := by
  unfold latentEnd
  refine Effect.of_ite ?_ ?_
  · exact .refl
  · lift_lets -underBinder
    intro x0 x1
    have h2 : Effect [.cn, .jn, .mc, .ax, .sf, .cp, .hp, .mm] s x1 := by
      exact Effect.step (updGroup_only _ _ _) .refl (by decide)
    clear_value x1
    intro x3
    have h4 : Effect [.cn, .jn, .mc, .ax, .sf, .cp, .hp, .mm] s x3 := by
      refine Effect.of_ite ?_ ?_
      · exact Effect.step (monReport_only _ _ _ _) (Effect.step (updGroup_only _ _ _) h2 (by decide)) (by decide)
      · exact Effect.step (smTake_only _ _ _ _ _) (Effect.step (monReport_only _ _ _ _) (Effect.step (updGroup_only _ _ _) h2 (by decide)) (by decide)) (by decide)
    clear_value x3
    intro x5
    exact Effect.step (latentReply_only _) (Effect.set_sf (by decide) h4) (by decide)
theorem execLatentTestEnd_only a0 a1 a2 (s : State) : ∃ t, execLatentTestEnd a0 a1 a2 s = .next t ∧ Effect [.tm, .cn, .jn, .mc, .ax, .sf, .cp, .hp, .ag, .mm, .free] s t := by
  refine ⟨_, rfl, ?_⟩
  refine Effect.step (smEvent_only (ps := [.tm, .cn, .jn, .mc, .ax, .sf, .cp, .hp, .ag, .mm, .free]) _ (fun s0 => ?_) (by decide) _) ?_ (by decide)
  · exact Effect.step (latentEnd_only _ _ _) .refl (by decide)
  · exact Effect.step (elapse_only _ _) .refl (by decide)
theorem execSafetyCycle_only a0 a1 (s : State) : ∃ t, execSafetyCycle a0 a1 s = .next t ∧ Effect [.tm, .cn, .jn, .pm, .st, .mc, .ax, .sf, .cp, .fd, .hp, .ag, .mm, .free] s t := by
  refine ⟨_, rfl, ?_⟩
  exact Effect.step (safetyCycle_only _ _) (Effect.step (elapse_only _ _) .refl (by decide)) (by decide)
theorem execSafeCfgEnFall_only a0 (s : State) : ∃ t, execSafeCfgEnFall a0 s = .next t ∧ Effect [.tm, .sf, .fd, .ag, .free] s t := by
  refine ⟨_, rfl, ?_⟩
  dsimp only
  exact Effect.step (draftDiscard_only _) (Effect.set_fd (by decide) (Effect.step (elapse_only _ _) .refl (by decide))) (by decide)
theorem monitorStart_only a0 (s : State) : Effect [.cn, .jn, .pm, .mc, .ax, .sf, .cp, .hp, .pw, .mm] s (monitorStart a0 s) := by
  unfold monitorStart
  refine Effect.of_ite ?_ ?_
  · exact .refl
  · refine Effect.of_ite ?_ ?_
    · exact Effect.step (monitorFault_only _ _ _) .refl (by decide)
    · refine Effect.step (smNow_only (ps := [.cn, .jn, .pm, .mc, .ax, .sf, .cp, .hp, .pw, .mm]) _ (fun s0 => ?_) (by decide) _) ?_ (by decide)
      · lift_lets -underBinder
        intro x1 x2 x3
        have h4 : Effect [.cn, .jn, .pm, .mc, .ax, .sf, .cp, .hp, .pw, .mm] s0 x3 := by
          refine Effect.of_ite ?_ ?_
          · exact Effect.set_sf (by decide) .refl
          · exact Effect.step (safetyLoad_only _ _) (Effect.set_sf (by decide) .refl) (by decide)
        clear_value x3
        intro x5 x6
        have h7 : Effect [.cn, .jn, .pm, .mc, .ax, .sf, .cp, .hp, .pw, .mm] s0 x6 := by
          exact Effect.set_sf (by decide) h4
        clear_value x6
        intro x8
        have h9 : Effect [.cn, .jn, .pm, .mc, .ax, .sf, .cp, .hp, .pw, .mm] s0 x8 := by
          refine Effect.of_ite ?_ ?_
          · exact Effect.step (smTake_only _ _ _ _ _) h7 (by decide)
          · exact h7
        clear_value x8
        refine Effect.of_foldl _ ?_ (fun y10 a11 h12 => ?_)
        · exact h9
        · refine Effect.of_ite ?_ ?_
          · exact Effect.step (smSbc_only _ _ _) h12 (by decide)
          · exact h12
      · exact .refl
theorem execMonitorStart_only a0 a1 (s : State) : ∃ t, execMonitorStart a0 a1 s = .next t ∧ Effect [.tm, .cn, .jn, .pm, .mc, .ax, .sf, .cp, .hp, .pw, .ag, .mm, .free] s t := by
  refine ⟨_, rfl, ?_⟩
  exact Effect.step (monitorStart_only _ _) (Effect.step (elapse_only _ _) .refl (by decide)) (by decide)
theorem execSlipFault_only a0 a1 (s : State) : ∃ t, execSlipFault a0 a1 s = .next t ∧ Effect [.tm, .cn, .jn, .mc, .ax, .sf, .cp, .hp, .ag, .mm, .free] s t := by
  refine ⟨_, rfl, ?_⟩
  refine Effect.step (smEvent_only (ps := [.tm, .cn, .jn, .mc, .ax, .sf, .cp, .hp, .ag, .mm, .free]) _ (fun s0 => ?_) (by decide) _) ?_ (by decide)
  · exact Effect.step (slipDue_only _ _) .refl (by decide)
  · exact Effect.step (elapse_only _ _) .refl (by decide)

end Sys2Proof.Machine
end

