-- ==== Sys2Proof/Laws/FrameDrafts.lean ====
section
/-!
SUPPORT. Sys2Proof/Laws/FrameDrafts.lean: what each operation of Machine/Drafts.lean may change, one lemma per operation.
-/

namespace Sys2Proof.Machine
set_option Elab.async false

theorem cmdStageOpen_only a0 (s : State) : Effect [.pm] s (cmdStageOpen a0 s).2 := by
  unfold cmdStageOpen
  lift_lets -underBinder
  intro x0 x1 x2
  clear_value x2
  split
  · dsimp only
    exact .refl
  · dsimp only
    exact Effect.step (updDraft_only _ _ _) .refl (by decide)
theorem cmdStageOpen_only_of {a0} {s : State} {r t} (h : cmdStageOpen a0 s = (r, t)) : Effect [.pm] s t := by
  have := cmdStageOpen_only a0 s
  rwa [h] at this
theorem cmdStageWrite_only a0 (s : State) : Effect [.pm] s (cmdStageWrite a0 s).2 := by
  unfold cmdStageWrite
  lift_lets -underBinder
  intro x0 x1
  refine Effect.of_ite2 ?_ ?_
  · dsimp only
    exact .refl
  · split
    · dsimp only
      exact .refl
    · refine Effect.of_ite2 ?_ ?_
      · dsimp only
        exact .refl
      · dsimp only
        exact Effect.step (updDraft_only _ _ _) .refl (by decide)
theorem cmdStageWrite_only_of {a0} {s : State} {r t} (h : cmdStageWrite a0 s = (r, t)) : Effect [.pm] s t := by
  have := cmdStageWrite_only a0 s
  rwa [h] at this
theorem cmdStageCheck_only a0 (s : State) : Effect [.pm] s (cmdStageCheck a0 s).2 := by
  unfold cmdStageCheck
  lift_lets -underBinder
  intro x0 x1
  refine Effect.of_ite2 ?_ ?_
  · dsimp only
    exact .refl
  · split
    · dsimp only
      exact Effect.step (updDraft_only _ _ _) .refl (by decide)
    · dsimp only
      exact Effect.step (updDraft_only _ _ _) .refl (by decide)
theorem cmdStageCheck_only_of {a0} {s : State} {r t} (h : cmdStageCheck a0 s = (r, t)) : Effect [.pm] s t := by
  have := cmdStageCheck_only a0 s
  rwa [h] at this
theorem cmdStageDiscard_only a0 (s : State) : Effect [.pm] s (cmdStageDiscard a0 s).2 := by
  unfold cmdStageDiscard
  dsimp only
  exact Effect.step (updDraft_only _ _ _) .refl (by decide)
theorem cmdStageDiscard_only_of {a0} {s : State} {r t} (h : cmdStageDiscard a0 s = (r, t)) : Effect [.pm] s t := by
  have := cmdStageDiscard_only a0 s
  rwa [h] at this
theorem cmdStageRead_only a0 (s : State) : Effect [] s (cmdStageRead a0 s).2 := by
  unfold cmdStageRead
  lift_lets -underBinder
  intro x0 x1 x2
  refine Effect.of_ite2 ?_ ?_
  · dsimp only
    exact .refl
  · dsimp only
    exact .refl
theorem cmdStageRead_only_of {a0} {s : State} {r t} (h : cmdStageRead a0 s = (r, t)) : Effect [] s t := by
  have := cmdStageRead_only a0 s
  rwa [h] at this

end Sys2Proof.Machine
end

