-- ==== Sys2Proof/Laws/FrameNet.lean ====
section
/-!
SUPPORT. Sys2Proof/Laws/FrameNet.lean: what each operation of Machine/Net.lean may change, one lemma per operation.
-/

namespace Sys2Proof.Machine
set_option Elab.async false

theorem ptpSet_only a0 a1 a2 (s : State) : Effect [.cn, .cp, .hp, .eth, .mm] s (ptpSet a0 a1 a2 s) := by
  unfold ptpSet
  refine Effect.of_ite ?_ ?_
  · exact Effect.step (updPort_only _ _ _) .refl (by decide)
  · exact Effect.step (report_only _ _ _ _ _) (Effect.step (updPort_only _ _ _) .refl (by decide)) (by decide)
theorem ptpDecide_only (s : State) : Effect [.cn, .cp, .hp, .eth, .mm] s (ptpDecide s) := by
  unfold ptpDecide
  lift_lets -underBinder
  intro x0 x1 x2 x3 x4
  refine Effect.of_foldl _ ?_ (fun y5 a6 h7 => ?_)
  · exact .refl
  · refine Effect.of_ite ?_ ?_
    · exact h7
    · clear_value x4
      split
      · refine Effect.of_ite ?_ ?_
        · lift_lets -underBinder
          intro x11 x12
          exact Effect.step (ptpSet_only _ _ _ _) h7 (by decide)
        · refine Effect.of_ite ?_ ?_
          · exact Effect.step (ptpSet_only _ _ _ _) h7 (by decide)
          · split
            · refine Effect.of_ite ?_ ?_
              · exact Effect.step (ptpSet_only _ _ _ _) h7 (by decide)
              · exact Effect.step (ptpSet_only _ _ _ _) h7 (by decide)
            · exact Effect.step (ptpSet_only _ _ _ _) h7 (by decide)
      · refine Effect.of_ite ?_ ?_
        · exact Effect.step (ptpSet_only _ _ _ _) h7 (by decide)
        · exact Effect.step (ptpSet_only _ _ _ _) h7 (by decide)
theorem linkDown_only a0 (s : State) : Effect [.cn, .cp, .hp, .eth, .mm] s (linkDown a0 s) := by
  unfold linkDown
  refine Effect.of_ite ?_ ?_
  · exact .refl
  · lift_lets -underBinder
    intro x0
    have h1 : Effect [.cn, .cp, .hp, .eth, .mm] s x0 := by
      exact Effect.step (report_only _ _ _ _ _) (Effect.step (updPort_only _ _ _) .refl (by decide)) (by decide)
    clear_value x0
    exact Effect.step (ptpDecide_only _) h1 (by decide)
theorem ethCommit_only (s : State) : Effect [.cn, .cp, .hp, .eth, .mm] s (ethCommit s) := by
  unfold ethCommit
  refine Effect.of_foldl _ ?_ (fun y0 a1 h2 => ?_)
  · exact .refl
  · refine Effect.of_ite ?_ ?_
    · exact Effect.step (linkDown_only _ _) h2 (by decide)
    · refine Effect.of_ite ?_ ?_
      · refine Effect.of_ite ?_ ?_
        · exact Effect.step (ptpSet_only _ _ _ _) h2 (by decide)
        · exact h2
      · refine Effect.of_ite ?_ ?_
        · exact Effect.step (ptpSet_only _ _ _ _) h2 (by decide)
        · exact h2
theorem execLinkDown_only a0 a1 (s : State) : ∃ t, execLinkDown a0 a1 s = .next t ∧ Effect [.tm, .cn, .cp, .hp, .eth, .ag, .mm, .free] s t := by
  refine ⟨_, rfl, ?_⟩
  exact Effect.step (linkDown_only _ _) (Effect.step (elapse_only _ _) .refl (by decide)) (by decide)
theorem ptpDelaySend_only a0 (s : State) : Effect [.eth, .sent] s (ptpDelaySend a0 s) := by
  unfold ptpDelaySend
  lift_lets -underBinder
  intro x0 x1 x2
  refine Effect.of_ite ?_ ?_
  · exact .refl
  · exact Effect.step (send_only _ _) (Effect.step (updPort_only _ _ _) .refl (by decide)) (by decide)
theorem arpFail_only a0 a1 (s : State) : Effect [.eth] s (arpFail a0 a1 s) := by
  unfold arpFail
  exact Effect.step (updPort_only _ _ _) .refl (by decide)
theorem answerBudget_only (p : Nat) (s : State) : Effect [.eth] s (answerBudget p s).2 := by
  by_cases h : (s.port p).answersFrom + cyclesPerS ≤ s.tm.now
  · have e : answerBudget p s = (true, s.updPort p fun e => { e with answers := 1, answersFrom := s.tm.now }) := by
      simp only [answerBudget, h, decide_true, if_true]
    rw [e]
    exact updPort_only ..
  · by_cases h2 : (s.port p).answers < 100
    · have e : answerBudget p s = (true, s.updPort p fun e => { e with answers := e.answers + 1 }) := by
        simp only [answerBudget, h, h2, decide_false, if_true, Bool.false_eq_true, if_false]
      rw [e]
      exact updPort_only ..
    · have e : answerBudget p s = (false, s) := by
        simp only [answerBudget, h, h2, decide_false, Bool.false_eq_true, if_false]
      rw [e]
      exact .refl
theorem answerBudget_only_of {p : Nat} {s : State} {r t} (h : answerBudget p s = (r, t)) : Effect [.eth] s t := by
  have := answerBudget_only p s
  rwa [h] at this
theorem arpConflict_only a0 a1 a2 (s : State) : Effect [.cn, .cp, .hp, .mm] s (arpConflict a0 a1 a2 s) := by
  unfold arpConflict
  refine Effect.of_ite ?_ ?_
  · exact Effect.step (report_only _ _ _ _ _) .refl (by decide)
  · exact .refl
theorem arpFlush_only a0 a1 (s : State) : Effect [.eth, .sent] s (arpFlush a0 a1 s) := by
  unfold arpFlush
  lift_lets -underBinder
  intro x0 x1
  have h2 : Effect [.eth, .sent] s x1 := by
    exact Effect.step (updPort_only _ _ _) .refl (by decide)
  clear_value x1
  refine Effect.of_foldl _ ?_ (fun y3 a4 h5 => ?_)
  · exact h2
  · exact Effect.step (send_only _ _) h5 (by decide)
theorem arpLearn_only a0 a1 a2 (s : State) : Effect [.eth] s (arpLearn a0 a1 a2 s) := by
  unfold arpLearn
  exact Effect.step (updPort_only _ _ _) .refl (by decide)
theorem arpRequest_only a0 a1 a2 a3 (s : State) : Effect [.cn, .cp, .hp, .eth, .mm, .sent] s (arpRequest a0 a1 a2 a3 s) := by
  unfold arpRequest
  refine Effect.of_ite ?_ ?_
  · exact .refl
  · lift_lets -underBinder
    intro x0
    have h1 : Effect [.cn, .cp, .hp, .eth, .mm, .sent] s x0 := by
      exact Effect.step (arpConflict_only _ _ _ _) .refl (by decide)
    clear_value x0
    intro x2
    have h3 : Effect [.cn, .cp, .hp, .eth, .mm, .sent] s x2 := by
      refine Effect.of_ite ?_ ?_
      · exact h1
      · exact Effect.step (arpFlush_only _ _ _) (Effect.step (arpLearn_only _ _ _ _) h1 (by decide)) (by decide)
    clear_value x2
    refine Effect.of_ite ?_ ?_
    · exact h1
    · split
      rename_i v7
      refine Effect.of_ite ?_ ?_
      · exact Effect.step (send_only _ _) (Effect.step (answerBudget_only_of v7) h3 (by decide)) (by decide)
      · exact Effect.step (answerBudget_only_of v7) h3 (by decide)
theorem ptpOffset_only a0 a1 (s : State) : Effect [.tm, .cn, .fb, .cp, .hp, .eth, .mm] s (ptpOffset a0 a1 s) := by
  unfold ptpOffset
  lift_lets -underBinder
  intro x0
  have h1 : Effect [.tm, .cn, .fb, .cp, .hp, .eth, .mm] s x0 := by
    exact Effect.step (updPort_only _ _ _) .refl (by decide)
  clear_value x0
  intro x2
  have h3 : Effect [.tm, .cn, .fb, .cp, .hp, .eth, .mm] s x2 := by
    refine Effect.of_ite ?_ ?_
    · exact Effect.step (ptpSet_only _ _ _ _) h1 (by decide)
    · exact h1
  clear_value x2
  exact Effect.step (measure_only _ _ _) h3 (by decide)
theorem execArpResolveFail_only a0 a1 a2 (s : State) : ∃ t, execArpResolveFail a0 a1 a2 s = .next t ∧ Effect [.tm, .eth, .ag, .free] s t := by
  refine ⟨_, rfl, ?_⟩
  exact Effect.step (arpFail_only _ _ _) (Effect.step (elapse_only _ _) .refl (by decide)) (by decide)
theorem linkUp_only a0 a1 a2 (s : State) : Effect [.cn, .cp, .hp, .eth, .mm] s (linkUp a0 a1 a2 s) := by
  unfold linkUp
  refine Effect.of_ite ?_ ?_
  · exact .refl
  · lift_lets -underBinder
    intro x0
    have h1 : Effect [.cn, .cp, .hp, .eth, .mm] s x0 := by
      exact Effect.step (report_only _ _ _ _ _) (Effect.step (updPort_only _ _ _) .refl (by decide)) (by decide)
    clear_value x0
    refine Effect.of_ite ?_ ?_
    · exact Effect.step (ptpSet_only _ _ _ _) h1 (by decide)
    · exact h1
theorem ptpTimeout_only a0 (s : State) : Effect [.cn, .cp, .hp, .eth, .mm] s (ptpTimeout a0 s) := by
  unfold ptpTimeout
  refine Effect.of_ite ?_ ?_
  · exact .refl
  · exact Effect.step (ptpDecide_only _) (Effect.step (updPort_only _ _ _) .refl (by decide)) (by decide)
theorem execPtpAnnounceTimeout_only a0 a1 (s : State) : ∃ t, execPtpAnnounceTimeout a0 a1 s = .next t ∧ Effect [.tm, .cn, .cp, .hp, .eth, .ag, .mm, .free] s t := by
  refine ⟨_, rfl, ?_⟩
  exact Effect.step (ptpTimeout_only _ _) (Effect.step (elapse_only _ _) .refl (by decide)) (by decide)
theorem dxSend_only a0 (s : State) : Effect [.cn, .ax, .cp, .hp, .dx, .mm, .sent] s (dxSend a0 s) := by
  unfold dxSend
  lift_lets -underBinder
  intro x0 x1 x2 x3 x4
  have h5 : Effect [.cn, .ax, .cp, .hp, .dx, .mm, .sent] s x4 := by
    refine Effect.of_ite ?_ ?_
    · exact Effect.step (report_only _ _ _ _ _) .refl (by decide)
    · refine Effect.of_ite ?_ ?_
      · exact Effect.step (send_only _ _) .refl (by decide)
      · exact .refl
  clear_value x4
  intro x6
  have h7 : Effect [.cn, .ax, .cp, .hp, .dx, .mm, .sent] s x6 := by
    refine Effect.of_foldl _ ?_ (fun y8 a9 h10 => ?_)
    · exact h5
    · exact Effect.step (setpointSent_only _ _ _) h10 (by decide)
  clear_value x6
  refine Effect.of_ite ?_ ?_
  · exact .refl
  · exact Effect.set_dx (by decide) h7
theorem ptpAnnounce_only a0 a1 (s : State) : Effect [.cn, .cp, .hp, .eth, .mm] s (ptpAnnounce a0 a1 s) := by
  unfold ptpAnnounce
  refine Effect.of_ite ?_ ?_
  · exact .refl
  · lift_lets -underBinder
    intro x0 x1
    exact Effect.step (ptpDecide_only _) (Effect.step (updPort_only _ _ _) .refl (by decide)) (by decide)
theorem ptpMessage_only a0 a1 (s : State) : Effect [.tm, .cn, .fb, .cp, .hp, .eth, .mm, .sent] s (ptpMessage a0 a1 s) := by
  unfold ptpMessage
  refine Effect.of_ite ?_ ?_
  · exact .refl
  · lift_lets -underBinder
    intro x0 x1 x2 x3
    split
    · exact Effect.step (ptpAnnounce_only _ _ _) .refl (by decide)
    · refine Effect.of_ite ?_ ?_
      · exact .refl
      · refine Effect.of_ite ?_ ?_
        · exact Effect.step (updPort_only _ _ _) .refl (by decide)
        · exact Effect.step (ptpOffset_only _ _ _) .refl (by decide)
    · split
      · refine Effect.of_ite ?_ ?_
        · exact Effect.step (ptpOffset_only _ _ _) .refl (by decide)
        · exact .refl
      · exact .refl
    · refine Effect.of_ite ?_ ?_
      · exact Effect.step (send_only _ _) .refl (by decide)
      · exact .refl
    · split
      · refine Effect.of_ite ?_ ?_
        · exact Effect.step (updPort_only _ _ _) .refl (by decide)
        · exact .refl
      · exact .refl
    · refine Effect.of_ite ?_ ?_
      · exact Effect.step (send_only _ _) (Effect.step (send_only _ _) .refl (by decide)) (by decide)
      · exact .refl
    · split
      · refine Effect.of_ite ?_ ?_
        · exact .refl
        · refine Effect.of_ite ?_ ?_
          · exact Effect.step (updPort_only _ _ _) .refl (by decide)
          · exact Effect.step (updPort_only _ _ _) .refl (by decide)
      · exact .refl
    · split
      · refine Effect.of_ite ?_ ?_
        · exact Effect.step (updPort_only _ _ _) .refl (by decide)
        · exact .refl
      · exact .refl
theorem execPtpMessage_only a0 a1 a2 (s : State) : ∃ t, execPtpMessage a0 a1 a2 s = .next t ∧ Effect [.tm, .cn, .fb, .cp, .hp, .eth, .ag, .mm, .sent, .free] s t := by
  refine ⟨_, rfl, ?_⟩
  exact Effect.step (ptpMessage_only _ _ _) (Effect.step (elapse_only _ _) .refl (by decide)) (by decide)
theorem dxReply_only a0 (s : State) : Effect [.cn, .jn, .ax, .cp, .hp, .dx, .mm] s (dxReply a0 s) := by
  unfold dxReply
  lift_lets -underBinder
  intro x0 x1 x2 x3
  refine Effect.of_ite ?_ ?_
  · exact .refl
  · split
    · exact .refl
    · refine Effect.of_ite ?_ ?_
      · exact .refl
      · lift_lets -underBinder
        intro x9 x10
        exact Effect.step (remoteReply_only _ _ _ _ _ _ _ _ _) (Effect.set_dx (by decide) .refl) (by decide)
theorem execDxReply_only a0 a1 (s : State) : ∃ t, execDxReply a0 a1 s = .next t ∧ Effect [.tm, .cn, .jn, .ax, .cp, .hp, .dx, .ag, .mm, .free] s t := by
  refine ⟨_, rfl, ?_⟩
  exact Effect.step (dxReply_only _ _) (Effect.step (elapse_only _ _) .refl (by decide)) (by decide)
theorem arpReply_only a0 a1 a2 (s : State) : Effect [.cn, .cp, .hp, .eth, .mm, .sent] s (arpReply a0 a1 a2 s) := by
  unfold arpReply
  refine Effect.of_ite ?_ ?_
  · exact .refl
  · exact Effect.step (arpFlush_only _ _ _) (Effect.step (arpLearn_only _ _ _ _) (Effect.step (arpConflict_only _ _ _ _) .refl (by decide)) (by decide)) (by decide)
theorem ethFrame_only a0 (s : State) : Effect [.cn, .cp, .hp, .eth, .mm, .sent] s (ethFrame a0 s).2 := by
  unfold ethFrame
  lift_lets -underBinder
  intro x0 x1 x2 x3
  refine Effect.of_ite2 ?_ ?_
  · dsimp only
    exact .refl
  · refine Effect.of_ite2 ?_ ?_
    · dsimp only
      exact Effect.step (updPort_only _ _ _) .refl (by decide)
    · refine Effect.of_ite2 ?_ ?_
      · dsimp only
        exact Effect.step (updPort_only _ _ _) .refl (by decide)
      · refine Effect.of_ite2 ?_ ?_
        · refine Effect.of_ite2 ?_ ?_
          · dsimp only
            exact .refl
          · refine Effect.of_ite2 ?_ ?_
            · dsimp only
              exact Effect.step (arpRequest_only _ _ _ _ _) .refl (by decide)
            · dsimp only
              exact Effect.step (arpReply_only _ _ _ _) .refl (by decide)
        · refine Effect.of_ite2 ?_ ?_
          · split
            · dsimp only
              exact .refl
            · dsimp only
              exact .refl
          · dsimp only
            exact .refl
theorem ethFrame_only_of {a0} {s : State} {r t} (h : ethFrame a0 s = (r, t)) : Effect [.cn, .cp, .hp, .eth, .mm, .sent] s t := by
  have := ethFrame_only a0 s
  rwa [h] at this
theorem execPtpDelayReqSend_only a0 a1 (s : State) : ∃ t, execPtpDelayReqSend a0 a1 s = .next t ∧ Effect [.tm, .eth, .ag, .sent, .free] s t := by
  refine ⟨_, rfl, ?_⟩
  exact Effect.step (ptpDelaySend_only _ _) (Effect.step (elapse_only _ _) .refl (by decide)) (by decide)
theorem arpExpire_only a0 a1 (s : State) : Effect [.eth] s (arpExpire a0 a1 s) := by
  unfold arpExpire
  exact Effect.step (updPort_only _ _ _) .refl (by decide)
theorem execLinkUp_only a0 a1 a2 a3 (s : State) : ∃ t, execLinkUp a0 a1 a2 a3 s = .next t ∧ Effect [.tm, .cn, .cp, .hp, .eth, .ag, .mm, .free] s t := by
  refine ⟨_, rfl, ?_⟩
  exact Effect.step (linkUp_only _ _ _ _) (Effect.step (elapse_only _ _) .refl (by decide)) (by decide)
theorem execArpCacheEntryExpired_only a0 a1 a2 (s : State) : ∃ t, execArpCacheEntryExpired a0 a1 a2 s = .next t ∧ Effect [.tm, .eth, .ag, .free] s t := by
  refine ⟨_, rfl, ?_⟩
  exact Effect.step (arpExpire_only _ _ _) (Effect.step (elapse_only _ _) .refl (by decide)) (by decide)
theorem icmpEcho_only a0 a1 a2 a3 (s : State) : Effect [.eth, .sent] s (icmpEcho a0 a1 a2 a3 s) := by
  unfold icmpEcho
  refine Effect.of_ite ?_ ?_
  · exact .refl
  · split
    rename_i v3
    refine Effect.of_ite ?_ ?_
    · exact Effect.step (send_only _ _) (Effect.step (answerBudget_only_of v3) .refl (by decide)) (by decide)
    · exact Effect.step (answerBudget_only_of v3) .refl (by decide)
theorem execIcmpEcho_only a0 a1 a2 a3 a4 (s : State) : ∃ t, execIcmpEcho a0 a1 a2 a3 a4 s = .next t ∧ Effect [.tm, .eth, .ag, .sent, .free] s t := by
  refine ⟨_, rfl, ?_⟩
  exact Effect.step (icmpEcho_only _ _ _ _ _) (Effect.step (elapse_only _ _) .refl (by decide)) (by decide)
theorem execArpRequestRx_only a0 a1 a2 a3 a4 (s : State) : ∃ t, execArpRequestRx a0 a1 a2 a3 a4 s = .next t ∧ Effect [.tm, .cn, .cp, .hp, .eth, .ag, .mm, .sent, .free] s t := by
  refine ⟨_, rfl, ?_⟩
  exact Effect.step (arpRequest_only _ _ _ _ _) (Effect.step (elapse_only _ _) .refl (by decide)) (by decide)
theorem execDxSetpointSend_only a0 a1 (s : State) : ∃ t, execDxSetpointSend a0 a1 s = .next t ∧ Effect [.tm, .cn, .ax, .cp, .hp, .dx, .ag, .mm, .sent, .free] s t := by
  refine ⟨_, rfl, ?_⟩
  exact Effect.step (dxSend_only _ _) (Effect.step (elapse_only _ _) .refl (by decide)) (by decide)
theorem ptpMasterSend_only a0 a1 (s : State) : Effect [.eth, .sent] s (ptpMasterSend a0 a1 s) := by
  unfold ptpMasterSend
  refine Effect.of_ite ?_ ?_
  · exact .refl
  · refine Effect.of_ite ?_ ?_
    · exact Effect.step (send_only _ _) (Effect.step (updPort_only _ _ _) .refl (by decide)) (by decide)
    · lift_lets -underBinder
      intro x0 x1
      have h2 : Effect [.eth, .sent] s x1 := by
        exact Effect.step (send_only _ _) (Effect.step (updPort_only _ _ _) .refl (by decide)) (by decide)
      clear_value x1
      refine Effect.of_ite ?_ ?_
      · exact Effect.step (send_only _ _) h2 (by decide)
      · exact h2
theorem execPtpMasterSend_only a0 a1 a2 (s : State) : ∃ t, execPtpMasterSend a0 a1 a2 s = .next t ∧ Effect [.tm, .eth, .ag, .sent, .free] s t := by
  refine ⟨_, rfl, ?_⟩
  exact Effect.step (ptpMasterSend_only _ _ _) (Effect.step (elapse_only _ _) .refl (by decide)) (by decide)

end Sys2Proof.Machine
end

