-- ==== Sys2Proof/Laws/FrameCommit.lean ====
section
/-!
SUPPORT. Sys2Proof/Laws/FrameCommit.lean: what each operation of Machine/Commit.lean may change, one lemma per operation.
-/

namespace Sys2Proof.Machine
set_option Elab.async false

theorem writeCopies_only a0 a1 a2 (s : State) : Effect [.mem] s (writeCopies a0 a1 a2 s) := by
  unfold writeCopies
  split
  · exact .refl
  · refine Effect.of_foldl _ ?_ (fun y5 a6 h7 => ?_)
    · exact .refl
    · lift_lets -underBinder
      intro x8
      refine Effect.of_foldl _ ?_ (fun y9 a10 h11 => ?_)
      · exact h7
      · refine Effect.of_ite ?_ ?_
        · exact h11
        · refine Effect.of_foldl _ ?_ (fun y12 a13 h14 => ?_)
          · exact h11
          · exact Effect.step (wrN_only _ _ _) h14 (by decide)
theorem debugLock_only a0 (s : State) : Effect [.cn, .cp, .hp, .pw, .mm] s (debugLock a0 s) := by
  unfold debugLock
  lift_lets -underBinder
  intro x0 x1 x2 x3
  have h4 : Effect [.cn, .cp, .hp, .pw, .mm] s x3 := by
    exact Effect.set_pw (by decide) .refl
  clear_value x3
  refine Effect.of_ite ?_ ?_
  · exact Effect.step (report_only _ _ _ _ _) h4 (by decide)
  · exact h4
theorem debugAllow_only a0 a1 (s : State) : Effect [.cn, .cp, .hp, .pw, .mm] s (debugAllow a0 a1 s) := by
  unfold debugAllow
  refine Effect.of_ite ?_ ?_
  · exact Effect.step (debugLock_only _ _) .refl (by decide)
  · lift_lets -underBinder
    intro x0 x1 x2
    refine Effect.of_ite ?_ ?_
    · exact .refl
    · exact Effect.set_pw (by decide) .refl
theorem valueEffect_only a0 a1 a2 a3 (s : State) : Effect [.tm, .cn, .jn, .sp, .st, .md, .mc, .ap, .fb, .ev, .la, .lt, .cp, .hp, .can, .pw, .mm] s (valueEffect a0 a1 a2 a3 s) := by
  unfold valueEffect
  lift_lets -underBinder
  intro x0 x1 x2
  refine Effect.of_ite ?_ ?_
  · exact Effect.step (ltCommit_only _ _ _ _) .refl (by decide)
  · refine Effect.of_ite ?_ ?_
    · refine Effect.of_ite ?_ ?_
      · exact Effect.step (indexModeWritten_only _ _ _) .refl (by decide)
      · refine Effect.of_ite ?_ ?_
        · exact Effect.step (fbCommit_only _ _ _) .refl (by decide)
        · exact .refl
    · refine Effect.of_ite ?_ ?_
      · exact Effect.step (apwmSetMode_only _ _ _) .refl (by decide)
      · refine Effect.of_ite ?_ ?_
        · exact Effect.step (apwmSetMode_only _ _ _) .refl (by decide)
        · refine Effect.of_ite ?_ ?_
          · exact Effect.step (tripInput_only _ _ _ _) .refl (by decide)
          · refine Effect.of_ite ?_ ?_
            · refine Effect.of_ite ?_ ?_
              · exact Effect.step (loadAll_only _ _) (Effect.step (writeDuty_only _ _ _ _) .refl (by decide)) (by decide)
              · exact .refl
            · refine Effect.of_ite ?_ ?_
              · exact Effect.step (updStage_only _ _ _) .refl (by decide)
              · refine Effect.of_ite ?_ ?_
                · exact Effect.step (updMod_only _ _ _) .refl (by decide)
                · refine Effect.of_ite ?_ ?_
                  · exact Effect.step (updMachine_only _ _ _) .refl (by decide)
                  · refine Effect.of_ite ?_ ?_
                    · exact Effect.step (servoFree_only _) .refl (by decide)
                    · refine Effect.of_ite ?_ ?_
                      · exact Effect.step (canCommit_only _ _) .refl (by decide)
                      · refine Effect.of_ite ?_ ?_
                        · exact Effect.step (debugAllow_only _ _ _) .refl (by decide)
                        · exact .refl
theorem storeLive_only a0 (s : State) : Effect [.pm] s (storeLive a0 s) := by
  unfold storeLive
  lift_lets -underBinder
  intro x0 x1
  exact Effect.set_pm (by decide) .refl
theorem applyLive_only a0 (s : State) : Effect [.tm, .cn, .jn, .pm, .sp, .st, .md, .mc, .ap, .fb, .ev, .la, .lt, .cp, .hp, .can, .pw, .mm, .mem] s (applyLive a0 s).2 := by
  unfold applyLive
  lift_lets -underBinder
  intro x0
  split
  rename_i v4
  refine Effect.of_ite2 ?_ ?_
  · dsimp only
    have he5 := congrArg Prod.snd v4
    dsimp only at he5
    rw [← he5]
    refine Effect.of_ite2 ?_ ?_
    · exact Effect.step (fbClear_only _ _) .refl (by decide)
    · dsimp only
      exact .refl
  · lift_lets -underBinder
    intro x6 x7 x8 x9
    have h10 : Effect [.tm, .cn, .jn, .pm, .sp, .st, .md, .mc, .ap, .fb, .ev, .la, .lt, .cp, .hp, .can, .pw, .mm, .mem] s x9 := by
      refine Effect.set_pm (by decide) ?_
      have he11 := congrArg Prod.snd v4
      dsimp only at he11
      rw [← he11]
      refine Effect.of_ite2 ?_ ?_
      · exact Effect.step (fbClear_only _ _) .refl (by decide)
      · dsimp only
        exact .refl
    clear_value x9
    intro x12
    have h13 : Effect [.tm, .cn, .jn, .pm, .sp, .st, .md, .mc, .ap, .fb, .ev, .la, .lt, .cp, .hp, .can, .pw, .mm, .mem] s x12 := by
      refine Effect.of_ite ?_ ?_
      · exact Effect.step (writeCopies_only _ _ _ _) h10 (by decide)
      · exact h10
    clear_value x12
    intro x14
    have h15 : Effect [.tm, .cn, .jn, .pm, .sp, .st, .md, .mc, .ap, .fb, .ev, .la, .lt, .cp, .hp, .can, .pw, .mm, .mem] s x14 := by
      exact Effect.step (valueEffect_only _ _ _ _ _) h13 (by decide)
    clear_value x14
    dsimp only
    exact Effect.step (report_only _ _ _ _ _) (Effect.step (storeLive_only _ _) h15 (by decide)) (by decide)
theorem applyLive_only_of {a0} {s : State} {r t} (h : applyLive a0 s = (r, t)) : Effect [.tm, .cn, .jn, .pm, .sp, .st, .md, .mc, .ap, .fb, .ev, .la, .lt, .cp, .hp, .can, .pw, .mm, .mem] s t := by
  have := applyLive_only a0 s
  rwa [h] at this
theorem cmdSetParamLive_only a0 (s : State) : Effect [.tm, .cn, .jn, .pm, .sp, .st, .md, .mc, .ap, .fb, .ev, .la, .lt, .cp, .hp, .can, .pw, .mm, .mem] s (cmdSetParamLive a0 s).2 := by
  unfold cmdSetParamLive
  lift_lets -underBinder
  intro x0
  split
  · dsimp only
    exact .refl
  · lift_lets -underBinder
    intro x7 x8 x9
    refine Effect.of_ite2 ?_ ?_
    · dsimp only
      exact .refl
    · refine Effect.of_ite2 ?_ ?_
      · dsimp only
        exact Effect.set_pm (by decide) .refl
      · exact Effect.step (applyLive_only _ _) .refl (by decide)
theorem cmdSetParamLive_only_of {a0} {s : State} {r t} (h : cmdSetParamLive a0 s = (r, t)) : Effect [.tm, .cn, .jn, .pm, .sp, .st, .md, .mc, .ap, .fb, .ev, .la, .lt, .cp, .hp, .can, .pw, .mm, .mem] s t := by
  have := cmdSetParamLive_only a0 s
  rwa [h] at this
theorem storeMarked_only (s : State) : Effect [.pm] s (storeMarked s) := by
  unfold storeMarked
  exact Effect.set_pm (by decide) .refl
theorem identDone_only a0 a1 a2 a3 (s : State) : Effect [.cn, .pm, .cp, .hp, .mm] s (identDone a0 a1 a2 a3 s) := by
  unfold identDone
  lift_lets -underBinder
  intro x0 x1
  have h2 : Effect [.cn, .pm, .cp, .hp, .mm] s x1 := by
    refine Effect.of_ite ?_ ?_
    · refine Effect.of_foldl _ ?_ (fun y3 a4 h5 => ?_)
      · exact .refl
      · exact Effect.step (report_only _ _ _ _ _) h5 (by decide)
    · exact Effect.step (report_only _ _ _ _ _) .refl (by decide)
  clear_value x1
  refine Effect.of_foldl _ ?_ (fun y6 a7 h8 => ?_)
  · exact h2
  · lift_lets -underBinder
    intro x9
    refine Effect.of_ite ?_ ?_
    · exact Effect.step (updDraft_only _ _ _) h8 (by decide)
    · exact h8
theorem copyBanks_only (s : State) : Effect [.mem] s (copyBanks s) := by
  unfold copyBanks
  refine Effect.of_foldl _ ?_ (fun y0 a1 h2 => ?_)
  · exact .refl
  · exact Effect.step (copyRange_only _ _ _ _) h2 (by decide)
theorem prepareBanks_only a0 (s : State) : Effect [.mem] s (prepareBanks a0 s) := by
  unfold prepareBanks
  refine Effect.of_ite ?_ ?_
  · exact .refl
  · refine Effect.of_foldl _ ?_ (fun y0 a1 h2 => ?_)
    · exact Effect.step (copyBanks_only _) .refl (by decide)
    · split
      · exact Effect.step (writeCopies_only _ _ _ _) h2 (by decide)
      · exact h2
theorem commitNext_only (s : State) : Effect [.rg, .mem] s (commitNext s) := by
  unfold commitNext
  refine Effect.of_ite ?_ ?_
  · exact .refl
  · split
    · exact .refl
    · lift_lets -underBinder
      intro x6 x7 x8
      have h9 : Effect [.rg, .mem] s x8 := by
        exact Effect.set_rg (by decide) .refl
      clear_value x8
      refine Effect.of_ite ?_ ?_
      · exact Effect.step (prepareBanks_only _ _) h9 (by decide)
      · exact h9
theorem markerWritten_only (s : State) : Effect [.cn, .jn, .pm, .rg, .cp, .hp, .mm, .mem] s (markerWritten s) := by
  unfold markerWritten
  split
  · exact .refl
  · lift_lets -underBinder
    intro x5 x6 x7 x8
    have h9 : Effect [.cn, .jn, .pm, .rg, .cp, .hp, .mm, .mem] s x8 := by
      exact Effect.step (storeMarked_only _) (Effect.of_mk (x := s) .refl) (by decide)
    clear_value x8
    intro x10 x11
    have h12 : Effect [.cn, .jn, .pm, .rg, .cp, .hp, .mm, .mem] s x11 := by
      unfold x11
      split
      · lift_lets -underBinder
        intro x19
        exact Effect.step (identDone_only _ _ _ _ _) (Effect.step (finish_only _ _ _) (Effect.step (complete_only _ _ _ _ _ _ _) h9 (by decide)) (by decide)) (by decide)
      · lift_lets -underBinder
        intro x22
        have h23 : Effect [.cn, .jn, .pm, .rg, .cp, .hp, .mm, .mem] s x22 := by
          exact Effect.step (finish_only _ _ _) (Effect.step (complete_only _ _ _ _ _ _ _) h9 (by decide)) (by decide)
        clear_value x22
        intro x24
        have h25 : Effect [.cn, .jn, .pm, .rg, .cp, .hp, .mm, .mem] s x24 := by
          unfold x24
          split
          · exact Effect.step (updDraft_only _ _ _) h23 (by decide)
          · exact h23
        clear_value x24
        exact Effect.step (report_only _ _ _ _ _) h25 (by decide)
    clear_value x11
    exact Effect.step (commitNext_only _) h12 (by decide)
theorem keyChanged_only a0 (s : State) : Effect [.cn, .jn, .cp, .hp, .mm] s (keyChanged a0 s) := by
  unfold keyChanged
  lift_lets -underBinder
  intro x0 x1
  have h2 : Effect [.cn, .jn, .cp, .hp, .mm] s x1 := by
    exact Effect.set_jn (by decide) .refl
  clear_value x1
  exact Effect.step (report_only _ _ _ _ _) h2 (by decide)
theorem applyValues_only a0 a1 (s : State) : Effect [.tm, .cn, .jn, .pm, .sp, .st, .md, .mc, .ap, .fb, .ev, .la, .lt, .cp, .fd, .hp, .eth, .can, .pw, .mm, .mem] s (applyValues a0 a1 s) := by
  unfold applyValues
  lift_lets -underBinder
  intro x0 x1 x2 x3 x4 x5 x6
  have h7 : Effect [.tm, .cn, .jn, .pm, .sp, .st, .md, .mc, .ap, .fb, .ev, .la, .lt, .cp, .fd, .hp, .eth, .can, .pw, .mm, .mem] s x6 := by
    exact Effect.set_pm (by decide) .refl
  clear_value x6
  intro x8
  have h9 : Effect [.tm, .cn, .jn, .pm, .sp, .st, .md, .mc, .ap, .fb, .ev, .la, .lt, .cp, .fd, .hp, .eth, .can, .pw, .mm, .mem] s x8 := by
    refine Effect.of_foldl _ ?_ (fun y10 a11 h12 => ?_)
    · exact h7
    · exact Effect.step (valueEffect_only _ _ _ _ _) h12 (by decide)
  clear_value x8
  intro x13 x14
  have h15 : Effect [.tm, .cn, .jn, .pm, .sp, .st, .md, .mc, .ap, .fb, .ev, .la, .lt, .cp, .fd, .hp, .eth, .can, .pw, .mm, .mem] s x14 := by
    refine Effect.of_ite ?_ ?_
    · exact Effect.step (captureCommit_only _ _ _) h9 (by decide)
    · exact h9
  clear_value x14
  intro x16
  have h17 : Effect [.tm, .cn, .jn, .pm, .sp, .st, .md, .mc, .ap, .fb, .ev, .la, .lt, .cp, .fd, .hp, .eth, .can, .pw, .mm, .mem] s x16 := by
    refine Effect.of_ite ?_ ?_
    · exact Effect.step (joinCommit_only _ _) h15 (by decide)
    · exact h15
  clear_value x16
  intro x18
  have h19 : Effect [.tm, .cn, .jn, .pm, .sp, .st, .md, .mc, .ap, .fb, .ev, .la, .lt, .cp, .fd, .hp, .eth, .can, .pw, .mm, .mem] s x18 := by
    refine Effect.of_ite ?_ ?_
    · exact Effect.step (ethCommit_only _) h17 (by decide)
    · exact h17
  clear_value x18
  refine Effect.of_ite ?_ ?_
  · exact h19
  · exact Effect.step (keyChanged_only _ _) h19 (by decide)
theorem commitApply_only a0 a1 (s : State) : Effect [.tm, .cn, .jn, .pm, .rg, .sp, .st, .md, .mc, .ap, .fb, .ev, .la, .lt, .cp, .fd, .hp, .eth, .can, .pw, .mm, .mem] s (commitApply a0 a1 s) := by
  unfold commitApply
  lift_lets -underBinder
  intro x0 x1
  have h2 : Effect [.tm, .cn, .jn, .pm, .rg, .sp, .st, .md, .mc, .ap, .fb, .ev, .la, .lt, .cp, .fd, .hp, .eth, .can, .pw, .mm, .mem] s x1 := by
    exact Effect.set_rg (by decide) .refl
  clear_value x1
  intro x3
  have h4 : Effect [.tm, .cn, .jn, .pm, .rg, .sp, .st, .md, .mc, .ap, .fb, .ev, .la, .lt, .cp, .fd, .hp, .eth, .can, .pw, .mm, .mem] s x3 := by
    exact Effect.step (applyValues_only _ _ _) h2 (by decide)
  clear_value x3
  split
  · exact h4
  · refine Effect.of_ite ?_ ?_
    · refine Effect.of_foldl _ ?_ (fun y13 a14 h15 => ?_)
      · exact h4
      · exact Effect.step (updStage_only _ _ _) h15 (by decide)
    · exact Effect.step (updMachine_only _ _ _) h4 (by decide)
theorem storeUnmarked_only a0 (s : State) : Effect [.pm] s (storeUnmarked a0 s) := by
  unfold storeUnmarked
  lift_lets -underBinder
  intro x0 x1
  exact Effect.set_pm (by decide) .refl
theorem cmdStageCommit_only a0 (s : State) : Effect [.tm, .cn, .jn, .pm, .rg, .sp, .st, .md, .mc, .ap, .fb, .ev, .la, .lt, .cp, .fd, .hp, .eth, .can, .pw, .mm, .mem] s (cmdStageCommit a0 s).2 := by
  unfold cmdStageCommit
  lift_lets -underBinder
  intro x0 x1 x2 x3 x4 x5 x6 x7 x8
  have h9 : Effect [.tm, .cn, .jn, .pm, .rg, .sp, .st, .md, .mc, .ap, .fb, .ev, .la, .lt, .cp, .fd, .hp, .eth, .can, .pw, .mm, .mem] s x8 := by
    exact Effect.set_rg (by decide) .refl
  clear_value x8
  refine Effect.of_ite2 ?_ ?_
  · dsimp only
    exact .refl
  · refine Effect.of_ite2 ?_ ?_
    · dsimp only
      exact .refl
    · refine Effect.of_ite2 ?_ ?_
      · dsimp only
        exact .refl
      · refine Effect.of_ite2 ?_ ?_
        · dsimp only
          exact .refl
        · refine Effect.of_ite2 ?_ ?_
          · dsimp only
            exact Effect.step (markerWritten_only _) (Effect.step (commitApply_only _ _ _) (Effect.step (storeUnmarked_only _ _) (Effect.set_rg (by decide) .refl) (by decide)) (by decide)) (by decide)
          · refine Effect.of_ite2 ?_ ?_
            · dsimp only
              exact Effect.set_rg (by decide) .refl
            · dsimp only
              refine Effect.of_ite ?_ ?_
              · exact Effect.step (prepareBanks_only _ _) h9 (by decide)
              · exact h9
theorem cmdStageCommit_only_of {a0} {s : State} {r t} (h : cmdStageCommit a0 s = (r, t)) : Effect [.tm, .cn, .jn, .pm, .rg, .sp, .st, .md, .mc, .ap, .fb, .ev, .la, .lt, .cp, .fd, .hp, .eth, .can, .pw, .mm, .mem] s t := by
  have := cmdStageCommit_only a0 s
  rwa [h] at this
theorem commitFails_only a0 a1 (s : State) : Effect [.jn, .pm] s (commitFails a0 a1 s) := by
  unfold commitFails
  exact Effect.step (finish_only _ _ _) (Effect.set_pm (by decide) .refl) (by decide)
theorem commitDrop_only a0 (s : State) : Effect [.jn, .pm, .rg, .mem] s (commitDrop a0 s) := by
  unfold commitDrop
  split
  · exact .refl
  · lift_lets -underBinder
    intro x5 x6
    have h7 : Effect [.jn, .pm, .rg, .mem] s x6 := by
      exact Effect.set_rg (by decide) .refl
    clear_value x6
    refine Effect.step (commitNext_only _) ?_ (by decide)
    refine Effect.of_ite ?_ ?_
    · exact Effect.step (finish_only _ _ _) h7 (by decide)
    · exact Effect.step (commitFails_only _ _ _) h7 (by decide)
theorem liveNext_only (s : State) : Effect [.tm, .cn, .jn, .pm, .rg, .sp, .st, .md, .mc, .ap, .fb, .ev, .la, .lt, .cp, .hp, .can, .pw, .mm, .mem] s (liveNext s) := by
  unfold liveNext
  split
  · exact .refl
  · split
    rename_i v9
    lift_lets -underBinder
    intro x10
    have h11 : Effect [.tm, .cn, .jn, .pm, .rg, .sp, .st, .md, .mc, .ap, .fb, .ev, .la, .lt, .cp, .hp, .can, .pw, .mm, .mem] s x10 := by
      exact Effect.step (finish_only _ _ _) (Effect.step (applyLive_only_of v9) (Effect.set_pm (by decide) .refl) (by decide)) (by decide)
    clear_value x10
    split
    · refine Effect.of_ite ?_ ?_
      · lift_lets -underBinder
        intro x15 x16
        have h17 : Effect [.tm, .cn, .jn, .pm, .rg, .sp, .st, .md, .mc, .ap, .fb, .ev, .la, .lt, .cp, .hp, .can, .pw, .mm, .mem] s x16 := by
          exact Effect.set_rg (by decide) h11
        clear_value x16
        refine Effect.of_ite ?_ ?_
        · exact Effect.step (prepareBanks_only _ _) h17 (by decide)
        · exact h17
      · exact h11
    · exact h11
theorem liveAll_only (n : Nat) (s : State) : Effect [.tm, .cn, .jn, .pm, .rg, .sp, .st, .md, .mc, .ap, .fb, .ev, .la, .lt, .cp, .hp, .can, .pw, .mm, .mem] s (liveAll n s) := by
  induction n generalizing s with
  | zero => exact Effect.refl
  | succ n ih =>
    unfold liveAll
    split
    · exact Effect.refl
    · exact Effect.step (ih _) (liveNext_only ..) (fun _ h => h)
theorem banksPrepared_only a0 (s : State) : Effect [.tm, .cn, .jn, .pm, .rg, .sp, .st, .md, .mc, .ap, .fb, .ev, .la, .lt, .cp, .fd, .hp, .eth, .can, .pw, .mm, .mem] s (banksPrepared a0 s) := by
  unfold banksPrepared
  split
  · exact .refl
  · refine Effect.of_ite ?_ ?_
    · exact .refl
    · refine Effect.of_ite ?_ ?_
      · exact Effect.step (commitDrop_only _ _) .refl (by decide)
      · lift_lets -underBinder
        intro x5 x6
        have h7 : Effect [.tm, .cn, .jn, .pm, .rg, .sp, .st, .md, .mc, .ap, .fb, .ev, .la, .lt, .cp, .fd, .hp, .eth, .can, .pw, .mm, .mem] s x6 := by
          exact Effect.step (storeUnmarked_only _ _) .refl (by decide)
        clear_value x6
        intro x8 x9
        refine Effect.of_ite ?_ ?_
        · exact Effect.step (commitDrop_only _ _) .refl (by decide)
        · refine Effect.of_ite ?_ ?_
          · exact Effect.set_rg (by decide) h7
          · exact Effect.step (commitApply_only _ _ _) h7 (by decide)
theorem stampReached_only (s : State) : Effect [.tm, .cn, .jn, .pm, .rg, .sp, .st, .md, .mc, .ap, .fb, .ev, .la, .lt, .cp, .fd, .hp, .eth, .can, .pw, .mm, .mem] s (stampReached s) := by
  unfold stampReached
  split
  · exact .refl
  · refine Effect.of_ite ?_ ?_
    · exact .refl
    · split
      · refine Effect.of_ite ?_ ?_
        · exact .refl
        · exact Effect.step (commitApply_only _ _ _) .refl (by decide)
      · exact Effect.step (commitApply_only _ _ _) .refl (by decide)
theorem execCommitStampReached_only a0 (s : State) : ∃ t, execCommitStampReached a0 s = .next t ∧ Effect [.tm, .cn, .jn, .pm, .rg, .sp, .st, .md, .mc, .ap, .fb, .ev, .la, .lt, .cp, .fd, .hp, .eth, .can, .pw, .ag, .mm, .mem, .free] s t := by
  refine ⟨_, rfl, ?_⟩
  exact Effect.step (stampReached_only _) (Effect.step (elapse_only _ _) .refl (by decide)) (by decide)
theorem execCommitBanksPrepared_only a0 a1 (s : State) : ∃ t, execCommitBanksPrepared a0 a1 s = .next t ∧ Effect [.tm, .cn, .jn, .pm, .rg, .sp, .st, .md, .mc, .ap, .fb, .ev, .la, .lt, .cp, .fd, .hp, .eth, .can, .pw, .ag, .mm, .mem, .free] s t := by
  refine ⟨_, rfl, ?_⟩
  exact Effect.step (banksPrepared_only _ _) (Effect.step (elapse_only _ _) .refl (by decide)) (by decide)
theorem execCommitMarkerWritten_only a0 (s : State) : ∃ t, execCommitMarkerWritten a0 s = .next t ∧ Effect [.tm, .cn, .jn, .pm, .rg, .cp, .hp, .ag, .mm, .mem, .free] s t := by
  refine ⟨_, rfl, ?_⟩
  exact Effect.step (markerWritten_only _) (Effect.step (elapse_only _ _) .refl (by decide)) (by decide)

end Sys2Proof.Machine
end

