-- ==== Sys2Proof/Laws/FrameOperands.lean ====
section
/-!
SUPPORT. Sys2Proof/Laws/FrameOperands.lean: what each operation of Machine/Operands.lean may change, one lemma per operation.
-/

namespace Sys2Proof.Machine
set_option Elab.async false

theorem debugStages_only a0 (s : State) : Effect [.cn, .st, .mc, .cp, .hp, .mm] s (debugStages a0 s) := by
  unfold debugStages
  lift_lets -underBinder
  intro x0 x1
  have h2 : Effect [.cn, .st, .mc, .cp, .hp, .mm] s x1 := by
    exact Effect.step (report_only _ _ _ _ _) .refl (by decide)
  clear_value x1
  refine Effect.of_foldl _ ?_ (fun y3 a4 h5 => ?_)
  · exact h2
  · refine Effect.of_ite ?_ ?_
    · exact h5
    · lift_lets -underBinder
      intro x6 x7
      have h8 : Effect [.cn, .st, .mc, .cp, .hp, .mm] s x7 := by
        refine Effect.of_foldl _ ?_ (fun y9 a10 h11 => ?_)
        · exact h5
        · exact Effect.step (updStage_only _ _ _) h11 (by decide)
      clear_value x7
      refine Effect.of_ite ?_ ?_
      · exact h8
      · exact Effect.step (updMachine_only _ _ _) h8 (by decide)
theorem spurYield_only a0 a1 (s : State) : Effect [.cn, .sp, .st, .mc, .cp, .hp, .mm] s (spurYield a0 a1 s) := by
  unfold spurYield
  lift_lets -underBinder
  intro x0 x1
  have h2 : Effect [.cn, .sp, .st, .mc, .cp, .hp, .mm] s x1 := by
    exact Effect.step (updSpur_only _ _ _) .refl (by decide)
  clear_value x1
  refine Effect.of_ite ?_ ?_
  · exact Effect.step (debugStages_only _ _) h2 (by decide)
  · exact h2
theorem spurStep_only {ps : List Part} (k : Fin 8) (cost : Nat) (f : State → SpurSt → SpurSt → State × SpurSt)
    (hf : ∀ s r w, Effect ps s (f s r w).1) (hp : ∀ q ∈ [.cn, .sp, .st, .mc, .cp, .hp, .mm], q ∈ ps) (s : State) : Effect ps s (spurStep k cost f s) := by
  unfold spurStep
  exact Effect.of_ite .refl (Effect.step (spurYield_only _ _ _) (hf _ _ _) hp)
theorem spurReg_only (k : Fin 8) (f : SpurSt → SpurSt → SpurSt) (s : State) : Effect [.cn, .sp, .st, .mc, .cp, .hp, .mm] s (spurReg k f s) :=
  spurStep_only (ps := [.cn, .sp, .st, .mc, .cp, .hp, .mm]) _ _ _ (fun _ _ _ => .refl) (by decide) _
theorem st16_only (s : State) a1 a2 a3 a4 : Effect [.mem] s (State.st16 s a1 a2 a3 a4) := by
  unfold State.st16
  split
  · exact Effect.step (wrN_only _ _ _) .refl (by decide)
  · exact .refl
theorem applyPost_only (s : State) a1 a2 a3 a4 a5 : Effect [.free] s (applyPost s a1 a2 a3 a4 a5).1 := by
  unfold applyPost
  split
  · dsimp only
    exact .refl
  · dsimp only
    exact .refl
  · split
    · dsimp only
      exact .refl
    · split
      rename_i v12
      dsimp only
      exact Effect.step (take_only_of v12) .refl (by decide)
theorem applyPost_only_of {s : State} {a1} {a2} {a3} {a4} {a5} {r t} (h : applyPost s a1 a2 a3 a4 a5 = (t, r)) : Effect [.free] s t := by
  have := applyPost_only s a1 a2 a3 a4 a5
  rwa [h] at this
theorem macSrc_only_of {k : Nat} {b : Bool} {r : SpurSt} {x : MacSrc} {s : State} {w : SpurSt} {v t u}
    (h : macSrc k b r x s w = (v, t, u)) : Effect [.free] s t := by
  cases x with
  | reg d => cases h; exact .refl
  | mem a =>
    have h2 := applyPost_only s r w (dualReg b a) 1 (dualForm b a.mod)
    simp only [macSrc] at h
    cases h
    exact h2
theorem dualPair_only_of {k : Nat} {b : Bool} {r : SpurSt} {a : DualAddr} {s : State} {w : SpurSt} {v t u}
    (h : dualPair k b r a s w = (v, t, u)) : Effect [.free] s t := by
  have h2 := applyPost_only s r w (dualReg b a) 2 (dualForm b a.mod)
  simp only [dualPair] at h
  cases h
  exact h2
theorem st32_only (s : State) a1 a2 a3 a4 : Effect [.mem] s (State.st32 s a1 a2 a3 a4) := by
  unfold State.st32
  exact Effect.step (st16_only _ _ _ _ _) (Effect.step (st16_only _ _ _ _ _) .refl (by decide)) (by decide)

end Sys2Proof.Machine
end

