-- ==== Sys2Proof/Laws/FrameRidge.lean ====
section
/-!
SUPPORT. Sys2Proof/Laws/FrameRidge.lean: what each operation of Machine/Ridge.lean may change, one lemma per operation.
-/

namespace Sys2Proof.Machine
set_option Elab.async false

theorem loadBanks_only (s : State) : Effect [.mem] s (loadBanks s) := by
  unfold loadBanks
  split
  · exact .refl
  · refine Effect.of_foldl _ ?_ (fun y5 a6 h7 => ?_)
    · exact .refl
    · exact Effect.step (writeCopies_only _ _ _ _) h7 (by decide)
theorem loadPrograms_only (s : State) : Effect [.mem] s (loadPrograms s) := by
  unfold loadPrograms
  split
  · exact .refl
  · refine Effect.of_foldl _ ?_ (fun y5 a6 h7 => ?_)
    · exact .refl
    · refine Effect.of_ite ?_ ?_
      · exact h7
      · exact Effect.step (wrN_only _ _ _) h7 (by decide)
theorem countFailure_only a0 (s : State) : Effect [.cn, .rg, .cp, .hp, .mm] s (countFailure a0 s) := by
  unfold countFailure
  lift_lets -underBinder
  intro x0 x1 x2
  have h3 : Effect [.cn, .rg, .cp, .hp, .mm] s x2 := by
    exact Effect.set_rg (by decide) .refl
  clear_value x2
  intro x4
  refine Effect.of_ite ?_ ?_
  · exact Effect.step (report_only _ _ _ _ _) (Effect.set_rg (by decide) h3) (by decide)
  · exact h3
theorem spurRequest_only a0 a1 (s : State) : Effect [.cn, .sp, .st, .mc, .cp, .hp, .mm] s (spurRequest a0 a1 s) := by
  unfold spurRequest
  lift_lets -underBinder
  intro x0
  refine Effect.of_ite ?_ ?_
  · exact Effect.step (spurYield_only _ _ _) .refl (by decide)
  · exact Effect.step (spurYield_only _ _ _) .refl (by decide)
theorem commitLost_only (s : State) : Effect [.cn, .jn, .pm, .rg, .cp, .hp, .mm, .mem] s (commitLost s) := by
  unfold commitLost
  split
  · exact .refl
  · exact Effect.step (report_only _ _ _ _ _) (Effect.step (commitDrop_only _ _) .refl (by decide)) (by decide)
theorem commitAtStop_only a0 (s : State) : Effect [.tm, .cn, .jn, .pm, .rg, .sp, .st, .md, .mc, .ap, .fb, .ev, .la, .lt, .cp, .fd, .hp, .eth, .can, .pw, .mm, .mem] s (commitAtStop a0 s) := by
  unfold commitAtStop
  refine Effect.of_ite ?_ ?_
  · exact Effect.step (commitLost_only _) .refl (by decide)
  · split
    · refine Effect.of_ite ?_ ?_
      · exact .refl
      · split
        · refine Effect.of_ite ?_ ?_
          · exact .refl
          · exact Effect.step (commitApply_only _ _ _) .refl (by decide)
        · exact Effect.step (commitApply_only _ _ _) .refl (by decide)
    · exact .refl
theorem ridgeStop_only a0 (s : State) : Effect [.tm, .cn, .jn, .pm, .rg, .sp, .st, .md, .mc, .ap, .gp, .fb, .ev, .la, .rm, .ax, .pg, .lt, .sf, .cp, .fd, .hp, .eth, .can, .pw, .mm, .mem] s (ridgeStop a0 s) := by
  unfold ridgeStop
  refine Effect.of_ite ?_ ?_
  · exact .refl
  · lift_lets -underBinder
    intro x0 x1
    have h2 : Effect [.tm, .cn, .jn, .pm, .rg, .sp, .st, .md, .mc, .ap, .gp, .fb, .ev, .la, .rm, .ax, .pg, .lt, .sf, .cp, .fd, .hp, .eth, .can, .pw, .mm, .mem] s x1 := by
      exact Effect.step (captureRidgeStop_only _) .refl (by decide)
    clear_value x1
    intro x3
    have h4 : Effect [.tm, .cn, .jn, .pm, .rg, .sp, .st, .md, .mc, .ap, .gp, .fb, .ev, .la, .rm, .ax, .pg, .lt, .sf, .cp, .fd, .hp, .eth, .can, .pw, .mm, .mem] s x3 := by
      refine Effect.of_foldl _ ?_ (fun y5 a6 h7 => ?_)
      · exact h2
      · exact Effect.step (spurRequest_only _ _ _) h7 (by decide)
    clear_value x3
    intro x8 x9
    have h10 : Effect [.tm, .cn, .jn, .pm, .rg, .sp, .st, .md, .mc, .ap, .gp, .fb, .ev, .la, .rm, .ax, .pg, .lt, .sf, .cp, .fd, .hp, .eth, .can, .pw, .mm, .mem] s x9 := by
      exact Effect.of_mk (x := x3) h4
    clear_value x9
    intro x11
    have h12 : Effect [.tm, .cn, .jn, .pm, .rg, .sp, .st, .md, .mc, .ap, .gp, .fb, .ev, .la, .rm, .ax, .pg, .lt, .sf, .cp, .fd, .hp, .eth, .can, .pw, .mm, .mem] s x11 := by
      exact Effect.step (report_only _ _ _ _ _) h10 (by decide)
    clear_value x11
    intro x13
    have h14 : Effect [.tm, .cn, .jn, .pm, .rg, .sp, .st, .md, .mc, .ap, .gp, .fb, .ev, .la, .rm, .ax, .pg, .lt, .sf, .cp, .fd, .hp, .eth, .can, .pw, .mm, .mem] s x13 := by
      exact Effect.step (axesStop_only _) (Effect.step (stagesStop_only _) h12 (by decide)) (by decide)
    clear_value x13
    intro x15 x16
    have h17 : Effect [.tm, .cn, .jn, .pm, .rg, .sp, .st, .md, .mc, .ap, .gp, .fb, .ev, .la, .rm, .ax, .pg, .lt, .sf, .cp, .fd, .hp, .eth, .can, .pw, .mm, .mem] s x16 := by
      refine Effect.of_ite ?_ ?_
      · exact Effect.set_sf (by decide) h14
      · exact h14
    clear_value x16
    intro x18
    have h19 : Effect [.tm, .cn, .jn, .pm, .rg, .sp, .st, .md, .mc, .ap, .gp, .fb, .ev, .la, .rm, .ax, .pg, .lt, .sf, .cp, .fd, .hp, .eth, .can, .pw, .mm, .mem] s x18 := by
      exact Effect.step (commitAtStop_only _ _) h17 (by decide)
    clear_value x18
    intro x20
    have h21 : Effect [.tm, .cn, .jn, .pm, .rg, .sp, .st, .md, .mc, .ap, .gp, .fb, .ev, .la, .rm, .ax, .pg, .lt, .sf, .cp, .fd, .hp, .eth, .can, .pw, .mm, .mem] s x20 := by
      exact Effect.step (liveAll_only _ _) h19 (by decide)
    clear_value x20
    exact Effect.step (cmpDueAll_only _) (Effect.step (cmpFrame_only _) (Effect.step (ltFrame_only _) h21 (by decide)) (by decide)) (by decide)
theorem spurLost_only a0 a1 a2 (s : State) : Effect [.tm, .cn, .jn, .pm, .rg, .sp, .st, .md, .mc, .ap, .gp, .fb, .ev, .la, .rm, .ax, .pg, .lt, .sf, .cp, .fd, .hp, .eth, .can, .pw, .mm, .mem] s (spurLost a0 a1 a2 s) := by
  unfold spurLost
  lift_lets -underBinder
  intro x0 x1 x2
  have h3 : Effect [.tm, .cn, .jn, .pm, .rg, .sp, .st, .md, .mc, .ap, .gp, .fb, .ev, .la, .rm, .ax, .pg, .lt, .sf, .cp, .fd, .hp, .eth, .can, .pw, .mm, .mem] s x2 := by
    refine Effect.of_foldl _ ?_ (fun y4 a5 h6 => ?_)
    · exact .refl
    · lift_lets -underBinder
      intro x7
      have h8 : Effect [.tm, .cn, .jn, .pm, .rg, .sp, .st, .md, .mc, .ap, .gp, .fb, .ev, .la, .rm, .ax, .pg, .lt, .sf, .cp, .fd, .hp, .eth, .can, .pw, .mm, .mem] s x7 := by
        refine Effect.of_foldl _ ?_ (fun y9 a10 h11 => ?_)
        · exact h6
        · exact Effect.step (updStage_only _ _ _) h11 (by decide)
      clear_value x7
      exact Effect.step (updMachine_only _ _ _) h8 (by decide)
  clear_value x2
  intro x12 x13
  have h14 : Effect [.tm, .cn, .jn, .pm, .rg, .sp, .st, .md, .mc, .ap, .gp, .fb, .ev, .la, .rm, .ax, .pg, .lt, .sf, .cp, .fd, .hp, .eth, .can, .pw, .mm, .mem] s x13 := by
    exact Effect.step (spurRequest_only _ _ _) (Effect.step (identFailover_only _) (Effect.set_rg (by decide) h3) (by decide)) (by decide)
  clear_value x13
  refine Effect.of_ite ?_ ?_
  · exact Effect.step (report_only _ _ _ _ _) (Effect.step (ridgeStop_only _ _) .refl (by decide)) (by decide)
  · refine Effect.of_ite ?_ ?_
    · exact Effect.step (ridgeStop_only _ _) .refl (by decide)
    · split
      · refine Effect.of_ite ?_ ?_
        · exact Effect.step (commitLost_only _) h14 (by decide)
        · exact h14
      · exact h14
theorem spurFails_only a0 a1 a2 (s : State) : Effect [.tm, .cn, .jn, .pm, .rg, .sp, .st, .md, .mc, .ap, .gp, .fb, .ev, .la, .rm, .ax, .pg, .lt, .sf, .cp, .fd, .hp, .eth, .can, .pw, .mm, .mem] s (spurFails a0 a1 a2 s) := by
  unfold spurFails
  refine Effect.of_ite ?_ ?_
  · exact .refl
  · lift_lets -underBinder
    intro x0
    have h1 : Effect [.tm, .cn, .jn, .pm, .rg, .sp, .st, .md, .mc, .ap, .gp, .fb, .ev, .la, .rm, .ax, .pg, .lt, .sf, .cp, .fd, .hp, .eth, .can, .pw, .mm, .mem] s x0 := by
      exact Effect.step (report_only _ _ _ _ _) .refl (by decide)
    clear_value x0
    intro x2 x3
    have h4 : Effect [.tm, .cn, .jn, .pm, .rg, .sp, .st, .md, .mc, .ap, .gp, .fb, .ev, .la, .rm, .ax, .pg, .lt, .sf, .cp, .fd, .hp, .eth, .can, .pw, .mm, .mem] s x3 := by
      exact Effect.step (countFailure_only _ _) (Effect.set_rg (by decide) h1) (by decide)
    clear_value x3
    exact Effect.step (spurLost_only _ _ _ _) h4 (by decide)
theorem reservedEncoding_only a0 (s : State) : Effect [.tm, .cn, .jn, .pm, .rg, .sp, .st, .md, .mc, .ap, .gp, .fb, .ev, .la, .rm, .ax, .pg, .lt, .sf, .cp, .fd, .hp, .eth, .can, .pw, .mm, .mem] s (reservedEncoding a0 s) := by
  unfold reservedEncoding
  lift_lets -underBinder
  intro x0
  refine Effect.of_ite ?_ ?_
  · exact .refl
  · exact Effect.step (spurFails_only _ _ _ _) (Effect.step (updSpur_only _ _ _) .refl (by decide)) (by decide)
theorem unavailableStart_only (s : State) : Effect [.cn, .mc, .sf, .cp, .hp, .mm] s (unavailableStart s) := by
  unfold unavailableStart
  refine Effect.of_foldl _ ?_ (fun y0 a1 h2 => ?_)
  · exact .refl
  · split
    · exact h2
    · lift_lets -underBinder
      intro x8 x9
      have h10 : Effect [.cn, .mc, .sf, .cp, .hp, .mm] s x9 := by
        exact Effect.step (updMachine_only _ _ _) h2 (by decide)
      clear_value x9
      refine Effect.of_ite ?_ ?_
      · exact h10
      · exact Effect.step (makeUnavailable_only _ _ _) h10 (by decide)
theorem ridgeRun_only a0 a1 (s : State) : Effect [.cn, .rg, .sp, .st, .md, .mc, .ap, .ax, .lt, .sf, .cp, .hp, .mm, .mem] s (ridgeRun a0 a1 s) := by
  unfold ridgeRun
  lift_lets -underBinder
  intro x0 x1
  have h2 : Effect [.cn, .rg, .sp, .st, .md, .mc, .ap, .ax, .lt, .sf, .cp, .hp, .mm, .mem] s x1 := by
    exact Effect.of_mk (x := s) .refl
  clear_value x1
  intro x3
  have h4 : Effect [.cn, .rg, .sp, .st, .md, .mc, .ap, .ax, .lt, .sf, .cp, .hp, .mm, .mem] s x3 := by
    refine Effect.of_foldl _ ?_ (fun y5 a6 h7 => ?_)
    · exact h2
    · exact Effect.step (updMod_only _ _ _) h7 (by decide)
  clear_value x3
  intro x8
  have h9 : Effect [.cn, .rg, .sp, .st, .md, .mc, .ap, .ax, .lt, .sf, .cp, .hp, .mm, .mem] s x8 := by
    exact Effect.step (loadBanks_only _) (Effect.step (loadPrograms_only _) h4 (by decide)) (by decide)
  clear_value x8
  intro x10
  have h11 : Effect [.cn, .rg, .sp, .st, .md, .mc, .ap, .ax, .lt, .sf, .cp, .hp, .mm, .mem] s x10 := by
    exact Effect.step (report_only _ _ _ _ _) h9 (by decide)
  clear_value x10
  intro x12
  have h13 : Effect [.cn, .rg, .sp, .st, .md, .mc, .ap, .ax, .lt, .sf, .cp, .hp, .mm, .mem] s x12 := by
    exact Effect.step (ltStart_only _ _) (Effect.step (apwmRidgeStart_only _) (Effect.step (unavailableStart_only _) h11 (by decide)) (by decide)) (by decide)
  clear_value x12
  intro x14
  exact Effect.set_rg (by decide) h13
theorem slotShadow_only a0 a1 (s : State) : Effect [.st, .ap] s (slotShadow a0 a1 s) := by
  unfold slotShadow
  refine Effect.of_ite ?_ ?_
  · refine Effect.of_ite ?_ ?_
    · exact .refl
    · refine Effect.of_foldl _ ?_ (fun y0 a1 h2 => ?_)
      · exact .refl
      · exact Effect.step (writeDuty_only _ _ _ _) h2 (by decide)
  · refine Effect.of_ite ?_ ?_
    · lift_lets -underBinder
      intro x3
      exact Effect.step (updApwm_only _ _ _) .refl (by decide)
    · exact .refl
theorem execSpurCheckFailed_only a0 a1 a2 (s : State) : ∃ t, execSpurCheckFailed a0 a1 a2 s = .next t ∧ Effect [.tm, .cn, .jn, .pm, .rg, .sp, .st, .md, .mc, .ap, .gp, .fb, .ev, .la, .rm, .ax, .pg, .lt, .sf, .cp, .fd, .hp, .eth, .can, .pw, .ag, .mm, .mem, .free] s t := by
  refine ⟨_, rfl, ?_⟩
  exact Effect.step (spurFails_only _ _ _ _) (Effect.step (elapse_only _ _) .refl (by decide)) (by decide)
theorem retireSpur_only a0 (s : State) : Effect [.tm, .cn, .jn, .pm, .rg, .sp, .st, .md, .mc, .ap, .gp, .fb, .ev, .la, .rm, .ax, .pg, .lt, .sf, .cp, .fd, .hp, .eth, .can, .pw, .mm, .mem] s (retireSpur a0 s) := by
  unfold retireSpur
  lift_lets -underBinder
  intro x0 x1 x2
  have h3 : Effect [.tm, .cn, .jn, .pm, .rg, .sp, .st, .md, .mc, .ap, .gp, .fb, .ev, .la, .rm, .ax, .pg, .lt, .sf, .cp, .fd, .hp, .eth, .can, .pw, .mm, .mem] s x2 := by
    exact Effect.set_rg (by decide) .refl
  clear_value x2
  intro x4
  have h5 : Effect [.tm, .cn, .jn, .pm, .rg, .sp, .st, .md, .mc, .ap, .gp, .fb, .ev, .la, .rm, .ax, .pg, .lt, .sf, .cp, .fd, .hp, .eth, .can, .pw, .mm, .mem] s x4 := by
    exact Effect.step (report_only _ _ _ _ _) h3 (by decide)
  clear_value x4
  refine Effect.of_ite ?_ ?_
  · exact Effect.step (spurLost_only _ _ _ _) h5 (by decide)
  · exact h5
theorem retireFrame_only (s : State) : Effect [.tm, .cn, .jn, .pm, .rg, .sp, .st, .md, .mc, .ap, .gp, .fb, .ev, .la, .rm, .ax, .pg, .lt, .sf, .cp, .fd, .hp, .eth, .can, .pw, .mm, .mem] s (retireFrame s) := by
  unfold retireFrame
  refine Effect.of_foldl _ ?_ (fun y0 a1 h2 => ?_)
  · exact .refl
  · refine Effect.of_ite ?_ ?_
    · exact Effect.step (retireSpur_only _ _) h2 (by decide)
    · exact h2
theorem fallbackSwitch_only a0 (s : State) : Effect [.cn, .jn, .rg, .st, .mc, .gp, .ax, .pg, .lt, .sf, .cp, .hp, .mm] s (fallbackSwitch a0 s) := by
  unfold fallbackSwitch
  lift_lets -underBinder
  intro x0 x1 x2 x3
  have h4 : Effect [.cn, .jn, .rg, .st, .mc, .gp, .ax, .pg, .lt, .sf, .cp, .hp, .mm] s x3 := by
    exact Effect.of_mk (x := s) .refl
  clear_value x3
  intro x5
  have h6 : Effect [.cn, .jn, .rg, .st, .mc, .gp, .ax, .pg, .lt, .sf, .cp, .hp, .mm] s x5 := by
    exact Effect.step (report_only _ _ _ _ _) h4 (by decide)
  clear_value x5
  intro x7
  have h8 : Effect [.cn, .jn, .rg, .st, .mc, .gp, .ax, .pg, .lt, .sf, .cp, .hp, .mm] s x7 := by
    refine Effect.of_foldl _ ?_ (fun y9 a10 h11 => ?_)
    · exact h6
    · exact Effect.step (report_only _ _ _ _ _) h11 (by decide)
  clear_value x7
  intro x12
  have h13 : Effect [.cn, .jn, .rg, .st, .mc, .gp, .ax, .pg, .lt, .sf, .cp, .hp, .mm] s x12 := by
    refine Effect.of_foldl _ ?_ (fun y14 a15 h16 => ?_)
    · exact h8
    · refine Effect.of_ite ?_ ?_
      · lift_lets -underBinder
        intro x17
        have h18 : Effect [.cn, .jn, .rg, .st, .mc, .gp, .ax, .pg, .lt, .sf, .cp, .hp, .mm] s x17 := by
          exact Effect.step (updMachine_only _ _ _) h16 (by decide)
        clear_value x17
        refine Effect.of_foldl _ ?_ (fun y19 a20 h21 => ?_)
        · exact h18
        · exact Effect.step (updStage_only _ _ _) h21 (by decide)
      · refine Effect.of_ite ?_ ?_
        · exact h16
        · exact Effect.step (makeUnavailable_only _ _ _) h16 (by decide)
  clear_value x12
  exact Effect.step (axesDropped_only _) (Effect.step (ltCauseAll_only _ _ _) h13 (by decide)) (by decide)
theorem frameCommit_only a0 (s : State) : Effect [.tm, .cn, .jn, .pm, .rg, .sp, .st, .md, .mc, .ap, .fb, .ev, .la, .lt, .cp, .fd, .hp, .eth, .can, .pw, .mm, .mem] s (frameCommit a0 s).1 := by
  unfold frameCommit
  split
  · dsimp only
    exact .refl
  · refine Effect.of_ite1 ?_ ?_
    · dsimp only
      exact .refl
    · refine Effect.of_ite1 ?_ ?_
      · dsimp only
        exact Effect.step (commitLost_only _) .refl (by decide)
      · dsimp only
        exact Effect.step (commitApply_only _ _ _) .refl (by decide)
theorem frameCommit_only_of {a0} {s : State} {r t} (h : frameCommit a0 s = (t, r)) : Effect [.tm, .cn, .jn, .pm, .rg, .sp, .st, .md, .mc, .ap, .fb, .ev, .la, .lt, .cp, .fd, .hp, .eth, .can, .pw, .mm, .mem] s t := by
  have := frameCommit_only a0 s
  rwa [h] at this
theorem machineFrame_only (s : State) : Effect [.cn, .jn, .mc, .cp, .hp, .mm] s (machineFrame s) := by
  unfold machineFrame
  lift_lets -underBinder
  intro x0
  have h1 : Effect [.cn, .jn, .mc, .cp, .hp, .mm] s x0 := by
    refine Effect.of_foldl _ ?_ (fun y2 a3 h4 => ?_)
    · exact .refl
    · refine Effect.of_ite ?_ ?_
      · exact Effect.step (identDemand_only _ _) h4 (by decide)
      · exact h4
  clear_value x0
  exact Effect.set_mc (by decide) h1
theorem frameActions_only (s : State) : Effect [.tm, .cn, .jn, .pm, .rg, .sp, .st, .md, .mc, .ap, .gp, .fb, .ev, .la, .rm, .ax, .pg, .lt, .sf, .cp, .fd, .hp, .eth, .can, .pw, .mm, .mem] s (frameActions s) := by
  unfold frameActions
  lift_lets -underBinder
  intro x0
  have h1 : Effect [.tm, .cn, .jn, .pm, .rg, .sp, .st, .md, .mc, .ap, .gp, .fb, .ev, .la, .rm, .ax, .pg, .lt, .sf, .cp, .fd, .hp, .eth, .can, .pw, .mm, .mem] s x0 := by
    exact Effect.step (retireFrame_only _) .refl (by decide)
  clear_value x0
  intro x2 x3 x4
  have h5 : Effect [.tm, .cn, .jn, .pm, .rg, .sp, .st, .md, .mc, .ap, .gp, .fb, .ev, .la, .rm, .ax, .pg, .lt, .sf, .cp, .fd, .hp, .eth, .can, .pw, .mm, .mem] s x4 := by
    unfold x4
    clear_value x2
    split
    · exact Effect.step (fallbackSwitch_only _ _) h1 (by decide)
    · exact h1
  clear_value x4
  intro x9
  have h10 : Effect [.tm, .cn, .jn, .pm, .rg, .sp, .st, .md, .mc, .ap, .gp, .fb, .ev, .la, .rm, .ax, .pg, .lt, .sf, .cp, .fd, .hp, .eth, .can, .pw, .mm, .mem] s x9 := by
    exact Effect.step (dropBanks_only _) h5 (by decide)
  clear_value x9
  intro x11
  refine Effect.of_ite ?_ ?_
  · exact h1
  · split
    rename_i v15
    lift_lets -underBinder
    intro x16
    have h17 : Effect [.tm, .cn, .jn, .pm, .rg, .sp, .st, .md, .mc, .ap, .gp, .fb, .ev, .la, .rm, .ax, .pg, .lt, .sf, .cp, .fd, .hp, .eth, .can, .pw, .mm, .mem] s x16 := by
      refine Effect.of_ite ?_ ?_
      · exact Effect.step (frameCommit_only_of v15) h10 (by decide)
      · exact Effect.step (liveNext_only _) (Effect.step (frameCommit_only_of v15) h10 (by decide)) (by decide)
    clear_value x16
    intro x18
    have h19 : Effect [.tm, .cn, .jn, .pm, .rg, .sp, .st, .md, .mc, .ap, .gp, .fb, .ev, .la, .rm, .ax, .pg, .lt, .sf, .cp, .fd, .hp, .eth, .can, .pw, .mm, .mem] s x18 := by
      exact Effect.step (feedbackSwitch_only _) (Effect.step (takeEnables_only _ _) h17 (by decide)) (by decide)
    clear_value x18
    intro x20
    have h21 : Effect [.tm, .cn, .jn, .pm, .rg, .sp, .st, .md, .mc, .ap, .gp, .fb, .ev, .la, .rm, .ax, .pg, .lt, .sf, .cp, .fd, .hp, .eth, .can, .pw, .mm, .mem] s x20 := by
      exact Effect.step (cmpFrame_only _) (Effect.step (machineFrame_only _) h19 (by decide)) (by decide)
    clear_value x20
    refine Effect.of_ite ?_ ?_
    · exact h21
    · exact Effect.step (ltFrame_only _) h21 (by decide)
theorem spursFrame_only (s : State) : Effect [.sp] s (spursFrame s) := by
  unfold spursFrame
  split
  · exact .refl
  · refine Effect.of_foldl _ ?_ (fun y5 a6 h7 => ?_)
    · exact .refl
    · lift_lets -underBinder
      intro x8 x9
      refine Effect.of_ite ?_ ?_
      · exact Effect.step (updSpur_only _ _ _) h7 (by decide)
      · split
        · exact Effect.step (updSpur_only _ _ _) h7 (by decide)
        · exact Effect.step (updSpur_only _ _ _) h7 (by decide)
theorem frameStart_only (s : State) : Effect [.tm, .cn, .jn, .pm, .rg, .sp, .st, .md, .mc, .ap, .gp, .fb, .ev, .la, .rm, .ax, .pg, .lt, .sf, .cp, .fd, .hp, .eth, .can, .pw, .mm, .mem] s (frameStart s) := by
  unfold frameStart
  lift_lets -underBinder
  intro x0 x1 x2
  have h3 : Effect [.tm, .cn, .jn, .pm, .rg, .sp, .st, .md, .mc, .ap, .gp, .fb, .ev, .la, .rm, .ax, .pg, .lt, .sf, .cp, .fd, .hp, .eth, .can, .pw, .mm, .mem] s x2 := by
    exact Effect.set_rg (by decide) .refl
  clear_value x2
  intro x4
  have h5 : Effect [.tm, .cn, .jn, .pm, .rg, .sp, .st, .md, .mc, .ap, .gp, .fb, .ev, .la, .rm, .ax, .pg, .lt, .sf, .cp, .fd, .hp, .eth, .can, .pw, .mm, .mem] s x4 := by
    exact Effect.step (captureFrame_only _) (Effect.step (fieldFrame_only _) (Effect.step (snapshotAll_only _) h3 (by decide)) (by decide)) (by decide)
  clear_value x4
  intro x6
  have h7 : Effect [.tm, .cn, .jn, .pm, .rg, .sp, .st, .md, .mc, .ap, .gp, .fb, .ev, .la, .rm, .ax, .pg, .lt, .sf, .cp, .fd, .hp, .eth, .can, .pw, .mm, .mem] s x6 := by
    exact Effect.step (frameActions_only _) h5 (by decide)
  clear_value x6
  refine Effect.of_ite ?_ ?_
  · exact .refl
  · refine Effect.of_ite ?_ ?_
    · exact Effect.step (spursFrame_only _) h7 (by decide)
    · exact h7
theorem execFrameStart_only a0 (s : State) : ∃ t, execFrameStart a0 s = .next t ∧ Effect [.tm, .cn, .jn, .pm, .rg, .sp, .st, .md, .mc, .ap, .gp, .fb, .ev, .la, .rm, .ax, .pg, .lt, .sf, .cp, .fd, .hp, .eth, .can, .pw, .ag, .mm, .mem, .free] s t := by
  refine ⟨_, rfl, ?_⟩
  exact Effect.step (frameStart_only _) (Effect.step (elapse_only _ _) .refl (by decide)) (by decide)
theorem builtInFails_only a0 (s : State) : Effect [.cn, .rg, .cp, .hp, .mm] s (builtInFails a0 s) := by
  unfold builtInFails
  exact Effect.step (countFailure_only _ _) (Effect.step (report_only _ _ _ _ _) (Effect.set_rg (by decide) .refl) (by decide)) (by decide)
theorem ridgeStart_only a0 (s : State) : Effect [.cn, .rg, .sp, .st, .md, .mc, .ap, .ax, .lt, .sf, .cp, .hp, .mm, .mem] s (ridgeStart a0 s) := by
  unfold ridgeStart
  refine Effect.of_ite ?_ ?_
  · exact .refl
  · split
    · exact .refl
    · refine Effect.of_ite ?_ ?_
      · exact .refl
      · lift_lets -underBinder
        intro x5 x6
        have h7 : Effect [.cn, .rg, .sp, .st, .md, .mc, .ap, .ax, .lt, .sf, .cp, .hp, .mm, .mem] s x6 := by
          refine Effect.of_foldl _ ?_ (fun y8 a9 h10 => ?_)
          · exact .refl
          · exact Effect.step (builtInFails_only _ _) h10 (by decide)
        clear_value x6
        split
        · exact Effect.step (ridgeRun_only _ _ _) h7 (by decide)
        · refine Effect.of_ite ?_ ?_
          · exact Effect.step (ridgeRun_only _ _ _) h7 (by decide)
          · exact Effect.step (report_only _ _ _ _ _) (Effect.set_rg (by decide) h7) (by decide)
        · exact Effect.step (report_only _ _ _ _ _) (Effect.set_rg (by decide) h7) (by decide)
theorem eccCount_only a0 (s : State) : Effect [.mm] s (eccCount a0 s) := by
  unfold eccCount
  exact Effect.set_mm (by decide) .refl
theorem execSpurEccCorrected_only a0 a1 a2 (s : State) : ∃ t, execSpurEccCorrected a0 a1 a2 s = .next t ∧ Effect [.tm, .cn, .cp, .hp, .ag, .mm, .free] s t := by
  refine ⟨_, rfl, ?_⟩
  refine Effect.of_ite ?_ ?_
  · exact Effect.step (elapse_only _ _) .refl (by decide)
  · exact Effect.step (report_only _ _ _ _ _) (Effect.step (eccCount_only _ _) (Effect.step (elapse_only _ _) .refl (by decide)) (by decide)) (by decide)
theorem slotOut_only a0 a1 (s : State) : Effect [.st, .ap, .rm, .cp, .mem] s (slotOut a0 a1 s) := by
  unfold slotOut
  split
  · lift_lets -underBinder
    intro x2
    refine Effect.of_ite ?_ ?_
    · exact Effect.step (wrN_only _ _ _) .refl (by decide)
    · exact .refl
  · exact Effect.step (slotShadow_only _ _ _) .refl (by decide)
  · refine Effect.of_ite ?_ ?_
    · exact Effect.step (loadAll_only _ _) .refl (by decide)
    · exact .refl
  · refine Effect.of_ite ?_ ?_
    · exact Effect.step (rmWrite_only _ _ _) .refl (by decide)
    · exact .refl
  · lift_lets -underBinder
    intro x11 x12
    exact Effect.set_cp (by decide) .refl
  · exact .refl
theorem execRidgeStart_only a0 a1 (s : State) : ∃ t, execRidgeStart a0 a1 s = .next t ∧ Effect [.tm, .cn, .rg, .sp, .st, .md, .mc, .ap, .ax, .lt, .sf, .cp, .hp, .ag, .mm, .mem, .free] s t := by
  refine ⟨_, rfl, ?_⟩
  exact Effect.step (ridgeStart_only _ _) (Effect.step (elapse_only _ _) .refl (by decide)) (by decide)
theorem execFailoverHalt_only a0 a1 (s : State) : ∃ t, execFailoverHalt a0 a1 s = .next t ∧ Effect [.tm, .cn, .sp, .st, .mc, .cp, .hp, .ag, .mm, .free] s t := by
  refine ⟨_, rfl, ?_⟩
  refine Effect.of_ite ?_ ?_
  · exact Effect.step (elapse_only _ _) .refl (by decide)
  · exact Effect.step (spurRequest_only _ _ _) (Effect.step (elapse_only _ _) .refl (by decide)) (by decide)
theorem execTripNotice_only a0 a1 (s : State) : ∃ t, execTripNotice a0 a1 s = .next t ∧ Effect [.tm, .cn, .sp, .st, .mc, .cp, .hp, .ag, .mm, .free] s t := by
  refine ⟨_, rfl, ?_⟩
  refine Effect.of_ite ?_ ?_
  · exact Effect.step (elapse_only _ _) .refl (by decide)
  · exact Effect.step (spurRequest_only _ _ _) (Effect.step (elapse_only _ _) .refl (by decide)) (by decide)
theorem execSpurRetirementEffect_only a0 a1 (s : State) : ∃ t, execSpurRetirementEffect a0 a1 s = .next t ∧ Effect [.tm, .cn, .jn, .pm, .rg, .sp, .st, .md, .mc, .ap, .gp, .fb, .ev, .la, .rm, .ax, .pg, .lt, .sf, .cp, .fd, .hp, .eth, .can, .pw, .ag, .mm, .mem, .free] s t := by
  refine ⟨_, rfl, ?_⟩
  split
  · refine Effect.of_ite ?_ ?_
    · exact Effect.step (retireSpur_only _ _) (Effect.step (elapse_only _ _) .refl (by decide)) (by decide)
    · exact Effect.step (elapse_only _ _) .refl (by decide)
  · exact Effect.step (elapse_only _ _) .refl (by decide)
theorem execReservedEncoding_only a0 (s : State) : ∃ t, execReservedEncoding a0 s = .next t ∧ Effect [.tm, .cn, .jn, .pm, .rg, .sp, .st, .md, .mc, .ap, .gp, .fb, .ev, .la, .rm, .ax, .pg, .lt, .sf, .cp, .fd, .hp, .eth, .can, .pw, .mm, .mem] s t := by
  refine ⟨_, rfl, ?_⟩
  exact Effect.step (reservedEncoding_only _ _) .refl (by decide)
theorem fallbackDue_only (s : State) : Effect [.tm, .cn, .jn, .pm, .rg, .sp, .st, .md, .mc, .ap, .gp, .fb, .ev, .la, .rm, .ax, .pg, .lt, .sf, .cp, .fd, .hp, .eth, .can, .pw, .mm, .mem] s (fallbackDue s) := by
  unfold fallbackDue
  split
  · refine Effect.of_ite ?_ ?_
    · exact Effect.step (frameStart_only _) .refl (by decide)
    · exact .refl
  · exact .refl
theorem execFallbackTakesEffect_only a0 (s : State) : ∃ t, execFallbackTakesEffect a0 s = .next t ∧ Effect [.tm, .cn, .jn, .pm, .rg, .sp, .st, .md, .mc, .ap, .gp, .fb, .ev, .la, .rm, .ax, .pg, .lt, .sf, .cp, .fd, .hp, .eth, .can, .pw, .ag, .mm, .mem, .free] s t := by
  refine ⟨_, rfl, ?_⟩
  exact Effect.step (fallbackDue_only _) (Effect.step (elapse_only _ _) .refl (by decide)) (by decide)
theorem execDebugHalt_only a0 a1 (s : State) : ∃ t, execDebugHalt a0 a1 s = .next t ∧ Effect [.tm, .cn, .sp, .st, .mc, .cp, .hp, .ag, .mm, .free] s t := by
  refine ⟨_, rfl, ?_⟩
  refine Effect.of_ite ?_ ?_
  · exact Effect.step (elapse_only _ _) .refl (by decide)
  · exact Effect.step (spurRequest_only _ _ _) (Effect.step (elapse_only _ _) .refl (by decide)) (by decide)
theorem latchWords_only a0 (s : State) : Effect [.free] s (latchWords a0 s).2 := by
  unfold latchWords
  lift_lets -underBinder
  intro x0 x1 x2
  split
  · dsimp only
    exact .refl
  · split
    rename_i v12
    dsimp only
    exact Effect.step (takeBytes_only_of v12) .refl (by decide)
theorem latchWords_only_of {a0} {s : State} {r t} (h : latchWords a0 s = (r, t)) : Effect [.free] s t := by
  have := latchWords_only a0 s
  rwa [h] at this
theorem slotIn_only a0 (s : State) : Effect [.free] s (slotIn a0 s).2 := by
  unfold slotIn
  split
  · dsimp only
    exact .refl
  · split
    rename_i v7
    dsimp only
    have he8 := congrArg Prod.snd v7
    dsimp only at he8
    rw [← he8]
    refine Effect.of_ite2 ?_ ?_
    · exact Effect.step (latchWords_only _ _) .refl (by decide)
    · dsimp only
      exact .refl
  · dsimp only
    exact .refl
theorem slotIn_only_of {a0} {s : State} {r t} (h : slotIn a0 s = (r, t)) : Effect [.free] s t := by
  have := slotIn_only a0 s
  rwa [h] at this
theorem endMarker_only a0 (s : State) : Effect [.tm, .cn, .jn, .pm, .rg, .sp, .st, .md, .mc, .ap, .gp, .fb, .ev, .la, .rm, .ax, .pg, .lt, .sf, .cp, .fd, .hp, .eth, .can, .pw, .mm, .mem] s (endMarker a0 s) := by
  unfold endMarker
  lift_lets -underBinder
  intro x0 x1 x2 x3
  have h4 : Effect [.tm, .cn, .jn, .pm, .rg, .sp, .st, .md, .mc, .ap, .gp, .fb, .ev, .la, .rm, .ax, .pg, .lt, .sf, .cp, .fd, .hp, .eth, .can, .pw, .mm, .mem] s x3 := by
    exact Effect.step (spurYield_only _ _ _) .refl (by decide)
  clear_value x3
  intro x5
  refine Effect.of_ite ?_ ?_
  · exact .refl
  · split
    · exact h4
    · refine Effect.of_ite ?_ ?_
      · exact Effect.step (spurFails_only _ _ _ _) h4 (by decide)
      · refine Effect.of_ite ?_ ?_
        · exact Effect.step (spurFails_only _ _ _ _) h4 (by decide)
        · exact h4
theorem execEndOp_only a0 (s : State) : ∃ t, execEndOp a0 s = .next t ∧ Effect [.tm, .cn, .jn, .pm, .rg, .sp, .st, .md, .mc, .ap, .gp, .fb, .ev, .la, .rm, .ax, .pg, .lt, .sf, .cp, .fd, .hp, .eth, .can, .pw, .mm, .mem] s t := by
  refine ⟨_, rfl, ?_⟩
  exact Effect.step (endMarker_only _ _) .refl (by decide)
theorem exchange_only a0 a1 a2 a3 (s : State) : Effect [.tm, .cn, .jn, .pm, .rg, .sp, .st, .md, .mc, .ap, .gp, .fb, .ev, .la, .rm, .ax, .pg, .lt, .sf, .cp, .fd, .hp, .eth, .can, .pw, .mm, .mem, .free] s (exchange a0 a1 a2 a3 s) := by
  unfold exchange
  lift_lets -underBinder
  intro x0
  refine Effect.of_ite ?_ ?_
  · exact .refl
  · split
    · refine Effect.step (spurFails_only _ _ _ _) ?_ (by decide)
      refine Effect.step (spurStep_only (ps := [.tm, .cn, .jn, .pm, .rg, .sp, .st, .md, .mc, .ap, .gp, .fb, .ev, .la, .rm, .ax, .pg, .lt, .sf, .cp, .fd, .hp, .eth, .can, .pw, .mm, .mem, .free]) _ _ _ (fun s3 r4 w5 => ?_) (by decide) _) ?_ (by decide)
      · dsimp only
        exact .refl
      · exact .refl
    · lift_lets -underBinder
      intro x9
      refine Effect.step (spurStep_only (ps := [.tm, .cn, .jn, .pm, .rg, .sp, .st, .md, .mc, .ap, .gp, .fb, .ev, .la, .rm, .ax, .pg, .lt, .sf, .cp, .fd, .hp, .eth, .can, .pw, .mm, .mem, .free]) _ _ _ (fun s10 r11 w12 => ?_) (by decide) _) ?_ (by decide)
      · refine Effect.of_ite1 ?_ ?_
        · split
          rename_i v16
          dsimp only
          refine Effect.of_foldl _ ?_ (fun y17 a18 h19 => ?_)
          · exact Effect.step (slotIn_only_of v16) .refl (by decide)
          · exact Effect.step (st16_only _ _ _ _ _) h19 (by decide)
        · refine Effect.of_ite1 ?_ ?_
          · dsimp only
            exact .refl
          · dsimp only
            exact Effect.step (slotOut_only _ _ _) .refl (by decide)
      · exact .refl
theorem execXch_only a0 a1 a2 a3 (s : State) : ∃ t, execXch a0 a1 a2 a3 s = .next t ∧ Effect [.tm, .cn, .jn, .pm, .rg, .sp, .st, .md, .mc, .ap, .gp, .fb, .ev, .la, .rm, .ax, .pg, .lt, .sf, .cp, .fd, .hp, .eth, .can, .pw, .mm, .mem, .free] s t := by
  refine ⟨_, rfl, ?_⟩
  exact Effect.step (exchange_only _ _ _ _ _) .refl (by decide)
theorem execFrameAbort_only a0 a1 (s : State) : ∃ t, execFrameAbort a0 a1 s = .next t ∧ Effect [.tm, .cn, .sp, .st, .mc, .cp, .hp, .ag, .mm, .free] s t := by
  refine ⟨_, rfl, ?_⟩
  refine Effect.of_ite ?_ ?_
  · exact Effect.step (elapse_only _ _) .refl (by decide)
  · exact Effect.step (spurRequest_only _ _ _) (Effect.step (elapse_only _ _) .refl (by decide)) (by decide)

end Sys2Proof.Machine
end

