-- ==== Sys2Proof/Laws/FrameImages.lean ====
section
/-!
SUPPORT. Sys2Proof/Laws/FrameImages.lean: what each operation of Machine/Images.lean may change, one lemma per operation.
-/

namespace Sys2Proof.Machine
set_option Elab.async false

theorem cmdImageBegin_only a0 (s : State) : Effect [.rg] s (cmdImageBegin a0 s).2 := by
  unfold cmdImageBegin
  lift_lets -underBinder
  intro x0 x1
  refine Effect.of_ite2 ?_ ?_
  · dsimp only
    exact .refl
  · refine Effect.of_ite2 ?_ ?_
    · dsimp only
      exact .refl
    · dsimp only
      exact Effect.step (updSlot_only _ _ _) .refl (by decide)
theorem cmdImageBegin_only_of {a0} {s : State} {r t} (h : cmdImageBegin a0 s = (r, t)) : Effect [.rg] s t := by
  have := cmdImageBegin_only a0 s
  rwa [h] at this
theorem cmdImageData_only a0 (s : State) : Effect [.rg, .mm, .mem] s (cmdImageData a0 s).2 := by
  unfold cmdImageData
  lift_lets -underBinder
  intro x0 x1 x2 x3
  refine Effect.of_ite2 ?_ ?_
  · dsimp only
    exact .refl
  · dsimp only
    exact Effect.step (updSlot_only _ _ _) (Effect.step (worn_only _ _ _) (Effect.step (wrN_only _ _ _) .refl (by decide)) (by decide)) (by decide)
theorem cmdImageData_only_of {a0} {s : State} {r t} (h : cmdImageData a0 s = (r, t)) : Effect [.rg, .mm, .mem] s t := by
  have := cmdImageData_only a0 s
  rwa [h] at this
theorem imageRefused_only a0 (s : State) : Effect [.cn, .cp, .hp, .mm] s (imageRefused a0 s).2 := by
  unfold imageRefused
  dsimp only
  exact Effect.step (report_only _ _ _ _ _) .refl (by decide)
theorem imageRefused_only_of {a0} {s : State} {r t} (h : imageRefused a0 s = (r, t)) : Effect [.cn, .cp, .hp, .mm] s t := by
  have := imageRefused_only a0 s
  rwa [h] at this
theorem cmdImageEnd_only a0 (s : State) : Effect [.cn, .pm, .rg, .cp, .hp, .mm] s (cmdImageEnd a0 s).2 := by
  unfold cmdImageEnd
  lift_lets -underBinder
  intro x0 x1
  refine Effect.of_ite2 ?_ ?_
  · dsimp only
    exact .refl
  · split
    · exact Effect.step (imageRefused_only _ _) (Effect.step (updSlot_only _ _ _) .refl (by decide)) (by decide)
    · dsimp only
      exact Effect.step (updSlot_only _ _ _) .refl (by decide)
theorem cmdImageEnd_only_of {a0} {s : State} {r t} (h : cmdImageEnd a0 s = (r, t)) : Effect [.cn, .pm, .rg, .cp, .hp, .mm] s t := by
  have := cmdImageEnd_only a0 s
  rwa [h] at this
theorem activate_only a0 a1 (s : State) : Effect [.tm, .cn, .jn, .pm, .rg, .sp, .st, .md, .mc, .ap, .fb, .ev, .la, .lt, .cp, .fd, .hp, .eth, .can, .pw, .mm, .mem] s (activate a0 a1 s) := by
  unfold activate
  lift_lets -underBinder
  intro x0
  have h1 : Effect [.tm, .cn, .jn, .pm, .rg, .sp, .st, .md, .mc, .ap, .fb, .ev, .la, .lt, .cp, .fd, .hp, .eth, .can, .pw, .mm, .mem] s x0 := by
    unfold x0
    split
    · exact Effect.step (updSlot_only _ _ _) .refl (by decide)
    · exact .refl
  clear_value x0
  intro x7
  have h8 : Effect [.tm, .cn, .jn, .pm, .rg, .sp, .st, .md, .mc, .ap, .fb, .ev, .la, .lt, .cp, .fd, .hp, .eth, .can, .pw, .mm, .mem] s x7 := by
    exact Effect.step (updSlot_only _ _ _) h1 (by decide)
  clear_value x7
  intro x9 x10
  have h11 : Effect [.tm, .cn, .jn, .pm, .rg, .sp, .st, .md, .mc, .ap, .fb, .ev, .la, .lt, .cp, .fd, .hp, .eth, .can, .pw, .mm, .mem] s x10 := by
    exact Effect.step (applyValues_only _ _ _) (Effect.set_rg (by decide) h8) (by decide)
  clear_value x10
  exact Effect.step (report_only _ _ _ _ _) (Effect.step (storeLive_only _ _) (Effect.step (loadBanks_only _) (Effect.step (loadPrograms_only _) h11 (by decide)) (by decide)) (by decide)) (by decide)
theorem cmdImageActivate_only a0 (s : State) : Effect [.tm, .cn, .jn, .pm, .rg, .sp, .st, .md, .mc, .ap, .fb, .ev, .la, .lt, .cp, .fd, .hp, .eth, .can, .pw, .mm, .mem] s (cmdImageActivate a0 s).2 := by
  unfold cmdImageActivate
  lift_lets -underBinder
  intro x0 x1 x2 x3
  refine Effect.of_ite2 ?_ ?_
  · refine Effect.of_ite2 ?_ ?_
    · dsimp only
      exact .refl
    · dsimp only
      exact Effect.set_pw (by decide) .refl
  · split
    · exact Effect.step (imageRefused_only _ _) .refl (by decide)
    · refine Effect.of_ite2 ?_ ?_
      · exact Effect.step (imageRefused_only _ _) .refl (by decide)
      · refine Effect.of_ite2 ?_ ?_
        · exact Effect.step (imageRefused_only _ _) .refl (by decide)
        · split
          · dsimp only
            exact Effect.step (activate_only _ _ _) .refl (by decide)
          · refine Effect.of_ite2 ?_ ?_
            · dsimp only
              exact Effect.step (activate_only _ _ _) .refl (by decide)
            · exact Effect.step (imageRefused_only _ _) .refl (by decide)
          · exact Effect.step (imageRefused_only _ _) .refl (by decide)
theorem cmdImageActivate_only_of {a0} {s : State} {r t} (h : cmdImageActivate a0 s = (r, t)) : Effect [.tm, .cn, .jn, .pm, .rg, .sp, .st, .md, .mc, .ap, .fb, .ev, .la, .lt, .cp, .fd, .hp, .eth, .can, .pw, .mm, .mem] s t := by
  have := cmdImageActivate_only a0 s
  rwa [h] at this
theorem cmdImageList_only a0 (s : State) : Effect [] s (cmdImageList a0 s).2 := by
  unfold cmdImageList
  dsimp only
  exact .refl
theorem cmdImageList_only_of {a0} {s : State} {r t} (h : cmdImageList a0 s = (r, t)) : Effect [] s t := by
  have := cmdImageList_only a0 s
  rwa [h] at this

end Sys2Proof.Machine
end

