-- ==== Sys2Proof/Laws/FrameRegisters.lean ====
section
/-!
SUPPORT. Sys2Proof/Laws/FrameRegisters.lean: what each operation of Machine/Registers.lean may change, one lemma per operation.
-/

namespace Sys2Proof.Machine
set_option Elab.async false

theorem mbxPush_only a0 (s : State) : Effect [.hp] s (mbxPush a0 s) := by
  unfold mbxPush
  refine Effect.of_ite ?_ ?_
  · exact .refl
  · exact Effect.set_hp (by decide) .refl
theorem hostWrite_only a0 a1 (s : State) : Effect [.hp] s (hostWrite a0 a1 s) := by
  unfold hostWrite
  split
  · exact Effect.set_hp (by decide) .refl
  · exact Effect.set_hp (by decide) .refl
  · exact Effect.step (mbxPush_only _ _) .refl (by decide)
  · lift_lets -underBinder
    intro x4 x5
    have h6 : Effect [.hp] s x5 := by
      refine Effect.of_ite ?_ ?_
      · exact Effect.set_hp (by decide) .refl
      · exact .refl
    clear_value x5
    intro x7
    refine Effect.of_ite ?_ ?_
    · exact Effect.step (refill_only _ _) (Effect.set_hp (by decide) h6) (by decide)
    · exact h6
  · exact .refl
theorem hostLatch_only a0 (s : State) : Effect [.hp] s (hostLatch a0 s) := by
  unfold hostLatch
  split
  · exact Effect.set_hp (by decide) .refl
  · exact Effect.set_hp (by decide) .refl
  · exact .refl
theorem pwmWrite_only a0 a1 (s : State) : Effect [.st] s (pwmWrite a0 a1 s) := by
  unfold pwmWrite
  lift_lets -underBinder
  intro x0
  refine Effect.of_ite ?_ ?_
  · split
    · exact Effect.step (writeDuty_only _ _ _ _) .refl (by decide)
    · exact Effect.step (writeDuty_only _ _ _ _) .refl (by decide)
    · exact Effect.step (writeDuty_only _ _ _ _) .refl (by decide)
    · exact .refl
  · refine Effect.of_ite ?_ ?_
    · exact Effect.step (loadAll_only _ _) .refl (by decide)
    · exact .refl
theorem cwWrite_only a0 a1 (s : State) : Effect [.cn, .cp, .hp, .mm, .mem] s (cwWrite a0 a1 s) := by
  unfold cwWrite
  lift_lets -underBinder
  intro x0
  refine Effect.of_ite ?_ ?_
  · split
    · exact Effect.step (cwSetup_only _ _ _ _) .refl (by decide)
    · exact Effect.step (cwSetup_only _ _ _ _) .refl (by decide)
    · exact Effect.step (wrAdvance_only _ _ _) .refl (by decide)
    · exact Effect.step (rdAdvance_only _ _ _) .refl (by decide)
    · exact Effect.step (cwStatusWrite_only _ _ _) .refl (by decide)
    · exact .refl
  · refine Effect.of_ite ?_ ?_
    · exact Effect.step (producerWrite_only _ _ _ _) .refl (by decide)
    · exact .refl
theorem busWrite_only a0 a1 (s : State) : Effect [.cn, .st, .rm, .cp, .hp, .can, .mm, .mem] s (busWrite a0 a1 s) := by
  unfold busWrite
  split
  · lift_lets -underBinder
    intro x3
    split
    · exact Effect.step (pwmWrite_only _ _ _) .refl (by decide)
    · refine Effect.of_ite ?_ ?_
      · exact Effect.step (rmClear_only _ _ _) .refl (by decide)
      · exact .refl
    · refine Effect.of_ite ?_ ?_
      · exact Effect.step (updCtl_only _ _ _) .refl (by decide)
      · exact .refl
    · exact Effect.step (cwWrite_only _ _ _) .refl (by decide)
    · exact .refl
  · exact Effect.step (wrN_only _ _ _) .refl (by decide)
  · exact Effect.step (wrN_only _ _ _) .refl (by decide)
  · exact Effect.step (wrN_only _ _ _) .refl (by decide)
  · exact Effect.step (wrN_only _ _ _) .refl (by decide)
  · refine Effect.of_ite ?_ ?_
    · exact Effect.step (worn_only _ _ _) (Effect.step (wrN_only _ _ _) .refl (by decide)) (by decide)
    · exact .refl
  · exact .refl
  · exact .refl
theorem registerWrite_only a0 a1 a2 (s : State) : Effect [.cn, .st, .rm, .cp, .hp, .can, .mm, .mem] s (registerWrite a0 a1 a2 s) := by
  unfold registerWrite
  refine Effect.of_ite ?_ ?_
  · refine Effect.of_ite ?_ ?_
    · exact Effect.step (hostWrite_only _ _ _) .refl (by decide)
    · exact .refl
  · refine Effect.of_ite ?_ ?_
    · exact .refl
    · exact Effect.step (busWrite_only _ _ _) .refl (by decide)
theorem apertureRead_only a (s : State) : Effect [.cn, .cp, .hp, .mm] s (apertureRead a s) := by
  unfold apertureRead
  dsimp only
  exact Effect.of_ite (cwFlag_only _ _ _) .refl
theorem wordRead_only a (s : State) : Effect [.cn, .cp, .hp, .mm, .free] s (wordRead a s).2 := by
  unfold wordRead
  exact Effect.of_ite2 (Effect.step (apertureRead_only _ _) .refl (by decide)) (Effect.step (take_only _ _) .refl (by decide))
theorem busRead_only a0 a1 (s : State) : Effect [.cn, .rm, .cp, .hp, .mm, .free] s (busRead a0 a1 s) := by
  unfold busRead
  dsimp only
  refine Effect.set_mm (by decide) ?_
  split
  · exact .refl
  · exact Effect.step (wordRead_only _ _) .refl (by decide)
theorem lowWordRead_only a0 a1 (s : State) : Effect [.cn, .rm, .cp, .hp, .mm, .free] s (lowWordRead a0 a1 s) := by
  unfold lowWordRead
  refine Effect.of_ite ?_ ?_
  · exact Effect.step (hostLatch_only _ _) (Effect.set_mm (by decide) .refl) (by decide)
  · refine Effect.of_ite ?_ ?_
    · exact Effect.set_mm (by decide) .refl
    · exact Effect.step (busRead_only _ _ _) .refl (by decide)
theorem unmapped_only a0 a1 a2 (s : State) : Effect [.mm] s (unmapped a0 a1 a2 s) := by
  unfold unmapped
  refine Effect.of_ite ?_ ?_
  · exact .refl
  · exact Effect.set_mm (by decide) .refl
theorem execLowWordReadLatch_only a0 a1 a2 (s : State) : ∃ t, execLowWordReadLatch a0 a1 a2 s = .next t ∧ Effect [.tm, .cn, .rm, .cp, .hp, .ag, .mm, .free] s t := by
  refine ⟨_, rfl, ?_⟩
  exact Effect.step (lowWordRead_only _ _ _) (Effect.step (elapse_only _ _) .refl (by decide)) (by decide)
theorem execUnmappedAccess_only a0 a1 a2 a3 (s : State) : ∃ t, execUnmappedAccess a0 a1 a2 a3 s = .next t ∧ Effect [.tm, .ag, .mm, .free] s t := by
  refine ⟨_, rfl, ?_⟩
  exact Effect.step (unmapped_only _ _ _ _) (Effect.step (elapse_only _ _) .refl (by decide)) (by decide)

end Sys2Proof.Machine
end

