-- ==== Sys2Proof/Laws/FrameReset.lean ====
section
/-!
SUPPORT. Sys2Proof/Laws/FrameReset.lean: what each operation of Machine/Reset.lean may change, one lemma per operation.
-/

namespace Sys2Proof.Machine
set_option Elab.async false

theorem resetModule_only a0 a1 (s : State) : Effect [.tm, .cn, .jn, .pm, .rg, .sp, .st, .md, .mc, .ap, .gp, .fb, .ev, .la, .rm, .ax, .pg, .lt, .sf, .cp, .fd, .hp, .eth, .dx, .can, .pw, .ag, .mm, .mem] s (resetModule a0 a1 s) := by
  unfold resetModule
  lift_lets -underBinder
  intro x0
  have h1 : Effect [.tm, .cn, .jn, .pm, .rg, .sp, .st, .md, .mc, .ap, .gp, .fb, .ev, .la, .rm, .ax, .pg, .lt, .sf, .cp, .fd, .hp, .eth, .dx, .can, .pw, .ag, .mm, .mem] s x0 := by
    refine Effect.of_foldl _ ?_ (fun y2 a3 h4 => ?_)
    · exact .refl
    · exact Effect.step (loseContinuity_only _ _) h4 (by decide)
  clear_value x0
  intro x5 x6
  have h7 : Effect [.tm, .cn, .jn, .pm, .rg, .sp, .st, .md, .mc, .ap, .gp, .fb, .ev, .la, .rm, .ax, .pg, .lt, .sf, .cp, .fd, .hp, .eth, .dx, .can, .pw, .ag, .mm, .mem] s x6 := by
    exact Effect.step (clearSram_only _) .refl (by decide)
  clear_value x6
  intro x8
  exact Effect.of_mk (x := x6) h7
theorem domainAssert_only a0 a1 (s : State) : Effect [.cn, .cp, .hp, .pw, .mm] s (domainAssert a0 a1 s) := by
  unfold domainAssert
  exact Effect.step (report_only _ _ _ _ _) (Effect.set_pw (by decide) .refl) (by decide)
theorem supervisorReset_only a0 (s : State) : Effect [.tm, .cn, .jn, .pm, .rg, .sp, .st, .md, .mc, .ap, .gp, .fb, .ev, .la, .rm, .ax, .pg, .lt, .sf, .cp, .fd, .hp, .eth, .dx, .can, .pw, .ag, .mm, .mem] s (supervisorReset a0 s) := by
  unfold supervisorReset
  refine Effect.of_ite ?_ ?_
  · exact .refl
  · lift_lets -underBinder
    intro x0 x1
    have h2 : Effect [.tm, .cn, .jn, .pm, .rg, .sp, .st, .md, .mc, .ap, .gp, .fb, .ev, .la, .rm, .ax, .pg, .lt, .sf, .cp, .fd, .hp, .eth, .dx, .can, .pw, .ag, .mm, .mem] s x1 := by
      exact Effect.step (domainAssert_only _ _ _) .refl (by decide)
    clear_value x1
    intro x3
    have h4 : Effect [.tm, .cn, .jn, .pm, .rg, .sp, .st, .md, .mc, .ap, .gp, .fb, .ev, .la, .rm, .ax, .pg, .lt, .sf, .cp, .fd, .hp, .eth, .dx, .can, .pw, .ag, .mm, .mem] s x3 := by
      exact Effect.step (clearRange_only _ _ _) h2 (by decide)
    clear_value x3
    intro x5
    refine Effect.of_ite ?_ ?_
    · exact Effect.step (resetModule_only _ _ _) .refl (by decide)
    · exact Effect.set_pw (by decide) h4
theorem blockClears_only a0 (s : State) : Effect [.jn, .rg, .sp, .cp, .fd, .hp, .eth, .dx, .can] s (blockClears a0 s) := by
  unfold blockClears
  split
  · exact Effect.of_mk (x := s) .refl
  · exact Effect.step (captureReset_only _) .refl (by decide)
  · exact Effect.set_hp (by decide) .refl
  · exact Effect.of_mk (x := s) .refl
  · lift_lets -underBinder
    intro x5
    have h6 : Effect [.jn, .rg, .sp, .cp, .fd, .hp, .eth, .dx, .can] s x5 := by
      refine Effect.of_foldl _ ?_ (fun y7 a8 h9 => ?_)
      · exact .refl
      · exact Effect.step (canDrop_only _ _ _) h9 (by decide)
    clear_value x5
    exact Effect.set_can (by decide) h6
  · lift_lets -underBinder
    intro x11
    refine Effect.of_foldl _ ?_ (fun y12 a13 h14 => ?_)
    · exact Effect.step (fieldSilent_only _) .refl (by decide)
    · exact Effect.step (finish_only _ _ _) h14 (by decide)
  · exact .refl
theorem domainReset_only a0 (s : State) : Effect [.tm, .cn, .jn, .pm, .rg, .sp, .st, .md, .mc, .ap, .gp, .fb, .ev, .la, .rm, .ax, .pg, .lt, .sf, .cp, .fd, .hp, .eth, .dx, .can, .pw, .ag, .mm, .mem] s (domainReset a0 s) := by
  unfold domainReset
  refine Effect.of_ite ?_ ?_
  · exact Effect.step (supervisorReset_only _ _) .refl (by decide)
  · exact Effect.step (domainAssert_only _ _ _) (Effect.step (blockClears_only _ _) .refl (by decide)) (by decide)
theorem resetWhenDue_only (s : State) : Effect [.tm, .cn, .jn, .pm, .rg, .sp, .st, .md, .mc, .ap, .gp, .fb, .ev, .la, .rm, .ax, .pg, .lt, .sf, .cp, .fd, .hp, .eth, .dx, .can, .pw, .ag, .mm, .mem] s (resetWhenDue s) := by
  unfold resetWhenDue
  split
  · exact .refl
  · refine Effect.of_ite ?_ ?_
    · exact .refl
    · lift_lets -underBinder
      intro x7 x8
      have h9 : Effect [.tm, .cn, .jn, .pm, .rg, .sp, .st, .md, .mc, .ap, .gp, .fb, .ev, .la, .rm, .ax, .pg, .lt, .sf, .cp, .fd, .hp, .eth, .dx, .can, .pw, .ag, .mm, .mem] s x8 := by
        exact Effect.set_pw (by decide) .refl
      clear_value x8
      refine Effect.of_ite ?_ ?_
      · exact Effect.step (resetModule_only _ _ _) h9 (by decide)
      · exact Effect.step (domainReset_only _ _) h9 (by decide)
theorem cmdResetRequest_only a0 (s : State) : Effect [.pw] s (cmdResetRequest a0 s).2 := by
  unfold cmdResetRequest
  lift_lets -underBinder
  intro x0 x1 x2
  clear_value x0
  split
  · dsimp only
    dsimp only [x2]
    exact Effect.set_pw (by decide) .refl
  · refine Effect.of_ite2 ?_ ?_
    · dsimp only
      dsimp only [x2]
      exact Effect.set_pw (by decide) .refl
    · dsimp only
      exact .refl
  · dsimp only
    exact .refl
theorem cmdResetRequest_only_of {a0} {s : State} {r t} (h : cmdResetRequest a0 s = (r, t)) : Effect [.pw] s t := by
  have := cmdResetRequest_only a0 s
  rwa [h] at this
theorem vinResetLevel_only (s : State) : Effect [.tm, .cn, .jn, .pm, .rg, .sp, .st, .md, .mc, .ap, .gp, .fb, .ev, .la, .rm, .ax, .pg, .lt, .sf, .cp, .fd, .hp, .eth, .dx, .can, .pw, .ag, .mm, .mem] s (vinResetLevel s) := by
  unfold vinResetLevel
  exact Effect.step (resetModule_only _ _ _) (Effect.set_pw (by decide) .refl) (by decide)
theorem execVinResetLevel_only a0 (s : State) : ∃ t, execVinResetLevel a0 s = .next t ∧ Effect [.tm, .cn, .jn, .pm, .rg, .sp, .st, .md, .mc, .ap, .gp, .fb, .ev, .la, .rm, .ax, .pg, .lt, .sf, .cp, .fd, .hp, .eth, .dx, .can, .pw, .ag, .mm, .mem, .free] s t := by
  refine ⟨_, rfl, ?_⟩
  exact Effect.step (vinResetLevel_only _) (Effect.step (elapse_only _ _) .refl (by decide)) (by decide)
theorem supplyWarned_only a0 (s : State) : Effect [.pw] s (supplyWarned a0 s) := by
  unfold supplyWarned
  exact Effect.set_pw (by decide) .refl
theorem supplyWarning_only a0 (s : State) : Effect [.cn, .cp, .fd, .hp, .pw, .mm] s (supplyWarning a0 s) := by
  unfold supplyWarning
  refine Effect.of_ite .refl (Effect.of_ite (Effect.step (supplyWarned_only _ _) .refl (by decide)) ?_)
  lift_lets -underBinder
  intro x1
  have h2 : Effect [.cn, .cp, .fd, .hp, .pw, .mm] s x1 := by
    exact Effect.step (supplyWarned_only _ _) (Effect.step (report_only _ _ _ _ _) (Effect.step (irq_only _ _) .refl (by decide)) (by decide)) (by decide)
  clear_value x1
  exact Effect.step (countersSave_only _) (Effect.set_cn (by decide) h2) (by decide)
theorem repairSlot_only a0 (s : State) : Effect [.cn, .jn, .cp, .hp, .mm] s (repairSlot a0 s) := by
  unfold repairSlot
  lift_lets -underBinder
  intro x0 x1 x2
  refine Effect.of_ite ?_ ?_
  · exact .refl
  · refine Effect.of_ite ?_ ?_
    · dsimp only [x2]
      exact Effect.step (report_only _ _ _ _ _) (Effect.set_jn (by decide) .refl) (by decide)
    · refine Effect.of_ite ?_ ?_
      · dsimp only [x2]
        exact Effect.step (report_only _ _ _ _ _) (Effect.set_jn (by decide) .refl) (by decide)
      · dsimp only [x2]
        exact Effect.step (report_only _ _ _ _ _) (Effect.set_jn (by decide) .refl) (by decide)
theorem repairJournal_only (s : State) : Effect [.cn, .jn, .cp, .hp, .mm] s (repairJournal s) := by
  unfold repairJournal
  refine Effect.of_ite ?_ ?_
  · exact .refl
  · refine Effect.of_foldl _ ?_ (fun y0 a1 h2 => ?_)
    · exact .refl
    · exact Effect.step (repairSlot_only _ _) h2 (by decide)
theorem powerOn_only a0 (s : State) : Effect [.tm, .cn, .jn, .pm, .rg, .sp, .st, .md, .mc, .ap, .gp, .fb, .ev, .la, .rm, .ax, .pg, .lt, .sf, .cp, .fd, .hp, .eth, .dx, .can, .pw, .ag, .mm, .mem] s (powerOn a0 s) := by
  unfold powerOn
  refine Effect.of_ite ?_ ?_
  · exact Effect.step (resetModule_only _ _ _) .refl (by decide)
  · exact Effect.step (resetModule_only _ _ _) .refl (by decide)
theorem execPowerOn_only a0 a1 (s : State) : ∃ t, execPowerOn a0 a1 s = .next t ∧ Effect [.tm, .cn, .jn, .pm, .rg, .sp, .st, .md, .mc, .ap, .gp, .fb, .ev, .la, .rm, .ax, .pg, .lt, .sf, .cp, .fd, .hp, .eth, .dx, .can, .pw, .ag, .mm, .mem, .free] s t := by
  refine ⟨_, rfl, ?_⟩
  exact Effect.step (powerOn_only _ _) (Effect.step (elapse_only _ _) .refl (by decide)) (by decide)
theorem journalDone_only (s : State) : Effect [.jn, .mm] s (journalDone s) := by
  unfold journalDone
  refine Effect.of_foldl _ ?_ (fun y0 a1 h2 => ?_)
  · exact Effect.set_jn (by decide) .refl
  · refine Effect.of_ite ?_ ?_
    · exact h2
    · exact Effect.step (complete_only _ _ _ _ _ _ _) h2 (by decide)
theorem restartEntry_only a0 (s : State) : Effect [.cn, .jn, .cp, .hp, .mm] s (restartEntry a0 s) := by
  unfold restartEntry
  lift_lets -underBinder
  intro x0
  split
  lift_lets -underBinder
  intro x5
  have h6 : Effect [.cn, .jn, .cp, .hp, .mm] s x5 := by
    refine Effect.of_ite ?_ ?_
    · exact Effect.step (report_only _ _ _ _ _) .refl (by decide)
    · exact .refl
  clear_value x5
  exact Effect.step (complete_only _ _ _ _ _ _ _) h6 (by decide)
theorem draftsReset_only (s : State) : Effect [.pm] s (draftsReset s) := by
  unfold draftsReset
  refine Effect.of_foldl _ ?_ (fun y0 a1 h2 => ?_)
  · exact .refl
  · refine Effect.of_ite ?_ ?_
    · exact Effect.step (updDraft_only _ _ _) h2 (by decide)
    · exact h2
theorem supervisorBack_only a0 (s : State) : Effect [.cn, .jn, .pm, .rg, .cp, .hp, .pw, .mm] s (supervisorBack a0 s) := by
  unfold supervisorBack
  lift_lets -underBinder
  intro x0 x1
  have h2 : Effect [.cn, .jn, .pm, .rg, .cp, .hp, .pw, .mm] s x1 := by
    exact Effect.step (journalDone_only _) .refl (by decide)
  clear_value x1
  intro x3 x4 x5
  have h6 : Effect [.cn, .jn, .pm, .rg, .cp, .hp, .pw, .mm] s x5 := by
    refine Effect.of_foldl _ ?_ (fun y7 a8 h9 => ?_)
    · exact h2
    · exact Effect.step (restartEntry_only _ _) h9 (by decide)
  clear_value x5
  intro x10 x11 x12 x13 x14 x15
  have h16 : Effect [.cn, .jn, .pm, .rg, .cp, .hp, .pw, .mm] s x15 := by
    exact Effect.of_mk (x := x5) h6
  clear_value x15
  exact Effect.step (report_only _ _ _ _ _) (Effect.step (draftsReset_only _) h16 (by decide)) (by decide)
theorem domainRelease_only a0 a1 (s : State) : Effect [.cn, .jn, .pm, .rg, .cp, .fd, .hp, .can, .pw, .mm] s (domainRelease a0 a1 s) := by
  unfold domainRelease
  split
  · exact .refl
  · refine Effect.of_ite ?_ ?_
    · exact .refl
    · lift_lets -underBinder
      intro x7 x8
      have h9 : Effect [.cn, .jn, .pm, .rg, .cp, .fd, .hp, .can, .pw, .mm] s x8 := by
        exact Effect.set_pw (by decide) .refl
      clear_value x8
      intro x10
      have h11 : Effect [.cn, .jn, .pm, .rg, .cp, .fd, .hp, .can, .pw, .mm] s x10 := by
        refine Effect.of_ite ?_ ?_
        · exact h9
        · exact Effect.step (report_only _ _ _ _ _) h9 (by decide)
      clear_value x10
      split
      · exact Effect.step (supervisorBack_only _ _) h11 (by decide)
      · exact Effect.step (canWakeAll_only _) h11 (by decide)
      · exact Effect.step (fieldStart_only _) h11 (by decide)
      · exact h11
theorem execDomainResetRelease_only a0 a1 a2 (s : State) : ∃ t, execDomainResetRelease a0 a1 a2 s = .next t ∧ Effect [.tm, .cn, .jn, .pm, .rg, .cp, .fd, .hp, .can, .pw, .ag, .mm, .free] s t := by
  refine ⟨_, rfl, ?_⟩
  exact Effect.step (domainRelease_only _ _ _) (Effect.step (elapse_only _ _) .refl (by decide)) (by decide)
theorem loadSet_only (s : State) : Effect [.pm] s (loadSet s) := by
  unfold loadSet
  lift_lets -underBinder
  intro x0 x1 x2 x3
  have h4 : Effect [.pm] s x3 := by
    exact Effect.set_pm (by decide) .refl
  clear_value x3
  split
  · exact Effect.set_pm (by decide) h4
  · exact h4
theorem startTime_only a0 (s : State) : Effect [.tm, .cn, .fb, .cp, .hp, .mm] s (startTime a0 s) := by
  unfold startTime
  split
  exact Effect.step (report_only _ _ _ _ _) (Effect.step (stepTo_only _ _ _) (Effect.step (servoFree_only _) .refl (by decide)) (by decide)) (by decide)
theorem repairRing_only (s : State) : Effect [.cn, .cp, .hp, .mm] s (repairRing s) := by
  unfold repairRing
  refine Effect.of_ite ?_ ?_
  · exact .refl
  · exact Effect.step (report_only _ _ _ _ _) .refl (by decide)
theorem reportEach_only a0 (s : State) : Effect [.cn, .cp, .hp, .mm] s (reportEach a0 s) := by
  unfold reportEach
  refine Effect.of_foldl _ ?_ (fun y0 a1 h2 => ?_)
  · exact .refl
  · exact Effect.step (report_only _ _ _ _ _) h2 (by decide)
theorem wakeFailMoved_only (s : State) : Effect [.cn, .cp, .hp, .pw, .mm] s (wakeFailMoved s) := by
  unfold wakeFailMoved
  split
  · exact .refl
  · exact Effect.step (report_only _ _ _ _ _) (Effect.step (releaseFault_only _ _) (Effect.set_pw (by decide) .refl) (by decide)) (by decide)
theorem startRecords_only a0 a1 (s : State) : Effect [.cn, .cp, .hp, .pw, .mm] s (startRecords a0 a1 s) := by
  unfold startRecords
  lift_lets -underBinder
  intro x0 x1
  have h2 : Effect [.cn, .cp, .hp, .pw, .mm] s x1 := by
    exact Effect.step (report_only _ _ _ _ _) .refl (by decide)
  clear_value x1
  intro x3
  have h4 : Effect [.cn, .cp, .hp, .pw, .mm] s x3 := by
    exact Effect.step (reportEach_only _ _) h2 (by decide)
  clear_value x3
  intro x5
  have h6 : Effect [.cn, .cp, .hp, .pw, .mm] s x5 := by
    unfold x5
    split
    · exact Effect.step (report_only _ _ _ _ _) h4 (by decide)
    · exact h4
  clear_value x5
  intro x10
  have h11 : Effect [.cn, .cp, .hp, .pw, .mm] s x10 := by
    unfold x10
    split
    · exact Effect.step (report_only _ _ _ _ _) (Effect.step (releaseFault_only _ _) (Effect.set_pw (by decide) h6) (by decide)) (by decide)
    · exact h6
  clear_value x10
  intro x17
  have h18 : Effect [.cn, .cp, .hp, .pw, .mm] s x17 := by
    unfold x17
    split
    · refine Effect.of_ite ?_ ?_
      · exact Effect.step (report_only _ _ _ _ _) h11 (by decide)
      · exact h11
    · exact h11
  clear_value x17
  intro x24 x25
  have h26 : Effect [.cn, .cp, .hp, .pw, .mm] s x25 := by
    exact Effect.step (reportEach_only _ _) (Effect.set_pw (by decide) h18) (by decide)
  clear_value x25
  split
  · exact Effect.step (wakeFailMoved_only _) (Effect.step (report_only _ _ _ _ _) (Effect.step (irq_only _ _) (Effect.set_pw (by decide) h26) (by decide)) (by decide)) (by decide)
  · exact h26
theorem apwmStart_only (s : State) : Effect [.ap] s (apwmStart s) := by
  unfold apwmStart
  refine Effect.of_foldl _ ?_ (fun y0 a1 h2 => ?_)
  · exact .refl
  · exact Effect.step (updApwm_only _ _ _) (Effect.step (apwmSetMode_only _ _ _) h2 (by decide)) (by decide)
theorem startSequence_only a0 (s : State) : Effect [.tm, .cn, .jn, .pm, .ap, .fb, .ev, .cp, .fd, .hp, .can, .pw, .mm] s (startSequence a0 s) := by
  unfold startSequence
  lift_lets -underBinder
  intro x0 x1
  refine Effect.of_ite ?_ ?_
  · exact .refl
  · refine Effect.of_ite ?_ ?_
    · exact Effect.set_pw (by decide) .refl
    · refine Effect.of_ite ?_ ?_
      · exact .refl
      · split
        lift_lets -underBinder
        intro x7
        have h8 : Effect [.tm, .cn, .jn, .pm, .ap, .fb, .ev, .cp, .fd, .hp, .can, .pw, .mm] s x7 := by
          exact Effect.step (loadSet_only _) (Effect.set_pw (by decide) .refl) (by decide)
        clear_value x7
        intro x9 x10 x11
        have h12 : Effect [.tm, .cn, .jn, .pm, .ap, .fb, .ev, .cp, .fd, .hp, .can, .pw, .mm] s x11 := by
          exact Effect.step (startTime_only _ _) (Effect.set_pw (by decide) h8) (by decide)
        clear_value x11
        intro x13
        have h14 : Effect [.tm, .cn, .jn, .pm, .ap, .fb, .ev, .cp, .fd, .hp, .can, .pw, .mm] s x13 := by
          exact Effect.step (draftsReset_only _) (Effect.step (repairRing_only _) (Effect.step (repairJournal_only _) h12 (by decide)) (by decide)) (by decide)
        clear_value x13
        intro x15
        have h16 : Effect [.tm, .cn, .jn, .pm, .ap, .fb, .ev, .cp, .fd, .hp, .can, .pw, .mm] s x15 := by
          refine Effect.of_foldl _ ?_ (fun y17 a18 h19 => ?_)
          · exact h14
          · exact Effect.step (restartEntry_only _ _) h19 (by decide)
        clear_value x15
        intro x20
        have h21 : Effect [.tm, .cn, .jn, .pm, .ap, .fb, .ev, .cp, .fd, .hp, .can, .pw, .mm] s x20 := by
          exact Effect.step (startRecords_only _ _ _) h16 (by decide)
        clear_value x20
        intro x22
        have h23 : Effect [.tm, .cn, .jn, .pm, .ap, .fb, .ev, .cp, .fd, .hp, .can, .pw, .mm] s x22 := by
          refine Effect.of_foldl _ ?_ (fun y24 a25 h26 => ?_)
          · exact Effect.step (apwmStart_only _) (Effect.step (fieldStart_only _) h21 (by decide)) (by decide)
          · exact Effect.step (pinRefresh_only _ _) h26 (by decide)
        clear_value x22
        intro x27
        have h28 : Effect [.tm, .cn, .jn, .pm, .ap, .fb, .ev, .cp, .fd, .hp, .can, .pw, .mm] s x27 := by
          refine Effect.of_ite ?_ ?_
          · exact h23
          · exact Effect.step (canWakeAll_only _) h23 (by decide)
        clear_value x27
        intro x29
        exact Effect.set_pw (by decide) h28
theorem execStartSequence_only a0 a1 (s : State) : ∃ t, execStartSequence a0 a1 s = .next t ∧ Effect [.tm, .cn, .jn, .pm, .ap, .fb, .ev, .cp, .fd, .hp, .can, .pw, .ag, .mm, .free] s t := by
  refine ⟨_, rfl, ?_⟩
  exact Effect.step (startSequence_only _ _) (Effect.step (elapse_only _ _) .refl (by decide)) (by decide)
theorem resetNLow_only a0 (s : State) : Effect [.tm, .cn, .jn, .pm, .rg, .sp, .st, .md, .mc, .ap, .gp, .fb, .ev, .la, .rm, .ax, .pg, .lt, .sf, .cp, .fd, .hp, .eth, .dx, .can, .pw, .ag, .mm, .mem] s (resetNLow a0 s) := by
  unfold resetNLow
  refine Effect.of_ite ?_ ?_
  · exact .refl
  · exact Effect.step (resetModule_only _ _ _) .refl (by decide)
theorem supplyFault_only a0 a1 (s : State) : Effect [.tm, .cn, .jn, .pm, .rg, .sp, .st, .md, .mc, .ap, .gp, .fb, .ev, .la, .rm, .ax, .pg, .lt, .sf, .cp, .fd, .hp, .eth, .dx, .can, .pw, .ag, .mm, .mem] s (supplyFault a0 a1 s) := by
  unfold supplyFault
  refine Effect.of_ite ?_ ?_
  · exact .refl
  · exact Effect.step (resetModule_only _ _ _) (Effect.set_pw (by decide) .refl) (by decide)
theorem execSupplyFault_only a0 a1 a2 (s : State) : ∃ t, execSupplyFault a0 a1 a2 s = .next t ∧ Effect [.tm, .cn, .jn, .pm, .rg, .sp, .st, .md, .mc, .ap, .gp, .fb, .ev, .la, .rm, .ax, .pg, .lt, .sf, .cp, .fd, .hp, .eth, .dx, .can, .pw, .ag, .mm, .mem, .free] s t := by
  refine ⟨_, rfl, ?_⟩
  exact Effect.step (supplyFault_only _ _ _) (Effect.step (elapse_only _ _) .refl (by decide)) (by decide)
theorem execResetNLow_only a0 a1 (s : State) : ∃ t, execResetNLow a0 a1 s = .next t ∧ Effect [.tm, .cn, .jn, .pm, .rg, .sp, .st, .md, .mc, .ap, .gp, .fb, .ev, .la, .rm, .ax, .pg, .lt, .sf, .cp, .fd, .hp, .eth, .dx, .can, .pw, .ag, .mm, .mem, .free] s t := by
  refine ⟨_, rfl, ?_⟩
  exact Effect.step (resetNLow_only _ _) (Effect.step (elapse_only _ _) .refl (by decide)) (by decide)
theorem pllLost_only (s : State) : Effect [.tm, .cn, .jn, .pm, .rg, .sp, .st, .md, .mc, .ap, .gp, .fb, .ev, .la, .rm, .ax, .pg, .lt, .sf, .cp, .fd, .hp, .eth, .can, .pw, .mm, .mem] s (pllLost s) := by
  unfold pllLost
  refine Effect.of_ite ?_ ?_
  · exact .refl
  · lift_lets -underBinder
    intro x0 x1 x2
    have h3 : Effect [.tm, .cn, .jn, .pm, .rg, .sp, .st, .md, .mc, .ap, .gp, .fb, .ev, .la, .rm, .ax, .pg, .lt, .sf, .cp, .fd, .hp, .eth, .can, .pw, .mm, .mem] s x2 := by
      exact Effect.step (stagesStop_only _) (Effect.step (ridgeStop_only _ _) .refl (by decide)) (by decide)
    clear_value x2
    intro x4 x5 x6
    have h7 : Effect [.tm, .cn, .jn, .pm, .rg, .sp, .st, .md, .mc, .ap, .gp, .fb, .ev, .la, .rm, .ax, .pg, .lt, .sf, .cp, .fd, .hp, .eth, .can, .pw, .mm, .mem] s x6 := by
      exact Effect.of_mk (x := x2) h3
    clear_value x6
    exact Effect.step (smCause_only _ _) (Effect.step (driveFault_only _ _) h7 (by decide)) (by decide)
theorem execPllLockLost_only a0 (s : State) : ∃ t, execPllLockLost a0 s = .next t ∧ Effect [.tm, .cn, .jn, .pm, .rg, .sp, .st, .md, .mc, .ap, .gp, .fb, .ev, .la, .rm, .ax, .pg, .lt, .sf, .cp, .fd, .hp, .eth, .can, .pw, .ag, .mm, .mem, .free] s t := by
  refine ⟨_, rfl, ?_⟩
  exact Effect.step (pllLost_only _) (Effect.step (elapse_only _ _) .refl (by decide)) (by decide)
theorem vaonLow_only a0 (s : State) : Effect [.tm, .cn, .jn, .pm, .rg, .sp, .st, .md, .mc, .ap, .gp, .fb, .ev, .la, .rm, .ax, .pg, .lt, .sf, .cp, .fd, .hp, .eth, .dx, .can, .pw, .ag, .mm, .mem] s (vaonLow a0 s) := by
  unfold vaonLow
  refine Effect.of_ite ?_ ?_
  · exact .refl
  · exact Effect.step (resetModule_only _ _ _) (Effect.set_pw (by decide) .refl) (by decide)
theorem stuckReset_only a0 (s : State) : Effect [.hp, .pw] s (stuckReset a0 s) := by
  unfold stuckReset
  refine Effect.of_ite ?_ ?_
  · exact .refl
  · exact Effect.step (driveFault_only _ _) (Effect.set_pw (by decide) .refl) (by decide)
theorem execStuckReset_only a0 a1 (s : State) : ∃ t, execStuckReset a0 a1 s = .next t ∧ Effect [.tm, .hp, .pw, .ag, .free] s t := by
  refine ⟨_, rfl, ?_⟩
  exact Effect.step (stuckReset_only _ _) (Effect.step (elapse_only _ _) .refl (by decide)) (by decide)
theorem execSupervisorWatchdog_only a0 (s : State) : ∃ t, execSupervisorWatchdog a0 s = .next t ∧ Effect [.tm, .cn, .jn, .pm, .rg, .sp, .st, .md, .mc, .ap, .gp, .fb, .ev, .la, .rm, .ax, .pg, .lt, .sf, .cp, .fd, .hp, .eth, .dx, .can, .pw, .ag, .mm, .mem, .free] s t := by
  refine ⟨_, rfl, ?_⟩
  exact Effect.step (supervisorReset_only _ _) (Effect.step (elapse_only _ _) .refl (by decide)) (by decide)
theorem supplyDip_only a0 (s : State) : Effect [.cn, .cp, .hp, .pw, .mm] s (supplyDip a0 s) := by
  unfold supplyDip
  split
  · exact .refl
  · refine Effect.of_ite ?_ ?_
    · exact .refl
    · lift_lets -underBinder
      intro x5 x6 x7
      have h8 : Effect [.cn, .cp, .hp, .pw, .mm] s x7 := by
        exact Effect.set_pw (by decide) .refl
      clear_value x7
      refine Effect.of_ite ?_ ?_
      · exact h8
      · exact Effect.step (report_only _ _ _ _ _) (Effect.step (irq_only _ _) h8 (by decide)) (by decide)
theorem execSupplyDip_only a0 a1 (s : State) : ∃ t, execSupplyDip a0 a1 s = .next t ∧ Effect [.tm, .cn, .cp, .hp, .pw, .ag, .mm, .free] s t := by
  refine ⟨_, rfl, ?_⟩
  exact Effect.step (supplyDip_only _ _) (Effect.step (elapse_only _ _) .refl (by decide)) (by decide)
theorem execVaonBkLow_only a0 a1 (s : State) : ∃ t, execVaonBkLow a0 a1 s = .next t ∧ Effect [.tm, .cn, .jn, .pm, .rg, .sp, .st, .md, .mc, .ap, .gp, .fb, .ev, .la, .rm, .ax, .pg, .lt, .sf, .cp, .fd, .hp, .eth, .dx, .can, .pw, .ag, .mm, .mem, .free] s t := by
  refine ⟨_, rfl, ?_⟩
  exact Effect.step (vaonLow_only _ _) (Effect.step (elapse_only _ _) .refl (by decide)) (by decide)
theorem execSupplyWarning_only a0 a1 (s : State) : ∃ t, execSupplyWarning a0 a1 s = .next t ∧ Effect [.tm, .cn, .cp, .fd, .hp, .pw, .ag, .mm, .free] s t := by
  refine ⟨_, rfl, ?_⟩
  exact Effect.step (supplyWarning_only _ _) (Effect.step (elapse_only _ _) .refl (by decide)) (by decide)
theorem execHeartbeatDomainReset_only a0 (s : State) : ∃ t, execHeartbeatDomainReset a0 s = .next t ∧ Effect [.tm, .cn, .jn, .pm, .rg, .sp, .st, .md, .mc, .ap, .gp, .fb, .ev, .la, .rm, .ax, .pg, .lt, .sf, .cp, .fd, .hp, .eth, .dx, .can, .pw, .ag, .mm, .mem, .free] s t := by
  refine ⟨_, rfl, ?_⟩
  exact Effect.step (supervisorReset_only _ _) (Effect.step (elapse_only _ _) .refl (by decide)) (by decide)

end Sys2Proof.Machine
end

