-- ==== Sys2Proof/Laws/FrameSpi.lean ====
section
/-!
SUPPORT. Sys2Proof/Laws/FrameSpi.lean: what each operation of Machine/Spi.lean may change, one lemma per operation.
-/

namespace Sys2Proof.Machine
set_option Elab.async false

theorem hostError_only a0 (s : State) : Effect [.hp] s (hostError a0 s) := by
  unfold hostError
  exact Effect.set_hp (by decide) .refl
theorem frameWrites_only (header : Nat) (vs : List Nat) (i : Nat) (s : State) : Effect [.hp] s (frameWrites header vs i s).2 := by
  induction vs generalizing s i with
  | nil => exact Effect.refl
  | cons v vs ih =>
    unfold frameWrites
    refine Effect.step (ih _ _) ?_ (fun _ h => h)
    split
    · exact Effect.weaken (hostWrite_only ..) (by decide)
    · exact Effect.refl
theorem frameWrites_only_of {header vs i s r t} (h : frameWrites header vs i s = (r, t)) : Effect [.hp] s t := by
  have := frameWrites_only header vs i s
  rwa [h] at this
theorem frameReads_only (header : Nat) (out : List Nat) (n i k : Nat) (s : State) : Effect [.hp] s (frameReads header out n i k s).2 := by
  induction n generalizing s i k with
  | zero => exact .refl
  | succ n ih =>
    unfold frameReads
    extract_lets a
    split
    rename_i h
    refine Effect.step (ih _ _ _) ?_ (fun _ h => h)
    split at h
    · cases h; exact .refl
    · split at h
      · split at h <;> (cases h; exact .refl)
      · cases h; exact Effect.weaken (hostLatch_only ..) (by decide)
theorem frameReads_only_of {header out n i k s r t} (h : frameReads header out n i k s = (r, t)) : Effect [.hp] s t := by
  have := frameReads_only header out n i k s
  rwa [h] at this
theorem spiFrame_only a0 a1 a2 (s : State) : Effect [.hp] s (spiFrame a0 a1 a2 s).2 := by
  unfold spiFrame
  refine Effect.of_ite2 ?_ ?_
  · dsimp only
    exact .refl
  · lift_lets -underBinder
    intro x0 x1 x2 x3 x4 x5 x6
    have h7 : Effect [.hp] s x6 := by
      exact Effect.set_hp (by decide) .refl
    clear_value x6
    intro x8 x9
    have h10 : Effect [.hp] s x9 := by
      refine Effect.of_ite ?_ ?_
      · exact Effect.step (hostError_only _ _) h7 (by decide)
      · exact h7
    clear_value x9
    intro x11 x12 x13
    have h14 : Effect [.hp] s x13 := by
      exact Effect.set_hp (by decide) h10
    clear_value x13
    intro x15 x16 x17 x18 x19
    have h20 : Effect [.hp] s x19 := by
      refine Effect.of_ite ?_ ?_
      · exact Effect.step (hostError_only _ _) h14 (by decide)
      · exact h14
    clear_value x19
    intro x21
    have h22 : Effect [.hp] s x21 := by
      refine Effect.of_ite ?_ ?_
      · exact Effect.step (hostError_only _ _) h20 (by decide)
      · exact h20
    clear_value x21
    intro x23 x24 x25 x26
    have h27 : Effect [.hp] s x26 := by
      exact Effect.step (refill_only _ _) (Effect.set_hp (by decide) h14) (by decide)
    clear_value x26
    intro x28 x29
    have h30 : Effect [.hp] s x29 := by
      refine Effect.of_ite ?_ ?_
      · exact Effect.step (hostError_only _ _) h27 (by decide)
      · exact h27
    clear_value x29
    intro x31 x32 x33
    refine Effect.of_ite2 ?_ ?_
    · dsimp only
      exact Effect.step (hostError_only _ _) (Effect.set_hp (by decide) h10) (by decide)
    · refine Effect.of_ite2 ?_ ?_
      · dsimp only
        exact Effect.set_hp (by decide) h22
      · refine Effect.of_ite2 ?_ ?_
        · refine Effect.of_ite2 ?_ ?_
          · dsimp only
            exact Effect.set_hp (by decide) h30
          · split
            rename_i v37
            dsimp only
            exact Effect.set_hp (by decide) (Effect.step (frameWrites_only_of v37) h30 (by decide))
        · split
          rename_i v41
          dsimp only
          exact Effect.set_hp (by decide) (Effect.step (frameReads_only_of v41) h30 (by decide))
theorem spiFrame_only_of {a0} {a1} {a2} {s : State} {r t} (h : spiFrame a0 a1 a2 s = (r, t)) : Effect [.hp] s t := by
  have := spiFrame_only a0 a1 a2 s
  rwa [h] at this
theorem mbxDrop_only a0 (s : State) : Effect [.hp] s (mbxDrop a0 s) := by
  unfold mbxDrop
  lift_lets -underBinder
  intro x0 x1 x2
  have h3 : Effect [.hp] s x2 := by
    exact Effect.set_hp (by decide) .refl
  intro x4 x5
  have h6 : Effect [.hp] s x5 := by
    exact Effect.set_hp (by decide) h3
  refine Effect.of_ite ?_ ?_
  · exact Effect.step (irq_only _ _) h6 (by decide)
  · exact h6
theorem mbxTake_only (s : State) : Effect [.hp] s (mbxTake s).2 := by
  unfold mbxTake
  split
  · dsimp only
    exact .refl
  · lift_lets -underBinder
    intro x6
    refine Effect.of_ite2 ?_ ?_
    · dsimp only
      exact .refl
    · dsimp only
      exact Effect.step (mbxDrop_only _ _) .refl (by decide)
theorem mbxTake_only_of {s : State} {r t} (h : mbxTake s = (r, t)) : Effect [.hp] s t := by
  have := mbxTake_only s
  rwa [h] at this
theorem reportDropped_only (s : State) : Effect [.cn, .cp, .hp, .mm] s (reportDropped s) := by
  unfold reportDropped
  split
  · exact .refl
  · exact Effect.step (report_only _ _ _ _ _) (Effect.set_hp (by decide) .refl) (by decide)
theorem mbxPartial_only (s : State) : Effect [.cn, .cp, .hp, .mm] s (mbxPartial s) := by
  unfold mbxPartial
  split
  · exact .refl
  · refine Effect.of_ite ?_ ?_
    · exact .refl
    · lift_lets -underBinder
      intro x5
      exact Effect.step (report_only _ _ _ _ _) (Effect.step (mbxDrop_only _ _) .refl (by decide)) (by decide)
theorem execHostReportDropped_only a0 (s : State) : ∃ t, execHostReportDropped a0 s = .next t ∧ Effect [.tm, .cn, .cp, .hp, .ag, .mm, .free] s t := by
  refine ⟨_, rfl, ?_⟩
  exact Effect.step (reportDropped_only _) (Effect.step (elapse_only _ _) .refl (by decide)) (by decide)
theorem mbxResync_only (s : State) : Effect [.cn, .cp, .hp, .mm] s (mbxResync s) := by
  unfold mbxResync
  lift_lets -underBinder
  intro x0
  refine Effect.of_ite ?_ ?_
  · exact .refl
  · exact Effect.step (report_only _ _ _ _ _) (Effect.step (mbxDrop_only _ _) .refl (by decide)) (by decide)

end Sys2Proof.Machine
end

