-- ==== Sys2Proof/Laws/FramePowerState.lean ====
section
/-!
SUPPORT. Sys2Proof/Laws/FramePowerState.lean: what each operation of Machine/PowerState.lean may change, one lemma per operation.
-/

namespace Sys2Proof.Machine
set_option Elab.async false

theorem wakeBegin_only a0 a1 (s : State) : Effect [.tm, .cn, .jn, .pm, .rg, .sp, .st, .md, .mc, .ap, .gp, .fb, .ev, .la, .rm, .ax, .pg, .lt, .sf, .cp, .fd, .hp, .eth, .dx, .can, .pw, .ag, .mm, .mem] s (wakeBegin a0 a1 s) := by
  unfold wakeBegin
  refine Effect.of_ite ?_ ?_
  · exact .refl
  · lift_lets -underBinder
    intro x0 x1 x2
    have h3 : Effect [.tm, .cn, .jn, .pm, .rg, .sp, .st, .md, .mc, .ap, .gp, .fb, .ev, .la, .rm, .ax, .pg, .lt, .sf, .cp, .fd, .hp, .eth, .dx, .can, .pw, .ag, .mm, .mem] s x2 := by
      exact Effect.step (resetModule_only _ _ _) .refl (by decide)
    clear_value x2
    intro x4 x5
    refine Effect.of_ite ?_ ?_
    · exact Effect.set_pw (by decide) h3
    · exact Effect.set_pw (by decide) .refl
theorem setEntry_only a0 (s : State) : Effect [.pw] s (setEntry a0 s) := by
  unfold setEntry
  exact Effect.set_pw (by decide) .refl
theorem cmdPowerState_only a0 (s : State) : Effect [.tm, .cn, .jn, .pm, .rg, .sp, .st, .md, .mc, .ap, .gp, .fb, .ev, .la, .rm, .ax, .pg, .lt, .sf, .cp, .fd, .hp, .eth, .dx, .can, .pw, .ag, .mm, .mem] s (cmdPowerState a0 s).2 := by
  unfold cmdPowerState
  lift_lets -underBinder
  intro x0 x1
  refine Effect.of_ite2 ?_ ?_
  · dsimp only
    exact .refl
  · refine Effect.of_ite2 ?_ ?_
    · dsimp only
      exact .refl
    · refine Effect.of_ite2 ?_ ?_
      · dsimp only
        exact .refl
      · refine Effect.of_ite2 ?_ ?_
        · dsimp only
          exact Effect.step (wakeBegin_only _ _ _) .refl (by decide)
        · dsimp only
          exact Effect.step (setEntry_only _ _) .refl (by decide)
theorem cmdPowerState_only_of {a0} {s : State} {r t} (h : cmdPowerState a0 s = (r, t)) : Effect [.tm, .cn, .jn, .pm, .rg, .sp, .st, .md, .mc, .ap, .gp, .fb, .ev, .la, .rm, .ax, .pg, .lt, .sf, .cp, .fd, .hp, .eth, .dx, .can, .pw, .ag, .mm, .mem] s t := by
  have := cmdPowerState_only a0 s
  rwa [h] at this
theorem wakeSource_only a0 (s : State) : Effect [.tm, .cn, .jn, .pm, .rg, .sp, .st, .md, .mc, .ap, .gp, .fb, .ev, .la, .rm, .ax, .pg, .lt, .sf, .cp, .fd, .hp, .eth, .dx, .can, .pw, .ag, .mm, .mem] s (wakeSource a0 s) := by
  unfold wakeSource
  refine Effect.of_ite ?_ ?_
  · exact .refl
  · lift_lets -underBinder
    intro x0
    have h1 : Effect [.tm, .cn, .jn, .pm, .rg, .sp, .st, .md, .mc, .ap, .gp, .fb, .ev, .la, .rm, .ax, .pg, .lt, .sf, .cp, .fd, .hp, .eth, .dx, .can, .pw, .ag, .mm, .mem] s x0 := by
      refine Effect.of_ite ?_ ?_
      · exact Effect.step (report_only _ _ _ _ _) .refl (by decide)
      · exact .refl
    clear_value x0
    exact Effect.step (wakeBegin_only _ _ _) h1 (by decide)
theorem blockDelayOver_only (s : State) : Effect [.pw] s (blockDelayOver s) := by
  unfold blockDelayOver
  split
  · exact .refl
  · split
    · refine Effect.of_ite ?_ ?_
      · exact .refl
      · exact Effect.step (setEntry_only _ _) .refl (by decide)
    · exact .refl
theorem execPowerBlockDelayExpired_only a0 (s : State) : ∃ t, execPowerBlockDelayExpired a0 s = .next t ∧ Effect [.tm, .pw, .ag, .free] s t := by
  refine ⟨_, rfl, ?_⟩
  exact Effect.step (blockDelayOver_only _) (Effect.step (elapse_only _ _) .refl (by decide)) (by decide)
theorem wakeTime_only (s : State) : Effect [.tm, .cn, .jn, .pm, .rg, .sp, .st, .md, .mc, .ap, .gp, .fb, .ev, .la, .rm, .ax, .pg, .lt, .sf, .cp, .fd, .hp, .eth, .dx, .can, .pw, .ag, .mm, .mem] s (wakeTime s) := by
  unfold wakeTime
  refine Effect.of_ite ?_ ?_
  · exact Effect.step (wakeSource_only _ _) .refl (by decide)
  · exact .refl
theorem execWakeTimeReached_only a0 (s : State) : ∃ t, execWakeTimeReached a0 s = .next t ∧ Effect [.tm, .cn, .jn, .pm, .rg, .sp, .st, .md, .mc, .ap, .gp, .fb, .ev, .la, .rm, .ax, .pg, .lt, .sf, .cp, .fd, .hp, .eth, .dx, .can, .pw, .ag, .mm, .mem, .free] s t := by
  refine ⟨_, rfl, ?_⟩
  exact Effect.step (wakeTime_only _) (Effect.step (elapse_only _ _) .refl (by decide)) (by decide)
theorem entryAbandon_only a0 (s : State) : Effect [.can, .pw] s (entryAbandon a0 s) := by
  unfold entryAbandon
  refine Effect.of_foldl _ ?_ (fun y0 a1 h2 => ?_)
  · exact Effect.step (setEntry_only _ _) .refl (by decide)
  · refine Effect.of_ite ?_ ?_
    · exact Effect.step (canWakeAll_only _) h2 (by decide)
    · exact h2
theorem entryRefused_only a0 a1 a2 (s : State) : Effect [.cn, .jn, .cp, .hp, .can, .pw, .mm] s (entryRefused a0 a1 a2 s) := by
  unfold entryRefused
  exact Effect.step (finish_only _ _ _) (Effect.step (report_only _ _ _ _ _) (Effect.step (entryAbandon_only _ _) .refl (by decide)) (by decide)) (by decide)
theorem wakeRetry_only (s : State) : Effect [.pw] s (wakeRetry s) := by
  unfold wakeRetry
  split
  · exact .refl
  · split
    · refine Effect.of_ite ?_ ?_
      · exact .refl
      · exact Effect.set_pw (by decide) .refl
    · exact .refl
theorem blockSilent_only (s : State) : Effect [.cn, .jn, .cp, .hp, .can, .pw, .mm] s (blockSilent s) := by
  unfold blockSilent
  split
  · exact .refl
  · split
    · refine Effect.of_ite ?_ ?_
      · exact .refl
      · exact Effect.step (entryRefused_only _ _ _ _) .refl (by decide)
    · exact .refl
theorem execPowerBlockNoAnswer_only a0 (s : State) : ∃ t, execPowerBlockNoAnswer a0 s = .next t ∧ Effect [.tm, .cn, .jn, .cp, .hp, .can, .pw, .ag, .mm, .free] s t := by
  refine ⟨_, rfl, ?_⟩
  exact Effect.step (blockSilent_only _) (Effect.step (elapse_only _ _) .refl (by decide)) (by decide)
theorem wakeStepTimeout_only (s : State) : Effect [.hp, .pw] s (wakeStepTimeout s) := by
  unfold wakeStepTimeout
  split
  · exact .refl
  · refine Effect.of_ite ?_ ?_
    · exact .refl
    · refine Effect.of_ite ?_ ?_
      · exact Effect.set_pw (by decide) .refl
      · lift_lets -underBinder
        intro x5 x6
        exact Effect.step (driveFault_only _ _) (Effect.set_pw (by decide) .refl) (by decide)
theorem execWakeStepTimeout_only a0 (s : State) : ∃ t, execWakeStepTimeout a0 s = .next t ∧ Effect [.tm, .hp, .pw, .ag, .free] s t := by
  refine ⟨_, rfl, ?_⟩
  exact Effect.step (wakeStepTimeout_only _) (Effect.step (elapse_only _ _) .refl (by decide)) (by decide)
theorem coreLost_only (s : State) : Effect [.sp, .st, .md, .mc, .ap, .gp, .fb, .ev, .la, .rm, .hp, .eth, .dx, .mm, .mem] s (coreLost s) := by
  refine ⟨OnlyChanges.of_mk (x := fbStandby s) rfl ((fbStandby_only s).1.step OnlyChanges.refl (by decide)) rfl rfl
    ?_ ?_ ?_ ?_ ?_ ?_ ?_ ?_ ?_ ?_ ?_ ?_ ?_ ?_ ?_ ?_ ?_ ?_ ?_ ?_ ?_ ?_ ?_ ?_ ?_ ?_ ?_ ?_ ?_ ?_ ?_, fun w => Store.wf_filter _ w⟩ <;>
    first | exact Or.inl (by decide) | exact Or.inr rfl
theorem wakeFrame_only a0 a1 a2 a3 (s : State) : Effect [.tm, .cn, .jn, .pm, .rg, .sp, .st, .md, .mc, .ap, .gp, .fb, .ev, .la, .rm, .ax, .pg, .lt, .sf, .cp, .fd, .hp, .eth, .dx, .can, .pw, .ag, .mm, .mem] s (wakeFrame a0 a1 a2 a3 s) := by
  unfold wakeFrame
  lift_lets -underBinder
  intro x0
  refine Effect.of_ite ?_ ?_
  · exact .refl
  · exact Effect.step (wakeBegin_only _ _ _) (Effect.step (report_only _ _ _ _ _) .refl (by decide)) (by decide)
theorem execWakeFrame_only a0 a1 a2 a3 a4 (s : State) : ∃ t, execWakeFrame a0 a1 a2 a3 a4 s = .next t ∧ Effect [.tm, .cn, .jn, .pm, .rg, .sp, .st, .md, .mc, .ap, .gp, .fb, .ev, .la, .rm, .ax, .pg, .lt, .sf, .cp, .fd, .hp, .eth, .dx, .can, .pw, .ag, .mm, .mem, .free] s t := by
  refine ⟨_, rfl, ?_⟩
  exact Effect.step (wakeFrame_only _ _ _ _ _) (Effect.step (elapse_only _ _) .refl (by decide)) (by decide)
theorem clearRegion_only a0 (s : State) : Effect [.rg, .cp, .mem] s (clearRegion a0 s) := by
  unfold clearRegion
  split
  · exact Effect.step (clearRange_only _ _ _) .refl (by decide)
  · lift_lets -underBinder
    intro x2
    have h3 : Effect [.rg, .cp, .mem] s x2 := by
      exact Effect.step (clearRange_only _ _ _) .refl (by decide)
    clear_value x2
    intro x4
    exact Effect.set_rg (by decide) h3
  · lift_lets -underBinder
    intro x6
    have h7 : Effect [.rg, .cp, .mem] s x6 := by
      exact Effect.step (clearRange_only _ _ _) .refl (by decide)
    clear_value x6
    exact Effect.set_cp (by decide) h7
  · exact .refl
theorem wakeCheck_only a0 (s : State) : Effect [.tm, .cn, .jn, .pm, .rg, .sp, .st, .md, .mc, .ap, .gp, .fb, .ev, .la, .rm, .ax, .pg, .lt, .sf, .cp, .fd, .hp, .eth, .dx, .can, .pw, .ag, .mm, .mem] s (wakeCheck a0 s) := by
  unfold wakeCheck
  split
  refine Effect.of_ite ?_ ?_
  · exact .refl
  · lift_lets -underBinder
    intro x4 x5
    have h6 : Effect [.tm, .cn, .jn, .pm, .rg, .sp, .st, .md, .mc, .ap, .gp, .fb, .ev, .la, .rm, .ax, .pg, .lt, .sf, .cp, .fd, .hp, .eth, .dx, .can, .pw, .ag, .mm, .mem] s x5 := by
      exact Effect.step (resetModule_only _ _ _) .refl (by decide)
    clear_value x5
    intro x7 x8 x9
    have h10 : Effect [.tm, .cn, .jn, .pm, .rg, .sp, .st, .md, .mc, .ap, .gp, .fb, .ev, .la, .rm, .ax, .pg, .lt, .sf, .cp, .fd, .hp, .eth, .dx, .can, .pw, .ag, .mm, .mem] s x9 := by
      refine Effect.of_foldl _ ?_ (fun y11 a12 h13 => ?_)
      · exact .refl
      · exact Effect.step (clearRegion_only _ _) h13 (by decide)
    clear_value x9
    intro x14
    refine Effect.of_ite ?_ ?_
    · exact Effect.of_mk (x := x5) h6
    · exact Effect.step (report_only _ _ _ _ _) (Effect.set_mm (by decide) h10) (by decide)
theorem wakeDone_only a0 (s : State) : Effect [.tm, .cn, .jn, .mc, .ap, .fb, .ev, .cp, .fd, .hp, .can, .pw, .mm] s (wakeDone a0 s) := by
  unfold wakeDone
  lift_lets -underBinder
  intro x0 x1
  have h2 : Effect [.tm, .cn, .jn, .mc, .ap, .fb, .ev, .cp, .fd, .hp, .can, .pw, .mm] s x1 := by
    exact Effect.set_pw (by decide) .refl
  clear_value x1
  intro x3 x4
  have h5 : Effect [.tm, .cn, .jn, .mc, .ap, .fb, .ev, .cp, .fd, .hp, .can, .pw, .mm] s x4 := by
    exact Effect.step (servoFree_only _) (Effect.set_tm (by decide) h2) (by decide)
  clear_value x4
  intro x6
  have h7 : Effect [.tm, .cn, .jn, .mc, .ap, .fb, .ev, .cp, .fd, .hp, .can, .pw, .mm] s x6 := by
    exact Effect.step (stepTo_only _ _ _) h5 (by decide)
  clear_value x6
  intro x8
  have h9 : Effect [.tm, .cn, .jn, .mc, .ap, .fb, .ev, .cp, .fd, .hp, .can, .pw, .mm] s x8 := by
    refine Effect.of_foldl _ ?_ (fun y10 a11 h12 => ?_)
    · exact Effect.step (apwmStart_only _) (Effect.step (canWakeAll_only _) (Effect.step (fieldStart_only _) (Effect.step (fbWake_only _) h7 (by decide)) (by decide)) (by decide)) (by decide)
    · exact Effect.step (pinRefresh_only _ _) h12 (by decide)
  clear_value x8
  intro x13 x14 x15
  have h16 : Effect [.tm, .cn, .jn, .mc, .ap, .fb, .ev, .cp, .fd, .hp, .can, .pw, .mm] s x15 := by
    refine Effect.of_ite ?_ ?_
    · exact Effect.set_pw (by decide) h9
    · exact Effect.step (outRefresh_only _) (Effect.set_fd (by decide) h2) (by decide)
  clear_value x15
  intro x17
  have h18 : Effect [.tm, .cn, .jn, .mc, .ap, .fb, .ev, .cp, .fd, .hp, .can, .pw, .mm] s x17 := by
    exact Effect.step (report_only _ _ _ _ _) (Effect.step (irq_only _ _) h16 (by decide)) (by decide)
  clear_value x17
  intro x19
  have h20 : Effect [.tm, .cn, .jn, .mc, .ap, .fb, .ev, .cp, .fd, .hp, .can, .pw, .mm] s x19 := by
    exact Effect.step (wakeFailMoved_only _) h18 (by decide)
  clear_value x19
  split
  · exact Effect.step (finish_only _ _ _) h20 (by decide)
  · exact h20
theorem wakeStepDone_only (s : State) : Effect [.tm, .cn, .jn, .pm, .rg, .sp, .st, .md, .mc, .ap, .gp, .fb, .ev, .la, .rm, .ax, .pg, .lt, .sf, .cp, .fd, .hp, .eth, .dx, .can, .pw, .ag, .mm, .mem] s (wakeStepDone s) := by
  unfold wakeStepDone
  split
  · exact .refl
  · refine Effect.of_ite ?_ ?_
    · exact .refl
    · refine Effect.of_ite ?_ ?_
      · exact Effect.step (wakeDone_only _ _) .refl (by decide)
      · lift_lets -underBinder
        intro x5 x6 x7
        have h8 : Effect [.tm, .cn, .jn, .pm, .rg, .sp, .st, .md, .mc, .ap, .gp, .fb, .ev, .la, .rm, .ax, .pg, .lt, .sf, .cp, .fd, .hp, .eth, .dx, .can, .pw, .ag, .mm, .mem] s x7 := by
          exact Effect.set_pw (by decide) .refl
        clear_value x7
        refine Effect.of_ite ?_ ?_
        · exact Effect.step (wakeCheck_only _ _) h8 (by decide)
        · exact h8
theorem flushQueues_only (s : State) : Effect [.cn, .jn, .hp, .mm] s (flushQueues s) := by
  unfold flushQueues
  lift_lets -underBinder
  intro x0 x1
  refine Effect.of_foldl _ ?_ (fun y2 a3 h4 => ?_)
  · exact Effect.set_cn (by decide) .refl
  · exact Effect.step (writeOne_only _ _) h4 (by decide)
theorem entryComplete_only a0 (s : State) : Effect [.cn, .jn, .cp, .hp, .eth, .can, .mm, .sent] s (entryComplete a0 s) := by
  unfold entryComplete
  lift_lets -underBinder
  intro x0
  have h1 : Effect [.cn, .jn, .cp, .hp, .eth, .can, .mm, .sent] s x0 := by
    exact Effect.step (report_only _ _ _ _ _) .refl (by decide)
  clear_value x0
  intro x2
  have h3 : Effect [.cn, .jn, .cp, .hp, .eth, .can, .mm, .sent] s x2 := by
    exact Effect.step (finish_only _ _ _) h1 (by decide)
  clear_value x2
  intro x4
  have h5 : Effect [.cn, .jn, .cp, .hp, .eth, .can, .mm, .sent] s x4 := by
    exact Effect.step (reportAll_only _ _) h3 (by decide)
  clear_value x4
  refine Effect.of_ite ?_ ?_
  · exact h3
  · refine Effect.of_ite ?_ ?_
    · exact Effect.step (flushQueues_only _) h5 (by decide)
    · exact h5
theorem blockStops_only a0 a1 (s : State) : Effect [.tm, .cn, .jn, .pm, .rg, .sp, .st, .md, .mc, .ap, .gp, .fb, .ev, .la, .rm, .ax, .pg, .lt, .sf, .cp, .fd, .hp, .eth, .can, .pw, .mm, .mem, .sent] s (blockStops a0 a1 s) := by
  unfold blockStops
  split
  · exact Effect.step (ridgeStop_only _ _) .refl (by decide)
  · exact Effect.step (canStandby_only _ _) .refl (by decide)
  · exact Effect.step (outRefresh_only _) (Effect.set_fd (by decide) .refl) (by decide)
  · exact Effect.set_tm (by decide) .refl
  · exact Effect.step (entryComplete_only _ _) .refl (by decide)
  · exact .refl
theorem enterState_only a0 (s : State) : Effect [.cn, .jn, .sp, .st, .md, .mc, .ap, .gp, .fb, .ev, .la, .rm, .sf, .cp, .fd, .hp, .eth, .dx, .can, .pw, .mm, .mem, .sent] s (enterState a0 s) := by
  unfold enterState
  lift_lets -underBinder
  intro x0
  have h1 : Effect [.cn, .jn, .sp, .st, .md, .mc, .ap, .gp, .fb, .ev, .la, .rm, .sf, .cp, .fd, .hp, .eth, .dx, .can, .pw, .mm, .mem, .sent] s x0 := by
    exact Effect.step (setEntry_only _ _) .refl (by decide)
  clear_value x0
  split
  · exact h1
  · lift_lets -underBinder
    intro x6
    have h7 : Effect [.cn, .jn, .sp, .st, .md, .mc, .ap, .gp, .fb, .ev, .la, .rm, .sf, .cp, .fd, .hp, .eth, .dx, .can, .pw, .mm, .mem, .sent] s x6 := by
      exact Effect.step (entryComplete_only _ _) h1 (by decide)
    clear_value x6
    intro x8
    exact Effect.set_pw (by decide) h7
  · lift_lets -underBinder
    intro x11
    have h12 : Effect [.cn, .jn, .sp, .st, .md, .mc, .ap, .gp, .fb, .ev, .la, .rm, .sf, .cp, .fd, .hp, .eth, .dx, .can, .pw, .mm, .mem, .sent] s x11 := by
      exact Effect.step (coreLost_only _) (Effect.step (fieldSilent_only _) h1 (by decide)) (by decide)
    clear_value x11
    intro x13
    exact Effect.set_pw (by decide) h12
  · lift_lets -underBinder
    intro x16
    have h17 : Effect [.cn, .jn, .sp, .st, .md, .mc, .ap, .gp, .fb, .ev, .la, .rm, .sf, .cp, .fd, .hp, .eth, .dx, .can, .pw, .mm, .mem, .sent] s x16 := by
      exact Effect.step (coreLost_only _) (Effect.step (fieldSilent_only _) h1 (by decide)) (by decide)
    clear_value x16
    intro x18
    have h19 : Effect [.cn, .jn, .sp, .st, .md, .mc, .ap, .gp, .fb, .ev, .la, .rm, .sf, .cp, .fd, .hp, .eth, .dx, .can, .pw, .mm, .mem, .sent] s x18 := by
      exact Effect.of_mk (x := x16) h17
    clear_value x18
    intro x20
    exact Effect.set_pw (by decide) h19
theorem blockAnswer_only a0 (s : State) : Effect [.tm, .cn, .jn, .pm, .rg, .sp, .st, .md, .mc, .ap, .gp, .fb, .ev, .la, .rm, .ax, .pg, .lt, .sf, .cp, .fd, .hp, .eth, .dx, .can, .pw, .mm, .mem, .sent] s (blockAnswer a0 s) := by
  unfold blockAnswer
  split
  · exact .refl
  · split
    · exact .refl
    · refine Effect.of_ite ?_ ?_
      · exact .refl
      · refine Effect.of_ite ?_ ?_
        · exact Effect.step (entryRefused_only _ _ _ _) .refl (by decide)
        · split
          · exact Effect.step (entryRefused_only _ _ _ _) .refl (by decide)
          · refine Effect.of_ite ?_ ?_
            · exact Effect.step (entryRefused_only _ _ _ _) .refl (by decide)
            · exact Effect.step (setEntry_only _ _) .refl (by decide)
          · lift_lets -underBinder
            intro x19 x20
            have h21 : Effect [.tm, .cn, .jn, .pm, .rg, .sp, .st, .md, .mc, .ap, .gp, .fb, .ev, .la, .rm, .ax, .pg, .lt, .sf, .cp, .fd, .hp, .eth, .dx, .can, .pw, .mm, .mem, .sent] s x20 := by
              exact Effect.step (blockStops_only _ _ _) (Effect.step (setEntry_only _ _) .refl (by decide)) (by decide)
            clear_value x20
            refine Effect.of_ite ?_ ?_
            · exact Effect.step (enterState_only _ _) h21 (by decide)
            · exact h21
theorem execPowerBlockAnswer_only a0 a1 (s : State) : ∃ t, execPowerBlockAnswer a0 a1 s = .next t ∧ Effect [.tm, .cn, .jn, .pm, .rg, .sp, .st, .md, .mc, .ap, .gp, .fb, .ev, .la, .rm, .ax, .pg, .lt, .sf, .cp, .fd, .hp, .eth, .dx, .can, .pw, .ag, .mm, .mem, .sent, .free] s t := by
  refine ⟨_, rfl, ?_⟩
  exact Effect.step (blockAnswer_only _ _) (Effect.step (elapse_only _ _) .refl (by decide)) (by decide)
theorem execWakeStepDone_only a0 (s : State) : ∃ t, execWakeStepDone a0 s = .next t ∧ Effect [.tm, .cn, .jn, .pm, .rg, .sp, .st, .md, .mc, .ap, .gp, .fb, .ev, .la, .rm, .ax, .pg, .lt, .sf, .cp, .fd, .hp, .eth, .dx, .can, .pw, .ag, .mm, .mem, .free] s t := by
  refine ⟨_, rfl, ?_⟩
  exact Effect.step (wakeStepDone_only _) (Effect.step (elapse_only _ _) .refl (by decide)) (by decide)
theorem execWakeSource_only a0 a1 (s : State) : ∃ t, execWakeSource a0 a1 s = .next t ∧ Effect [.tm, .cn, .jn, .pm, .rg, .sp, .st, .md, .mc, .ap, .gp, .fb, .ev, .la, .rm, .ax, .pg, .lt, .sf, .cp, .fd, .hp, .eth, .dx, .can, .pw, .ag, .mm, .mem, .free] s t := by
  refine ⟨_, rfl, ?_⟩
  exact Effect.step (wakeSource_only _ _) (Effect.step (elapse_only _ _) .refl (by decide)) (by decide)
theorem execWakeRetry_only a0 (s : State) : ∃ t, execWakeRetry a0 s = .next t ∧ Effect [.tm, .pw, .ag, .free] s t := by
  refine ⟨_, rfl, ?_⟩
  exact Effect.step (wakeRetry_only _) (Effect.step (elapse_only _ _) .refl (by decide)) (by decide)
theorem canWake_only a0 a1 (s : State) : Effect [.tm, .cn, .jn, .pm, .rg, .sp, .st, .md, .mc, .ap, .gp, .fb, .ev, .la, .rm, .ax, .pg, .lt, .sf, .cp, .fd, .hp, .eth, .dx, .can, .pw, .ag, .mm, .mem] s (canWake a0 a1 s) := by
  unfold canWake
  refine Effect.of_ite ?_ ?_
  · exact .refl
  · lift_lets -underBinder
    intro x0 x1
    clear_value x1
    split
    · exact .refl
    · exact Effect.step (wakeBegin_only _ _ _) (Effect.step (report_only _ _ _ _ _) (Effect.step (updCtl_only _ _ _) .refl (by decide)) (by decide)) (by decide)
theorem execCanWake_only a0 a1 a2 (s : State) : ∃ t, execCanWake a0 a1 a2 s = .next t ∧ Effect [.tm, .cn, .jn, .pm, .rg, .sp, .st, .md, .mc, .ap, .gp, .fb, .ev, .la, .rm, .ax, .pg, .lt, .sf, .cp, .fd, .hp, .eth, .dx, .can, .pw, .ag, .mm, .mem, .free] s t := by
  refine ⟨_, rfl, ?_⟩
  exact Effect.step (canWake_only _ _ _) (Effect.step (elapse_only _ _) .refl (by decide)) (by decide)

end Sys2Proof.Machine
end

