-- ==== Sys2Proof/Laws/FrameUpkeep.lean ====
section
/-!
SUPPORT. Sys2Proof/Laws/FrameUpkeep.lean: what each operation of Machine/Upkeep.lean may change, one lemma per operation.
-/

namespace Sys2Proof.Machine
set_option Elab.async false

theorem cmdAgeingReport_only a0 (s : State) : Effect [] s (cmdAgeingReport a0 s).2 := by
  unfold cmdAgeingReport
  split
  · dsimp only
    exact .refl
  · lift_lets -underBinder
    intro x4 x5 x6
    refine Effect.of_ite2 ?_ ?_
    · dsimp only
      exact .refl
    · dsimp only
      exact .refl
  · dsimp only
    exact .refl
  · dsimp only
    exact .refl
theorem cmdAgeingReport_only_of {a0} {s : State} {r t} (h : cmdAgeingReport a0 s = (r, t)) : Effect [] s t := by
  have := cmdAgeingReport_only a0 s
  rwa [h] at this
theorem setDebug_only a0 (s : State) : Effect [.pw] s (setDebug a0 s) := by
  unfold setDebug
  exact Effect.set_pw (by decide) .refl
theorem debugChallenge_only (s : State) : Effect [.pw, .free] s (debugChallenge s) := by
  unfold debugChallenge
  lift_lets -underBinder
  intro x0
  split
  · exact .refl
  · refine Effect.of_ite ?_ ?_
    · exact .refl
    · split
      rename_i v10
      exact Effect.step (setDebug_only _ _) (Effect.step (takeBytes_only_of v10) .refl (by decide)) (by decide)
theorem execDebugChallengeRead_only a0 (s : State) : ∃ t, execDebugChallengeRead a0 s = .next t ∧ Effect [.tm, .pw, .ag, .free] s t := by
  refine ⟨_, rfl, ?_⟩
  exact Effect.step (debugChallenge_only _) (Effect.step (elapse_only _ _) .refl (by decide)) (by decide)
theorem needsTake_only a0 (s : State) : Effect [.ag] s (needsTake a0 s) := by
  unfold needsTake
  refine Effect.of_foldl _ ?_ (fun y0 a1 h2 => ?_)
  · exact .refl
  · refine Effect.of_ite ?_ ?_
    · exact h2
    · lift_lets -underBinder
      intro x3 x4
      exact Effect.set_ag (by decide) h2
theorem debugInstruction_only a0 (s : State) : Effect [.pw] s (debugInstruction a0 s) := by
  unfold debugInstruction
  exact Effect.step (setDebug_only _ _) .refl (by decide)
theorem execDebugPortInstruction_only a0 a1 (s : State) : ∃ t, execDebugPortInstruction a0 a1 s = .next t ∧ Effect [.tm, .pw, .ag, .free] s t := by
  refine ⟨_, rfl, ?_⟩
  exact Effect.step (debugInstruction_only _ _) (Effect.step (elapse_only _ _) .refl (by decide)) (by decide)
theorem bankFails_only a0 a1 a2 (s : State) : Effect [.cn, .jn, .cp, .hp, .mm] s (bankFails a0 a1 a2 s) := by
  unfold bankFails
  refine Effect.of_ite ?_ ?_
  · exact .refl
  · lift_lets -underBinder
    intro x0 x1 x2 x3 x4
    have h5 : Effect [.cn, .jn, .cp, .hp, .mm] s x4 := by
      exact Effect.of_mk (x := s) .refl
    clear_value x4
    intro x6
    have h7 : Effect [.cn, .jn, .cp, .hp, .mm] s x6 := by
      exact Effect.step (report_only _ _ _ _ _) h5 (by decide)
    clear_value x6
    refine Effect.of_ite ?_ ?_
    · exact Effect.step (report_only _ _ _ _ _) h7 (by decide)
    · exact h7
theorem mramError_only a0 (s : State) : Effect [.cn, .jn, .cp, .hp, .mm] s (mramError a0 s) := by
  unfold mramError
  lift_lets -underBinder
  intro x0 x1 x2 x3 x4
  have h5 : Effect [.cn, .jn, .cp, .hp, .mm] s x4 := by
    exact Effect.set_mm (by decide) .refl
  clear_value x4
  refine Effect.of_ite ?_ ?_
  · exact Effect.step (bankFails_only _ _ _ _) h5 (by decide)
  · exact h5
theorem debugTry_only a0 (s : State) : Effect [.cn, .cp, .hp, .pw, .mm] s (debugTry a0 s) := by
  unfold debugTry
  lift_lets -underBinder
  intro x0
  split
  · refine Effect.of_ite ?_ ?_
    · exact .refl
    · refine Effect.of_ite ?_ ?_
      · exact Effect.step (report_only _ _ _ _ _) (Effect.step (setDebug_only _ _) .refl (by decide)) (by decide)
      · refine Effect.of_ite ?_ ?_
        · exact Effect.step (setDebug_only _ _) .refl (by decide)
        · exact Effect.step (setDebug_only _ _) .refl (by decide)
  · exact .refl
theorem execDebugUnlockAnswer_only a0 a1 (s : State) : ∃ t, execDebugUnlockAnswer a0 a1 s = .next t ∧ Effect [.tm, .cn, .cp, .hp, .pw, .ag, .mm, .free] s t := by
  refine ⟨_, rfl, ?_⟩
  exact Effect.step (debugTry_only _ _) (Effect.step (elapse_only _ _) .refl (by decide)) (by decide)
theorem slackMeasure_only a0 (s : State) : Effect [.ag] s (slackMeasure a0 s) := by
  unfold slackMeasure
  refine Effect.of_ite ?_ ?_
  · exact .refl
  · lift_lets -underBinder
    intro x0 x1
    have h2 : Effect [.ag] s x1 := by
      exact Effect.set_ag (by decide) .refl
    clear_value x1
    intro x3
    split
    · exact h2
    · refine Effect.of_ite ?_ ?_
      · exact Effect.set_ag (by decide) h2
      · refine Effect.of_ite ?_ ?_
        · exact Effect.set_ag (by decide) h2
        · lift_lets -underBinder
          intro x9 x10
          refine Effect.of_ite ?_ ?_
          · exact Effect.set_ag (by decide) h2
          · exact Effect.set_ag (by decide) h2
theorem execAgeingSlackMeasure_only a0 a1 (s : State) : ∃ t, execAgeingSlackMeasure a0 a1 s = .next t ∧ Effect [.tm, .ag, .free] s t := by
  refine ⟨_, rfl, ?_⟩
  exact Effect.step (slackMeasure_only _ _) (Effect.step (elapse_only _ _) .refl (by decide)) (by decide)
theorem dayTake_only (s : State) : Effect [.ag] s (dayTake s) := by
  unfold dayTake
  lift_lets -underBinder
  intro x0 x1 x2
  exact Effect.set_ag (by decide) .refl
theorem reserveActs_only (s : State) : Effect [.cn, .rg, .cp, .hp, .ag, .mm] s (reserveActs s) := by
  unfold reserveActs
  lift_lets -underBinder
  intro x0 x1 x2 x3 x4 x5 x6
  have h7 : Effect [.cn, .rg, .cp, .hp, .ag, .mm] s x6 := by
    exact Effect.set_ag (by decide) .refl
  clear_value x6
  intro x8
  have h9 : Effect [.cn, .rg, .cp, .hp, .ag, .mm] s x8 := by
    refine Effect.of_ite ?_ ?_
    · exact Effect.step (report_only _ _ _ _ _) h7 (by decide)
    · exact h7
  clear_value x8
  intro x10
  have h11 : Effect [.cn, .rg, .cp, .hp, .ag, .mm] s x10 := by
    refine Effect.of_ite ?_ ?_
    · exact Effect.step (report_only _ _ _ _ _) h9 (by decide)
    · exact h9
  clear_value x10
  intro x12 x13 x14 x15
  have h16 : Effect [.cn, .rg, .cp, .hp, .ag, .mm] s x15 := by
    exact Effect.set_ag (by decide) h11
  clear_value x15
  refine Effect.of_ite ?_ ?_
  · exact Effect.set_ag (by decide) h11
  · refine Effect.of_ite ?_ ?_
    · refine Effect.of_ite ?_ ?_
      · exact h11
      · exact Effect.step (report_only _ _ _ _ _) (Effect.set_rg (by decide) h11) (by decide)
    · refine Effect.of_ite ?_ ?_
      · exact h16
      · exact Effect.step (report_only _ _ _ _ _) h16 (by decide)
theorem replan_only a0 (s : State) : Effect [.cn, .rg, .cp, .hp, .ag, .mm] s (replan a0 s) := by
  unfold replan
  refine Effect.of_ite ?_ ?_
  · exact .refl
  · lift_lets -underBinder
    intro x0
    have h1 : Effect [.cn, .rg, .cp, .hp, .ag, .mm] s x0 := by
      exact Effect.step (needsTake_only _ _) .refl (by decide)
    clear_value x0
    split
    lift_lets -underBinder
    intro x6 x7
    have h8 : Effect [.cn, .rg, .cp, .hp, .ag, .mm] s x7 := by
      exact Effect.step (dayTake_only _) (Effect.set_ag (by decide) h1) (by decide)
    clear_value x7
    exact Effect.step (reserveActs_only _) (Effect.step (report_only _ _ _ _ _) h8 (by decide)) (by decide)
theorem execAgeingReplan_only a0 a1 (s : State) : ∃ t, execAgeingReplan a0 a1 s = .next t ∧ Effect [.tm, .cn, .rg, .cp, .hp, .ag, .mm, .free] s t := by
  refine ⟨_, rfl, ?_⟩
  exact Effect.step (replan_only _ _) (Effect.step (elapse_only _ _) .refl (by decide)) (by decide)
theorem eccEffect_only a0 a1 a2 (s : State) : Effect [.tm, .cn, .jn, .pm, .rg, .sp, .st, .md, .mc, .ap, .gp, .fb, .ev, .la, .rm, .ax, .pg, .lt, .sf, .cp, .fd, .hp, .eth, .dx, .can, .pw, .ag, .mm, .mem] s (eccEffect a0 a1 a2 s) := by
  unfold eccEffect
  lift_lets -underBinder
  intro x0
  have h1 : Effect [.tm, .cn, .jn, .pm, .rg, .sp, .st, .md, .mc, .ap, .gp, .fb, .ev, .la, .rm, .ax, .pg, .lt, .sf, .cp, .fd, .hp, .eth, .dx, .can, .pw, .ag, .mm, .mem] s x0 := by
    refine Effect.of_ite ?_ ?_
    · exact Effect.step (mramError_only _ _) .refl (by decide)
    · exact .refl
  clear_value x0
  split
  · exact Effect.step (spurFails_only _ _ _ _) h1 (by decide)
  · exact Effect.step (supervisorReset_only _ _) h1 (by decide)
  · refine Effect.of_ite ?_ ?_
    · exact Effect.step (monitorFault_only _ _ _) h1 (by decide)
    · exact h1
  · exact Effect.set_cp (by decide) h1
  · exact Effect.set_mm (by decide) h1
  · exact h1
  · refine Effect.of_ite ?_ ?_
    · exact h1
    · exact Effect.set_mm (by decide) h1
theorem countingRecord_only (s : State) : Effect [.cn, .cp, .hp, .eth, .can, .mm] s (countingRecord s) := by
  unfold countingRecord
  lift_lets -underBinder
  intro x0 x1 x2
  have h3 : Effect [.cn, .cp, .hp, .eth, .can, .mm] s x2 := by
    refine Effect.of_ite ?_ ?_
    · exact Effect.step (report_only _ _ _ _ _) (Effect.set_hp (by decide) .refl) (by decide)
    · exact .refl
  clear_value x2
  intro x4
  have h5 : Effect [.cn, .cp, .hp, .eth, .can, .mm] s x4 := by
    refine Effect.of_foldl _ ?_ (fun y6 a7 h8 => ?_)
    · exact h3
    · lift_lets -underBinder
      intro x9
      refine Effect.of_ite ?_ ?_
      · exact h8
      · exact Effect.step (report_only _ _ _ _ _) (Effect.step (updPort_only _ _ _) h8 (by decide)) (by decide)
  clear_value x4
  intro x10
  have h11 : Effect [.cn, .cp, .hp, .eth, .can, .mm] s x10 := by
    refine Effect.of_foldl _ ?_ (fun y12 a13 h14 => ?_)
    · exact h5
    · lift_lets -underBinder
      intro x15
      refine Effect.of_ite ?_ ?_
      · exact h14
      · exact Effect.step (report_only _ _ _ _ _) (Effect.step (updCtl_only _ _ _) h14 (by decide)) (by decide)
  clear_value x10
  intro x16
  refine Effect.of_ite ?_ ?_
  · exact .refl
  · exact Effect.set_hp (by decide) h11
theorem cairnReport_only a0 (s : State) : Effect [.cn, .cp, .hp, .mm] s (cairnReport a0 s) := by
  unfold cairnReport
  refine Effect.of_ite ?_ ?_
  · exact .refl
  · lift_lets -underBinder
    intro x0
    refine Effect.of_ite ?_ ?_
    · exact Effect.step (monReport_only _ _ _ _) .refl (by decide)
    · refine Effect.of_ite ?_ ?_
      · exact .refl
      · exact Effect.step (report_only _ _ _ _ _) .refl (by decide)
theorem debugExpire_only (s : State) : Effect [.cn, .cp, .hp, .pw, .mm] s (debugExpire s) := by
  unfold debugExpire
  split
  · refine Effect.of_ite ?_ ?_
    · exact .refl
    · exact Effect.step (debugLock_only _ _) .refl (by decide)
  · exact .refl
theorem execDebugUnlockTimeout_only a0 (s : State) : ∃ t, execDebugUnlockTimeout a0 s = .next t ∧ Effect [.tm, .cn, .cp, .hp, .pw, .ag, .mm, .free] s t := by
  refine ⟨_, rfl, ?_⟩
  exact Effect.step (debugExpire_only _) (Effect.step (elapse_only _ _) .refl (by decide)) (by decide)
theorem bandCross_only a0 a1 (s : State) : Effect [.cn, .rg, .cp, .hp, .ag, .mm] s (bandCross a0 a1 s) := by
  unfold bandCross
  refine Effect.of_ite ?_ ?_
  · exact .refl
  · exact Effect.step (replan_only _ _) (Effect.set_ag (by decide) .refl) (by decide)
theorem execTemperatureBandCrossing_only a0 a1 a2 (s : State) : ∃ t, execTemperatureBandCrossing a0 a1 a2 s = .next t ∧ Effect [.tm, .cn, .rg, .cp, .hp, .ag, .mm, .free] s t := by
  refine ⟨_, rfl, ?_⟩
  exact Effect.step (bandCross_only _ _ _) (Effect.step (elapse_only _ _) .refl (by decide)) (by decide)
theorem eccRead_only a0 a1 a2 a3 (s : State) : Effect [.tm, .cn, .jn, .pm, .rg, .sp, .st, .md, .mc, .ap, .gp, .fb, .ev, .la, .rm, .ax, .pg, .lt, .sf, .cp, .fd, .hp, .eth, .dx, .can, .pw, .ag, .mm, .mem] s (eccRead a0 a1 a2 a3 s) := by
  unfold eccRead
  refine Effect.of_ite ?_ ?_
  · exact .refl
  · split
    · exact .refl
    · lift_lets -underBinder
      intro x2
      have h3 : Effect [.tm, .cn, .jn, .pm, .rg, .sp, .st, .md, .mc, .ap, .gp, .fb, .ev, .la, .rm, .ax, .pg, .lt, .sf, .cp, .fd, .hp, .eth, .dx, .can, .pw, .ag, .mm, .mem] s x2 := by
        exact Effect.step (eccCount_only _ _) .refl (by decide)
      clear_value x2
      exact Effect.step (report_only _ _ _ _ _) h3 (by decide)
    · exact Effect.step (eccEffect_only _ _ _ _) (Effect.step (report_only _ _ _ _ _) .refl (by decide)) (by decide)
theorem execScrubTick_only a0 a1 a2 a3 a4 (s : State) : ∃ t, execScrubTick a0 a1 a2 a3 a4 s = .next t ∧ Effect [.tm, .cn, .jn, .pm, .rg, .sp, .st, .md, .mc, .ap, .gp, .fb, .ev, .la, .rm, .ax, .pg, .lt, .sf, .cp, .fd, .hp, .eth, .dx, .can, .pw, .ag, .mm, .mem, .free] s t := by
  refine ⟨_, rfl, ?_⟩
  exact Effect.step (eccRead_only _ _ _ _ _) (Effect.step (elapse_only _ _) .refl (by decide)) (by decide)
theorem execCairnReport_only a0 a1 (s : State) : ∃ t, execCairnReport a0 a1 s = .next t ∧ Effect [.tm, .cn, .cp, .hp, .ag, .mm, .free] s t := by
  refine ⟨_, rfl, ?_⟩
  exact Effect.step (cairnReport_only _ _) (Effect.step (elapse_only _ _) .refl (by decide)) (by decide)
theorem execCountingRecord_only a0 (s : State) : ∃ t, execCountingRecord a0 s = .next t ∧ Effect [.tm, .cn, .cp, .hp, .eth, .can, .ag, .mm, .free] s t := by
  refine ⟨_, rfl, ?_⟩
  exact Effect.step (countingRecord_only _) (Effect.step (elapse_only _ _) .refl (by decide)) (by decide)

end Sys2Proof.Machine
end

