-- ==== Sys2Proof/Laws/FrameReceive.lean ====
section
/-!
SUPPORT. Sys2Proof/Laws/FrameReceive.lean: what each operation of Machine/Receive.lean may change, one lemma per operation.
-/

namespace Sys2Proof.Machine
set_option Elab.async false

theorem authFailed_only a0 a1 (s : State) : Effect [.cn, .jn, .cp, .hp, .mm] s (authFailed a0 a1 s) := by
  unfold authFailed
  refine Effect.of_ite ?_ ?_
  · exact Effect.step (updSession_only _ _ _) .refl (by decide)
  · exact Effect.step (report_only _ _ _ _ _) (Effect.step (updSession_only _ _ _) .refl (by decide)) (by decide)
theorem tagCheck_only a0 (s : State) : Effect [.cn, .jn, .cp, .hp, .mm] s (tagCheck a0 s).2 := by
  unfold tagCheck
  split
  · dsimp only
    exact .refl
  · refine Effect.of_ite2 ?_ ?_
    · dsimp only
      exact .refl
    · refine Effect.of_ite2 ?_ ?_
      · dsimp only
        exact .refl
      · split
        · dsimp only
          exact .refl
        · refine Effect.of_ite2 ?_ ?_
          · dsimp only
            exact Effect.step (updSession_only _ _ _) .refl (by decide)
          · dsimp only
            exact Effect.step (authFailed_only _ _ _) .refl (by decide)
theorem tagCheck_only_of {a0} {s : State} {r t} (h : tagCheck a0 s = (r, t)) : Effect [.cn, .jn, .cp, .hp, .mm] s t := by
  have := tagCheck_only a0 s
  rwa [h] at this
theorem hello_only a0 (s : State) : Effect [.cn, .jn, .cp, .hp, .eth, .can, .mm, .sent, .free] s (hello a0 s) := by
  unfold hello
  lift_lets -underBinder
  intro x0 x1 x2 x3 x4 x5
  refine Effect.of_ite ?_ ?_
  · exact Effect.step (refuse_only _ _ _ _) .refl (by decide)
  · refine Effect.of_ite ?_ ?_
    · exact Effect.step (refuse_only _ _ _ _) .refl (by decide)
    · refine Effect.of_ite ?_ ?_
      · exact Effect.step (refuse_only _ _ _ _) .refl (by decide)
      · refine Effect.of_ite ?_ ?_
        · exact Effect.step (refuse_only _ _ _ _) .refl (by decide)
        · split
          rename_i v9
          lift_lets -underBinder
          intro x10 x11 x12 x13
          have h14 : Effect [.cn, .jn, .cp, .hp, .eth, .can, .mm, .sent, .free] s x13 := by
            refine Effect.set_jn (by decide) ?_
            have he15 := congrArg Prod.snd v9
            dsimp only at he15
            rw [← he15]
            refine Effect.of_ite2 ?_ ?_
            · exact Effect.step (takeBytes_only _ _) .refl (by decide)
            · dsimp only
              exact .refl
          clear_value x13
          intro x16
          have h17 : Effect [.cn, .jn, .cp, .hp, .eth, .can, .mm, .sent, .free] s x16 := by
            refine Effect.of_ite ?_ ?_
            · exact Effect.step (report_only _ _ _ _ _) h14 (by decide)
            · exact h14
          clear_value x16
          exact Effect.step (reply_only _ _ _ _ _ _ _ _ _) h17 (by decide)
theorem bye_only a0 (s : State) : Effect [.cn, .jn, .cp, .hp, .eth, .can, .mm, .sent] s (bye a0 s) := by
  unfold bye
  split
  · exact .refl
  · refine Effect.of_ite ?_ ?_
    · exact Effect.step (refuse_only _ _ _ _) .refl (by decide)
    · lift_lets -underBinder
      intro x5
      have h6 : Effect [.cn, .jn, .cp, .hp, .eth, .can, .mm, .sent] s x5 := by
        exact Effect.step (report_only _ _ _ _ _) (Effect.step (refuse_only _ _ _ _) .refl (by decide)) (by decide)
      clear_value x5
      intro x7
      exact Effect.set_jn (by decide) h6
theorem resumeReplies_only (p : Packet) (last per n : Nat) (es : List JEntry) (s : State) : Effect [.hp, .eth, .can, .sent] s (resumeReplies p last per n es s) := by
  induction n generalizing s es with
  | zero => exact Effect.refl
  | succ n ih =>
    unfold resumeReplies
    extract_lets
    split
    · exact reply_only ..
    · exact Effect.step (ih _ _) (reply_only ..) (fun _ h => h)
theorem resume_only a0 (s : State) : Effect [.cn, .cp, .hp, .eth, .can, .mm, .sent] s (resume a0 s) := by
  unfold resume
  split
  · exact .refl
  · lift_lets -underBinder
    intro x5 x6 x7 x8 x9
    refine Effect.of_ite ?_ ?_
    · exact Effect.step (refuse_only _ _ _ _) .refl (by decide)
    · exact Effect.step (report_only _ _ _ _ _) (Effect.step (resumeReplies_only _ _ _ _ _ _) .refl (by decide)) (by decide)
theorem ackOutcomes_only a0 (s : State) : Effect [.cn, .jn, .cp, .hp, .eth, .can, .mm, .sent] s (ackOutcomes a0 s) := by
  unfold ackOutcomes
  split
  · exact .refl
  · lift_lets -underBinder
    intro x5 x6 x7 x8 x9
    have h10 : Effect [.cn, .jn, .cp, .hp, .eth, .can, .mm, .sent] s x9 := by
      exact Effect.set_jn (by decide) .refl
    clear_value x9
    intro x11
    have h12 : Effect [.cn, .jn, .cp, .hp, .eth, .can, .mm, .sent] s x11 := by
      refine Effect.of_foldl _ ?_ (fun y13 a14 h15 => ?_)
      · exact h10
      · exact Effect.step (reportOne_only _ _) h15 (by decide)
    clear_value x11
    intro x16
    have h17 : Effect [.cn, .jn, .cp, .hp, .eth, .can, .mm, .sent] s x16 := by
      refine Effect.of_foldl _ ?_ (fun y18 a19 h20 => ?_)
      · exact h12
      · exact Effect.step (putEntry_only _ _ _) h20 (by decide)
    clear_value x16
    intro x21 x22
    have h23 : Effect [.cn, .jn, .cp, .hp, .eth, .can, .mm, .sent] s x22 := by
      refine Effect.of_ite ?_ ?_
      · exact h17
      · exact Effect.set_jn (by decide) h17
    clear_value x22
    intro x24 x25
    exact Effect.step (reply_only _ _ _ _ _ _ _ _ _) h23 (by decide)
theorem auth_only a0 (s : State) : Effect [.cn, .jn, .cp, .hp, .eth, .can, .mm, .sent] s (auth a0 s) := by
  unfold auth
  split
  · exact .refl
  · lift_lets -underBinder
    intro x5
    split
    · refine Effect.of_ite ?_ ?_
      · exact Effect.step (refuse_only _ _ _ _) (Effect.step (updSession_only _ _ _) .refl (by decide)) (by decide)
      · exact Effect.step (refuse_only _ _ _ _) (Effect.step (authFailed_only _ _ _) .refl (by decide)) (by decide)
    · exact Effect.step (refuse_only _ _ _ _) (Effect.step (authFailed_only _ _ _) .refl (by decide)) (by decide)
theorem control_only a0 (s : State) : Effect [.cn, .jn, .cp, .hp, .eth, .can, .mm, .sent, .free] s (control a0 s) := by
  unfold control
  split
  · exact Effect.step (hello_only _ _) .refl (by decide)
  · exact Effect.step (bye_only _ _) .refl (by decide)
  · exact Effect.step (resume_only _ _) .refl (by decide)
  · exact Effect.step (ackOutcomes_only _ _) .refl (by decide)
  · exact Effect.step (auth_only _ _) .refl (by decide)
theorem duplicate_only a0 (s : State) : Effect [.hp, .eth, .can, .sent] s (duplicate a0 s) := by
  unfold duplicate
  split
  · exact Effect.step (reply_only _ _ _ _ _ _ _ _ _) .refl (by decide)
  · refine Effect.of_ite ?_ ?_
    · exact Effect.step (reply_only _ _ _ _ _ _ _ _ _) .refl (by decide)
    · exact Effect.step (refuse_only _ _ _ _) .refl (by decide)
theorem acceptEntry_only a0 a1 (s : State) : Effect [.jn, .pm, .mm] s (acceptEntry a0 a1 s) := by
  unfold acceptEntry
  lift_lets -underBinder
  intro x0 x1
  have h2 : Effect [.jn, .pm, .mm] s x1 := by
    exact Effect.step (putEntry_only _ _ _) .refl (by decide)
  clear_value x1
  intro x3 x4 x5
  have h6 : Effect [.jn, .pm, .mm] s x5 := by
    exact Effect.of_mk (x := x1) h2
  clear_value x5
  exact Effect.step (updSession_only _ _ _) h6 (by decide)
theorem startArm_only a0 (s : State) : Effect [.cn, .jn, .cp, .hp, .mm] s (startArm a0 s).2 := by
  unfold startArm
  split
  · rename_i v2
    dsimp only
    exact Effect.step (armIdle_only _) (Effect.step (cmdCaptureArm_only_of v2) .refl (by decide)) (by decide)
  · exact Effect.step (cmdCaptureArm_only _ _) .refl (by decide)
theorem startArm_only_of {a0} {s : State} {r t} (h : startArm a0 s = (r, t)) : Effect [.cn, .jn, .cp, .hp, .mm] s t := by
  have := startArm_only a0 s
  rwa [h] at this
theorem startOf_only a0 (s : State) : Effect [.tm, .cn, .jn, .pm, .rg, .sp, .st, .md, .mc, .ap, .gp, .fb, .ev, .la, .rm, .ax, .pg, .lt, .sf, .cp, .fd, .hp, .eth, .dx, .can, .pw, .ag, .mm, .mem] s (startOf a0 s).2 := by
  unfold startOf
  split
  · split
    rename_i v7
    dsimp only
    exact Effect.step (takeCaptures_only_of v7) .refl (by decide)
  · exact Effect.step (cmdSetParamLive_only _ _) .refl (by decide)
  · exact Effect.step (cmdStageOpen_only _ _) .refl (by decide)
  · exact Effect.step (cmdStageWrite_only _ _) .refl (by decide)
  · exact Effect.step (cmdStageCheck_only _ _) .refl (by decide)
  · exact Effect.step (cmdStageCommit_only _ _) .refl (by decide)
  · exact Effect.step (cmdStageDiscard_only _ _) .refl (by decide)
  · exact Effect.step (cmdStageEnable_only _ _) .refl (by decide)
  · exact Effect.step (cmdStageDisable_only _ _) .refl (by decide)
  · exact Effect.step (cmdMachineIdentify_only _ _) .refl (by decide)
  · exact Effect.step (cmdTripClear_only _ _) .refl (by decide)
  · exact Effect.step (cmdPath_only _ _) .refl (by decide)
  · exact Effect.step (cmdPath_only _ _) .refl (by decide)
  · exact Effect.step (cmdLearn_only _ _) .refl (by decide)
  · exact Effect.step (cmdCompareLoad_only _ _) .refl (by decide)
  · exact Effect.step (cmdLatchArm_only _ _) .refl (by decide)
  · exact Effect.step (cmdAxis_only _ _) .refl (by decide)
  · exact Effect.step (cmdSafety_only _ _) .refl (by decide)
  · exact Effect.step (cmdJournalMark_only _ _) .refl (by decide)
  · exact Effect.step (cmdTimeSet_only _ _) .refl (by decide)
  · exact Effect.step (startArm_only _ _) .refl (by decide)
  · exact Effect.step (cmdCaptureStop_only _ _) .refl (by decide)
  · exact Effect.step (cmdPowerState_only _ _) .refl (by decide)
  · exact Effect.step (cmdResetRequest_only _ _) .refl (by decide)
  · exact Effect.step (cmdImageBegin_only _ _) .refl (by decide)
  · exact Effect.step (cmdImageData_only _ _) .refl (by decide)
  · exact Effect.step (cmdImageEnd_only _ _) .refl (by decide)
  · exact Effect.step (cmdImageActivate_only _ _) .refl (by decide)
  · exact Effect.step (cmdIoWrite_only _ _) .refl (by decide)
  · exact Effect.step (cmdCanSend_only _ _) .refl (by decide)
  · exact Effect.step (cmdCanCancel_only _ _) .refl (by decide)
  · exact Effect.step (cmdCanRead_only _ _) .refl (by decide)
theorem startOf_only_of {a0} {s : State} {r t} (h : startOf a0 s = (r, t)) : Effect [.tm, .cn, .jn, .pm, .rg, .sp, .st, .md, .mc, .ap, .gp, .fb, .ev, .la, .rm, .ax, .pg, .lt, .sf, .cp, .fd, .hp, .eth, .dx, .can, .pw, .ag, .mm, .mem] s t := by
  have := startOf_only a0 s
  rwa [h] at this
theorem startCmd_only a0 (s : State) : Effect [.tm, .cn, .jn, .pm, .rg, .sp, .st, .md, .mc, .ap, .gp, .fb, .ev, .la, .rm, .ax, .pg, .lt, .sf, .cp, .fd, .hp, .eth, .dx, .can, .pw, .ag, .mm, .mem] s (startCmd a0 s) := by
  unfold startCmd
  lift_lets -underBinder
  intro x0
  have h1 : Effect [.tm, .cn, .jn, .pm, .rg, .sp, .st, .md, .mc, .ap, .gp, .fb, .ev, .la, .rm, .ax, .pg, .lt, .sf, .cp, .fd, .hp, .eth, .dx, .can, .pw, .ag, .mm, .mem] s x0 := by
    exact Effect.step (markStarted_only _ _) .refl (by decide)
  clear_value x0
  refine Effect.of_ite ?_ ?_
  · exact Effect.step (finish_only _ _ _) h1 (by decide)
  · split
    rename_i v5
    exact Effect.step (finish_only _ _ _) (Effect.step (startOf_only_of v5) h1 (by decide)) (by decide)
theorem startNext_only (s : State) : Effect [.tm, .cn, .jn, .pm, .rg, .sp, .st, .md, .mc, .ap, .gp, .fb, .ev, .la, .rm, .ax, .pg, .lt, .sf, .cp, .fd, .hp, .eth, .dx, .can, .pw, .ag, .mm, .mem] s (startNext s) := by
  unfold startNext
  refine Effect.of_ite ?_ ?_
  · exact .refl
  · split
    · exact .refl
    · exact Effect.step (startCmd_only _ _) (Effect.set_jn (by decide) .refl) (by decide)
theorem acceptReply_only a0 a1 (s : State) : Effect [.jn, .hp, .eth, .can, .mm, .sent] s (acceptReply a0 a1 s) := by
  unfold acceptReply
  split
  · lift_lets -underBinder
    intro x3 x4
    have h5 : Effect [.jn, .hp, .eth, .can, .mm, .sent] s x4 := by
      exact Effect.set_jn (by decide) .refl
    intro x6
    have h7 : Effect [.jn, .hp, .eth, .can, .mm, .sent] s x6 := by
      refine Effect.of_ite ?_ ?_
      · exact h5
      · exact Effect.step (complete_only _ _ _ _ _ _ _) h5 (by decide)
    clear_value x6
    exact Effect.step (reply_only _ _ _ _ _ _ _ _ _) h7 (by decide)
  · lift_lets -underBinder
    intro x10
    exact Effect.step (reply_only _ _ _ _ _ _ _ _ _) .refl (by decide)
theorem acceptPacket_only a0 a1 (s : State) : Effect [.tm, .cn, .jn, .pm, .rg, .sp, .st, .md, .mc, .ap, .gp, .fb, .ev, .la, .rm, .ax, .pg, .lt, .sf, .cp, .fd, .hp, .eth, .dx, .can, .pw, .ag, .mm, .mem, .sent] s (acceptPacket a0 a1 s) := by
  unfold acceptPacket
  split
  · exact .refl
  · lift_lets -underBinder
    intro x5 x6
    refine Effect.of_ite ?_ ?_
    · dsimp only [x5]
      refine Effect.of_ite ?_ ?_
      · exact Effect.step (refuse_only _ _ _ _) .refl (by decide)
      · exact .refl
    · refine Effect.of_ite ?_ ?_
      · refine Effect.of_ite ?_ ?_
        · exact Effect.step (duplicate_only _ _) .refl (by decide)
        · exact .refl
      · refine Effect.of_ite ?_ ?_
        · dsimp only [x5]
          refine Effect.of_ite ?_ ?_
          · exact Effect.step (refuse_only _ _ _ _) .refl (by decide)
          · exact .refl
        · split
          · lift_lets -underBinder
            intro x9
            have h10 : Effect [.tm, .cn, .jn, .pm, .rg, .sp, .st, .md, .mc, .ap, .gp, .fb, .ev, .la, .rm, .ax, .pg, .lt, .sf, .cp, .fd, .hp, .eth, .dx, .can, .pw, .ag, .mm, .mem, .sent] s x9 := by
              refine Effect.of_ite ?_ ?_
              · exact .refl
              · exact Effect.step (report_only _ _ _ _ _) (Effect.step (updSession_only _ _ _) .refl (by decide)) (by decide)
            clear_value x9
            dsimp only [x5]
            refine Effect.of_ite ?_ ?_
            · exact Effect.step (refuse_only _ _ _ _) h10 (by decide)
            · exact h10
          · lift_lets -underBinder
            intro x14 x15
            have h16 : Effect [.tm, .cn, .jn, .pm, .rg, .sp, .st, .md, .mc, .ap, .gp, .fb, .ev, .la, .rm, .ax, .pg, .lt, .sf, .cp, .fd, .hp, .eth, .dx, .can, .pw, .ag, .mm, .mem, .sent] s x15 := by
              exact Effect.step (acceptEntry_only _ _ _) .refl (by decide)
            clear_value x15
            intro x17
            have h18 : Effect [.tm, .cn, .jn, .pm, .rg, .sp, .st, .md, .mc, .ap, .gp, .fb, .ev, .la, .rm, .ax, .pg, .lt, .sf, .cp, .fd, .hp, .eth, .dx, .can, .pw, .ag, .mm, .mem, .sent] s x17 := by
              refine Effect.of_ite ?_ ?_
              · exact h16
              · exact Effect.step (startNext_only _) h16 (by decide)
            clear_value x17
            refine Effect.of_ite ?_ ?_
            · exact Effect.step (acceptReply_only _ _ _) h18 (by decide)
            · exact h18
theorem query_only a0 (s : State) : Effect [] s (query a0 s).2 := by
  unfold query
  split
  · dsimp only
    exact .refl
  · dsimp only
    exact .refl
  · dsimp only
    exact .refl
  · exact Effect.step (cmdGetParam_only _ _) .refl (by decide)
  · exact Effect.step (cmdGetParamInfo_only _ _) .refl (by decide)
  · exact Effect.step (cmdStageRead_only _ _) .refl (by decide)
  · dsimp only
    exact .refl
  · exact Effect.step (cmdJournalRead_only _ _) .refl (by decide)
  · exact Effect.step (cmdTimeGet_only _ _) .refl (by decide)
  · exact Effect.step (cmdCaptureRead_only _ _) .refl (by decide)
  · exact Effect.step (cmdCaptureStatus_only _ _) .refl (by decide)
  · exact Effect.step (cmdAgeingReport_only _ _) .refl (by decide)
  · exact Effect.step (cmdImageList_only _ _) .refl (by decide)
  · exact Effect.step (cmdIoRead_only _ _) .refl (by decide)
theorem query_only_of {a0} {s : State} {r t} (h : query a0 s = (r, t)) : Effect [] s t := by
  have := query_only a0 s
  rwa [h] at this
theorem passed_only a0 a1 (s : State) : Effect [.tm, .cn, .jn, .pm, .rg, .sp, .st, .md, .mc, .ap, .gp, .fb, .ev, .la, .rm, .ax, .pg, .lt, .sf, .cp, .fd, .hp, .eth, .dx, .can, .pw, .ag, .mm, .mem, .sent, .free] s (passed a0 a1 s) := by
  unfold passed
  lift_lets -underBinder
  intro x0
  have h1 : Effect [.tm, .cn, .jn, .pm, .rg, .sp, .st, .md, .mc, .ap, .gp, .fb, .ev, .la, .rm, .ax, .pg, .lt, .sf, .cp, .fd, .hp, .eth, .dx, .can, .pw, .ag, .mm, .mem, .sent, .free] s x0 := by
    exact Effect.step (updSession_only _ _ _) .refl (by decide)
  clear_value x0
  refine Effect.of_ite ?_ ?_
  · exact Effect.step (refuse_only _ _ _ _) h1 (by decide)
  · split
    · exact Effect.step (control_only _ _) h1 (by decide)
    · exact Effect.step (acceptPacket_only _ _ _) h1 (by decide)
    · refine Effect.of_ite ?_ ?_
      · exact Effect.step (refuse_only _ _ _ _) h1 (by decide)
      · split
        · rename_i v12
          exact Effect.step (reply_only _ _ _ _ _ _ _ _ _) (Effect.step (query_only_of v12) h1 (by decide)) (by decide)
        · rename_i v15
          exact Effect.step (query_only_of v15) h1 (by decide)
theorem receive_only a0 (s : State) : Effect [.tm, .cn, .jn, .pm, .rg, .sp, .st, .md, .mc, .ap, .gp, .fb, .ev, .la, .rm, .ax, .pg, .lt, .sf, .cp, .fd, .hp, .eth, .dx, .can, .pw, .ag, .mm, .mem, .sent, .free] s (receive a0 s) := by
  unfold receive
  refine Effect.of_ite ?_ ?_
  · exact .refl
  · refine Effect.of_ite ?_ ?_
    · exact Effect.step (refuse_only _ _ _ _) .refl (by decide)
    · refine Effect.of_ite ?_ ?_
      · lift_lets -underBinder
        intro x0 x1
        have h2 : Effect [.tm, .cn, .jn, .pm, .rg, .sp, .st, .md, .mc, .ap, .gp, .fb, .ev, .la, .rm, .ax, .pg, .lt, .sf, .cp, .fd, .hp, .eth, .dx, .can, .pw, .ag, .mm, .mem, .sent, .free] s x1 := by
          exact Effect.set_jn (by decide) .refl
        clear_value x1
        refine Effect.of_ite ?_ ?_
        · exact Effect.step (refuse_only _ _ _ _) h2 (by decide)
        · exact h2
      · split
        · exact Effect.step (refuse_only _ _ _ _) .refl (by decide)
        · split
          · exact .refl
          · lift_lets -underBinder
            intro x14
            refine Effect.of_ite ?_ ?_
            · exact Effect.step (refuse_only _ _ _ _) .refl (by decide)
            · split
              · rename_i v17
                exact Effect.step (refuse_only _ _ _ _) (Effect.step (tagCheck_only_of v17) .refl (by decide)) (by decide)
              · rename_i v20
                exact Effect.step (passed_only _ _ _) (Effect.step (tagCheck_only_of v20) .refl (by decide)) (by decide)
theorem mbxServe_only (n : Nat) (s : State) : Effect [.tm, .cn, .jn, .pm, .rg, .sp, .st, .md, .mc, .ap, .gp, .fb, .ev, .la, .rm, .ax, .pg, .lt, .sf, .cp, .fd, .hp, .eth, .dx, .can, .pw, .ag, .mm, .mem, .sent, .free] s (mbxServe n s) := by
  induction n generalizing s with
  | zero => exact Effect.refl
  | succ n ih =>
    unfold mbxServe
    split
    · exact Effect.step (ih _) (Effect.step (receive_only _ _) (Effect.weaken (mbxTake_only_of ‹_›) (by decide)) (by decide)) (fun _ h => h)
    · exact Effect.weaken (mbxTake_only_of ‹_›) (by decide)

end Sys2Proof.Machine
end

