-- ==== Sys2Proof/Laws/FramePacketRows.lean ====
section
/-!
SUPPORT. Sys2Proof/Laws/FramePacketRows.lean: what each operation of Machine/PacketRows.lean may change, one lemma per operation.
-/

namespace Sys2Proof.Machine
set_option Elab.async false

theorem packetRow_only a0 a1 a2 (s : State) : Effect [.tm, .cn, .jn, .pm, .rg, .sp, .st, .md, .mc, .ap, .gp, .fb, .ev, .la, .rm, .ax, .pg, .lt, .sf, .cp, .fd, .hp, .eth, .dx, .can, .pw, .ag, .mm, .mem, .sent, .free] s (packetRow a0 a1 a2 s) := by
  unfold packetRow
  exact Effect.step (resetWhenDue_only _) (Effect.step (receive_only _ _) (Effect.step (elapse_only _ _) .refl (by decide)) (by decide)) (by decide)
theorem execMoveAbs_only a0 a1 (s : State) : ∃ t, execMoveAbs a0 a1 s = .next t ∧ Effect [.tm, .cn, .jn, .pm, .rg, .sp, .st, .md, .mc, .ap, .gp, .fb, .ev, .la, .rm, .ax, .pg, .lt, .sf, .cp, .fd, .hp, .eth, .dx, .can, .pw, .ag, .mm, .mem, .sent, .free] s t := by
  refine ⟨_, rfl, ?_⟩
  exact Effect.step (packetRow_only _ _ _ _) .refl (by decide)
theorem execSetMotionLimits_only a0 a1 a2 a3 a4 (s : State) : ∃ t, execSetMotionLimits a0 a1 a2 a3 a4 s = .next t ∧ Effect [.tm, .cn, .jn, .pm, .rg, .sp, .st, .md, .mc, .ap, .gp, .fb, .ev, .la, .rm, .ax, .pg, .lt, .sf, .cp, .fd, .hp, .eth, .dx, .can, .pw, .ag, .mm, .mem, .sent, .free] s t := by
  refine ⟨_, rfl, ?_⟩
  exact Effect.step (packetRow_only _ _ _ _) .refl (by decide)
theorem execHome_only a0 (s : State) : ∃ t, execHome a0 s = .next t ∧ Effect [.tm, .cn, .jn, .pm, .rg, .sp, .st, .md, .mc, .ap, .gp, .fb, .ev, .la, .rm, .ax, .pg, .lt, .sf, .cp, .fd, .hp, .eth, .dx, .can, .pw, .ag, .mm, .mem, .sent, .free] s t := by
  refine ⟨_, rfl, ?_⟩
  exact Effect.step (packetRow_only _ _ _ _) .refl (by decide)
theorem hostFrame_only a0 a1 a2 (s : State) : Effect [.tm, .cn, .jn, .pm, .rg, .sp, .st, .md, .mc, .ap, .gp, .fb, .ev, .la, .rm, .ax, .pg, .lt, .sf, .cp, .fd, .hp, .eth, .dx, .can, .pw, .ag, .mm, .mem, .sent, .free] s (hostFrame a0 a1 a2 s) := by
  unfold hostFrame
  split
  rename_i v3
  lift_lets -underBinder
  intro x4
  have h5 : Effect [.tm, .cn, .jn, .pm, .rg, .sp, .st, .md, .mc, .ap, .gp, .fb, .ev, .la, .rm, .ax, .pg, .lt, .sf, .cp, .fd, .hp, .eth, .dx, .can, .pw, .ag, .mm, .mem, .sent, .free] s x4 := by
    exact Effect.step (mbxServe_only _ _) (Effect.step (spiFrame_only_of v3) .refl (by decide)) (by decide)
  clear_value x4
  refine Effect.step (resetWhenDue_only _) ?_ (by decide)
  refine Effect.of_ite ?_ ?_
  · exact Effect.step (wakeSource_only _ _) h5 (by decide)
  · exact h5
theorem execSpiFrame_only a0 a1 a2 a3 (s : State) : ∃ t, execSpiFrame a0 a1 a2 a3 s = .next t ∧ Effect [.tm, .cn, .jn, .pm, .rg, .sp, .st, .md, .mc, .ap, .gp, .fb, .ev, .la, .rm, .ax, .pg, .lt, .sf, .cp, .fd, .hp, .eth, .dx, .can, .pw, .ag, .mm, .mem, .sent, .free] s t := by
  refine ⟨_, rfl, ?_⟩
  exact Effect.step (hostFrame_only _ _ _ _) (Effect.step (elapse_only _ _) .refl (by decide)) (by decide)
theorem execStageEnable_only a0 (s : State) : ∃ t, execStageEnable a0 s = .next t ∧ Effect [.tm, .cn, .jn, .pm, .rg, .sp, .st, .md, .mc, .ap, .gp, .fb, .ev, .la, .rm, .ax, .pg, .lt, .sf, .cp, .fd, .hp, .eth, .dx, .can, .pw, .ag, .mm, .mem, .sent, .free] s t := by
  refine ⟨_, rfl, ?_⟩
  exact Effect.step (packetRow_only _ _ _ _) .refl (by decide)
theorem execSafetyTestRunBrake_only a0 a1 a2 a3 a4 (s : State) : ∃ t, execSafetyTestRunBrake a0 a1 a2 a3 a4 s = .next t ∧ Effect [.tm, .cn, .jn, .pm, .rg, .sp, .st, .md, .mc, .ap, .gp, .fb, .ev, .la, .rm, .ax, .pg, .lt, .sf, .cp, .fd, .hp, .eth, .dx, .can, .pw, .ag, .mm, .mem, .sent, .free] s t := by
  refine ⟨_, rfl, ?_⟩
  exact Effect.step (packetRow_only _ _ _ _) .refl (by decide)
theorem execAckOutcomes_only a0 a1 (s : State) : ∃ t, execAckOutcomes a0 a1 s = .next t ∧ Effect [.tm, .cn, .jn, .pm, .rg, .sp, .st, .md, .mc, .ap, .gp, .fb, .ev, .la, .rm, .ax, .pg, .lt, .sf, .cp, .fd, .hp, .eth, .dx, .can, .pw, .ag, .mm, .mem, .sent, .free] s t := by
  refine ⟨_, rfl, ?_⟩
  exact Effect.step (packetRow_only _ _ _ _) .refl (by decide)
theorem execCaptureRead_only a0 a1 a2 a3 (s : State) : ∃ t, execCaptureRead a0 a1 a2 a3 s = .next t ∧ Effect [.tm, .cn, .jn, .pm, .rg, .sp, .st, .md, .mc, .ap, .gp, .fb, .ev, .la, .rm, .ax, .pg, .lt, .sf, .cp, .fd, .hp, .eth, .dx, .can, .pw, .ag, .mm, .mem, .sent, .free] s t := by
  refine ⟨_, rfl, ?_⟩
  exact Effect.step (packetRow_only _ _ _ _) .refl (by decide)
theorem execRetarget_only a0 a1 (s : State) : ∃ t, execRetarget a0 a1 s = .next t ∧ Effect [.tm, .cn, .jn, .pm, .rg, .sp, .st, .md, .mc, .ap, .gp, .fb, .ev, .la, .rm, .ax, .pg, .lt, .sf, .cp, .fd, .hp, .eth, .dx, .can, .pw, .ag, .mm, .mem, .sent, .free] s t := by
  refine ⟨_, rfl, ?_⟩
  exact Effect.step (packetRow_only _ _ _ _) .refl (by decide)
theorem execGetParamInfo_only a0 a1 (s : State) : ∃ t, execGetParamInfo a0 a1 s = .next t ∧ Effect [.tm, .cn, .jn, .pm, .rg, .sp, .st, .md, .mc, .ap, .gp, .fb, .ev, .la, .rm, .ax, .pg, .lt, .sf, .cp, .fd, .hp, .eth, .dx, .can, .pw, .ag, .mm, .mem, .sent, .free] s t := by
  refine ⟨_, rfl, ?_⟩
  exact Effect.step (packetRow_only _ _ _ _) .refl (by decide)
theorem execTripClear_only a0 (s : State) : ∃ t, execTripClear a0 s = .next t ∧ Effect [.tm, .cn, .jn, .pm, .rg, .sp, .st, .md, .mc, .ap, .gp, .fb, .ev, .la, .rm, .ax, .pg, .lt, .sf, .cp, .fd, .hp, .eth, .dx, .can, .pw, .ag, .mm, .mem, .sent, .free] s t := by
  refine ⟨_, rfl, ?_⟩
  exact Effect.step (packetRow_only _ _ _ _) .refl (by decide)
theorem execResetRequestWarm_only a0 (s : State) : ∃ t, execResetRequestWarm a0 s = .next t ∧ Effect [.tm, .cn, .jn, .pm, .rg, .sp, .st, .md, .mc, .ap, .gp, .fb, .ev, .la, .rm, .ax, .pg, .lt, .sf, .cp, .fd, .hp, .eth, .dx, .can, .pw, .ag, .mm, .mem, .sent, .free] s t := by
  refine ⟨_, rfl, ?_⟩
  exact Effect.step (packetRow_only _ _ _ _) .refl (by decide)
theorem execAgeingReportSummary_only a0 (s : State) : ∃ t, execAgeingReportSummary a0 s = .next t ∧ Effect [.tm, .cn, .jn, .pm, .rg, .sp, .st, .md, .mc, .ap, .gp, .fb, .ev, .la, .rm, .ax, .pg, .lt, .sf, .cp, .fd, .hp, .eth, .dx, .can, .pw, .ag, .mm, .mem, .sent, .free] s t := by
  refine ⟨_, rfl, ?_⟩
  exact Effect.step (packetRow_only _ _ _ _) .refl (by decide)
theorem execSafetyConfigActivate_only a0 a1 (s : State) : ∃ t, execSafetyConfigActivate a0 a1 s = .next t ∧ Effect [.tm, .cn, .jn, .pm, .rg, .sp, .st, .md, .mc, .ap, .gp, .fb, .ev, .la, .rm, .ax, .pg, .lt, .sf, .cp, .fd, .hp, .eth, .dx, .can, .pw, .ag, .mm, .mem, .sent, .free] s t := by
  refine ⟨_, rfl, ?_⟩
  exact Effect.step (packetRow_only _ _ _ _) .refl (by decide)
theorem execIoWrite_only a0 a1 a2 a3 (s : State) : ∃ t, execIoWrite a0 a1 a2 a3 s = .next t ∧ Effect [.tm, .cn, .jn, .pm, .rg, .sp, .st, .md, .mc, .ap, .gp, .fb, .ev, .la, .rm, .ax, .pg, .lt, .sf, .cp, .fd, .hp, .eth, .dx, .can, .pw, .ag, .mm, .mem, .sent, .free] s t := by
  refine ⟨_, rfl, ?_⟩
  exact Effect.step (packetRow_only _ _ _ _) .refl (by decide)
theorem execStageDiscard_only a0 (s : State) : ∃ t, execStageDiscard a0 s = .next t ∧ Effect [.tm, .cn, .jn, .pm, .rg, .sp, .st, .md, .mc, .ap, .gp, .fb, .ev, .la, .rm, .ax, .pg, .lt, .sf, .cp, .fd, .hp, .eth, .dx, .can, .pw, .ag, .mm, .mem, .sent, .free] s t := by
  refine ⟨_, rfl, ?_⟩
  exact Effect.step (packetRow_only _ _ _ _) .refl (by decide)
theorem execMbxPartialTimeout_only a0 (s : State) : ∃ t, execMbxPartialTimeout a0 s = .next t ∧ Effect [.tm, .cn, .jn, .pm, .rg, .sp, .st, .md, .mc, .ap, .gp, .fb, .ev, .la, .rm, .ax, .pg, .lt, .sf, .cp, .fd, .hp, .eth, .dx, .can, .pw, .ag, .mm, .mem, .sent, .free] s t := by
  refine ⟨_, rfl, ?_⟩
  exact Effect.step (resetWhenDue_only _) (Effect.step (mbxServe_only _ _) (Effect.step (mbxPartial_only _) (Effect.step (elapse_only _ _) .refl (by decide)) (by decide)) (by decide)) (by decide)
theorem execLtFreeze_only a0 a1 (s : State) : ∃ t, execLtFreeze a0 a1 s = .next t ∧ Effect [.tm, .cn, .jn, .pm, .rg, .sp, .st, .md, .mc, .ap, .gp, .fb, .ev, .la, .rm, .ax, .pg, .lt, .sf, .cp, .fd, .hp, .eth, .dx, .can, .pw, .ag, .mm, .mem, .sent, .free] s t := by
  refine ⟨_, rfl, ?_⟩
  exact Effect.step (packetRow_only _ _ _ _) .refl (by decide)
theorem execImageActivate_only a0 (s : State) : ∃ t, execImageActivate a0 s = .next t ∧ Effect [.tm, .cn, .jn, .pm, .rg, .sp, .st, .md, .mc, .ap, .gp, .fb, .ev, .la, .rm, .ax, .pg, .lt, .sf, .cp, .fd, .hp, .eth, .dx, .can, .pw, .ag, .mm, .mem, .sent, .free] s t := by
  refine ⟨_, rfl, ?_⟩
  exact Effect.step (packetRow_only _ _ _ _) .refl (by decide)
theorem execSafetyConfigValidate_only a0 (s : State) : ∃ t, execSafetyConfigValidate a0 s = .next t ∧ Effect [.tm, .cn, .jn, .pm, .rg, .sp, .st, .md, .mc, .ap, .gp, .fb, .ev, .la, .rm, .ax, .pg, .lt, .sf, .cp, .fd, .hp, .eth, .dx, .can, .pw, .ag, .mm, .mem, .sent, .free] s t := by
  refine ⟨_, rfl, ?_⟩
  exact Effect.step (packetRow_only _ _ _ _) .refl (by decide)
theorem execLtSave_only a0 a1 (s : State) : ∃ t, execLtSave a0 a1 s = .next t ∧ Effect [.tm, .cn, .jn, .pm, .rg, .sp, .st, .md, .mc, .ap, .gp, .fb, .ev, .la, .rm, .ax, .pg, .lt, .sf, .cp, .fd, .hp, .eth, .dx, .can, .pw, .ag, .mm, .mem, .sent, .free] s t := by
  refine ⟨_, rfl, ?_⟩
  exact Effect.step (packetRow_only _ _ _ _) .refl (by decide)
theorem execAxisDisable_only a0 (s : State) : ∃ t, execAxisDisable a0 s = .next t ∧ Effect [.tm, .cn, .jn, .pm, .rg, .sp, .st, .md, .mc, .ap, .gp, .fb, .ev, .la, .rm, .ax, .pg, .lt, .sf, .cp, .fd, .hp, .eth, .dx, .can, .pw, .ag, .mm, .mem, .sent, .free] s t := by
  refine ⟨_, rfl, ?_⟩
  exact Effect.step (packetRow_only _ _ _ _) .refl (by decide)
theorem execLatchArm_only a0 a1 a2 (s : State) : ∃ t, execLatchArm a0 a1 a2 s = .next t ∧ Effect [.tm, .cn, .jn, .pm, .rg, .sp, .st, .md, .mc, .ap, .gp, .fb, .ev, .la, .rm, .ax, .pg, .lt, .sf, .cp, .fd, .hp, .eth, .dx, .can, .pw, .ag, .mm, .mem, .sent, .free] s t := by
  refine ⟨_, rfl, ?_⟩
  exact Effect.step (packetRow_only _ _ _ _) .refl (by decide)
theorem execLtStatus_only a0 a1 (s : State) : ∃ t, execLtStatus a0 a1 s = .next t ∧ Effect [.tm, .cn, .jn, .pm, .rg, .sp, .st, .md, .mc, .ap, .gp, .fb, .ev, .la, .rm, .ax, .pg, .lt, .sf, .cp, .fd, .hp, .eth, .dx, .can, .pw, .ag, .mm, .mem, .sent, .free] s t := by
  refine ⟨_, rfl, ?_⟩
  exact Effect.step (packetRow_only _ _ _ _) .refl (by decide)
theorem execSetParamLive_only a0 a1 a2 (s : State) : ∃ t, execSetParamLive a0 a1 a2 s = .next t ∧ Effect [.tm, .cn, .jn, .pm, .rg, .sp, .st, .md, .mc, .ap, .gp, .fb, .ev, .la, .rm, .ax, .pg, .lt, .sf, .cp, .fd, .hp, .eth, .dx, .can, .pw, .ag, .mm, .mem, .sent, .free] s t := by
  refine ⟨_, rfl, ?_⟩
  exact Effect.step (packetRow_only _ _ _ _) .refl (by decide)
theorem execLtResume_only a0 a1 (s : State) : ∃ t, execLtResume a0 a1 s = .next t ∧ Effect [.tm, .cn, .jn, .pm, .rg, .sp, .st, .md, .mc, .ap, .gp, .fb, .ev, .la, .rm, .ax, .pg, .lt, .sf, .cp, .fd, .hp, .eth, .dx, .can, .pw, .ag, .mm, .mem, .sent, .free] s t := by
  refine ⟨_, rfl, ?_⟩
  exact Effect.step (packetRow_only _ _ _ _) .refl (by decide)
theorem execImageEnd_only a0 (s : State) : ∃ t, execImageEnd a0 s = .next t ∧ Effect [.tm, .cn, .jn, .pm, .rg, .sp, .st, .md, .mc, .ap, .gp, .fb, .ev, .la, .rm, .ax, .pg, .lt, .sf, .cp, .fd, .hp, .eth, .dx, .can, .pw, .ag, .mm, .mem, .sent, .free] s t := by
  refine ⟨_, rfl, ?_⟩
  exact Effect.step (packetRow_only _ _ _ _) .refl (by decide)
theorem execCompletionReport_only a0 (s : State) : ∃ t, execCompletionReport a0 s = .next t ∧ Effect [.tm, .cn, .jn, .pm, .rg, .sp, .st, .md, .mc, .ap, .gp, .fb, .ev, .la, .rm, .ax, .pg, .lt, .sf, .cp, .fd, .hp, .eth, .dx, .can, .pw, .ag, .mm, .mem, .sent, .free] s t := by
  refine ⟨_, rfl, ?_⟩
  refine Effect.step (resetWhenDue_only _) ?_ (by decide)
  refine Effect.of_ite ?_ ?_
  · exact Effect.step (reportNext_only _) (Effect.step (elapse_only _ _) .refl (by decide)) (by decide)
  · exact Effect.step (elapse_only _ _) .refl (by decide)
theorem execLtRead_only a0 a1 a2 a3 (s : State) : ∃ t, execLtRead a0 a1 a2 a3 s = .next t ∧ Effect [.tm, .cn, .jn, .pm, .rg, .sp, .st, .md, .mc, .ap, .gp, .fb, .ev, .la, .rm, .ax, .pg, .lt, .sf, .cp, .fd, .hp, .eth, .dx, .can, .pw, .ag, .mm, .mem, .sent, .free] s t := by
  refine ⟨_, rfl, ?_⟩
  exact Effect.step (packetRow_only _ _ _ _) .refl (by decide)
theorem execResume_only a0 a1 a2 (s : State) : ∃ t, execResume a0 a1 a2 s = .next t ∧ Effect [.tm, .cn, .jn, .pm, .rg, .sp, .st, .md, .mc, .ap, .gp, .fb, .ev, .la, .rm, .ax, .pg, .lt, .sf, .cp, .fd, .hp, .eth, .dx, .can, .pw, .ag, .mm, .mem, .sent, .free] s t := by
  refine ⟨_, rfl, ?_⟩
  exact Effect.step (packetRow_only _ _ _ _) .refl (by decide)
theorem execMachineIdentify_only a0 a1 (s : State) : ∃ t, execMachineIdentify a0 a1 s = .next t ∧ Effect [.tm, .cn, .jn, .pm, .rg, .sp, .st, .md, .mc, .ap, .gp, .fb, .ev, .la, .rm, .ax, .pg, .lt, .sf, .cp, .fd, .hp, .eth, .dx, .can, .pw, .ag, .mm, .mem, .sent, .free] s t := by
  refine ⟨_, rfl, ?_⟩
  exact Effect.step (packetRow_only _ _ _ _) .refl (by decide)
theorem execPathStart_only a0 (s : State) : ∃ t, execPathStart a0 s = .next t ∧ Effect [.tm, .cn, .jn, .pm, .rg, .sp, .st, .md, .mc, .ap, .gp, .fb, .ev, .la, .rm, .ax, .pg, .lt, .sf, .cp, .fd, .hp, .eth, .dx, .can, .pw, .ag, .mm, .mem, .sent, .free] s t := by
  refine ⟨_, rfl, ?_⟩
  exact Effect.step (packetRow_only _ _ _ _) .refl (by decide)
theorem execTimeGet_only a0 (s : State) : ∃ t, execTimeGet a0 s = .next t ∧ Effect [.tm, .cn, .jn, .pm, .rg, .sp, .st, .md, .mc, .ap, .gp, .fb, .ev, .la, .rm, .ax, .pg, .lt, .sf, .cp, .fd, .hp, .eth, .dx, .can, .pw, .ag, .mm, .mem, .sent, .free] s t := by
  refine ⟨_, rfl, ?_⟩
  exact Effect.step (packetRow_only _ _ _ _) .refl (by decide)
theorem execLtWrite_only a0 a1 a2 a3 (s : State) : ∃ t, execLtWrite a0 a1 a2 a3 s = .next t ∧ Effect [.tm, .cn, .jn, .pm, .rg, .sp, .st, .md, .mc, .ap, .gp, .fb, .ev, .la, .rm, .ax, .pg, .lt, .sf, .cp, .fd, .hp, .eth, .dx, .can, .pw, .ag, .mm, .mem, .sent, .free] s t := by
  refine ⟨_, rfl, ?_⟩
  exact Effect.step (packetRow_only _ _ _ _) .refl (by decide)
theorem execGetIdentity_only a0 (s : State) : ∃ t, execGetIdentity a0 s = .next t ∧ Effect [.tm, .cn, .jn, .pm, .rg, .sp, .st, .md, .mc, .ap, .gp, .fb, .ev, .la, .rm, .ax, .pg, .lt, .sf, .cp, .fd, .hp, .eth, .dx, .can, .pw, .ag, .mm, .mem, .sent, .free] s t := by
  refine ⟨_, rfl, ?_⟩
  exact Effect.step (packetRow_only _ _ _ _) .refl (by decide)
theorem execImageData_only a0 a1 a2 (s : State) : ∃ t, execImageData a0 a1 a2 s = .next t ∧ Effect [.tm, .cn, .jn, .pm, .rg, .sp, .st, .md, .mc, .ap, .gp, .fb, .ev, .la, .rm, .ax, .pg, .lt, .sf, .cp, .fd, .hp, .eth, .dx, .can, .pw, .ag, .mm, .mem, .sent, .free] s t := by
  refine ⟨_, rfl, ?_⟩
  exact Effect.step (packetRow_only _ _ _ _) .refl (by decide)
theorem execStageWrite_only a0 a1 (s : State) : ∃ t, execStageWrite a0 a1 s = .next t ∧ Effect [.tm, .cn, .jn, .pm, .rg, .sp, .st, .md, .mc, .ap, .gp, .fb, .ev, .la, .rm, .ax, .pg, .lt, .sf, .cp, .fd, .hp, .eth, .dx, .can, .pw, .ag, .mm, .mem, .sent, .free] s t := by
  refine ⟨_, rfl, ?_⟩
  exact Effect.step (packetRow_only _ _ _ _) .refl (by decide)
theorem execImageList_only a0 (s : State) : ∃ t, execImageList a0 s = .next t ∧ Effect [.tm, .cn, .jn, .pm, .rg, .sp, .st, .md, .mc, .ap, .gp, .fb, .ev, .la, .rm, .ax, .pg, .lt, .sf, .cp, .fd, .hp, .eth, .dx, .can, .pw, .ag, .mm, .mem, .sent, .free] s t := by
  refine ⟨_, rfl, ?_⟩
  exact Effect.step (packetRow_only _ _ _ _) .refl (by decide)
theorem writeRow_only a0 a1 a2 (s : State) : Effect [.tm, .cn, .jn, .pm, .rg, .sp, .st, .md, .mc, .ap, .gp, .fb, .ev, .la, .rm, .ax, .pg, .lt, .sf, .cp, .fd, .hp, .eth, .dx, .can, .pw, .ag, .mm, .mem, .sent, .free] s (writeRow a0 a1 a2 s) := by
  unfold writeRow
  lift_lets -underBinder
  intro x0
  have h1 : Effect [.tm, .cn, .jn, .pm, .rg, .sp, .st, .md, .mc, .ap, .gp, .fb, .ev, .la, .rm, .ax, .pg, .lt, .sf, .cp, .fd, .hp, .eth, .dx, .can, .pw, .ag, .mm, .mem, .sent, .free] s x0 := by
    exact Effect.step (registerWrite_only _ _ _ _) .refl (by decide)
  clear_value x0
  refine Effect.of_ite ?_ ?_
  · exact h1
  · refine Effect.step (resetWhenDue_only _) ?_ (by decide)
    refine Effect.of_ite ?_ ?_
    · exact Effect.step (wakeSource_only _ _) (Effect.step (mbxServe_only _ _) h1 (by decide)) (by decide)
    · exact Effect.step (mbxServe_only _ _) h1 (by decide)
theorem execPowerState_only a0 a1 (s : State) : ∃ t, execPowerState a0 a1 s = .next t ∧ Effect [.tm, .cn, .jn, .pm, .rg, .sp, .st, .md, .mc, .ap, .gp, .fb, .ev, .la, .rm, .ax, .pg, .lt, .sf, .cp, .fd, .hp, .eth, .dx, .can, .pw, .ag, .mm, .mem, .sent, .free] s t := by
  refine ⟨_, rfl, ?_⟩
  exact Effect.step (packetRow_only _ _ _ _) .refl (by decide)
theorem execTimeSet_only a0 a1 (s : State) : ∃ t, execTimeSet a0 a1 s = .next t ∧ Effect [.tm, .cn, .jn, .pm, .rg, .sp, .st, .md, .mc, .ap, .gp, .fb, .ev, .la, .rm, .ax, .pg, .lt, .sf, .cp, .fd, .hp, .eth, .dx, .can, .pw, .ag, .mm, .mem, .sent, .free] s t := by
  refine ⟨_, rfl, ?_⟩
  exact Effect.step (packetRow_only _ _ _ _) .refl (by decide)
theorem execResetRequestDomain_only a0 a1 (s : State) : ∃ t, execResetRequestDomain a0 a1 s = .next t ∧ Effect [.tm, .cn, .jn, .pm, .rg, .sp, .st, .md, .mc, .ap, .gp, .fb, .ev, .la, .rm, .ax, .pg, .lt, .sf, .cp, .fd, .hp, .eth, .dx, .can, .pw, .ag, .mm, .mem, .sent, .free] s t := by
  refine ⟨_, rfl, ?_⟩
  exact Effect.step (packetRow_only _ _ _ _) .refl (by decide)
theorem execHello_only a0 a1 a2 a3 (s : State) : ∃ t, execHello a0 a1 a2 a3 s = .next t ∧ Effect [.tm, .cn, .jn, .pm, .rg, .sp, .st, .md, .mc, .ap, .gp, .fb, .ev, .la, .rm, .ax, .pg, .lt, .sf, .cp, .fd, .hp, .eth, .dx, .can, .pw, .ag, .mm, .mem, .sent, .free] s t := by
  refine ⟨_, rfl, ?_⟩
  exact Effect.step (packetRow_only _ _ _ _) .refl (by decide)
theorem execIoRead_only a0 (s : State) : ∃ t, execIoRead a0 s = .next t ∧ Effect [.tm, .cn, .jn, .pm, .rg, .sp, .st, .md, .mc, .ap, .gp, .fb, .ev, .la, .rm, .ax, .pg, .lt, .sf, .cp, .fd, .hp, .eth, .dx, .can, .pw, .ag, .mm, .mem, .sent, .free] s t := by
  refine ⟨_, rfl, ?_⟩
  exact Effect.step (packetRow_only _ _ _ _) .refl (by decide)
theorem execCaptureStatus_only a0 (s : State) : ∃ t, execCaptureStatus a0 s = .next t ∧ Effect [.tm, .cn, .jn, .pm, .rg, .sp, .st, .md, .mc, .ap, .gp, .fb, .ev, .la, .rm, .ax, .pg, .lt, .sf, .cp, .fd, .hp, .eth, .dx, .can, .pw, .ag, .mm, .mem, .sent, .free] s t := by
  refine ⟨_, rfl, ?_⟩
  exact Effect.step (packetRow_only _ _ _ _) .refl (by decide)
theorem execCanCancel_only a0 a1 (s : State) : ∃ t, execCanCancel a0 a1 s = .next t ∧ Effect [.tm, .cn, .jn, .pm, .rg, .sp, .st, .md, .mc, .ap, .gp, .fb, .ev, .la, .rm, .ax, .pg, .lt, .sf, .cp, .fd, .hp, .eth, .dx, .can, .pw, .ag, .mm, .mem, .sent, .free] s t := by
  refine ⟨_, rfl, ?_⟩
  exact Effect.step (packetRow_only _ _ _ _) .refl (by decide)
theorem execSafetyReset_only a0 a1 (s : State) : ∃ t, execSafetyReset a0 a1 s = .next t ∧ Effect [.tm, .cn, .jn, .pm, .rg, .sp, .st, .md, .mc, .ap, .gp, .fb, .ev, .la, .rm, .ax, .pg, .lt, .sf, .cp, .fd, .hp, .eth, .dx, .can, .pw, .ag, .mm, .mem, .sent, .free] s t := by
  refine ⟨_, rfl, ?_⟩
  exact Effect.step (packetRow_only _ _ _ _) .refl (by decide)
theorem execCanRead_only a0 a1 (s : State) : ∃ t, execCanRead a0 a1 s = .next t ∧ Effect [.tm, .cn, .jn, .pm, .rg, .sp, .st, .md, .mc, .ap, .gp, .fb, .ev, .la, .rm, .ax, .pg, .lt, .sf, .cp, .fd, .hp, .eth, .dx, .can, .pw, .ag, .mm, .mem, .sent, .free] s t := by
  refine ⟨_, rfl, ?_⟩
  exact Effect.step (packetRow_only _ _ _ _) .refl (by decide)
theorem execAxisEnable_only a0 a1 (s : State) : ∃ t, execAxisEnable a0 a1 s = .next t ∧ Effect [.tm, .cn, .jn, .pm, .rg, .sp, .st, .md, .mc, .ap, .gp, .fb, .ev, .la, .rm, .ax, .pg, .lt, .sf, .cp, .fd, .hp, .eth, .dx, .can, .pw, .ag, .mm, .mem, .sent, .free] s t := by
  refine ⟨_, rfl, ?_⟩
  exact Effect.step (packetRow_only _ _ _ _) .refl (by decide)
theorem bytesRow_only a0 (s : State) : Effect [.tm, .cn, .jn, .pm, .rg, .sp, .st, .md, .mc, .ap, .gp, .fb, .ev, .la, .rm, .ax, .pg, .lt, .sf, .cp, .fd, .hp, .eth, .dx, .can, .pw, .ag, .mm, .mem, .sent, .free] s (bytesRow a0 s) := by
  unfold bytesRow
  split
  · exact Effect.step (resetWhenDue_only _) (Effect.step (receive_only _ _) .refl (by decide)) (by decide)
  · exact .refl
theorem execEthernetFrameRx_only (dt : Nat) (frame : EthFrame) (s : State) :
    ∃ t, execEthernetFrameRx dt frame s = .next t ∧ Effect [.tm, .cn, .jn, .pm, .rg, .sp, .st, .md, .mc, .ap, .gp, .fb, .ev, .la, .rm, .ax, .pg, .lt, .sf, .cp, .fd, .hp, .eth, .dx, .can, .pw, .ag, .mm, .mem, .sent, .free] s t := by
  cases h : ethFrame frame (s.elapse dt) with
  | mk p s' =>
    refine ⟨bytesRow p s', by simp only [execEthernetFrameRx, h], ?_⟩
    exact Effect.step (bytesRow_only _ _) (Effect.step (ethFrame_only_of h) (Effect.weaken (elapse_only _ _) (by decide)) (by decide)) (by decide)
theorem execAgeingReportCounters_only a0 (s : State) : ∃ t, execAgeingReportCounters a0 s = .next t ∧ Effect [.tm, .cn, .jn, .pm, .rg, .sp, .st, .md, .mc, .ap, .gp, .fb, .ev, .la, .rm, .ax, .pg, .lt, .sf, .cp, .fd, .hp, .eth, .dx, .can, .pw, .ag, .mm, .mem, .sent, .free] s t := by
  refine ⟨_, rfl, ?_⟩
  exact Effect.step (packetRow_only _ _ _ _) .refl (by decide)
theorem execGearDisengage_only a0 a1 (s : State) : ∃ t, execGearDisengage a0 a1 s = .next t ∧ Effect [.tm, .cn, .jn, .pm, .rg, .sp, .st, .md, .mc, .ap, .gp, .fb, .ev, .la, .rm, .ax, .pg, .lt, .sf, .cp, .fd, .hp, .eth, .dx, .can, .pw, .ag, .mm, .mem, .sent, .free] s t := by
  refine ⟨_, rfl, ?_⟩
  exact Effect.step (packetRow_only _ _ _ _) .refl (by decide)
theorem execJournalRead_only a0 a1 a2 (s : State) : ∃ t, execJournalRead a0 a1 a2 s = .next t ∧ Effect [.tm, .cn, .jn, .pm, .rg, .sp, .st, .md, .mc, .ap, .gp, .fb, .ev, .la, .rm, .ax, .pg, .lt, .sf, .cp, .fd, .hp, .eth, .dx, .can, .pw, .ag, .mm, .mem, .sent, .free] s t := by
  refine ⟨_, rfl, ?_⟩
  exact Effect.step (packetRow_only _ _ _ _) .refl (by decide)
theorem execCaptureArm_only a0 a1 a2 (s : State) : ∃ t, execCaptureArm a0 a1 a2 s = .next t ∧ Effect [.tm, .cn, .jn, .pm, .rg, .sp, .st, .md, .mc, .ap, .gp, .fb, .ev, .la, .rm, .ax, .pg, .lt, .sf, .cp, .fd, .hp, .eth, .dx, .can, .pw, .ag, .mm, .mem, .sent, .free] s t := by
  refine ⟨_, rfl, ?_⟩
  exact Effect.step (packetRow_only _ _ _ _) .refl (by decide)
theorem execRegisterWrite_only a0 a1 a2 a3 (s : State) : ∃ t, execRegisterWrite a0 a1 a2 a3 s = .next t ∧ Effect [.tm, .cn, .jn, .pm, .rg, .sp, .st, .md, .mc, .ap, .gp, .fb, .ev, .la, .rm, .ax, .pg, .lt, .sf, .cp, .fd, .hp, .eth, .dx, .can, .pw, .ag, .mm, .mem, .sent, .free] s t := by
  refine ⟨_, rfl, ?_⟩
  exact Effect.step (writeRow_only _ _ _ _) (Effect.step (elapse_only _ _) .refl (by decide)) (by decide)
theorem execCompareLoad_only a0 a1 (s : State) : ∃ t, execCompareLoad a0 a1 s = .next t ∧ Effect [.tm, .cn, .jn, .pm, .rg, .sp, .st, .md, .mc, .ap, .gp, .fb, .ev, .la, .rm, .ax, .pg, .lt, .sf, .cp, .fd, .hp, .eth, .dx, .can, .pw, .ag, .mm, .mem, .sent, .free] s t := by
  refine ⟨_, rfl, ?_⟩
  exact Effect.step (packetRow_only _ _ _ _) .refl (by decide)
theorem execStageCheck_only a0 (s : State) : ∃ t, execStageCheck a0 s = .next t ∧ Effect [.tm, .cn, .jn, .pm, .rg, .sp, .st, .md, .mc, .ap, .gp, .fb, .ev, .la, .rm, .ax, .pg, .lt, .sf, .cp, .fd, .hp, .eth, .dx, .can, .pw, .ag, .mm, .mem, .sent, .free] s t := by
  refine ⟨_, rfl, ?_⟩
  exact Effect.step (packetRow_only _ _ _ _) .refl (by decide)
theorem execAuth_only a0 a1 (s : State) : ∃ t, execAuth a0 a1 s = .next t ∧ Effect [.tm, .cn, .jn, .pm, .rg, .sp, .st, .md, .mc, .ap, .gp, .fb, .ev, .la, .rm, .ax, .pg, .lt, .sf, .cp, .fd, .hp, .eth, .dx, .can, .pw, .ag, .mm, .mem, .sent, .free] s t := by
  refine ⟨_, rfl, ?_⟩
  exact Effect.step (packetRow_only _ _ _ _) .refl (by decide)
theorem execCaptureStop_only a0 (s : State) : ∃ t, execCaptureStop a0 s = .next t ∧ Effect [.tm, .cn, .jn, .pm, .rg, .sp, .st, .md, .mc, .ap, .gp, .fb, .ev, .la, .rm, .ax, .pg, .lt, .sf, .cp, .fd, .hp, .eth, .dx, .can, .pw, .ag, .mm, .mem, .sent, .free] s t := by
  refine ⟨_, rfl, ?_⟩
  exact Effect.step (packetRow_only _ _ _ _) .refl (by decide)
theorem execStop_only a0 a1 (s : State) : ∃ t, execStop a0 a1 s = .next t ∧ Effect [.tm, .cn, .jn, .pm, .rg, .sp, .st, .md, .mc, .ap, .gp, .fb, .ev, .la, .rm, .ax, .pg, .lt, .sf, .cp, .fd, .hp, .eth, .dx, .can, .pw, .ag, .mm, .mem, .sent, .free] s t := by
  refine ⟨_, rfl, ?_⟩
  exact Effect.step (packetRow_only _ _ _ _) .refl (by decide)
theorem setpoint417_only a0 a1 a2 (s : State) : Effect [.tm, .cn, .jn, .pm, .rg, .sp, .st, .md, .mc, .ap, .gp, .fb, .ev, .la, .rm, .ax, .pg, .lt, .sf, .cp, .fd, .hp, .eth, .dx, .can, .pw, .ag, .mm, .mem, .sent] s (setpoint417 a0 a1 a2 s) := by
  unfold setpoint417
  lift_lets -underBinder
  intro x0 x1
  refine Effect.of_ite ?_ ?_
  · exact .refl
  · split
    · exact .refl
    · lift_lets -underBinder
      intro x7
      split
      · exact .refl
      · exact Effect.step (acceptPacket_only _ _ _) .refl (by decide)
theorem execSafetyConfigBegin_only a0 (s : State) : ∃ t, execSafetyConfigBegin a0 s = .next t ∧ Effect [.tm, .cn, .jn, .pm, .rg, .sp, .st, .md, .mc, .ap, .gp, .fb, .ev, .la, .rm, .ax, .pg, .lt, .sf, .cp, .fd, .hp, .eth, .dx, .can, .pw, .ag, .mm, .mem, .sent, .free] s t := by
  refine ⟨_, rfl, ?_⟩
  exact Effect.step (packetRow_only _ _ _ _) .refl (by decide)
theorem execCaptureReleaseUser_only a0 a1 a2 (s : State) : ∃ t, execCaptureReleaseUser a0 a1 a2 s = .next t ∧ Effect [.tm, .cn, .jn, .pm, .rg, .sp, .st, .md, .mc, .ap, .gp, .fb, .ev, .la, .rm, .ax, .pg, .lt, .sf, .cp, .fd, .hp, .eth, .dx, .can, .pw, .ag, .mm, .mem, .sent, .free] s t := by
  refine ⟨_, rfl, ?_⟩
  exact Effect.step (packetRow_only _ _ _ _) .refl (by decide)
theorem execGetStatus_only a0 (s : State) : ∃ t, execGetStatus a0 s = .next t ∧ Effect [.tm, .cn, .jn, .pm, .rg, .sp, .st, .md, .mc, .ap, .gp, .fb, .ev, .la, .rm, .ax, .pg, .lt, .sf, .cp, .fd, .hp, .eth, .dx, .can, .pw, .ag, .mm, .mem, .sent, .free] s t := by
  refine ⟨_, rfl, ?_⟩
  exact Effect.step (packetRow_only _ _ _ _) .refl (by decide)
theorem execStageRead_only a0 a1 a2 (s : State) : ∃ t, execStageRead a0 a1 a2 s = .next t ∧ Effect [.tm, .cn, .jn, .pm, .rg, .sp, .st, .md, .mc, .ap, .gp, .fb, .ev, .la, .rm, .ax, .pg, .lt, .sf, .cp, .fd, .hp, .eth, .dx, .can, .pw, .ag, .mm, .mem, .sent, .free] s t := by
  refine ⟨_, rfl, ?_⟩
  exact Effect.step (packetRow_only _ _ _ _) .refl (by decide)
theorem execSafetyTestRunLatent_only a0 a1 (s : State) : ∃ t, execSafetyTestRunLatent a0 a1 s = .next t ∧ Effect [.tm, .cn, .jn, .pm, .rg, .sp, .st, .md, .mc, .ap, .gp, .fb, .ev, .la, .rm, .ax, .pg, .lt, .sf, .cp, .fd, .hp, .eth, .dx, .can, .pw, .ag, .mm, .mem, .sent, .free] s t := by
  refine ⟨_, rfl, ?_⟩
  exact Effect.step (packetRow_only _ _ _ _) .refl (by decide)
theorem execImageBegin_only a0 a1 (s : State) : ∃ t, execImageBegin a0 a1 s = .next t ∧ Effect [.tm, .cn, .jn, .pm, .rg, .sp, .st, .md, .mc, .ap, .gp, .fb, .ev, .la, .rm, .ax, .pg, .lt, .sf, .cp, .fd, .hp, .eth, .dx, .can, .pw, .ag, .mm, .mem, .sent, .free] s t := by
  refine ⟨_, rfl, ?_⟩
  exact Effect.step (packetRow_only _ _ _ _) .refl (by decide)
theorem execPing_only a0 a1 (s : State) : ∃ t, execPing a0 a1 s = .next t ∧ Effect [.tm, .cn, .jn, .pm, .rg, .sp, .st, .md, .mc, .ap, .gp, .fb, .ev, .la, .rm, .ax, .pg, .lt, .sf, .cp, .fd, .hp, .eth, .dx, .can, .pw, .ag, .mm, .mem, .sent, .free] s t := by
  refine ⟨_, rfl, ?_⟩
  exact Effect.step (packetRow_only _ _ _ _) .refl (by decide)
theorem execStageCommit_only a0 a1 a2 (s : State) : ∃ t, execStageCommit a0 a1 a2 s = .next t ∧ Effect [.tm, .cn, .jn, .pm, .rg, .sp, .st, .md, .mc, .ap, .gp, .fb, .ev, .la, .rm, .ax, .pg, .lt, .sf, .cp, .fd, .hp, .eth, .dx, .can, .pw, .ag, .mm, .mem, .sent, .free] s t := by
  refine ⟨_, rfl, ?_⟩
  exact Effect.step (packetRow_only _ _ _ _) .refl (by decide)
theorem execMoveRel_only a0 a1 (s : State) : ∃ t, execMoveRel a0 a1 s = .next t ∧ Effect [.tm, .cn, .jn, .pm, .rg, .sp, .st, .md, .mc, .ap, .gp, .fb, .ev, .la, .rm, .ax, .pg, .lt, .sf, .cp, .fd, .hp, .eth, .dx, .can, .pw, .ag, .mm, .mem, .sent, .free] s t := by
  refine ⟨_, rfl, ?_⟩
  exact Effect.step (packetRow_only _ _ _ _) .refl (by decide)
theorem execStageOpen_only a0 (s : State) : ∃ t, execStageOpen a0 s = .next t ∧ Effect [.tm, .cn, .jn, .pm, .rg, .sp, .st, .md, .mc, .ap, .gp, .fb, .ev, .la, .rm, .ax, .pg, .lt, .sf, .cp, .fd, .hp, .eth, .dx, .can, .pw, .ag, .mm, .mem, .sent, .free] s t := by
  refine ⟨_, rfl, ?_⟩
  exact Effect.step (packetRow_only _ _ _ _) .refl (by decide)
theorem execHostMbxResync_only a0 (s : State) : ∃ t, execHostMbxResync a0 s = .next t ∧ Effect [.tm, .cn, .jn, .pm, .rg, .sp, .st, .md, .mc, .ap, .gp, .fb, .ev, .la, .rm, .ax, .pg, .lt, .sf, .cp, .fd, .hp, .eth, .dx, .can, .pw, .ag, .mm, .mem, .sent, .free] s t := by
  refine ⟨_, rfl, ?_⟩
  exact Effect.step (resetWhenDue_only _) (Effect.step (mbxServe_only _ _) (Effect.step (mbxResync_only _) (Effect.step (elapse_only _ _) .refl (by decide)) (by decide)) (by decide)) (by decide)
theorem execAgeingReportWear_only a0 a1 a2 (s : State) : ∃ t, execAgeingReportWear a0 a1 a2 s = .next t ∧ Effect [.tm, .cn, .jn, .pm, .rg, .sp, .st, .md, .mc, .ap, .gp, .fb, .ev, .la, .rm, .ax, .pg, .lt, .sf, .cp, .fd, .hp, .eth, .dx, .can, .pw, .ag, .mm, .mem, .sent, .free] s t := by
  refine ⟨_, rfl, ?_⟩
  exact Effect.step (packetRow_only _ _ _ _) .refl (by decide)
theorem execSafetyConfigWrite_only a0 a1 (s : State) : ∃ t, execSafetyConfigWrite a0 a1 s = .next t ∧ Effect [.tm, .cn, .jn, .pm, .rg, .sp, .st, .md, .mc, .ap, .gp, .fb, .ev, .la, .rm, .ax, .pg, .lt, .sf, .cp, .fd, .hp, .eth, .dx, .can, .pw, .ag, .mm, .mem, .sent, .free] s t := by
  refine ⟨_, rfl, ?_⟩
  exact Effect.step (packetRow_only _ _ _ _) .refl (by decide)
theorem execGearEngage_only a0 a1 (s : State) : ∃ t, execGearEngage a0 a1 s = .next t ∧ Effect [.tm, .cn, .jn, .pm, .rg, .sp, .st, .md, .mc, .ap, .gp, .fb, .ev, .la, .rm, .ax, .pg, .lt, .sf, .cp, .fd, .hp, .eth, .dx, .can, .pw, .ag, .mm, .mem, .sent, .free] s t := by
  refine ⟨_, rfl, ?_⟩
  exact Effect.step (packetRow_only _ _ _ _) .refl (by decide)
theorem execMoveVel_only a0 a1 (s : State) : ∃ t, execMoveVel a0 a1 s = .next t ∧ Effect [.tm, .cn, .jn, .pm, .rg, .sp, .st, .md, .mc, .ap, .gp, .fb, .ev, .la, .rm, .ax, .pg, .lt, .sf, .cp, .fd, .hp, .eth, .dx, .can, .pw, .ag, .mm, .mem, .sent, .free] s t := by
  refine ⟨_, rfl, ?_⟩
  exact Effect.step (packetRow_only _ _ _ _) .refl (by decide)
theorem execCommandStart_only a0 (s : State) : ∃ t, execCommandStart a0 s = .next t ∧ Effect [.tm, .cn, .jn, .pm, .rg, .sp, .st, .md, .mc, .ap, .gp, .fb, .ev, .la, .rm, .ax, .pg, .lt, .sf, .cp, .fd, .hp, .eth, .dx, .can, .pw, .ag, .mm, .mem, .free] s t := by
  refine ⟨_, rfl, ?_⟩
  exact Effect.step (resetWhenDue_only _) (Effect.step (startNext_only _) (Effect.step (elapse_only _ _) .refl (by decide)) (by decide)) (by decide)
theorem execSafetyStatus_only a0 (s : State) : ∃ t, execSafetyStatus a0 s = .next t ∧ Effect [.tm, .cn, .jn, .pm, .rg, .sp, .st, .md, .mc, .ap, .gp, .fb, .ev, .la, .rm, .ax, .pg, .lt, .sf, .cp, .fd, .hp, .eth, .dx, .can, .pw, .ag, .mm, .mem, .sent, .free] s t := by
  refine ⟨_, rfl, ?_⟩
  exact Effect.step (packetRow_only _ _ _ _) .refl (by decide)
theorem execGetParam_only a0 a1 a2 (s : State) : ∃ t, execGetParam a0 a1 a2 s = .next t ∧ Effect [.tm, .cn, .jn, .pm, .rg, .sp, .st, .md, .mc, .ap, .gp, .fb, .ev, .la, .rm, .ax, .pg, .lt, .sf, .cp, .fd, .hp, .eth, .dx, .can, .pw, .ag, .mm, .mem, .sent, .free] s t := by
  refine ⟨_, rfl, ?_⟩
  exact Effect.step (packetRow_only _ _ _ _) .refl (by decide)
theorem execStageDisable_only a0 (s : State) : ∃ t, execStageDisable a0 s = .next t ∧ Effect [.tm, .cn, .jn, .pm, .rg, .sp, .st, .md, .mc, .ap, .gp, .fb, .ev, .la, .rm, .ax, .pg, .lt, .sf, .cp, .fd, .hp, .eth, .dx, .can, .pw, .ag, .mm, .mem, .sent, .free] s t := by
  refine ⟨_, rfl, ?_⟩
  exact Effect.step (packetRow_only _ _ _ _) .refl (by decide)
theorem execCaptureReleaseEvidence_only a0 a1 a2 (s : State) : ∃ t, execCaptureReleaseEvidence a0 a1 a2 s = .next t ∧ Effect [.tm, .cn, .jn, .pm, .rg, .sp, .st, .md, .mc, .ap, .gp, .fb, .ev, .la, .rm, .ax, .pg, .lt, .sf, .cp, .fd, .hp, .eth, .dx, .can, .pw, .ag, .mm, .mem, .sent, .free] s t := by
  refine ⟨_, rfl, ?_⟩
  exact Effect.step (packetRow_only _ _ _ _) .refl (by decide)
theorem execCanSend_only a0 a1 (s : State) : ∃ t, execCanSend a0 a1 s = .next t ∧ Effect [.tm, .cn, .jn, .pm, .rg, .sp, .st, .md, .mc, .ap, .gp, .fb, .ev, .la, .rm, .ax, .pg, .lt, .sf, .cp, .fd, .hp, .eth, .dx, .can, .pw, .ag, .mm, .mem, .sent, .free] s t := by
  refine ⟨_, rfl, ?_⟩
  exact Effect.step (packetRow_only _ _ _ _) .refl (by decide)
theorem execJournalMark_only a0 a1 a2 (s : State) : ∃ t, execJournalMark a0 a1 a2 s = .next t ∧ Effect [.tm, .cn, .jn, .pm, .rg, .sp, .st, .md, .mc, .ap, .gp, .fb, .ev, .la, .rm, .ax, .pg, .lt, .sf, .cp, .fd, .hp, .eth, .dx, .can, .pw, .ag, .mm, .mem, .sent, .free] s t := by
  refine ⟨_, rfl, ?_⟩
  exact Effect.step (packetRow_only _ _ _ _) .refl (by decide)
theorem execLtClear_only a0 a1 (s : State) : ∃ t, execLtClear a0 a1 s = .next t ∧ Effect [.tm, .cn, .jn, .pm, .rg, .sp, .st, .md, .mc, .ap, .gp, .fb, .ev, .la, .rm, .ax, .pg, .lt, .sf, .cp, .fd, .hp, .eth, .dx, .can, .pw, .ag, .mm, .mem, .sent, .free] s t := by
  refine ⟨_, rfl, ?_⟩
  exact Effect.step (packetRow_only _ _ _ _) .refl (by decide)
theorem execPathAppend_only a0 a1 (s : State) : ∃ t, execPathAppend a0 a1 s = .next t ∧ Effect [.tm, .cn, .jn, .pm, .rg, .sp, .st, .md, .mc, .ap, .gp, .fb, .ev, .la, .rm, .ax, .pg, .lt, .sf, .cp, .fd, .hp, .eth, .dx, .can, .pw, .ag, .mm, .mem, .sent, .free] s t := by
  refine ⟨_, rfl, ?_⟩
  exact Effect.step (packetRow_only _ _ _ _) .refl (by decide)
theorem execCia417Setpoint_only a0 a1 a2 a3 (s : State) : ∃ t, execCia417Setpoint a0 a1 a2 a3 s = .next t ∧ Effect [.tm, .cn, .jn, .pm, .rg, .sp, .st, .md, .mc, .ap, .gp, .fb, .ev, .la, .rm, .ax, .pg, .lt, .sf, .cp, .fd, .hp, .eth, .dx, .can, .pw, .ag, .mm, .mem, .sent, .free] s t := by
  refine ⟨_, rfl, ?_⟩
  exact Effect.step (setpoint417_only _ _ _ _) (Effect.step (elapse_only _ _) .refl (by decide)) (by decide)
theorem execBye_only a0 (s : State) : ∃ t, execBye a0 s = .next t ∧ Effect [.tm, .cn, .jn, .pm, .rg, .sp, .st, .md, .mc, .ap, .gp, .fb, .ev, .la, .rm, .ax, .pg, .lt, .sf, .cp, .fd, .hp, .eth, .dx, .can, .pw, .ag, .mm, .mem, .sent, .free] s t := by
  refine ⟨_, rfl, ?_⟩
  exact Effect.step (packetRow_only _ _ _ _) .refl (by decide)
theorem execCanCmdSegment_only (dt ctrl : Nat) (data : List Nat) (back : Nat) (s : State) :
    ∃ t, execCanCmdSegment dt ctrl data back s = .next t ∧ Effect [.tm, .cn, .jn, .pm, .rg, .sp, .st, .md, .mc, .ap, .gp, .fb, .ev, .la, .rm, .ax, .pg, .lt, .sf, .cp, .fd, .hp, .eth, .dx, .can, .pw, .ag, .mm, .mem, .sent, .free] s t := by
  cases h : cmdSegment ctrl data back (s.elapse dt) with
  | mk p s' =>
    refine ⟨bytesRow (p.map fun b => (.can ctrl, b)) s', by simp only [execCanCmdSegment, h], ?_⟩
    exact Effect.step (bytesRow_only _ _) (Effect.step (cmdSegment_only_of h) (Effect.weaken (elapse_only _ _) (by decide)) (by decide)) (by decide)

end Sys2Proof.Machine
end

