-- ==== Sys2Proof/Laws/State.lean ====
section
/-!
SUPPORT. Sys2Proof/Laws/State.lean: reading a field of the state, or a unit, after a named update.
-/
namespace Sys2Proof.Machine
set_option Elab.async false
variable (s : State) (j k : Nat)

/-! ### A unit read after the update of a unit -/

@[simp] theorem State.spur_updSpur (f : SpurSt → SpurSt) : (s.updSpur k f).spur j = if j = k then f (s.spur k) else s.spur j :=
  Store.read_upd k j f
@[simp] theorem State.port_updPort (f : EthSt → EthSt) : (s.updPort k f).port j = if j = k then f (s.port k) else s.port j :=
  Store.read_upd k j f
@[simp] theorem State.ctl_updCtl (f : CanSt → CanSt) : (s.updCtl k f).ctl j = if j = k then f (s.ctl k) else s.ctl j :=
  Store.read_upd k j f
@[simp] theorem State.stage_updStage (f : StageSt → StageSt) : (s.updStage k f).stage j = if j = k then f (s.stage k) else s.stage j :=
  Store.read_upd k j f
@[simp] theorem State.mod_updMod (f : ModSt → ModSt) : (s.updMod k f).mod j = if j = k then f (s.mod k) else s.mod j :=
  Store.read_upd k j f
@[simp] theorem State.machine_updMachine (f : MachineSt → MachineSt) : (s.updMachine k f).machine j = if j = k then f (s.machine k) else s.machine j :=
  Store.read_upd k j f
@[simp] theorem State.apwm_updApwm (f : ApwmSt → ApwmSt) : (s.updApwm k f).apwm j = if j = k then f (s.apwm k) else s.apwm j :=
  Store.read_upd k j f
@[simp] theorem State.chan_updChan (f : FbSt → FbSt) : (s.updChan k f).chan j = if j = k then f (s.chan k) else s.chan j :=
  Store.read_upd k j f
@[simp] theorem State.evt_updEvt (f : EvtSt → EvtSt) : (s.updEvt k f).evt j = if j = k then f (s.evt k) else s.evt j :=
  Store.read_upd k j f
@[simp] theorem State.latch_updLatch (f : LatchSt → LatchSt) : (s.updLatch k f).latch j = if j = k then f (s.latch k) else s.latch j :=
  Store.read_upd k j f
@[simp] theorem State.rate_updRate (f : RateSt → RateSt) : (s.updRate k f).rate j = if j = k then f (s.rate k) else s.rate j :=
  Store.read_upd k j f
@[simp] theorem State.axis_updAxis (f : AxisSt → AxisSt) : (s.updAxis k f).axis j = if j = k then f (s.axis k) else s.axis j :=
  Store.read_upd k j f
@[simp] theorem State.path_updPath (f : PathSt → PathSt) : (s.updPath k f).path j = if j = k then f (s.path k) else s.path j :=
  Store.read_upd k j f
@[simp] theorem State.table_updTable (f : TableSt → TableSt) : (s.updTable k f).table j = if j = k then f (s.table k) else s.table j :=
  Store.read_upd k j f
@[simp] theorem State.slot_updSlot (f : SlotSt → SlotSt) : (s.updSlot k f).slot j = if j = k then f (s.slot k) else s.slot j :=
  Store.read_upd k j f
@[simp] theorem State.draft_updDraft (f : Draft → Draft) : (s.updDraft k f).draft j = if j = k then f (s.draft k) else s.draft j :=
  Store.read_upd k j f
@[simp] theorem State.group_updGroup (f : GroupSt → GroupSt) : (s.updGroup k f).group j = if j = k then f (s.group k) else s.group j :=
  Store.read_upd k j f
@[simp] theorem State.safeAxis_updSafeAxis (f : SafeAxisSt → SafeAxisSt) : (s.updSafeAxis k f).safeAxis j = if j = k then f (s.safeAxis k) else s.safeAxis j :=
  Store.read_upd k j f
@[simp] theorem State.pair_updPair (f : PairSt → PairSt) : (s.updPair k f).pair j = if j = k then f (s.pair k) else s.pair j :=
  Store.read_upd k j f
@[simp] theorem State.sout_updSout (f : SoutSt → SoutSt) : (s.updSout k f).sout j = if j = k then f (s.sout k) else s.sout j :=
  Store.read_upd k j f
@[simp] theorem State.seg_updSeg (f : SegSt → SegSt) : (s.updSeg k f).seg j = if j = k then f (s.seg k) else s.seg j :=
  Store.read_upd k j f

/-! ### A field read after an update of another -/

@[simp] theorem State.part_updSpur (f : SpurSt → SpurSt) : (s.updSpur k f).part = s.part := rfl
@[simp] theorem State.stepping_updSpur (f : SpurSt → SpurSt) : (s.updSpur k f).stepping = s.stepping := rfl
@[simp] theorem State.tm_updSpur (f : SpurSt → SpurSt) : (s.updSpur k f).tm = s.tm := rfl
@[simp] theorem State.cn_updSpur (f : SpurSt → SpurSt) : (s.updSpur k f).cn = s.cn := rfl
@[simp] theorem State.jn_updSpur (f : SpurSt → SpurSt) : (s.updSpur k f).jn = s.jn := rfl
@[simp] theorem State.pm_updSpur (f : SpurSt → SpurSt) : (s.updSpur k f).pm = s.pm := rfl
@[simp] theorem State.rg_updSpur (f : SpurSt → SpurSt) : (s.updSpur k f).rg = s.rg := rfl
@[simp] theorem State.st_updSpur (f : SpurSt → SpurSt) : (s.updSpur k f).st = s.st := rfl
@[simp] theorem State.md_updSpur (f : SpurSt → SpurSt) : (s.updSpur k f).md = s.md := rfl
@[simp] theorem State.mc_updSpur (f : SpurSt → SpurSt) : (s.updSpur k f).mc = s.mc := rfl
@[simp] theorem State.ap_updSpur (f : SpurSt → SpurSt) : (s.updSpur k f).ap = s.ap := rfl
@[simp] theorem State.gp_updSpur (f : SpurSt → SpurSt) : (s.updSpur k f).gp = s.gp := rfl
@[simp] theorem State.fb_updSpur (f : SpurSt → SpurSt) : (s.updSpur k f).fb = s.fb := rfl
@[simp] theorem State.ev_updSpur (f : SpurSt → SpurSt) : (s.updSpur k f).ev = s.ev := rfl
@[simp] theorem State.la_updSpur (f : SpurSt → SpurSt) : (s.updSpur k f).la = s.la := rfl
@[simp] theorem State.rm_updSpur (f : SpurSt → SpurSt) : (s.updSpur k f).rm = s.rm := rfl
@[simp] theorem State.ax_updSpur (f : SpurSt → SpurSt) : (s.updSpur k f).ax = s.ax := rfl
@[simp] theorem State.pg_updSpur (f : SpurSt → SpurSt) : (s.updSpur k f).pg = s.pg := rfl
@[simp] theorem State.lt_updSpur (f : SpurSt → SpurSt) : (s.updSpur k f).lt = s.lt := rfl
@[simp] theorem State.sf_updSpur (f : SpurSt → SpurSt) : (s.updSpur k f).sf = s.sf := rfl
@[simp] theorem State.cp_updSpur (f : SpurSt → SpurSt) : (s.updSpur k f).cp = s.cp := rfl
@[simp] theorem State.fd_updSpur (f : SpurSt → SpurSt) : (s.updSpur k f).fd = s.fd := rfl
@[simp] theorem State.hp_updSpur (f : SpurSt → SpurSt) : (s.updSpur k f).hp = s.hp := rfl
@[simp] theorem State.eth_updSpur (f : SpurSt → SpurSt) : (s.updSpur k f).eth = s.eth := rfl
@[simp] theorem State.dx_updSpur (f : SpurSt → SpurSt) : (s.updSpur k f).dx = s.dx := rfl
@[simp] theorem State.can_updSpur (f : SpurSt → SpurSt) : (s.updSpur k f).can = s.can := rfl
@[simp] theorem State.pw_updSpur (f : SpurSt → SpurSt) : (s.updSpur k f).pw = s.pw := rfl
@[simp] theorem State.ag_updSpur (f : SpurSt → SpurSt) : (s.updSpur k f).ag = s.ag := rfl
@[simp] theorem State.mm_updSpur (f : SpurSt → SpurSt) : (s.updSpur k f).mm = s.mm := rfl
@[simp] theorem State.mem_updSpur (f : SpurSt → SpurSt) : (s.updSpur k f).mem = s.mem := rfl
@[simp] theorem State.sent_updSpur (f : SpurSt → SpurSt) : (s.updSpur k f).sent = s.sent := rfl
@[simp] theorem State.free_updSpur (f : SpurSt → SpurSt) : (s.updSpur k f).free = s.free := rfl
@[simp] theorem State.pending_updSpur (f : SpurSt → SpurSt) : (s.updSpur k f).pending = s.pending := rfl
@[simp] theorem State.part_updPort (f : EthSt → EthSt) : (s.updPort k f).part = s.part := rfl
@[simp] theorem State.stepping_updPort (f : EthSt → EthSt) : (s.updPort k f).stepping = s.stepping := rfl
@[simp] theorem State.tm_updPort (f : EthSt → EthSt) : (s.updPort k f).tm = s.tm := rfl
@[simp] theorem State.cn_updPort (f : EthSt → EthSt) : (s.updPort k f).cn = s.cn := rfl
@[simp] theorem State.jn_updPort (f : EthSt → EthSt) : (s.updPort k f).jn = s.jn := rfl
@[simp] theorem State.pm_updPort (f : EthSt → EthSt) : (s.updPort k f).pm = s.pm := rfl
@[simp] theorem State.rg_updPort (f : EthSt → EthSt) : (s.updPort k f).rg = s.rg := rfl
@[simp] theorem State.sp_updPort (f : EthSt → EthSt) : (s.updPort k f).sp = s.sp := rfl
@[simp] theorem State.st_updPort (f : EthSt → EthSt) : (s.updPort k f).st = s.st := rfl
@[simp] theorem State.md_updPort (f : EthSt → EthSt) : (s.updPort k f).md = s.md := rfl
@[simp] theorem State.mc_updPort (f : EthSt → EthSt) : (s.updPort k f).mc = s.mc := rfl
@[simp] theorem State.ap_updPort (f : EthSt → EthSt) : (s.updPort k f).ap = s.ap := rfl
@[simp] theorem State.gp_updPort (f : EthSt → EthSt) : (s.updPort k f).gp = s.gp := rfl
@[simp] theorem State.fb_updPort (f : EthSt → EthSt) : (s.updPort k f).fb = s.fb := rfl
@[simp] theorem State.ev_updPort (f : EthSt → EthSt) : (s.updPort k f).ev = s.ev := rfl
@[simp] theorem State.la_updPort (f : EthSt → EthSt) : (s.updPort k f).la = s.la := rfl
@[simp] theorem State.rm_updPort (f : EthSt → EthSt) : (s.updPort k f).rm = s.rm := rfl
@[simp] theorem State.ax_updPort (f : EthSt → EthSt) : (s.updPort k f).ax = s.ax := rfl
@[simp] theorem State.pg_updPort (f : EthSt → EthSt) : (s.updPort k f).pg = s.pg := rfl
@[simp] theorem State.lt_updPort (f : EthSt → EthSt) : (s.updPort k f).lt = s.lt := rfl
@[simp] theorem State.sf_updPort (f : EthSt → EthSt) : (s.updPort k f).sf = s.sf := rfl
@[simp] theorem State.cp_updPort (f : EthSt → EthSt) : (s.updPort k f).cp = s.cp := rfl
@[simp] theorem State.fd_updPort (f : EthSt → EthSt) : (s.updPort k f).fd = s.fd := rfl
@[simp] theorem State.hp_updPort (f : EthSt → EthSt) : (s.updPort k f).hp = s.hp := rfl
@[simp] theorem State.dx_updPort (f : EthSt → EthSt) : (s.updPort k f).dx = s.dx := rfl
@[simp] theorem State.can_updPort (f : EthSt → EthSt) : (s.updPort k f).can = s.can := rfl
@[simp] theorem State.pw_updPort (f : EthSt → EthSt) : (s.updPort k f).pw = s.pw := rfl
@[simp] theorem State.ag_updPort (f : EthSt → EthSt) : (s.updPort k f).ag = s.ag := rfl
@[simp] theorem State.mm_updPort (f : EthSt → EthSt) : (s.updPort k f).mm = s.mm := rfl
@[simp] theorem State.mem_updPort (f : EthSt → EthSt) : (s.updPort k f).mem = s.mem := rfl
@[simp] theorem State.sent_updPort (f : EthSt → EthSt) : (s.updPort k f).sent = s.sent := rfl
@[simp] theorem State.free_updPort (f : EthSt → EthSt) : (s.updPort k f).free = s.free := rfl
@[simp] theorem State.pending_updPort (f : EthSt → EthSt) : (s.updPort k f).pending = s.pending := rfl
@[simp] theorem State.part_updCtl (f : CanSt → CanSt) : (s.updCtl k f).part = s.part := rfl
@[simp] theorem State.stepping_updCtl (f : CanSt → CanSt) : (s.updCtl k f).stepping = s.stepping := rfl
@[simp] theorem State.tm_updCtl (f : CanSt → CanSt) : (s.updCtl k f).tm = s.tm := rfl
@[simp] theorem State.cn_updCtl (f : CanSt → CanSt) : (s.updCtl k f).cn = s.cn := rfl
@[simp] theorem State.jn_updCtl (f : CanSt → CanSt) : (s.updCtl k f).jn = s.jn := rfl
@[simp] theorem State.pm_updCtl (f : CanSt → CanSt) : (s.updCtl k f).pm = s.pm := rfl
@[simp] theorem State.rg_updCtl (f : CanSt → CanSt) : (s.updCtl k f).rg = s.rg := rfl
@[simp] theorem State.sp_updCtl (f : CanSt → CanSt) : (s.updCtl k f).sp = s.sp := rfl
@[simp] theorem State.st_updCtl (f : CanSt → CanSt) : (s.updCtl k f).st = s.st := rfl
@[simp] theorem State.md_updCtl (f : CanSt → CanSt) : (s.updCtl k f).md = s.md := rfl
@[simp] theorem State.mc_updCtl (f : CanSt → CanSt) : (s.updCtl k f).mc = s.mc := rfl
@[simp] theorem State.ap_updCtl (f : CanSt → CanSt) : (s.updCtl k f).ap = s.ap := rfl
@[simp] theorem State.gp_updCtl (f : CanSt → CanSt) : (s.updCtl k f).gp = s.gp := rfl
@[simp] theorem State.fb_updCtl (f : CanSt → CanSt) : (s.updCtl k f).fb = s.fb := rfl
@[simp] theorem State.ev_updCtl (f : CanSt → CanSt) : (s.updCtl k f).ev = s.ev := rfl
@[simp] theorem State.la_updCtl (f : CanSt → CanSt) : (s.updCtl k f).la = s.la := rfl
@[simp] theorem State.rm_updCtl (f : CanSt → CanSt) : (s.updCtl k f).rm = s.rm := rfl
@[simp] theorem State.ax_updCtl (f : CanSt → CanSt) : (s.updCtl k f).ax = s.ax := rfl
@[simp] theorem State.pg_updCtl (f : CanSt → CanSt) : (s.updCtl k f).pg = s.pg := rfl
@[simp] theorem State.lt_updCtl (f : CanSt → CanSt) : (s.updCtl k f).lt = s.lt := rfl
@[simp] theorem State.sf_updCtl (f : CanSt → CanSt) : (s.updCtl k f).sf = s.sf := rfl
@[simp] theorem State.cp_updCtl (f : CanSt → CanSt) : (s.updCtl k f).cp = s.cp := rfl
@[simp] theorem State.fd_updCtl (f : CanSt → CanSt) : (s.updCtl k f).fd = s.fd := rfl
@[simp] theorem State.hp_updCtl (f : CanSt → CanSt) : (s.updCtl k f).hp = s.hp := rfl
@[simp] theorem State.eth_updCtl (f : CanSt → CanSt) : (s.updCtl k f).eth = s.eth := rfl
@[simp] theorem State.dx_updCtl (f : CanSt → CanSt) : (s.updCtl k f).dx = s.dx := rfl
@[simp] theorem State.pw_updCtl (f : CanSt → CanSt) : (s.updCtl k f).pw = s.pw := rfl
@[simp] theorem State.ag_updCtl (f : CanSt → CanSt) : (s.updCtl k f).ag = s.ag := rfl
@[simp] theorem State.mm_updCtl (f : CanSt → CanSt) : (s.updCtl k f).mm = s.mm := rfl
@[simp] theorem State.mem_updCtl (f : CanSt → CanSt) : (s.updCtl k f).mem = s.mem := rfl
@[simp] theorem State.sent_updCtl (f : CanSt → CanSt) : (s.updCtl k f).sent = s.sent := rfl
@[simp] theorem State.free_updCtl (f : CanSt → CanSt) : (s.updCtl k f).free = s.free := rfl
@[simp] theorem State.pending_updCtl (f : CanSt → CanSt) : (s.updCtl k f).pending = s.pending := rfl
@[simp] theorem State.part_updStage (f : StageSt → StageSt) : (s.updStage k f).part = s.part := rfl
@[simp] theorem State.stepping_updStage (f : StageSt → StageSt) : (s.updStage k f).stepping = s.stepping := rfl
@[simp] theorem State.tm_updStage (f : StageSt → StageSt) : (s.updStage k f).tm = s.tm := rfl
@[simp] theorem State.cn_updStage (f : StageSt → StageSt) : (s.updStage k f).cn = s.cn := rfl
@[simp] theorem State.jn_updStage (f : StageSt → StageSt) : (s.updStage k f).jn = s.jn := rfl
@[simp] theorem State.pm_updStage (f : StageSt → StageSt) : (s.updStage k f).pm = s.pm := rfl
@[simp] theorem State.rg_updStage (f : StageSt → StageSt) : (s.updStage k f).rg = s.rg := rfl
@[simp] theorem State.sp_updStage (f : StageSt → StageSt) : (s.updStage k f).sp = s.sp := rfl
@[simp] theorem State.md_updStage (f : StageSt → StageSt) : (s.updStage k f).md = s.md := rfl
@[simp] theorem State.mc_updStage (f : StageSt → StageSt) : (s.updStage k f).mc = s.mc := rfl
@[simp] theorem State.ap_updStage (f : StageSt → StageSt) : (s.updStage k f).ap = s.ap := rfl
@[simp] theorem State.gp_updStage (f : StageSt → StageSt) : (s.updStage k f).gp = s.gp := rfl
@[simp] theorem State.fb_updStage (f : StageSt → StageSt) : (s.updStage k f).fb = s.fb := rfl
@[simp] theorem State.ev_updStage (f : StageSt → StageSt) : (s.updStage k f).ev = s.ev := rfl
@[simp] theorem State.la_updStage (f : StageSt → StageSt) : (s.updStage k f).la = s.la := rfl
@[simp] theorem State.rm_updStage (f : StageSt → StageSt) : (s.updStage k f).rm = s.rm := rfl
@[simp] theorem State.ax_updStage (f : StageSt → StageSt) : (s.updStage k f).ax = s.ax := rfl
@[simp] theorem State.pg_updStage (f : StageSt → StageSt) : (s.updStage k f).pg = s.pg := rfl
@[simp] theorem State.lt_updStage (f : StageSt → StageSt) : (s.updStage k f).lt = s.lt := rfl
@[simp] theorem State.sf_updStage (f : StageSt → StageSt) : (s.updStage k f).sf = s.sf := rfl
@[simp] theorem State.cp_updStage (f : StageSt → StageSt) : (s.updStage k f).cp = s.cp := rfl
@[simp] theorem State.fd_updStage (f : StageSt → StageSt) : (s.updStage k f).fd = s.fd := rfl
@[simp] theorem State.hp_updStage (f : StageSt → StageSt) : (s.updStage k f).hp = s.hp := rfl
@[simp] theorem State.eth_updStage (f : StageSt → StageSt) : (s.updStage k f).eth = s.eth := rfl
@[simp] theorem State.dx_updStage (f : StageSt → StageSt) : (s.updStage k f).dx = s.dx := rfl
@[simp] theorem State.can_updStage (f : StageSt → StageSt) : (s.updStage k f).can = s.can := rfl
@[simp] theorem State.pw_updStage (f : StageSt → StageSt) : (s.updStage k f).pw = s.pw := rfl
@[simp] theorem State.ag_updStage (f : StageSt → StageSt) : (s.updStage k f).ag = s.ag := rfl
@[simp] theorem State.mm_updStage (f : StageSt → StageSt) : (s.updStage k f).mm = s.mm := rfl
@[simp] theorem State.mem_updStage (f : StageSt → StageSt) : (s.updStage k f).mem = s.mem := rfl
@[simp] theorem State.sent_updStage (f : StageSt → StageSt) : (s.updStage k f).sent = s.sent := rfl
@[simp] theorem State.free_updStage (f : StageSt → StageSt) : (s.updStage k f).free = s.free := rfl
@[simp] theorem State.pending_updStage (f : StageSt → StageSt) : (s.updStage k f).pending = s.pending := rfl
@[simp] theorem State.part_updMod (f : ModSt → ModSt) : (s.updMod k f).part = s.part := rfl
@[simp] theorem State.stepping_updMod (f : ModSt → ModSt) : (s.updMod k f).stepping = s.stepping := rfl
@[simp] theorem State.tm_updMod (f : ModSt → ModSt) : (s.updMod k f).tm = s.tm := rfl
@[simp] theorem State.cn_updMod (f : ModSt → ModSt) : (s.updMod k f).cn = s.cn := rfl
@[simp] theorem State.jn_updMod (f : ModSt → ModSt) : (s.updMod k f).jn = s.jn := rfl
@[simp] theorem State.pm_updMod (f : ModSt → ModSt) : (s.updMod k f).pm = s.pm := rfl
@[simp] theorem State.rg_updMod (f : ModSt → ModSt) : (s.updMod k f).rg = s.rg := rfl
@[simp] theorem State.sp_updMod (f : ModSt → ModSt) : (s.updMod k f).sp = s.sp := rfl
@[simp] theorem State.st_updMod (f : ModSt → ModSt) : (s.updMod k f).st = s.st := rfl
@[simp] theorem State.mc_updMod (f : ModSt → ModSt) : (s.updMod k f).mc = s.mc := rfl
@[simp] theorem State.ap_updMod (f : ModSt → ModSt) : (s.updMod k f).ap = s.ap := rfl
@[simp] theorem State.gp_updMod (f : ModSt → ModSt) : (s.updMod k f).gp = s.gp := rfl
@[simp] theorem State.fb_updMod (f : ModSt → ModSt) : (s.updMod k f).fb = s.fb := rfl
@[simp] theorem State.ev_updMod (f : ModSt → ModSt) : (s.updMod k f).ev = s.ev := rfl
@[simp] theorem State.la_updMod (f : ModSt → ModSt) : (s.updMod k f).la = s.la := rfl
@[simp] theorem State.rm_updMod (f : ModSt → ModSt) : (s.updMod k f).rm = s.rm := rfl
@[simp] theorem State.ax_updMod (f : ModSt → ModSt) : (s.updMod k f).ax = s.ax := rfl
@[simp] theorem State.pg_updMod (f : ModSt → ModSt) : (s.updMod k f).pg = s.pg := rfl
@[simp] theorem State.lt_updMod (f : ModSt → ModSt) : (s.updMod k f).lt = s.lt := rfl
@[simp] theorem State.sf_updMod (f : ModSt → ModSt) : (s.updMod k f).sf = s.sf := rfl
@[simp] theorem State.cp_updMod (f : ModSt → ModSt) : (s.updMod k f).cp = s.cp := rfl
@[simp] theorem State.fd_updMod (f : ModSt → ModSt) : (s.updMod k f).fd = s.fd := rfl
@[simp] theorem State.hp_updMod (f : ModSt → ModSt) : (s.updMod k f).hp = s.hp := rfl
@[simp] theorem State.eth_updMod (f : ModSt → ModSt) : (s.updMod k f).eth = s.eth := rfl
@[simp] theorem State.dx_updMod (f : ModSt → ModSt) : (s.updMod k f).dx = s.dx := rfl
@[simp] theorem State.can_updMod (f : ModSt → ModSt) : (s.updMod k f).can = s.can := rfl
@[simp] theorem State.pw_updMod (f : ModSt → ModSt) : (s.updMod k f).pw = s.pw := rfl
@[simp] theorem State.ag_updMod (f : ModSt → ModSt) : (s.updMod k f).ag = s.ag := rfl
@[simp] theorem State.mm_updMod (f : ModSt → ModSt) : (s.updMod k f).mm = s.mm := rfl
@[simp] theorem State.mem_updMod (f : ModSt → ModSt) : (s.updMod k f).mem = s.mem := rfl
@[simp] theorem State.sent_updMod (f : ModSt → ModSt) : (s.updMod k f).sent = s.sent := rfl
@[simp] theorem State.free_updMod (f : ModSt → ModSt) : (s.updMod k f).free = s.free := rfl
@[simp] theorem State.pending_updMod (f : ModSt → ModSt) : (s.updMod k f).pending = s.pending := rfl
@[simp] theorem State.part_updMachine (f : MachineSt → MachineSt) : (s.updMachine k f).part = s.part := rfl
@[simp] theorem State.stepping_updMachine (f : MachineSt → MachineSt) : (s.updMachine k f).stepping = s.stepping := rfl
@[simp] theorem State.tm_updMachine (f : MachineSt → MachineSt) : (s.updMachine k f).tm = s.tm := rfl
@[simp] theorem State.cn_updMachine (f : MachineSt → MachineSt) : (s.updMachine k f).cn = s.cn := rfl
@[simp] theorem State.jn_updMachine (f : MachineSt → MachineSt) : (s.updMachine k f).jn = s.jn := rfl
@[simp] theorem State.pm_updMachine (f : MachineSt → MachineSt) : (s.updMachine k f).pm = s.pm := rfl
@[simp] theorem State.rg_updMachine (f : MachineSt → MachineSt) : (s.updMachine k f).rg = s.rg := rfl
@[simp] theorem State.sp_updMachine (f : MachineSt → MachineSt) : (s.updMachine k f).sp = s.sp := rfl
@[simp] theorem State.st_updMachine (f : MachineSt → MachineSt) : (s.updMachine k f).st = s.st := rfl
@[simp] theorem State.md_updMachine (f : MachineSt → MachineSt) : (s.updMachine k f).md = s.md := rfl
@[simp] theorem State.ap_updMachine (f : MachineSt → MachineSt) : (s.updMachine k f).ap = s.ap := rfl
@[simp] theorem State.gp_updMachine (f : MachineSt → MachineSt) : (s.updMachine k f).gp = s.gp := rfl
@[simp] theorem State.fb_updMachine (f : MachineSt → MachineSt) : (s.updMachine k f).fb = s.fb := rfl
@[simp] theorem State.ev_updMachine (f : MachineSt → MachineSt) : (s.updMachine k f).ev = s.ev := rfl
@[simp] theorem State.la_updMachine (f : MachineSt → MachineSt) : (s.updMachine k f).la = s.la := rfl
@[simp] theorem State.rm_updMachine (f : MachineSt → MachineSt) : (s.updMachine k f).rm = s.rm := rfl
@[simp] theorem State.ax_updMachine (f : MachineSt → MachineSt) : (s.updMachine k f).ax = s.ax := rfl
@[simp] theorem State.pg_updMachine (f : MachineSt → MachineSt) : (s.updMachine k f).pg = s.pg := rfl
@[simp] theorem State.lt_updMachine (f : MachineSt → MachineSt) : (s.updMachine k f).lt = s.lt := rfl
@[simp] theorem State.sf_updMachine (f : MachineSt → MachineSt) : (s.updMachine k f).sf = s.sf := rfl
@[simp] theorem State.cp_updMachine (f : MachineSt → MachineSt) : (s.updMachine k f).cp = s.cp := rfl
@[simp] theorem State.fd_updMachine (f : MachineSt → MachineSt) : (s.updMachine k f).fd = s.fd := rfl
@[simp] theorem State.hp_updMachine (f : MachineSt → MachineSt) : (s.updMachine k f).hp = s.hp := rfl
@[simp] theorem State.eth_updMachine (f : MachineSt → MachineSt) : (s.updMachine k f).eth = s.eth := rfl
@[simp] theorem State.dx_updMachine (f : MachineSt → MachineSt) : (s.updMachine k f).dx = s.dx := rfl
@[simp] theorem State.can_updMachine (f : MachineSt → MachineSt) : (s.updMachine k f).can = s.can := rfl
@[simp] theorem State.pw_updMachine (f : MachineSt → MachineSt) : (s.updMachine k f).pw = s.pw := rfl
@[simp] theorem State.ag_updMachine (f : MachineSt → MachineSt) : (s.updMachine k f).ag = s.ag := rfl
@[simp] theorem State.mm_updMachine (f : MachineSt → MachineSt) : (s.updMachine k f).mm = s.mm := rfl
@[simp] theorem State.mem_updMachine (f : MachineSt → MachineSt) : (s.updMachine k f).mem = s.mem := rfl
@[simp] theorem State.sent_updMachine (f : MachineSt → MachineSt) : (s.updMachine k f).sent = s.sent := rfl
@[simp] theorem State.free_updMachine (f : MachineSt → MachineSt) : (s.updMachine k f).free = s.free := rfl
@[simp] theorem State.pending_updMachine (f : MachineSt → MachineSt) : (s.updMachine k f).pending = s.pending := rfl
@[simp] theorem State.part_updApwm (f : ApwmSt → ApwmSt) : (s.updApwm k f).part = s.part := rfl
@[simp] theorem State.stepping_updApwm (f : ApwmSt → ApwmSt) : (s.updApwm k f).stepping = s.stepping := rfl
@[simp] theorem State.tm_updApwm (f : ApwmSt → ApwmSt) : (s.updApwm k f).tm = s.tm := rfl
@[simp] theorem State.cn_updApwm (f : ApwmSt → ApwmSt) : (s.updApwm k f).cn = s.cn := rfl
@[simp] theorem State.jn_updApwm (f : ApwmSt → ApwmSt) : (s.updApwm k f).jn = s.jn := rfl
@[simp] theorem State.pm_updApwm (f : ApwmSt → ApwmSt) : (s.updApwm k f).pm = s.pm := rfl
@[simp] theorem State.rg_updApwm (f : ApwmSt → ApwmSt) : (s.updApwm k f).rg = s.rg := rfl
@[simp] theorem State.sp_updApwm (f : ApwmSt → ApwmSt) : (s.updApwm k f).sp = s.sp := rfl
@[simp] theorem State.st_updApwm (f : ApwmSt → ApwmSt) : (s.updApwm k f).st = s.st := rfl
@[simp] theorem State.md_updApwm (f : ApwmSt → ApwmSt) : (s.updApwm k f).md = s.md := rfl
@[simp] theorem State.mc_updApwm (f : ApwmSt → ApwmSt) : (s.updApwm k f).mc = s.mc := rfl
@[simp] theorem State.gp_updApwm (f : ApwmSt → ApwmSt) : (s.updApwm k f).gp = s.gp := rfl
@[simp] theorem State.fb_updApwm (f : ApwmSt → ApwmSt) : (s.updApwm k f).fb = s.fb := rfl
@[simp] theorem State.ev_updApwm (f : ApwmSt → ApwmSt) : (s.updApwm k f).ev = s.ev := rfl
@[simp] theorem State.la_updApwm (f : ApwmSt → ApwmSt) : (s.updApwm k f).la = s.la := rfl
@[simp] theorem State.rm_updApwm (f : ApwmSt → ApwmSt) : (s.updApwm k f).rm = s.rm := rfl
@[simp] theorem State.ax_updApwm (f : ApwmSt → ApwmSt) : (s.updApwm k f).ax = s.ax := rfl
@[simp] theorem State.pg_updApwm (f : ApwmSt → ApwmSt) : (s.updApwm k f).pg = s.pg := rfl
@[simp] theorem State.lt_updApwm (f : ApwmSt → ApwmSt) : (s.updApwm k f).lt = s.lt := rfl
@[simp] theorem State.sf_updApwm (f : ApwmSt → ApwmSt) : (s.updApwm k f).sf = s.sf := rfl
@[simp] theorem State.cp_updApwm (f : ApwmSt → ApwmSt) : (s.updApwm k f).cp = s.cp := rfl
@[simp] theorem State.fd_updApwm (f : ApwmSt → ApwmSt) : (s.updApwm k f).fd = s.fd := rfl
@[simp] theorem State.hp_updApwm (f : ApwmSt → ApwmSt) : (s.updApwm k f).hp = s.hp := rfl
@[simp] theorem State.eth_updApwm (f : ApwmSt → ApwmSt) : (s.updApwm k f).eth = s.eth := rfl
@[simp] theorem State.dx_updApwm (f : ApwmSt → ApwmSt) : (s.updApwm k f).dx = s.dx := rfl
@[simp] theorem State.can_updApwm (f : ApwmSt → ApwmSt) : (s.updApwm k f).can = s.can := rfl
@[simp] theorem State.pw_updApwm (f : ApwmSt → ApwmSt) : (s.updApwm k f).pw = s.pw := rfl
@[simp] theorem State.ag_updApwm (f : ApwmSt → ApwmSt) : (s.updApwm k f).ag = s.ag := rfl
@[simp] theorem State.mm_updApwm (f : ApwmSt → ApwmSt) : (s.updApwm k f).mm = s.mm := rfl
@[simp] theorem State.mem_updApwm (f : ApwmSt → ApwmSt) : (s.updApwm k f).mem = s.mem := rfl
@[simp] theorem State.sent_updApwm (f : ApwmSt → ApwmSt) : (s.updApwm k f).sent = s.sent := rfl
@[simp] theorem State.free_updApwm (f : ApwmSt → ApwmSt) : (s.updApwm k f).free = s.free := rfl
@[simp] theorem State.pending_updApwm (f : ApwmSt → ApwmSt) : (s.updApwm k f).pending = s.pending := rfl
@[simp] theorem State.part_updGroupPwm (f : GroupPwm → GroupPwm) : (s.updGroupPwm k f).part = s.part := rfl
@[simp] theorem State.stepping_updGroupPwm (f : GroupPwm → GroupPwm) : (s.updGroupPwm k f).stepping = s.stepping := rfl
@[simp] theorem State.tm_updGroupPwm (f : GroupPwm → GroupPwm) : (s.updGroupPwm k f).tm = s.tm := rfl
@[simp] theorem State.cn_updGroupPwm (f : GroupPwm → GroupPwm) : (s.updGroupPwm k f).cn = s.cn := rfl
@[simp] theorem State.jn_updGroupPwm (f : GroupPwm → GroupPwm) : (s.updGroupPwm k f).jn = s.jn := rfl
@[simp] theorem State.pm_updGroupPwm (f : GroupPwm → GroupPwm) : (s.updGroupPwm k f).pm = s.pm := rfl
@[simp] theorem State.rg_updGroupPwm (f : GroupPwm → GroupPwm) : (s.updGroupPwm k f).rg = s.rg := rfl
@[simp] theorem State.sp_updGroupPwm (f : GroupPwm → GroupPwm) : (s.updGroupPwm k f).sp = s.sp := rfl
@[simp] theorem State.st_updGroupPwm (f : GroupPwm → GroupPwm) : (s.updGroupPwm k f).st = s.st := rfl
@[simp] theorem State.md_updGroupPwm (f : GroupPwm → GroupPwm) : (s.updGroupPwm k f).md = s.md := rfl
@[simp] theorem State.mc_updGroupPwm (f : GroupPwm → GroupPwm) : (s.updGroupPwm k f).mc = s.mc := rfl
@[simp] theorem State.ap_updGroupPwm (f : GroupPwm → GroupPwm) : (s.updGroupPwm k f).ap = s.ap := rfl
@[simp] theorem State.fb_updGroupPwm (f : GroupPwm → GroupPwm) : (s.updGroupPwm k f).fb = s.fb := rfl
@[simp] theorem State.ev_updGroupPwm (f : GroupPwm → GroupPwm) : (s.updGroupPwm k f).ev = s.ev := rfl
@[simp] theorem State.la_updGroupPwm (f : GroupPwm → GroupPwm) : (s.updGroupPwm k f).la = s.la := rfl
@[simp] theorem State.rm_updGroupPwm (f : GroupPwm → GroupPwm) : (s.updGroupPwm k f).rm = s.rm := rfl
@[simp] theorem State.ax_updGroupPwm (f : GroupPwm → GroupPwm) : (s.updGroupPwm k f).ax = s.ax := rfl
@[simp] theorem State.pg_updGroupPwm (f : GroupPwm → GroupPwm) : (s.updGroupPwm k f).pg = s.pg := rfl
@[simp] theorem State.lt_updGroupPwm (f : GroupPwm → GroupPwm) : (s.updGroupPwm k f).lt = s.lt := rfl
@[simp] theorem State.sf_updGroupPwm (f : GroupPwm → GroupPwm) : (s.updGroupPwm k f).sf = s.sf := rfl
@[simp] theorem State.cp_updGroupPwm (f : GroupPwm → GroupPwm) : (s.updGroupPwm k f).cp = s.cp := rfl
@[simp] theorem State.fd_updGroupPwm (f : GroupPwm → GroupPwm) : (s.updGroupPwm k f).fd = s.fd := rfl
@[simp] theorem State.hp_updGroupPwm (f : GroupPwm → GroupPwm) : (s.updGroupPwm k f).hp = s.hp := rfl
@[simp] theorem State.eth_updGroupPwm (f : GroupPwm → GroupPwm) : (s.updGroupPwm k f).eth = s.eth := rfl
@[simp] theorem State.dx_updGroupPwm (f : GroupPwm → GroupPwm) : (s.updGroupPwm k f).dx = s.dx := rfl
@[simp] theorem State.can_updGroupPwm (f : GroupPwm → GroupPwm) : (s.updGroupPwm k f).can = s.can := rfl
@[simp] theorem State.pw_updGroupPwm (f : GroupPwm → GroupPwm) : (s.updGroupPwm k f).pw = s.pw := rfl
@[simp] theorem State.ag_updGroupPwm (f : GroupPwm → GroupPwm) : (s.updGroupPwm k f).ag = s.ag := rfl
@[simp] theorem State.mm_updGroupPwm (f : GroupPwm → GroupPwm) : (s.updGroupPwm k f).mm = s.mm := rfl
@[simp] theorem State.mem_updGroupPwm (f : GroupPwm → GroupPwm) : (s.updGroupPwm k f).mem = s.mem := rfl
@[simp] theorem State.sent_updGroupPwm (f : GroupPwm → GroupPwm) : (s.updGroupPwm k f).sent = s.sent := rfl
@[simp] theorem State.free_updGroupPwm (f : GroupPwm → GroupPwm) : (s.updGroupPwm k f).free = s.free := rfl
@[simp] theorem State.pending_updGroupPwm (f : GroupPwm → GroupPwm) : (s.updGroupPwm k f).pending = s.pending := rfl
@[simp] theorem State.part_updChan (f : FbSt → FbSt) : (s.updChan k f).part = s.part := rfl
@[simp] theorem State.stepping_updChan (f : FbSt → FbSt) : (s.updChan k f).stepping = s.stepping := rfl
@[simp] theorem State.tm_updChan (f : FbSt → FbSt) : (s.updChan k f).tm = s.tm := rfl
@[simp] theorem State.cn_updChan (f : FbSt → FbSt) : (s.updChan k f).cn = s.cn := rfl
@[simp] theorem State.jn_updChan (f : FbSt → FbSt) : (s.updChan k f).jn = s.jn := rfl
@[simp] theorem State.pm_updChan (f : FbSt → FbSt) : (s.updChan k f).pm = s.pm := rfl
@[simp] theorem State.rg_updChan (f : FbSt → FbSt) : (s.updChan k f).rg = s.rg := rfl
@[simp] theorem State.sp_updChan (f : FbSt → FbSt) : (s.updChan k f).sp = s.sp := rfl
@[simp] theorem State.st_updChan (f : FbSt → FbSt) : (s.updChan k f).st = s.st := rfl
@[simp] theorem State.md_updChan (f : FbSt → FbSt) : (s.updChan k f).md = s.md := rfl
@[simp] theorem State.mc_updChan (f : FbSt → FbSt) : (s.updChan k f).mc = s.mc := rfl
@[simp] theorem State.ap_updChan (f : FbSt → FbSt) : (s.updChan k f).ap = s.ap := rfl
@[simp] theorem State.gp_updChan (f : FbSt → FbSt) : (s.updChan k f).gp = s.gp := rfl
@[simp] theorem State.ev_updChan (f : FbSt → FbSt) : (s.updChan k f).ev = s.ev := rfl
@[simp] theorem State.la_updChan (f : FbSt → FbSt) : (s.updChan k f).la = s.la := rfl
@[simp] theorem State.rm_updChan (f : FbSt → FbSt) : (s.updChan k f).rm = s.rm := rfl
@[simp] theorem State.ax_updChan (f : FbSt → FbSt) : (s.updChan k f).ax = s.ax := rfl
@[simp] theorem State.pg_updChan (f : FbSt → FbSt) : (s.updChan k f).pg = s.pg := rfl
@[simp] theorem State.lt_updChan (f : FbSt → FbSt) : (s.updChan k f).lt = s.lt := rfl
@[simp] theorem State.sf_updChan (f : FbSt → FbSt) : (s.updChan k f).sf = s.sf := rfl
@[simp] theorem State.cp_updChan (f : FbSt → FbSt) : (s.updChan k f).cp = s.cp := rfl
@[simp] theorem State.fd_updChan (f : FbSt → FbSt) : (s.updChan k f).fd = s.fd := rfl
@[simp] theorem State.hp_updChan (f : FbSt → FbSt) : (s.updChan k f).hp = s.hp := rfl
@[simp] theorem State.eth_updChan (f : FbSt → FbSt) : (s.updChan k f).eth = s.eth := rfl
@[simp] theorem State.dx_updChan (f : FbSt → FbSt) : (s.updChan k f).dx = s.dx := rfl
@[simp] theorem State.can_updChan (f : FbSt → FbSt) : (s.updChan k f).can = s.can := rfl
@[simp] theorem State.pw_updChan (f : FbSt → FbSt) : (s.updChan k f).pw = s.pw := rfl
@[simp] theorem State.ag_updChan (f : FbSt → FbSt) : (s.updChan k f).ag = s.ag := rfl
@[simp] theorem State.mm_updChan (f : FbSt → FbSt) : (s.updChan k f).mm = s.mm := rfl
@[simp] theorem State.mem_updChan (f : FbSt → FbSt) : (s.updChan k f).mem = s.mem := rfl
@[simp] theorem State.sent_updChan (f : FbSt → FbSt) : (s.updChan k f).sent = s.sent := rfl
@[simp] theorem State.free_updChan (f : FbSt → FbSt) : (s.updChan k f).free = s.free := rfl
@[simp] theorem State.pending_updChan (f : FbSt → FbSt) : (s.updChan k f).pending = s.pending := rfl
@[simp] theorem State.part_updEvt (f : EvtSt → EvtSt) : (s.updEvt k f).part = s.part := rfl
@[simp] theorem State.stepping_updEvt (f : EvtSt → EvtSt) : (s.updEvt k f).stepping = s.stepping := rfl
@[simp] theorem State.tm_updEvt (f : EvtSt → EvtSt) : (s.updEvt k f).tm = s.tm := rfl
@[simp] theorem State.cn_updEvt (f : EvtSt → EvtSt) : (s.updEvt k f).cn = s.cn := rfl
@[simp] theorem State.jn_updEvt (f : EvtSt → EvtSt) : (s.updEvt k f).jn = s.jn := rfl
@[simp] theorem State.pm_updEvt (f : EvtSt → EvtSt) : (s.updEvt k f).pm = s.pm := rfl
@[simp] theorem State.rg_updEvt (f : EvtSt → EvtSt) : (s.updEvt k f).rg = s.rg := rfl
@[simp] theorem State.sp_updEvt (f : EvtSt → EvtSt) : (s.updEvt k f).sp = s.sp := rfl
@[simp] theorem State.st_updEvt (f : EvtSt → EvtSt) : (s.updEvt k f).st = s.st := rfl
@[simp] theorem State.md_updEvt (f : EvtSt → EvtSt) : (s.updEvt k f).md = s.md := rfl
@[simp] theorem State.mc_updEvt (f : EvtSt → EvtSt) : (s.updEvt k f).mc = s.mc := rfl
@[simp] theorem State.ap_updEvt (f : EvtSt → EvtSt) : (s.updEvt k f).ap = s.ap := rfl
@[simp] theorem State.gp_updEvt (f : EvtSt → EvtSt) : (s.updEvt k f).gp = s.gp := rfl
@[simp] theorem State.fb_updEvt (f : EvtSt → EvtSt) : (s.updEvt k f).fb = s.fb := rfl
@[simp] theorem State.la_updEvt (f : EvtSt → EvtSt) : (s.updEvt k f).la = s.la := rfl
@[simp] theorem State.rm_updEvt (f : EvtSt → EvtSt) : (s.updEvt k f).rm = s.rm := rfl
@[simp] theorem State.ax_updEvt (f : EvtSt → EvtSt) : (s.updEvt k f).ax = s.ax := rfl
@[simp] theorem State.pg_updEvt (f : EvtSt → EvtSt) : (s.updEvt k f).pg = s.pg := rfl
@[simp] theorem State.lt_updEvt (f : EvtSt → EvtSt) : (s.updEvt k f).lt = s.lt := rfl
@[simp] theorem State.sf_updEvt (f : EvtSt → EvtSt) : (s.updEvt k f).sf = s.sf := rfl
@[simp] theorem State.cp_updEvt (f : EvtSt → EvtSt) : (s.updEvt k f).cp = s.cp := rfl
@[simp] theorem State.fd_updEvt (f : EvtSt → EvtSt) : (s.updEvt k f).fd = s.fd := rfl
@[simp] theorem State.hp_updEvt (f : EvtSt → EvtSt) : (s.updEvt k f).hp = s.hp := rfl
@[simp] theorem State.eth_updEvt (f : EvtSt → EvtSt) : (s.updEvt k f).eth = s.eth := rfl
@[simp] theorem State.dx_updEvt (f : EvtSt → EvtSt) : (s.updEvt k f).dx = s.dx := rfl
@[simp] theorem State.can_updEvt (f : EvtSt → EvtSt) : (s.updEvt k f).can = s.can := rfl
@[simp] theorem State.pw_updEvt (f : EvtSt → EvtSt) : (s.updEvt k f).pw = s.pw := rfl
@[simp] theorem State.ag_updEvt (f : EvtSt → EvtSt) : (s.updEvt k f).ag = s.ag := rfl
@[simp] theorem State.mm_updEvt (f : EvtSt → EvtSt) : (s.updEvt k f).mm = s.mm := rfl
@[simp] theorem State.mem_updEvt (f : EvtSt → EvtSt) : (s.updEvt k f).mem = s.mem := rfl
@[simp] theorem State.sent_updEvt (f : EvtSt → EvtSt) : (s.updEvt k f).sent = s.sent := rfl
@[simp] theorem State.free_updEvt (f : EvtSt → EvtSt) : (s.updEvt k f).free = s.free := rfl
@[simp] theorem State.pending_updEvt (f : EvtSt → EvtSt) : (s.updEvt k f).pending = s.pending := rfl
@[simp] theorem State.part_updLatch (f : LatchSt → LatchSt) : (s.updLatch k f).part = s.part := rfl
@[simp] theorem State.stepping_updLatch (f : LatchSt → LatchSt) : (s.updLatch k f).stepping = s.stepping := rfl
@[simp] theorem State.tm_updLatch (f : LatchSt → LatchSt) : (s.updLatch k f).tm = s.tm := rfl
@[simp] theorem State.cn_updLatch (f : LatchSt → LatchSt) : (s.updLatch k f).cn = s.cn := rfl
@[simp] theorem State.jn_updLatch (f : LatchSt → LatchSt) : (s.updLatch k f).jn = s.jn := rfl
@[simp] theorem State.pm_updLatch (f : LatchSt → LatchSt) : (s.updLatch k f).pm = s.pm := rfl
@[simp] theorem State.rg_updLatch (f : LatchSt → LatchSt) : (s.updLatch k f).rg = s.rg := rfl
@[simp] theorem State.sp_updLatch (f : LatchSt → LatchSt) : (s.updLatch k f).sp = s.sp := rfl
@[simp] theorem State.st_updLatch (f : LatchSt → LatchSt) : (s.updLatch k f).st = s.st := rfl
@[simp] theorem State.md_updLatch (f : LatchSt → LatchSt) : (s.updLatch k f).md = s.md := rfl
@[simp] theorem State.mc_updLatch (f : LatchSt → LatchSt) : (s.updLatch k f).mc = s.mc := rfl
@[simp] theorem State.ap_updLatch (f : LatchSt → LatchSt) : (s.updLatch k f).ap = s.ap := rfl
@[simp] theorem State.gp_updLatch (f : LatchSt → LatchSt) : (s.updLatch k f).gp = s.gp := rfl
@[simp] theorem State.fb_updLatch (f : LatchSt → LatchSt) : (s.updLatch k f).fb = s.fb := rfl
@[simp] theorem State.ev_updLatch (f : LatchSt → LatchSt) : (s.updLatch k f).ev = s.ev := rfl
@[simp] theorem State.rm_updLatch (f : LatchSt → LatchSt) : (s.updLatch k f).rm = s.rm := rfl
@[simp] theorem State.ax_updLatch (f : LatchSt → LatchSt) : (s.updLatch k f).ax = s.ax := rfl
@[simp] theorem State.pg_updLatch (f : LatchSt → LatchSt) : (s.updLatch k f).pg = s.pg := rfl
@[simp] theorem State.lt_updLatch (f : LatchSt → LatchSt) : (s.updLatch k f).lt = s.lt := rfl
@[simp] theorem State.sf_updLatch (f : LatchSt → LatchSt) : (s.updLatch k f).sf = s.sf := rfl
@[simp] theorem State.cp_updLatch (f : LatchSt → LatchSt) : (s.updLatch k f).cp = s.cp := rfl
@[simp] theorem State.fd_updLatch (f : LatchSt → LatchSt) : (s.updLatch k f).fd = s.fd := rfl
@[simp] theorem State.hp_updLatch (f : LatchSt → LatchSt) : (s.updLatch k f).hp = s.hp := rfl
@[simp] theorem State.eth_updLatch (f : LatchSt → LatchSt) : (s.updLatch k f).eth = s.eth := rfl
@[simp] theorem State.dx_updLatch (f : LatchSt → LatchSt) : (s.updLatch k f).dx = s.dx := rfl
@[simp] theorem State.can_updLatch (f : LatchSt → LatchSt) : (s.updLatch k f).can = s.can := rfl
@[simp] theorem State.pw_updLatch (f : LatchSt → LatchSt) : (s.updLatch k f).pw = s.pw := rfl
@[simp] theorem State.ag_updLatch (f : LatchSt → LatchSt) : (s.updLatch k f).ag = s.ag := rfl
@[simp] theorem State.mm_updLatch (f : LatchSt → LatchSt) : (s.updLatch k f).mm = s.mm := rfl
@[simp] theorem State.mem_updLatch (f : LatchSt → LatchSt) : (s.updLatch k f).mem = s.mem := rfl
@[simp] theorem State.sent_updLatch (f : LatchSt → LatchSt) : (s.updLatch k f).sent = s.sent := rfl
@[simp] theorem State.free_updLatch (f : LatchSt → LatchSt) : (s.updLatch k f).free = s.free := rfl
@[simp] theorem State.pending_updLatch (f : LatchSt → LatchSt) : (s.updLatch k f).pending = s.pending := rfl
@[simp] theorem State.part_updRate (f : RateSt → RateSt) : (s.updRate k f).part = s.part := rfl
@[simp] theorem State.stepping_updRate (f : RateSt → RateSt) : (s.updRate k f).stepping = s.stepping := rfl
@[simp] theorem State.tm_updRate (f : RateSt → RateSt) : (s.updRate k f).tm = s.tm := rfl
@[simp] theorem State.cn_updRate (f : RateSt → RateSt) : (s.updRate k f).cn = s.cn := rfl
@[simp] theorem State.jn_updRate (f : RateSt → RateSt) : (s.updRate k f).jn = s.jn := rfl
@[simp] theorem State.pm_updRate (f : RateSt → RateSt) : (s.updRate k f).pm = s.pm := rfl
@[simp] theorem State.rg_updRate (f : RateSt → RateSt) : (s.updRate k f).rg = s.rg := rfl
@[simp] theorem State.sp_updRate (f : RateSt → RateSt) : (s.updRate k f).sp = s.sp := rfl
@[simp] theorem State.st_updRate (f : RateSt → RateSt) : (s.updRate k f).st = s.st := rfl
@[simp] theorem State.md_updRate (f : RateSt → RateSt) : (s.updRate k f).md = s.md := rfl
@[simp] theorem State.mc_updRate (f : RateSt → RateSt) : (s.updRate k f).mc = s.mc := rfl
@[simp] theorem State.ap_updRate (f : RateSt → RateSt) : (s.updRate k f).ap = s.ap := rfl
@[simp] theorem State.gp_updRate (f : RateSt → RateSt) : (s.updRate k f).gp = s.gp := rfl
@[simp] theorem State.fb_updRate (f : RateSt → RateSt) : (s.updRate k f).fb = s.fb := rfl
@[simp] theorem State.ev_updRate (f : RateSt → RateSt) : (s.updRate k f).ev = s.ev := rfl
@[simp] theorem State.la_updRate (f : RateSt → RateSt) : (s.updRate k f).la = s.la := rfl
@[simp] theorem State.ax_updRate (f : RateSt → RateSt) : (s.updRate k f).ax = s.ax := rfl
@[simp] theorem State.pg_updRate (f : RateSt → RateSt) : (s.updRate k f).pg = s.pg := rfl
@[simp] theorem State.lt_updRate (f : RateSt → RateSt) : (s.updRate k f).lt = s.lt := rfl
@[simp] theorem State.sf_updRate (f : RateSt → RateSt) : (s.updRate k f).sf = s.sf := rfl
@[simp] theorem State.cp_updRate (f : RateSt → RateSt) : (s.updRate k f).cp = s.cp := rfl
@[simp] theorem State.fd_updRate (f : RateSt → RateSt) : (s.updRate k f).fd = s.fd := rfl
@[simp] theorem State.hp_updRate (f : RateSt → RateSt) : (s.updRate k f).hp = s.hp := rfl
@[simp] theorem State.eth_updRate (f : RateSt → RateSt) : (s.updRate k f).eth = s.eth := rfl
@[simp] theorem State.dx_updRate (f : RateSt → RateSt) : (s.updRate k f).dx = s.dx := rfl
@[simp] theorem State.can_updRate (f : RateSt → RateSt) : (s.updRate k f).can = s.can := rfl
@[simp] theorem State.pw_updRate (f : RateSt → RateSt) : (s.updRate k f).pw = s.pw := rfl
@[simp] theorem State.ag_updRate (f : RateSt → RateSt) : (s.updRate k f).ag = s.ag := rfl
@[simp] theorem State.mm_updRate (f : RateSt → RateSt) : (s.updRate k f).mm = s.mm := rfl
@[simp] theorem State.mem_updRate (f : RateSt → RateSt) : (s.updRate k f).mem = s.mem := rfl
@[simp] theorem State.sent_updRate (f : RateSt → RateSt) : (s.updRate k f).sent = s.sent := rfl
@[simp] theorem State.free_updRate (f : RateSt → RateSt) : (s.updRate k f).free = s.free := rfl
@[simp] theorem State.pending_updRate (f : RateSt → RateSt) : (s.updRate k f).pending = s.pending := rfl
@[simp] theorem State.part_updAxis (f : AxisSt → AxisSt) : (s.updAxis k f).part = s.part := rfl
@[simp] theorem State.stepping_updAxis (f : AxisSt → AxisSt) : (s.updAxis k f).stepping = s.stepping := rfl
@[simp] theorem State.tm_updAxis (f : AxisSt → AxisSt) : (s.updAxis k f).tm = s.tm := rfl
@[simp] theorem State.cn_updAxis (f : AxisSt → AxisSt) : (s.updAxis k f).cn = s.cn := rfl
@[simp] theorem State.jn_updAxis (f : AxisSt → AxisSt) : (s.updAxis k f).jn = s.jn := rfl
@[simp] theorem State.pm_updAxis (f : AxisSt → AxisSt) : (s.updAxis k f).pm = s.pm := rfl
@[simp] theorem State.rg_updAxis (f : AxisSt → AxisSt) : (s.updAxis k f).rg = s.rg := rfl
@[simp] theorem State.sp_updAxis (f : AxisSt → AxisSt) : (s.updAxis k f).sp = s.sp := rfl
@[simp] theorem State.st_updAxis (f : AxisSt → AxisSt) : (s.updAxis k f).st = s.st := rfl
@[simp] theorem State.md_updAxis (f : AxisSt → AxisSt) : (s.updAxis k f).md = s.md := rfl
@[simp] theorem State.mc_updAxis (f : AxisSt → AxisSt) : (s.updAxis k f).mc = s.mc := rfl
@[simp] theorem State.ap_updAxis (f : AxisSt → AxisSt) : (s.updAxis k f).ap = s.ap := rfl
@[simp] theorem State.gp_updAxis (f : AxisSt → AxisSt) : (s.updAxis k f).gp = s.gp := rfl
@[simp] theorem State.fb_updAxis (f : AxisSt → AxisSt) : (s.updAxis k f).fb = s.fb := rfl
@[simp] theorem State.ev_updAxis (f : AxisSt → AxisSt) : (s.updAxis k f).ev = s.ev := rfl
@[simp] theorem State.la_updAxis (f : AxisSt → AxisSt) : (s.updAxis k f).la = s.la := rfl
@[simp] theorem State.rm_updAxis (f : AxisSt → AxisSt) : (s.updAxis k f).rm = s.rm := rfl
@[simp] theorem State.pg_updAxis (f : AxisSt → AxisSt) : (s.updAxis k f).pg = s.pg := rfl
@[simp] theorem State.lt_updAxis (f : AxisSt → AxisSt) : (s.updAxis k f).lt = s.lt := rfl
@[simp] theorem State.sf_updAxis (f : AxisSt → AxisSt) : (s.updAxis k f).sf = s.sf := rfl
@[simp] theorem State.cp_updAxis (f : AxisSt → AxisSt) : (s.updAxis k f).cp = s.cp := rfl
@[simp] theorem State.fd_updAxis (f : AxisSt → AxisSt) : (s.updAxis k f).fd = s.fd := rfl
@[simp] theorem State.hp_updAxis (f : AxisSt → AxisSt) : (s.updAxis k f).hp = s.hp := rfl
@[simp] theorem State.eth_updAxis (f : AxisSt → AxisSt) : (s.updAxis k f).eth = s.eth := rfl
@[simp] theorem State.dx_updAxis (f : AxisSt → AxisSt) : (s.updAxis k f).dx = s.dx := rfl
@[simp] theorem State.can_updAxis (f : AxisSt → AxisSt) : (s.updAxis k f).can = s.can := rfl
@[simp] theorem State.pw_updAxis (f : AxisSt → AxisSt) : (s.updAxis k f).pw = s.pw := rfl
@[simp] theorem State.ag_updAxis (f : AxisSt → AxisSt) : (s.updAxis k f).ag = s.ag := rfl
@[simp] theorem State.mm_updAxis (f : AxisSt → AxisSt) : (s.updAxis k f).mm = s.mm := rfl
@[simp] theorem State.mem_updAxis (f : AxisSt → AxisSt) : (s.updAxis k f).mem = s.mem := rfl
@[simp] theorem State.sent_updAxis (f : AxisSt → AxisSt) : (s.updAxis k f).sent = s.sent := rfl
@[simp] theorem State.free_updAxis (f : AxisSt → AxisSt) : (s.updAxis k f).free = s.free := rfl
@[simp] theorem State.pending_updAxis (f : AxisSt → AxisSt) : (s.updAxis k f).pending = s.pending := rfl
@[simp] theorem State.part_updPath (f : PathSt → PathSt) : (s.updPath k f).part = s.part := rfl
@[simp] theorem State.stepping_updPath (f : PathSt → PathSt) : (s.updPath k f).stepping = s.stepping := rfl
@[simp] theorem State.tm_updPath (f : PathSt → PathSt) : (s.updPath k f).tm = s.tm := rfl
@[simp] theorem State.cn_updPath (f : PathSt → PathSt) : (s.updPath k f).cn = s.cn := rfl
@[simp] theorem State.jn_updPath (f : PathSt → PathSt) : (s.updPath k f).jn = s.jn := rfl
@[simp] theorem State.pm_updPath (f : PathSt → PathSt) : (s.updPath k f).pm = s.pm := rfl
@[simp] theorem State.rg_updPath (f : PathSt → PathSt) : (s.updPath k f).rg = s.rg := rfl
@[simp] theorem State.sp_updPath (f : PathSt → PathSt) : (s.updPath k f).sp = s.sp := rfl
@[simp] theorem State.st_updPath (f : PathSt → PathSt) : (s.updPath k f).st = s.st := rfl
@[simp] theorem State.md_updPath (f : PathSt → PathSt) : (s.updPath k f).md = s.md := rfl
@[simp] theorem State.mc_updPath (f : PathSt → PathSt) : (s.updPath k f).mc = s.mc := rfl
@[simp] theorem State.ap_updPath (f : PathSt → PathSt) : (s.updPath k f).ap = s.ap := rfl
@[simp] theorem State.gp_updPath (f : PathSt → PathSt) : (s.updPath k f).gp = s.gp := rfl
@[simp] theorem State.fb_updPath (f : PathSt → PathSt) : (s.updPath k f).fb = s.fb := rfl
@[simp] theorem State.ev_updPath (f : PathSt → PathSt) : (s.updPath k f).ev = s.ev := rfl
@[simp] theorem State.la_updPath (f : PathSt → PathSt) : (s.updPath k f).la = s.la := rfl
@[simp] theorem State.rm_updPath (f : PathSt → PathSt) : (s.updPath k f).rm = s.rm := rfl
@[simp] theorem State.ax_updPath (f : PathSt → PathSt) : (s.updPath k f).ax = s.ax := rfl
@[simp] theorem State.lt_updPath (f : PathSt → PathSt) : (s.updPath k f).lt = s.lt := rfl
@[simp] theorem State.sf_updPath (f : PathSt → PathSt) : (s.updPath k f).sf = s.sf := rfl
@[simp] theorem State.cp_updPath (f : PathSt → PathSt) : (s.updPath k f).cp = s.cp := rfl
@[simp] theorem State.fd_updPath (f : PathSt → PathSt) : (s.updPath k f).fd = s.fd := rfl
@[simp] theorem State.hp_updPath (f : PathSt → PathSt) : (s.updPath k f).hp = s.hp := rfl
@[simp] theorem State.eth_updPath (f : PathSt → PathSt) : (s.updPath k f).eth = s.eth := rfl
@[simp] theorem State.dx_updPath (f : PathSt → PathSt) : (s.updPath k f).dx = s.dx := rfl
@[simp] theorem State.can_updPath (f : PathSt → PathSt) : (s.updPath k f).can = s.can := rfl
@[simp] theorem State.pw_updPath (f : PathSt → PathSt) : (s.updPath k f).pw = s.pw := rfl
@[simp] theorem State.ag_updPath (f : PathSt → PathSt) : (s.updPath k f).ag = s.ag := rfl
@[simp] theorem State.mm_updPath (f : PathSt → PathSt) : (s.updPath k f).mm = s.mm := rfl
@[simp] theorem State.mem_updPath (f : PathSt → PathSt) : (s.updPath k f).mem = s.mem := rfl
@[simp] theorem State.sent_updPath (f : PathSt → PathSt) : (s.updPath k f).sent = s.sent := rfl
@[simp] theorem State.free_updPath (f : PathSt → PathSt) : (s.updPath k f).free = s.free := rfl
@[simp] theorem State.pending_updPath (f : PathSt → PathSt) : (s.updPath k f).pending = s.pending := rfl
@[simp] theorem State.part_updTable (f : TableSt → TableSt) : (s.updTable k f).part = s.part := rfl
@[simp] theorem State.stepping_updTable (f : TableSt → TableSt) : (s.updTable k f).stepping = s.stepping := rfl
@[simp] theorem State.tm_updTable (f : TableSt → TableSt) : (s.updTable k f).tm = s.tm := rfl
@[simp] theorem State.cn_updTable (f : TableSt → TableSt) : (s.updTable k f).cn = s.cn := rfl
@[simp] theorem State.jn_updTable (f : TableSt → TableSt) : (s.updTable k f).jn = s.jn := rfl
@[simp] theorem State.pm_updTable (f : TableSt → TableSt) : (s.updTable k f).pm = s.pm := rfl
@[simp] theorem State.rg_updTable (f : TableSt → TableSt) : (s.updTable k f).rg = s.rg := rfl
@[simp] theorem State.sp_updTable (f : TableSt → TableSt) : (s.updTable k f).sp = s.sp := rfl
@[simp] theorem State.st_updTable (f : TableSt → TableSt) : (s.updTable k f).st = s.st := rfl
@[simp] theorem State.md_updTable (f : TableSt → TableSt) : (s.updTable k f).md = s.md := rfl
@[simp] theorem State.mc_updTable (f : TableSt → TableSt) : (s.updTable k f).mc = s.mc := rfl
@[simp] theorem State.ap_updTable (f : TableSt → TableSt) : (s.updTable k f).ap = s.ap := rfl
@[simp] theorem State.gp_updTable (f : TableSt → TableSt) : (s.updTable k f).gp = s.gp := rfl
@[simp] theorem State.fb_updTable (f : TableSt → TableSt) : (s.updTable k f).fb = s.fb := rfl
@[simp] theorem State.ev_updTable (f : TableSt → TableSt) : (s.updTable k f).ev = s.ev := rfl
@[simp] theorem State.la_updTable (f : TableSt → TableSt) : (s.updTable k f).la = s.la := rfl
@[simp] theorem State.rm_updTable (f : TableSt → TableSt) : (s.updTable k f).rm = s.rm := rfl
@[simp] theorem State.ax_updTable (f : TableSt → TableSt) : (s.updTable k f).ax = s.ax := rfl
@[simp] theorem State.pg_updTable (f : TableSt → TableSt) : (s.updTable k f).pg = s.pg := rfl
@[simp] theorem State.sf_updTable (f : TableSt → TableSt) : (s.updTable k f).sf = s.sf := rfl
@[simp] theorem State.cp_updTable (f : TableSt → TableSt) : (s.updTable k f).cp = s.cp := rfl
@[simp] theorem State.fd_updTable (f : TableSt → TableSt) : (s.updTable k f).fd = s.fd := rfl
@[simp] theorem State.hp_updTable (f : TableSt → TableSt) : (s.updTable k f).hp = s.hp := rfl
@[simp] theorem State.eth_updTable (f : TableSt → TableSt) : (s.updTable k f).eth = s.eth := rfl
@[simp] theorem State.dx_updTable (f : TableSt → TableSt) : (s.updTable k f).dx = s.dx := rfl
@[simp] theorem State.can_updTable (f : TableSt → TableSt) : (s.updTable k f).can = s.can := rfl
@[simp] theorem State.pw_updTable (f : TableSt → TableSt) : (s.updTable k f).pw = s.pw := rfl
@[simp] theorem State.ag_updTable (f : TableSt → TableSt) : (s.updTable k f).ag = s.ag := rfl
@[simp] theorem State.mm_updTable (f : TableSt → TableSt) : (s.updTable k f).mm = s.mm := rfl
@[simp] theorem State.mem_updTable (f : TableSt → TableSt) : (s.updTable k f).mem = s.mem := rfl
@[simp] theorem State.sent_updTable (f : TableSt → TableSt) : (s.updTable k f).sent = s.sent := rfl
@[simp] theorem State.free_updTable (f : TableSt → TableSt) : (s.updTable k f).free = s.free := rfl
@[simp] theorem State.pending_updTable (f : TableSt → TableSt) : (s.updTable k f).pending = s.pending := rfl
@[simp] theorem State.part_updSlot (f : SlotSt → SlotSt) : (s.updSlot k f).part = s.part := rfl
@[simp] theorem State.stepping_updSlot (f : SlotSt → SlotSt) : (s.updSlot k f).stepping = s.stepping := rfl
@[simp] theorem State.tm_updSlot (f : SlotSt → SlotSt) : (s.updSlot k f).tm = s.tm := rfl
@[simp] theorem State.cn_updSlot (f : SlotSt → SlotSt) : (s.updSlot k f).cn = s.cn := rfl
@[simp] theorem State.jn_updSlot (f : SlotSt → SlotSt) : (s.updSlot k f).jn = s.jn := rfl
@[simp] theorem State.pm_updSlot (f : SlotSt → SlotSt) : (s.updSlot k f).pm = s.pm := rfl
@[simp] theorem State.sp_updSlot (f : SlotSt → SlotSt) : (s.updSlot k f).sp = s.sp := rfl
@[simp] theorem State.st_updSlot (f : SlotSt → SlotSt) : (s.updSlot k f).st = s.st := rfl
@[simp] theorem State.md_updSlot (f : SlotSt → SlotSt) : (s.updSlot k f).md = s.md := rfl
@[simp] theorem State.mc_updSlot (f : SlotSt → SlotSt) : (s.updSlot k f).mc = s.mc := rfl
@[simp] theorem State.ap_updSlot (f : SlotSt → SlotSt) : (s.updSlot k f).ap = s.ap := rfl
@[simp] theorem State.gp_updSlot (f : SlotSt → SlotSt) : (s.updSlot k f).gp = s.gp := rfl
@[simp] theorem State.fb_updSlot (f : SlotSt → SlotSt) : (s.updSlot k f).fb = s.fb := rfl
@[simp] theorem State.ev_updSlot (f : SlotSt → SlotSt) : (s.updSlot k f).ev = s.ev := rfl
@[simp] theorem State.la_updSlot (f : SlotSt → SlotSt) : (s.updSlot k f).la = s.la := rfl
@[simp] theorem State.rm_updSlot (f : SlotSt → SlotSt) : (s.updSlot k f).rm = s.rm := rfl
@[simp] theorem State.ax_updSlot (f : SlotSt → SlotSt) : (s.updSlot k f).ax = s.ax := rfl
@[simp] theorem State.pg_updSlot (f : SlotSt → SlotSt) : (s.updSlot k f).pg = s.pg := rfl
@[simp] theorem State.lt_updSlot (f : SlotSt → SlotSt) : (s.updSlot k f).lt = s.lt := rfl
@[simp] theorem State.sf_updSlot (f : SlotSt → SlotSt) : (s.updSlot k f).sf = s.sf := rfl
@[simp] theorem State.cp_updSlot (f : SlotSt → SlotSt) : (s.updSlot k f).cp = s.cp := rfl
@[simp] theorem State.fd_updSlot (f : SlotSt → SlotSt) : (s.updSlot k f).fd = s.fd := rfl
@[simp] theorem State.hp_updSlot (f : SlotSt → SlotSt) : (s.updSlot k f).hp = s.hp := rfl
@[simp] theorem State.eth_updSlot (f : SlotSt → SlotSt) : (s.updSlot k f).eth = s.eth := rfl
@[simp] theorem State.dx_updSlot (f : SlotSt → SlotSt) : (s.updSlot k f).dx = s.dx := rfl
@[simp] theorem State.can_updSlot (f : SlotSt → SlotSt) : (s.updSlot k f).can = s.can := rfl
@[simp] theorem State.pw_updSlot (f : SlotSt → SlotSt) : (s.updSlot k f).pw = s.pw := rfl
@[simp] theorem State.ag_updSlot (f : SlotSt → SlotSt) : (s.updSlot k f).ag = s.ag := rfl
@[simp] theorem State.mm_updSlot (f : SlotSt → SlotSt) : (s.updSlot k f).mm = s.mm := rfl
@[simp] theorem State.mem_updSlot (f : SlotSt → SlotSt) : (s.updSlot k f).mem = s.mem := rfl
@[simp] theorem State.sent_updSlot (f : SlotSt → SlotSt) : (s.updSlot k f).sent = s.sent := rfl
@[simp] theorem State.free_updSlot (f : SlotSt → SlotSt) : (s.updSlot k f).free = s.free := rfl
@[simp] theorem State.pending_updSlot (f : SlotSt → SlotSt) : (s.updSlot k f).pending = s.pending := rfl
@[simp] theorem State.part_updDraft (f : Draft → Draft) : (s.updDraft k f).part = s.part := rfl
@[simp] theorem State.stepping_updDraft (f : Draft → Draft) : (s.updDraft k f).stepping = s.stepping := rfl
@[simp] theorem State.tm_updDraft (f : Draft → Draft) : (s.updDraft k f).tm = s.tm := rfl
@[simp] theorem State.cn_updDraft (f : Draft → Draft) : (s.updDraft k f).cn = s.cn := rfl
@[simp] theorem State.jn_updDraft (f : Draft → Draft) : (s.updDraft k f).jn = s.jn := rfl
@[simp] theorem State.rg_updDraft (f : Draft → Draft) : (s.updDraft k f).rg = s.rg := rfl
@[simp] theorem State.sp_updDraft (f : Draft → Draft) : (s.updDraft k f).sp = s.sp := rfl
@[simp] theorem State.st_updDraft (f : Draft → Draft) : (s.updDraft k f).st = s.st := rfl
@[simp] theorem State.md_updDraft (f : Draft → Draft) : (s.updDraft k f).md = s.md := rfl
@[simp] theorem State.mc_updDraft (f : Draft → Draft) : (s.updDraft k f).mc = s.mc := rfl
@[simp] theorem State.ap_updDraft (f : Draft → Draft) : (s.updDraft k f).ap = s.ap := rfl
@[simp] theorem State.gp_updDraft (f : Draft → Draft) : (s.updDraft k f).gp = s.gp := rfl
@[simp] theorem State.fb_updDraft (f : Draft → Draft) : (s.updDraft k f).fb = s.fb := rfl
@[simp] theorem State.ev_updDraft (f : Draft → Draft) : (s.updDraft k f).ev = s.ev := rfl
@[simp] theorem State.la_updDraft (f : Draft → Draft) : (s.updDraft k f).la = s.la := rfl
@[simp] theorem State.rm_updDraft (f : Draft → Draft) : (s.updDraft k f).rm = s.rm := rfl
@[simp] theorem State.ax_updDraft (f : Draft → Draft) : (s.updDraft k f).ax = s.ax := rfl
@[simp] theorem State.pg_updDraft (f : Draft → Draft) : (s.updDraft k f).pg = s.pg := rfl
@[simp] theorem State.lt_updDraft (f : Draft → Draft) : (s.updDraft k f).lt = s.lt := rfl
@[simp] theorem State.sf_updDraft (f : Draft → Draft) : (s.updDraft k f).sf = s.sf := rfl
@[simp] theorem State.cp_updDraft (f : Draft → Draft) : (s.updDraft k f).cp = s.cp := rfl
@[simp] theorem State.fd_updDraft (f : Draft → Draft) : (s.updDraft k f).fd = s.fd := rfl
@[simp] theorem State.hp_updDraft (f : Draft → Draft) : (s.updDraft k f).hp = s.hp := rfl
@[simp] theorem State.eth_updDraft (f : Draft → Draft) : (s.updDraft k f).eth = s.eth := rfl
@[simp] theorem State.dx_updDraft (f : Draft → Draft) : (s.updDraft k f).dx = s.dx := rfl
@[simp] theorem State.can_updDraft (f : Draft → Draft) : (s.updDraft k f).can = s.can := rfl
@[simp] theorem State.pw_updDraft (f : Draft → Draft) : (s.updDraft k f).pw = s.pw := rfl
@[simp] theorem State.ag_updDraft (f : Draft → Draft) : (s.updDraft k f).ag = s.ag := rfl
@[simp] theorem State.mm_updDraft (f : Draft → Draft) : (s.updDraft k f).mm = s.mm := rfl
@[simp] theorem State.mem_updDraft (f : Draft → Draft) : (s.updDraft k f).mem = s.mem := rfl
@[simp] theorem State.sent_updDraft (f : Draft → Draft) : (s.updDraft k f).sent = s.sent := rfl
@[simp] theorem State.free_updDraft (f : Draft → Draft) : (s.updDraft k f).free = s.free := rfl
@[simp] theorem State.pending_updDraft (f : Draft → Draft) : (s.updDraft k f).pending = s.pending := rfl
@[simp] theorem State.part_updGroup (f : GroupSt → GroupSt) : (s.updGroup k f).part = s.part := rfl
@[simp] theorem State.stepping_updGroup (f : GroupSt → GroupSt) : (s.updGroup k f).stepping = s.stepping := rfl
@[simp] theorem State.tm_updGroup (f : GroupSt → GroupSt) : (s.updGroup k f).tm = s.tm := rfl
@[simp] theorem State.cn_updGroup (f : GroupSt → GroupSt) : (s.updGroup k f).cn = s.cn := rfl
@[simp] theorem State.jn_updGroup (f : GroupSt → GroupSt) : (s.updGroup k f).jn = s.jn := rfl
@[simp] theorem State.pm_updGroup (f : GroupSt → GroupSt) : (s.updGroup k f).pm = s.pm := rfl
@[simp] theorem State.rg_updGroup (f : GroupSt → GroupSt) : (s.updGroup k f).rg = s.rg := rfl
@[simp] theorem State.sp_updGroup (f : GroupSt → GroupSt) : (s.updGroup k f).sp = s.sp := rfl
@[simp] theorem State.st_updGroup (f : GroupSt → GroupSt) : (s.updGroup k f).st = s.st := rfl
@[simp] theorem State.md_updGroup (f : GroupSt → GroupSt) : (s.updGroup k f).md = s.md := rfl
@[simp] theorem State.mc_updGroup (f : GroupSt → GroupSt) : (s.updGroup k f).mc = s.mc := rfl
@[simp] theorem State.ap_updGroup (f : GroupSt → GroupSt) : (s.updGroup k f).ap = s.ap := rfl
@[simp] theorem State.gp_updGroup (f : GroupSt → GroupSt) : (s.updGroup k f).gp = s.gp := rfl
@[simp] theorem State.fb_updGroup (f : GroupSt → GroupSt) : (s.updGroup k f).fb = s.fb := rfl
@[simp] theorem State.ev_updGroup (f : GroupSt → GroupSt) : (s.updGroup k f).ev = s.ev := rfl
@[simp] theorem State.la_updGroup (f : GroupSt → GroupSt) : (s.updGroup k f).la = s.la := rfl
@[simp] theorem State.rm_updGroup (f : GroupSt → GroupSt) : (s.updGroup k f).rm = s.rm := rfl
@[simp] theorem State.ax_updGroup (f : GroupSt → GroupSt) : (s.updGroup k f).ax = s.ax := rfl
@[simp] theorem State.pg_updGroup (f : GroupSt → GroupSt) : (s.updGroup k f).pg = s.pg := rfl
@[simp] theorem State.lt_updGroup (f : GroupSt → GroupSt) : (s.updGroup k f).lt = s.lt := rfl
@[simp] theorem State.cp_updGroup (f : GroupSt → GroupSt) : (s.updGroup k f).cp = s.cp := rfl
@[simp] theorem State.fd_updGroup (f : GroupSt → GroupSt) : (s.updGroup k f).fd = s.fd := rfl
@[simp] theorem State.hp_updGroup (f : GroupSt → GroupSt) : (s.updGroup k f).hp = s.hp := rfl
@[simp] theorem State.eth_updGroup (f : GroupSt → GroupSt) : (s.updGroup k f).eth = s.eth := rfl
@[simp] theorem State.dx_updGroup (f : GroupSt → GroupSt) : (s.updGroup k f).dx = s.dx := rfl
@[simp] theorem State.can_updGroup (f : GroupSt → GroupSt) : (s.updGroup k f).can = s.can := rfl
@[simp] theorem State.pw_updGroup (f : GroupSt → GroupSt) : (s.updGroup k f).pw = s.pw := rfl
@[simp] theorem State.ag_updGroup (f : GroupSt → GroupSt) : (s.updGroup k f).ag = s.ag := rfl
@[simp] theorem State.mm_updGroup (f : GroupSt → GroupSt) : (s.updGroup k f).mm = s.mm := rfl
@[simp] theorem State.mem_updGroup (f : GroupSt → GroupSt) : (s.updGroup k f).mem = s.mem := rfl
@[simp] theorem State.sent_updGroup (f : GroupSt → GroupSt) : (s.updGroup k f).sent = s.sent := rfl
@[simp] theorem State.free_updGroup (f : GroupSt → GroupSt) : (s.updGroup k f).free = s.free := rfl
@[simp] theorem State.pending_updGroup (f : GroupSt → GroupSt) : (s.updGroup k f).pending = s.pending := rfl
@[simp] theorem State.part_updSafeAxis (f : SafeAxisSt → SafeAxisSt) : (s.updSafeAxis k f).part = s.part := rfl
@[simp] theorem State.stepping_updSafeAxis (f : SafeAxisSt → SafeAxisSt) : (s.updSafeAxis k f).stepping = s.stepping := rfl
@[simp] theorem State.tm_updSafeAxis (f : SafeAxisSt → SafeAxisSt) : (s.updSafeAxis k f).tm = s.tm := rfl
@[simp] theorem State.cn_updSafeAxis (f : SafeAxisSt → SafeAxisSt) : (s.updSafeAxis k f).cn = s.cn := rfl
@[simp] theorem State.jn_updSafeAxis (f : SafeAxisSt → SafeAxisSt) : (s.updSafeAxis k f).jn = s.jn := rfl
@[simp] theorem State.pm_updSafeAxis (f : SafeAxisSt → SafeAxisSt) : (s.updSafeAxis k f).pm = s.pm := rfl
@[simp] theorem State.rg_updSafeAxis (f : SafeAxisSt → SafeAxisSt) : (s.updSafeAxis k f).rg = s.rg := rfl
@[simp] theorem State.sp_updSafeAxis (f : SafeAxisSt → SafeAxisSt) : (s.updSafeAxis k f).sp = s.sp := rfl
@[simp] theorem State.st_updSafeAxis (f : SafeAxisSt → SafeAxisSt) : (s.updSafeAxis k f).st = s.st := rfl
@[simp] theorem State.md_updSafeAxis (f : SafeAxisSt → SafeAxisSt) : (s.updSafeAxis k f).md = s.md := rfl
@[simp] theorem State.mc_updSafeAxis (f : SafeAxisSt → SafeAxisSt) : (s.updSafeAxis k f).mc = s.mc := rfl
@[simp] theorem State.ap_updSafeAxis (f : SafeAxisSt → SafeAxisSt) : (s.updSafeAxis k f).ap = s.ap := rfl
@[simp] theorem State.gp_updSafeAxis (f : SafeAxisSt → SafeAxisSt) : (s.updSafeAxis k f).gp = s.gp := rfl
@[simp] theorem State.fb_updSafeAxis (f : SafeAxisSt → SafeAxisSt) : (s.updSafeAxis k f).fb = s.fb := rfl
@[simp] theorem State.ev_updSafeAxis (f : SafeAxisSt → SafeAxisSt) : (s.updSafeAxis k f).ev = s.ev := rfl
@[simp] theorem State.la_updSafeAxis (f : SafeAxisSt → SafeAxisSt) : (s.updSafeAxis k f).la = s.la := rfl
@[simp] theorem State.rm_updSafeAxis (f : SafeAxisSt → SafeAxisSt) : (s.updSafeAxis k f).rm = s.rm := rfl
@[simp] theorem State.ax_updSafeAxis (f : SafeAxisSt → SafeAxisSt) : (s.updSafeAxis k f).ax = s.ax := rfl
@[simp] theorem State.pg_updSafeAxis (f : SafeAxisSt → SafeAxisSt) : (s.updSafeAxis k f).pg = s.pg := rfl
@[simp] theorem State.lt_updSafeAxis (f : SafeAxisSt → SafeAxisSt) : (s.updSafeAxis k f).lt = s.lt := rfl
@[simp] theorem State.cp_updSafeAxis (f : SafeAxisSt → SafeAxisSt) : (s.updSafeAxis k f).cp = s.cp := rfl
@[simp] theorem State.fd_updSafeAxis (f : SafeAxisSt → SafeAxisSt) : (s.updSafeAxis k f).fd = s.fd := rfl
@[simp] theorem State.hp_updSafeAxis (f : SafeAxisSt → SafeAxisSt) : (s.updSafeAxis k f).hp = s.hp := rfl
@[simp] theorem State.eth_updSafeAxis (f : SafeAxisSt → SafeAxisSt) : (s.updSafeAxis k f).eth = s.eth := rfl
@[simp] theorem State.dx_updSafeAxis (f : SafeAxisSt → SafeAxisSt) : (s.updSafeAxis k f).dx = s.dx := rfl
@[simp] theorem State.can_updSafeAxis (f : SafeAxisSt → SafeAxisSt) : (s.updSafeAxis k f).can = s.can := rfl
@[simp] theorem State.pw_updSafeAxis (f : SafeAxisSt → SafeAxisSt) : (s.updSafeAxis k f).pw = s.pw := rfl
@[simp] theorem State.ag_updSafeAxis (f : SafeAxisSt → SafeAxisSt) : (s.updSafeAxis k f).ag = s.ag := rfl
@[simp] theorem State.mm_updSafeAxis (f : SafeAxisSt → SafeAxisSt) : (s.updSafeAxis k f).mm = s.mm := rfl
@[simp] theorem State.mem_updSafeAxis (f : SafeAxisSt → SafeAxisSt) : (s.updSafeAxis k f).mem = s.mem := rfl
@[simp] theorem State.sent_updSafeAxis (f : SafeAxisSt → SafeAxisSt) : (s.updSafeAxis k f).sent = s.sent := rfl
@[simp] theorem State.free_updSafeAxis (f : SafeAxisSt → SafeAxisSt) : (s.updSafeAxis k f).free = s.free := rfl
@[simp] theorem State.pending_updSafeAxis (f : SafeAxisSt → SafeAxisSt) : (s.updSafeAxis k f).pending = s.pending := rfl
@[simp] theorem State.part_updPair (f : PairSt → PairSt) : (s.updPair k f).part = s.part := rfl
@[simp] theorem State.stepping_updPair (f : PairSt → PairSt) : (s.updPair k f).stepping = s.stepping := rfl
@[simp] theorem State.tm_updPair (f : PairSt → PairSt) : (s.updPair k f).tm = s.tm := rfl
@[simp] theorem State.cn_updPair (f : PairSt → PairSt) : (s.updPair k f).cn = s.cn := rfl
@[simp] theorem State.jn_updPair (f : PairSt → PairSt) : (s.updPair k f).jn = s.jn := rfl
@[simp] theorem State.pm_updPair (f : PairSt → PairSt) : (s.updPair k f).pm = s.pm := rfl
@[simp] theorem State.rg_updPair (f : PairSt → PairSt) : (s.updPair k f).rg = s.rg := rfl
@[simp] theorem State.sp_updPair (f : PairSt → PairSt) : (s.updPair k f).sp = s.sp := rfl
@[simp] theorem State.st_updPair (f : PairSt → PairSt) : (s.updPair k f).st = s.st := rfl
@[simp] theorem State.md_updPair (f : PairSt → PairSt) : (s.updPair k f).md = s.md := rfl
@[simp] theorem State.mc_updPair (f : PairSt → PairSt) : (s.updPair k f).mc = s.mc := rfl
@[simp] theorem State.ap_updPair (f : PairSt → PairSt) : (s.updPair k f).ap = s.ap := rfl
@[simp] theorem State.gp_updPair (f : PairSt → PairSt) : (s.updPair k f).gp = s.gp := rfl
@[simp] theorem State.fb_updPair (f : PairSt → PairSt) : (s.updPair k f).fb = s.fb := rfl
@[simp] theorem State.ev_updPair (f : PairSt → PairSt) : (s.updPair k f).ev = s.ev := rfl
@[simp] theorem State.la_updPair (f : PairSt → PairSt) : (s.updPair k f).la = s.la := rfl
@[simp] theorem State.rm_updPair (f : PairSt → PairSt) : (s.updPair k f).rm = s.rm := rfl
@[simp] theorem State.ax_updPair (f : PairSt → PairSt) : (s.updPair k f).ax = s.ax := rfl
@[simp] theorem State.pg_updPair (f : PairSt → PairSt) : (s.updPair k f).pg = s.pg := rfl
@[simp] theorem State.lt_updPair (f : PairSt → PairSt) : (s.updPair k f).lt = s.lt := rfl
@[simp] theorem State.cp_updPair (f : PairSt → PairSt) : (s.updPair k f).cp = s.cp := rfl
@[simp] theorem State.fd_updPair (f : PairSt → PairSt) : (s.updPair k f).fd = s.fd := rfl
@[simp] theorem State.hp_updPair (f : PairSt → PairSt) : (s.updPair k f).hp = s.hp := rfl
@[simp] theorem State.eth_updPair (f : PairSt → PairSt) : (s.updPair k f).eth = s.eth := rfl
@[simp] theorem State.dx_updPair (f : PairSt → PairSt) : (s.updPair k f).dx = s.dx := rfl
@[simp] theorem State.can_updPair (f : PairSt → PairSt) : (s.updPair k f).can = s.can := rfl
@[simp] theorem State.pw_updPair (f : PairSt → PairSt) : (s.updPair k f).pw = s.pw := rfl
@[simp] theorem State.ag_updPair (f : PairSt → PairSt) : (s.updPair k f).ag = s.ag := rfl
@[simp] theorem State.mm_updPair (f : PairSt → PairSt) : (s.updPair k f).mm = s.mm := rfl
@[simp] theorem State.mem_updPair (f : PairSt → PairSt) : (s.updPair k f).mem = s.mem := rfl
@[simp] theorem State.sent_updPair (f : PairSt → PairSt) : (s.updPair k f).sent = s.sent := rfl
@[simp] theorem State.free_updPair (f : PairSt → PairSt) : (s.updPair k f).free = s.free := rfl
@[simp] theorem State.pending_updPair (f : PairSt → PairSt) : (s.updPair k f).pending = s.pending := rfl
@[simp] theorem State.part_updSout (f : SoutSt → SoutSt) : (s.updSout k f).part = s.part := rfl
@[simp] theorem State.stepping_updSout (f : SoutSt → SoutSt) : (s.updSout k f).stepping = s.stepping := rfl
@[simp] theorem State.tm_updSout (f : SoutSt → SoutSt) : (s.updSout k f).tm = s.tm := rfl
@[simp] theorem State.cn_updSout (f : SoutSt → SoutSt) : (s.updSout k f).cn = s.cn := rfl
@[simp] theorem State.jn_updSout (f : SoutSt → SoutSt) : (s.updSout k f).jn = s.jn := rfl
@[simp] theorem State.pm_updSout (f : SoutSt → SoutSt) : (s.updSout k f).pm = s.pm := rfl
@[simp] theorem State.rg_updSout (f : SoutSt → SoutSt) : (s.updSout k f).rg = s.rg := rfl
@[simp] theorem State.sp_updSout (f : SoutSt → SoutSt) : (s.updSout k f).sp = s.sp := rfl
@[simp] theorem State.st_updSout (f : SoutSt → SoutSt) : (s.updSout k f).st = s.st := rfl
@[simp] theorem State.md_updSout (f : SoutSt → SoutSt) : (s.updSout k f).md = s.md := rfl
@[simp] theorem State.mc_updSout (f : SoutSt → SoutSt) : (s.updSout k f).mc = s.mc := rfl
@[simp] theorem State.ap_updSout (f : SoutSt → SoutSt) : (s.updSout k f).ap = s.ap := rfl
@[simp] theorem State.gp_updSout (f : SoutSt → SoutSt) : (s.updSout k f).gp = s.gp := rfl
@[simp] theorem State.fb_updSout (f : SoutSt → SoutSt) : (s.updSout k f).fb = s.fb := rfl
@[simp] theorem State.ev_updSout (f : SoutSt → SoutSt) : (s.updSout k f).ev = s.ev := rfl
@[simp] theorem State.la_updSout (f : SoutSt → SoutSt) : (s.updSout k f).la = s.la := rfl
@[simp] theorem State.rm_updSout (f : SoutSt → SoutSt) : (s.updSout k f).rm = s.rm := rfl
@[simp] theorem State.ax_updSout (f : SoutSt → SoutSt) : (s.updSout k f).ax = s.ax := rfl
@[simp] theorem State.pg_updSout (f : SoutSt → SoutSt) : (s.updSout k f).pg = s.pg := rfl
@[simp] theorem State.lt_updSout (f : SoutSt → SoutSt) : (s.updSout k f).lt = s.lt := rfl
@[simp] theorem State.cp_updSout (f : SoutSt → SoutSt) : (s.updSout k f).cp = s.cp := rfl
@[simp] theorem State.fd_updSout (f : SoutSt → SoutSt) : (s.updSout k f).fd = s.fd := rfl
@[simp] theorem State.hp_updSout (f : SoutSt → SoutSt) : (s.updSout k f).hp = s.hp := rfl
@[simp] theorem State.eth_updSout (f : SoutSt → SoutSt) : (s.updSout k f).eth = s.eth := rfl
@[simp] theorem State.dx_updSout (f : SoutSt → SoutSt) : (s.updSout k f).dx = s.dx := rfl
@[simp] theorem State.can_updSout (f : SoutSt → SoutSt) : (s.updSout k f).can = s.can := rfl
@[simp] theorem State.pw_updSout (f : SoutSt → SoutSt) : (s.updSout k f).pw = s.pw := rfl
@[simp] theorem State.ag_updSout (f : SoutSt → SoutSt) : (s.updSout k f).ag = s.ag := rfl
@[simp] theorem State.mm_updSout (f : SoutSt → SoutSt) : (s.updSout k f).mm = s.mm := rfl
@[simp] theorem State.mem_updSout (f : SoutSt → SoutSt) : (s.updSout k f).mem = s.mem := rfl
@[simp] theorem State.sent_updSout (f : SoutSt → SoutSt) : (s.updSout k f).sent = s.sent := rfl
@[simp] theorem State.free_updSout (f : SoutSt → SoutSt) : (s.updSout k f).free = s.free := rfl
@[simp] theorem State.pending_updSout (f : SoutSt → SoutSt) : (s.updSout k f).pending = s.pending := rfl
@[simp] theorem State.part_updSeg (f : SegSt → SegSt) : (s.updSeg k f).part = s.part := rfl
@[simp] theorem State.stepping_updSeg (f : SegSt → SegSt) : (s.updSeg k f).stepping = s.stepping := rfl
@[simp] theorem State.tm_updSeg (f : SegSt → SegSt) : (s.updSeg k f).tm = s.tm := rfl
@[simp] theorem State.cn_updSeg (f : SegSt → SegSt) : (s.updSeg k f).cn = s.cn := rfl
@[simp] theorem State.jn_updSeg (f : SegSt → SegSt) : (s.updSeg k f).jn = s.jn := rfl
@[simp] theorem State.pm_updSeg (f : SegSt → SegSt) : (s.updSeg k f).pm = s.pm := rfl
@[simp] theorem State.rg_updSeg (f : SegSt → SegSt) : (s.updSeg k f).rg = s.rg := rfl
@[simp] theorem State.sp_updSeg (f : SegSt → SegSt) : (s.updSeg k f).sp = s.sp := rfl
@[simp] theorem State.st_updSeg (f : SegSt → SegSt) : (s.updSeg k f).st = s.st := rfl
@[simp] theorem State.md_updSeg (f : SegSt → SegSt) : (s.updSeg k f).md = s.md := rfl
@[simp] theorem State.mc_updSeg (f : SegSt → SegSt) : (s.updSeg k f).mc = s.mc := rfl
@[simp] theorem State.ap_updSeg (f : SegSt → SegSt) : (s.updSeg k f).ap = s.ap := rfl
@[simp] theorem State.gp_updSeg (f : SegSt → SegSt) : (s.updSeg k f).gp = s.gp := rfl
@[simp] theorem State.fb_updSeg (f : SegSt → SegSt) : (s.updSeg k f).fb = s.fb := rfl
@[simp] theorem State.ev_updSeg (f : SegSt → SegSt) : (s.updSeg k f).ev = s.ev := rfl
@[simp] theorem State.la_updSeg (f : SegSt → SegSt) : (s.updSeg k f).la = s.la := rfl
@[simp] theorem State.rm_updSeg (f : SegSt → SegSt) : (s.updSeg k f).rm = s.rm := rfl
@[simp] theorem State.ax_updSeg (f : SegSt → SegSt) : (s.updSeg k f).ax = s.ax := rfl
@[simp] theorem State.pg_updSeg (f : SegSt → SegSt) : (s.updSeg k f).pg = s.pg := rfl
@[simp] theorem State.lt_updSeg (f : SegSt → SegSt) : (s.updSeg k f).lt = s.lt := rfl
@[simp] theorem State.sf_updSeg (f : SegSt → SegSt) : (s.updSeg k f).sf = s.sf := rfl
@[simp] theorem State.fd_updSeg (f : SegSt → SegSt) : (s.updSeg k f).fd = s.fd := rfl
@[simp] theorem State.hp_updSeg (f : SegSt → SegSt) : (s.updSeg k f).hp = s.hp := rfl
@[simp] theorem State.eth_updSeg (f : SegSt → SegSt) : (s.updSeg k f).eth = s.eth := rfl
@[simp] theorem State.dx_updSeg (f : SegSt → SegSt) : (s.updSeg k f).dx = s.dx := rfl
@[simp] theorem State.can_updSeg (f : SegSt → SegSt) : (s.updSeg k f).can = s.can := rfl
@[simp] theorem State.pw_updSeg (f : SegSt → SegSt) : (s.updSeg k f).pw = s.pw := rfl
@[simp] theorem State.ag_updSeg (f : SegSt → SegSt) : (s.updSeg k f).ag = s.ag := rfl
@[simp] theorem State.mm_updSeg (f : SegSt → SegSt) : (s.updSeg k f).mm = s.mm := rfl
@[simp] theorem State.mem_updSeg (f : SegSt → SegSt) : (s.updSeg k f).mem = s.mem := rfl
@[simp] theorem State.sent_updSeg (f : SegSt → SegSt) : (s.updSeg k f).sent = s.sent := rfl
@[simp] theorem State.free_updSeg (f : SegSt → SegSt) : (s.updSeg k f).free = s.free := rfl
@[simp] theorem State.pending_updSeg (f : SegSt → SegSt) : (s.updSeg k f).pending = s.pending := rfl
@[simp] theorem State.part_send (x : Sent) : (s.send x).part = s.part := rfl
@[simp] theorem State.stepping_send (x : Sent) : (s.send x).stepping = s.stepping := rfl
@[simp] theorem State.tm_send (x : Sent) : (s.send x).tm = s.tm := rfl
@[simp] theorem State.cn_send (x : Sent) : (s.send x).cn = s.cn := rfl
@[simp] theorem State.jn_send (x : Sent) : (s.send x).jn = s.jn := rfl
@[simp] theorem State.pm_send (x : Sent) : (s.send x).pm = s.pm := rfl
@[simp] theorem State.rg_send (x : Sent) : (s.send x).rg = s.rg := rfl
@[simp] theorem State.sp_send (x : Sent) : (s.send x).sp = s.sp := rfl
@[simp] theorem State.st_send (x : Sent) : (s.send x).st = s.st := rfl
@[simp] theorem State.md_send (x : Sent) : (s.send x).md = s.md := rfl
@[simp] theorem State.mc_send (x : Sent) : (s.send x).mc = s.mc := rfl
@[simp] theorem State.ap_send (x : Sent) : (s.send x).ap = s.ap := rfl
@[simp] theorem State.gp_send (x : Sent) : (s.send x).gp = s.gp := rfl
@[simp] theorem State.fb_send (x : Sent) : (s.send x).fb = s.fb := rfl
@[simp] theorem State.ev_send (x : Sent) : (s.send x).ev = s.ev := rfl
@[simp] theorem State.la_send (x : Sent) : (s.send x).la = s.la := rfl
@[simp] theorem State.rm_send (x : Sent) : (s.send x).rm = s.rm := rfl
@[simp] theorem State.ax_send (x : Sent) : (s.send x).ax = s.ax := rfl
@[simp] theorem State.pg_send (x : Sent) : (s.send x).pg = s.pg := rfl
@[simp] theorem State.lt_send (x : Sent) : (s.send x).lt = s.lt := rfl
@[simp] theorem State.sf_send (x : Sent) : (s.send x).sf = s.sf := rfl
@[simp] theorem State.cp_send (x : Sent) : (s.send x).cp = s.cp := rfl
@[simp] theorem State.fd_send (x : Sent) : (s.send x).fd = s.fd := rfl
@[simp] theorem State.hp_send (x : Sent) : (s.send x).hp = s.hp := rfl
@[simp] theorem State.eth_send (x : Sent) : (s.send x).eth = s.eth := rfl
@[simp] theorem State.dx_send (x : Sent) : (s.send x).dx = s.dx := rfl
@[simp] theorem State.can_send (x : Sent) : (s.send x).can = s.can := rfl
@[simp] theorem State.pw_send (x : Sent) : (s.send x).pw = s.pw := rfl
@[simp] theorem State.ag_send (x : Sent) : (s.send x).ag = s.ag := rfl
@[simp] theorem State.mm_send (x : Sent) : (s.send x).mm = s.mm := rfl
@[simp] theorem State.mem_send (x : Sent) : (s.send x).mem = s.mem := rfl
@[simp] theorem State.free_send (x : Sent) : (s.send x).free = s.free := rfl
@[simp] theorem State.pending_send (x : Sent) : (s.send x).pending = s.pending := rfl
@[simp] theorem State.part_irq (b : Nat) : (s.irq b).part = s.part := rfl
@[simp] theorem State.stepping_irq (b : Nat) : (s.irq b).stepping = s.stepping := rfl
@[simp] theorem State.tm_irq (b : Nat) : (s.irq b).tm = s.tm := rfl
@[simp] theorem State.cn_irq (b : Nat) : (s.irq b).cn = s.cn := rfl
@[simp] theorem State.jn_irq (b : Nat) : (s.irq b).jn = s.jn := rfl
@[simp] theorem State.pm_irq (b : Nat) : (s.irq b).pm = s.pm := rfl
@[simp] theorem State.rg_irq (b : Nat) : (s.irq b).rg = s.rg := rfl
@[simp] theorem State.sp_irq (b : Nat) : (s.irq b).sp = s.sp := rfl
@[simp] theorem State.st_irq (b : Nat) : (s.irq b).st = s.st := rfl
@[simp] theorem State.md_irq (b : Nat) : (s.irq b).md = s.md := rfl
@[simp] theorem State.mc_irq (b : Nat) : (s.irq b).mc = s.mc := rfl
@[simp] theorem State.ap_irq (b : Nat) : (s.irq b).ap = s.ap := rfl
@[simp] theorem State.gp_irq (b : Nat) : (s.irq b).gp = s.gp := rfl
@[simp] theorem State.fb_irq (b : Nat) : (s.irq b).fb = s.fb := rfl
@[simp] theorem State.ev_irq (b : Nat) : (s.irq b).ev = s.ev := rfl
@[simp] theorem State.la_irq (b : Nat) : (s.irq b).la = s.la := rfl
@[simp] theorem State.rm_irq (b : Nat) : (s.irq b).rm = s.rm := rfl
@[simp] theorem State.ax_irq (b : Nat) : (s.irq b).ax = s.ax := rfl
@[simp] theorem State.pg_irq (b : Nat) : (s.irq b).pg = s.pg := rfl
@[simp] theorem State.lt_irq (b : Nat) : (s.irq b).lt = s.lt := rfl
@[simp] theorem State.sf_irq (b : Nat) : (s.irq b).sf = s.sf := rfl
@[simp] theorem State.cp_irq (b : Nat) : (s.irq b).cp = s.cp := rfl
@[simp] theorem State.fd_irq (b : Nat) : (s.irq b).fd = s.fd := rfl
@[simp] theorem State.eth_irq (b : Nat) : (s.irq b).eth = s.eth := rfl
@[simp] theorem State.dx_irq (b : Nat) : (s.irq b).dx = s.dx := rfl
@[simp] theorem State.can_irq (b : Nat) : (s.irq b).can = s.can := rfl
@[simp] theorem State.pw_irq (b : Nat) : (s.irq b).pw = s.pw := rfl
@[simp] theorem State.ag_irq (b : Nat) : (s.irq b).ag = s.ag := rfl
@[simp] theorem State.mm_irq (b : Nat) : (s.irq b).mm = s.mm := rfl
@[simp] theorem State.mem_irq (b : Nat) : (s.irq b).mem = s.mem := rfl
@[simp] theorem State.sent_irq (b : Nat) : (s.irq b).sent = s.sent := rfl
@[simp] theorem State.free_irq (b : Nat) : (s.irq b).free = s.free := rfl
@[simp] theorem State.pending_irq (b : Nat) : (s.irq b).pending = s.pending := rfl
@[simp] theorem State.part_wrN (a : Nat) (bs : List Nat) : (s.wrN a bs).part = s.part := rfl
@[simp] theorem State.stepping_wrN (a : Nat) (bs : List Nat) : (s.wrN a bs).stepping = s.stepping := rfl
@[simp] theorem State.tm_wrN (a : Nat) (bs : List Nat) : (s.wrN a bs).tm = s.tm := rfl
@[simp] theorem State.cn_wrN (a : Nat) (bs : List Nat) : (s.wrN a bs).cn = s.cn := rfl
@[simp] theorem State.jn_wrN (a : Nat) (bs : List Nat) : (s.wrN a bs).jn = s.jn := rfl
@[simp] theorem State.pm_wrN (a : Nat) (bs : List Nat) : (s.wrN a bs).pm = s.pm := rfl
@[simp] theorem State.rg_wrN (a : Nat) (bs : List Nat) : (s.wrN a bs).rg = s.rg := rfl
@[simp] theorem State.sp_wrN (a : Nat) (bs : List Nat) : (s.wrN a bs).sp = s.sp := rfl
@[simp] theorem State.st_wrN (a : Nat) (bs : List Nat) : (s.wrN a bs).st = s.st := rfl
@[simp] theorem State.md_wrN (a : Nat) (bs : List Nat) : (s.wrN a bs).md = s.md := rfl
@[simp] theorem State.mc_wrN (a : Nat) (bs : List Nat) : (s.wrN a bs).mc = s.mc := rfl
@[simp] theorem State.ap_wrN (a : Nat) (bs : List Nat) : (s.wrN a bs).ap = s.ap := rfl
@[simp] theorem State.gp_wrN (a : Nat) (bs : List Nat) : (s.wrN a bs).gp = s.gp := rfl
@[simp] theorem State.fb_wrN (a : Nat) (bs : List Nat) : (s.wrN a bs).fb = s.fb := rfl
@[simp] theorem State.ev_wrN (a : Nat) (bs : List Nat) : (s.wrN a bs).ev = s.ev := rfl
@[simp] theorem State.la_wrN (a : Nat) (bs : List Nat) : (s.wrN a bs).la = s.la := rfl
@[simp] theorem State.rm_wrN (a : Nat) (bs : List Nat) : (s.wrN a bs).rm = s.rm := rfl
@[simp] theorem State.ax_wrN (a : Nat) (bs : List Nat) : (s.wrN a bs).ax = s.ax := rfl
@[simp] theorem State.pg_wrN (a : Nat) (bs : List Nat) : (s.wrN a bs).pg = s.pg := rfl
@[simp] theorem State.lt_wrN (a : Nat) (bs : List Nat) : (s.wrN a bs).lt = s.lt := rfl
@[simp] theorem State.sf_wrN (a : Nat) (bs : List Nat) : (s.wrN a bs).sf = s.sf := rfl
@[simp] theorem State.cp_wrN (a : Nat) (bs : List Nat) : (s.wrN a bs).cp = s.cp := rfl
@[simp] theorem State.fd_wrN (a : Nat) (bs : List Nat) : (s.wrN a bs).fd = s.fd := rfl
@[simp] theorem State.hp_wrN (a : Nat) (bs : List Nat) : (s.wrN a bs).hp = s.hp := rfl
@[simp] theorem State.eth_wrN (a : Nat) (bs : List Nat) : (s.wrN a bs).eth = s.eth := rfl
@[simp] theorem State.dx_wrN (a : Nat) (bs : List Nat) : (s.wrN a bs).dx = s.dx := rfl
@[simp] theorem State.can_wrN (a : Nat) (bs : List Nat) : (s.wrN a bs).can = s.can := rfl
@[simp] theorem State.pw_wrN (a : Nat) (bs : List Nat) : (s.wrN a bs).pw = s.pw := rfl
@[simp] theorem State.ag_wrN (a : Nat) (bs : List Nat) : (s.wrN a bs).ag = s.ag := rfl
@[simp] theorem State.mm_wrN (a : Nat) (bs : List Nat) : (s.wrN a bs).mm = s.mm := rfl
@[simp] theorem State.sent_wrN (a : Nat) (bs : List Nat) : (s.wrN a bs).sent = s.sent := rfl
@[simp] theorem State.free_wrN (a : Nat) (bs : List Nat) : (s.wrN a bs).free = s.free := rfl
@[simp] theorem State.pending_wrN (a : Nat) (bs : List Nat) : (s.wrN a bs).pending = s.pending := rfl

end Sys2Proof.Machine
end

