-- ==== Sys2Proof/Laws/Accept.lean ====
section
/-!
SUPPORT. Sys2Proof/Laws/Accept.lean: what becomes of a packet that is heard or accepted, said once for every row that brings one.
-/
namespace Sys2Proof.Machine

/-! ### The tag check and the session -/

/-- A tag check that passes changes the sessions at most. -/
theorem tagCheck_ok {p : Packet} {s : State} (h : (tagCheck p s).1 = true) :
    (tagCheck p s).2 = s ∨ (tagCheck p s).2 = s.updSession p.session fun y => { y with fails := 0 } := by
  unfold tagCheck at *
  cases hx : s.session p.session with
  | none => exact .inl rfl
  | some x =>
    have hid : x.id = p.session := by
      unfold State.session at hx
      have := List.find?_some hx
      simpa using this
    simp only [hx] at h ⊢
    split
    · exact .inl rfl
    · rename_i h1
      rw [if_neg h1] at h
      split
      · exact .inl rfl
      · rename_i h2
        rw [if_neg h2] at h
        cases hk : x.key with
        | none => exact .inl rfl
        | some k =>
          simp only [hk] at h ⊢
          split
          · exact .inr (by rw [hid])
          · rename_i h3
            rw [if_neg h3] at h
            cases h

/-- Two states that differ in the records of the sessions alone, of which the identifiers and the sequences are the same. -/
def SameButSessions (s t : State) : Prop :=
  ∃ f : Session → Session, t = { s with jn := { s.jn with sessions := s.jn.sessions.map f } } ∧
    (∀ x, (f x).id = x.id ∧ (f x).lastSeq = x.lastSeq ∧ (f x).fullTold = x.fullTold)

theorem SameButSessions.refl (s : State) : SameButSessions s s := ⟨id, by simp, fun _ => ⟨rfl, rfl, rfl⟩⟩

theorem SameButSessions.trans {s t u : State} (h : SameButSessions s t) (g : SameButSessions t u) : SameButSessions s u := by
  obtain ⟨f, rfl, hf⟩ := h
  obtain ⟨f', rfl, hf'⟩ := g
  refine ⟨f' ∘ f, by simp, fun x => ?_⟩
  simp [hf, hf']

theorem SameButSessions.upd (s : State) (id : Nat) (f : Session → Session)
    (hf : ∀ x, (f x).id = x.id ∧ (f x).lastSeq = x.lastSeq ∧ (f x).fullTold = x.fullTold) : SameButSessions s (s.updSession id f) := by
  refine ⟨fun x => if x.id = id then f x else x, rfl, fun x => ?_⟩
  dsimp only
  split
  · exact hf x
  · exact ⟨rfl, rfl, rfl⟩

/-- What is heard differs in the sessions alone. -/
theorem heard_same {s : State} {p : Packet} (h : (tagCheck p s).1 = true) : SameButSessions s (s.heard p) := by
  unfold State.heard
  rcases tagCheck_ok h with e | e
  · rw [e]; exact SameButSessions.upd _ _ _ fun _ => ⟨rfl, rfl, rfl⟩
  · rw [e]
    exact (SameButSessions.upd s p.session (fun y => { y with fails := 0 }) fun _ => ⟨rfl, rfl, rfl⟩).trans
      (SameButSessions.upd _ p.session (fun x => { x with link := p.link }) fun _ => ⟨rfl, rfl, rfl⟩)

theorem SameButSessions.session {s t : State} (h : SameButSessions s t) (id : Nat) {x : Session} (hx : s.session id = some x) :
    ∃ y, t.session id = some y ∧ y.id = x.id ∧ y.lastSeq = x.lastSeq ∧ y.fullTold = x.fullTold := by
  obtain ⟨f, rfl, hf⟩ := h
  unfold State.session at *
  simp only [List.find?_map]
  have : ((fun x : Session => decide (x.id = id)) ∘ f) = fun x : Session => decide (x.id = id) := by
    funext z; simp [hf]
  rw [this, hx]
  exact ⟨f x, rfl, hf x⟩

/-! ### Acceptance -/

/-- A query that is heard gets one reply, with the status and the data that the query gives. -/
theorem receive_query {s : State} {p : Packet} (h : s.hears p .query) :
    receive p s = (match query (p.cmd 0 0 0) (s.heard p) with
      | (.done _ st d _ data, s) => s.reply p st 0 d none none data
      | (.pending, s) => s) := by
  obtain ⟨⟨h1, h2, h3⟩, h4, h5, h6, h7, ⟨r, h8, h9⟩, h10, h11, h12, h13, h14, h15⟩ := h
  unfold receive
  rw [if_neg (by simp [h1, h4, h5]), if_neg (by rw [h2]; simpa using h6), if_neg (by simp [h3]), h7]
  simp only [h8, h9]
  rw [if_neg (by simp [h10])]
  rcases ht : tagCheck p s with ⟨b, s'⟩
  rw [ht] at h11
  simp only at h11
  subst h11
  simp only
  have hs : SameButSessions s (s'.updSession p.session fun x => { x with link := p.link }) := by
    have := heard_same (s := s) (p := p) (by rw [ht])
    unfold State.heard at this
    rwa [ht] at this
  obtain ⟨f, hf, _⟩ := hs
  unfold passed State.heard
  rw [ht]
  simp only
  rw [hf]
  dsimp only
  rw [if_neg (by simp [h12]), if_neg (by simp [h14])] <;> rfl

/-- A session-control packet that is heard is carried out. -/
theorem receive_control {s : State} {p : Packet} (h : s.hears p .control) : receive p s = control p (s.heard p) := by
  obtain ⟨⟨h1, h2, h3⟩, h4, h5, h6, h7, ⟨r, h8, h9⟩, h10, h11, h12, h13, h14, h15⟩ := h
  unfold receive
  rw [if_neg (by simp [h1, h4, h5]), if_neg (by rw [h2]; simpa using h6), if_neg (by simp [h3]), h7]
  simp only [h8, h9]
  rw [if_neg (by simp [h10])]
  rcases ht : tagCheck p s with ⟨b, s'⟩
  rw [ht] at h11
  simp only at h11
  subst h11
  simp only
  have hs : SameButSessions s (s'.updSession p.session fun x => { x with link := p.link }) := by
    have := heard_same (s := s) (p := p) (by rw [ht])
    unfold State.heard at this
    rwa [ht] at this
  obtain ⟨f, hf, _⟩ := hs
  unfold passed State.heard
  rw [ht]
  simp only
  rw [hf]
  dsimp only
  rw [if_neg (by simp [h12])]

theorem entry_eq (s : State) (k : Nat) : s.entry k = Store.read {} (if s.jn.fail0 then s.jn.bank1 else s.jn.bank0) k := by
  unfold State.entry State.bank; rfl

theorem worn_jn (s : State) (a n : Nat) : (s.worn a n).jn = s.jn := (worn_only s a n).1.2 .jn (by decide)

theorem putEntry_jn (s : State) (k : Nat) (e : JEntry) :
    (s.putEntry k e).jn = { s.jn with
      bank0 := if s.jn.fail0 then s.jn.bank0 else Store.write {} s.jn.bank0 k { e with valid := true, writeCount := ((s.entry k).writeCount + 1) % 2 ^ 32 }
      bank1 := if s.jn.fail1 then s.jn.bank1 else Store.write {} s.jn.bank1 k { e with valid := true, writeCount := ((s.entry k).writeCount + 1) % 2 ^ 32 } } := by
  unfold State.putEntry
  dsimp only
  split <;> split <;> simp_all [worn_jn]

theorem putEntry_ns (s : State) (k : Nat) (e : JEntry) : (s.putEntry k e).ns = s.ns := by
  unfold State.ns
  rw [(putEntry_only s k e).1.2 .tm (by decide)]

theorem starting_only {s : State} {p : Packet} {slot : Nat} (h : (tagCheck p s).1 = true) :
    Effect [.jn, .pm, .mm] s (s.starting p slot) := by
  have h1 : Effect [.jn, .pm, .mm] s (s.heard p) := by
    obtain ⟨f, hf, _⟩ := heard_same h
    rw [hf]
    exact Effect.of_mk Effect.refl
  unfold State.starting
  dsimp only
  refine Effect.step (markStarted_only _ _) ?_ (by decide)
  exact Effect.set_jn (by decide) (Effect.step (acceptEntry_only _ _ _) h1 (by decide))

/-- The state that a command acts in has its journal entry started and the command in progress. -/
theorem receive_accepts {s : State} {p : Packet} {slot : Nat} (h : s.accepts p slot) :
    receive p s = acceptReply p slot
      ((startOf (s.cmdOf p slot) (s.starting p slot)).2.finish slot (startOf (s.cmdOf p slot) (s.starting p slot)).1) := by
  obtain ⟨hh, hd, hq, ⟨x, hx, hseq⟩, ho, hf, hs, hdone, hrun⟩ := h
  have hh0 := hh
  obtain ⟨⟨h1, h2, h3⟩, h4, h5, h6, h7, ⟨r, h8, h9⟩, h10, h11, h12, h13, h14, h15⟩ := hh
  have hst := starting_only (slot := slot) h11
  unfold receive
  rw [if_neg (by simp [h1, h4, h5]), if_neg (by rw [h2]; simpa using h6), if_neg (by simp [h3]), h7]
  simp only [h8, h9]
  rw [if_neg (by simp [h10])]
  rcases ht : tagCheck p s with ⟨b, s'⟩
  rw [ht] at h11
  simp only at h11
  subst h11
  simp only
  have hsame := heard_same (s := s) (p := p) (by rw [ht])
  have hheard : s.heard p = s'.updSession p.session fun x => { x with link := p.link } := by
    unfold State.heard; rw [ht]
  unfold passed
  dsimp only
  rw [← hheard]
  obtain ⟨y, hy, hyid, hyseq, _⟩ := hsame.session p.session hx
  obtain ⟨f, hfe, _⟩ := hsame
  have pw : (s.heard p).pw = s.pw := by rw [hfe]
  have e1 : (s.heard p).open_ = s.open_ := by rw [hfe]; rfl
  have e2 : (s.heard p).jn.fail0 = s.jn.fail0 ∧ (s.heard p).jn.fail1 = s.jn.fail1 ∧ (s.heard p).jn.queue = s.jn.queue := by
    rw [hfe]; exact ⟨rfl, rfl, rfl⟩
  have e3 : (s.heard p).freeSlot = s.freeSlot := by
    rw [hfe]
    unfold State.freeSlot
    dsimp only
    generalize s.jn.lastSlot + 1 = n
    generalize 8192 = m
    induction m generalizing n with
    | zero => rfl
    | succ m ih => unfold State.freeSlotFrom; rw [ih]; rfl
  rw [if_neg (by rw [pw]; simp [h12, h13])]
  unfold acceptPacket
  rw [hy]
  simp only
  rw [hyseq, hseq]
  rw [if_neg (by omega), if_neg (by omega), e1, if_neg (by omega), e2.1, e2.2.1, e2.2.2, e3]
  rw [if_neg (by simp [hf]), hs]
  simp only [hq, hd, Bool.false_or, decide_true, Bool.not_true, Bool.false_eq_true, if_false, if_true]
  congr 1
  unfold startNext
  have aq : (acceptEntry p slot (s.heard p)).jn.queue = [s.cmdOf p slot] := by
    unfold acceptEntry State.updSession
    dsimp only
    rw [putEntry_jn, hfe]
    dsimp only
    rw [hq, putEntry_ns]
    rfl
  have apw : (acceptEntry p slot (s.heard p)).pw = s.pw := by
    rw [← pw]; exact (acceptEntry_only p slot (s.heard p)).1.2 .pw (by decide)
  rw [if_neg (by rw [apw]; simp [h4]), aq]
  simp only
  have bpw : (s.starting p slot).pw = s.pw := hst.1.2 .pw (by decide)
  unfold startCmd
  dsimp only
  have est : (State.markStarted { acceptEntry p slot (s.heard p) with jn := { (acceptEntry p slot (s.heard p)).jn with queue := [] } }
    (s.cmdOf p slot)) = s.starting p slot := rfl
  rw [est, bpw, if_neg (by simp [h14])]
  rfl

/-! ### What a started command finds, and what it leaves -/

/-- Command `c` is in progress in its slot of the journal, and none of its outcome is known. -/
def JournalSt.Holds (j : JournalSt) (c : Cmd) : Prop :=
  (j.running.find? fun d => decide (d.slot = c.slot)) = some c ∧ (∀ d ∈ j.done, d.slot ≠ c.slot) ∧ (j.fail0 && j.fail1) = false ∧
    ∃ e, e = Store.read {} (if j.fail0 then j.bank1 else j.bank0) c.slot ∧ e.valid = true ∧ e.state = 2 ∧ e.outcome = 1 ∧
      e.status = stInProgress ∧ e.session = c.session ∧ e.seq = c.seq ∧ e.opcode = c.opcode ∧ e.target = c.target ∧
      e.accept = some c.accept

theorem putEntry_entry (s : State) (k j : Nat) (e : JEntry) (h : (s.jn.fail0 && s.jn.fail1) = false) :
    (s.putEntry k e).entry j = if j = k then { e with valid := true, writeCount := ((s.entry k).writeCount + 1) % 2 ^ 32 } else s.entry j := by
  rw [entry_eq, putEntry_jn]
  dsimp only
  cases h0 : s.jn.fail0 <;> cases h1 : s.jn.fail1 <;> simp [h0, h1, entry_eq] at h ⊢

theorem starting_holds {s : State} {p : Packet} {slot : Nat} (h : s.accepts p slot) :
    (s.starting p slot).jn.Holds (s.cmdOf p slot) := by
  obtain ⟨hh, hd, hq, ⟨x, hx, hseq⟩, ho, hf, hs, hdone, hrun⟩ := h
  have hsame := heard_same hh.2.2.2.2.2.2.2.1
  obtain ⟨f, hfe, _⟩ := hsame
  have hj : (s.heard p).jn = { s.jn with sessions := s.jn.sessions.map f } := by rw [hfe]
  have htm : (s.heard p).ns = s.ns := by rw [hfe]; rfl
  have hj1 : (acceptEntry p slot (s.heard p)).jn.fail0 = s.jn.fail0 ∧ (acceptEntry p slot (s.heard p)).jn.fail1 = s.jn.fail1 ∧
      (acceptEntry p slot (s.heard p)).jn.running = s.jn.running ∧ (acceptEntry p slot (s.heard p)).jn.done = s.jn.done := by
    unfold acceptEntry State.updSession
    dsimp only
    rw [putEntry_jn, hj]
    exact ⟨rfl, rfl, rfl, rfl⟩
  have hent : ∃ e : JEntry, (acceptEntry p slot (s.heard p)).entry slot = e ∧ e.session = p.session ∧ e.seq = p.seq ∧ e.opcode = p.opcode ∧
      e.target = p.target ∧ e.accept = some s.ns := by
    refine ⟨_, rfl, ?_⟩
    have : (acceptEntry p slot (s.heard p)).entry slot = ((s.heard p).putEntry slot
      { valid := true, session := p.session, opcode := p.opcode, seq := p.seq, target := p.target, state := 1, outcome := 1,
        digest := p.digest, accept := some (s.heard p).ns, complete := none, status := stAccepted }).entry slot := rfl
    rw [this, putEntry_entry _ _ _ _ (by rw [hj]; exact hf), if_pos rfl, htm]
    exact ⟨rfl, rfl, rfl, rfl, rfl⟩
  obtain ⟨e, he, e1, e2, e3, e4, e5⟩ := hent
  obtain ⟨j1, j2, j3, j4⟩ := hj1
  unfold State.starting State.markStarted
  dsimp only
  have hc : (s.cmdOf p slot).slot = slot := rfl
  rw [hc]
  generalize hg : acceptEntry p slot (s.heard p) = a at *
  have hp := putEntry_jn { a with jn := { a.jn with queue := [] } } slot { ({ a with jn := { a.jn with queue := [] } } : State).entry slot with
    state := 2, outcome := 1, status := stInProgress }
  have hen := putEntry_entry { a with jn := { a.jn with queue := [] } } slot slot { ({ a with jn := { a.jn with queue := [] } } : State).entry slot with
    state := 2, outcome := 1, status := stInProgress } (by simpa [j1, j2] using hf)
  rw [if_pos rfl, entry_eq] at hen
  have hae : ({ a with jn := { a.jn with queue := [] } } : State).entry slot = e := he
  generalize hb : ({ a with jn := { a.jn with queue := [] } } : State).putEntry slot _ = b at *
  have r : b.jn.running = s.jn.running := by rw [hp]; exact j3
  have d : b.jn.done = s.jn.done := by rw [hp]; exact j4
  have f0 : b.jn.fail0 = s.jn.fail0 := by rw [hp]; exact j1
  have f1 : b.jn.fail1 = s.jn.fail1 := by rw [hp]; exact j2
  refine ⟨?_, ?_, ?_, ?_⟩
  · dsimp only
    rw [r, List.find?_append]
    have : (s.jn.running.find? fun d => decide (d.slot = (s.cmdOf p slot).slot)) = none := by
      rw [List.find?_eq_none]
      intro c hc'
      simpa [hc] using hrun c hc'
    rw [this]
    simp
  · dsimp only
    rw [d]
    exact hdone
  · dsimp only
    rw [f0, f1]
    exact hf
  · refine ⟨_, rfl, ?_⟩
    dsimp only
    rw [hc, hen, hae]
    exact ⟨rfl, rfl, rfl, rfl, e1, e2, e3, e4, e5⟩

/-- The parts that the reply to an accepted packet and its completion touch. -/
abbrev replyParts : List Part := [.jn, .hp, .eth, .can, .mm, .sent]

theorem finish_pending (s : State) (k : Nat) : s.finish k .pending = s := rfl

theorem in_progress_of {p : Packet} {slot : Nat} {s u : State} (h : u.jn.Holds (s.cmdOf p slot)) :
    OnlyChanges [.hp, .eth, .can, .sent] u (acceptReply p slot (u.finish slot .pending)) ∧
      (acceptReply p slot (u.finish slot .pending)).InProgress (s.cmdOf p slot) := by
  rw [finish_pending]
  obtain ⟨h1, h2, h3, e, he, h4, h5, h6, h7, h8, h9, h10, h11, h12⟩ := h
  have hc : (s.cmdOf p slot).slot = slot := rfl
  rw [hc] at h1 h2 he
  have hn : (u.jn.done.find? fun d => decide (d.slot = slot)) = none := by
    rw [List.find?_eq_none]; intro d hd; simpa using h2 d hd
  have key : OnlyChanges [.hp, .eth, .can, .sent] u (acceptReply p slot u) := by
    unfold acceptReply
    rw [hn]
    exact (reply_only _ _ _ _ _ _ _ _ _).1
  refine ⟨key, ?_, ?_⟩
  · have hj : (acceptReply p slot u).jn = u.jn := key.2 .jn (by decide)
    refine ⟨_, rfl, ?_⟩
    rw [entry_eq, hj, hc, ← he]
    exact ⟨h5, h6, h8, h9, h10⟩
  · have hj : (acceptReply p slot u).jn = u.jn := key.2 .jn (by decide)
    unfold State.runningCmd
    rw [hj, hc]
    exact h1

theorem reports_of {p : Packet} {slot o st d r : Nat} {data : List Nat} {s u : State} (h : u.jn.Holds (s.cmdOf p slot)) :
    OnlyChanges replyParts u (acceptReply p slot (u.finish slot (.done o st d r data))) ∧
      (acceptReply p slot (u.finish slot (.done o st d r data))).Reports (s.cmdOf p slot) o st d data := by
  obtain ⟨h1, h2, h3, e, he, h4, h5, h6, h7, h8, h9, h10, h11, h12⟩ := h
  have hc : (s.cmdOf p slot).slot = slot := rfl
  rw [hc] at h1 h2 he
  have only : OnlyChanges replyParts u (acceptReply p slot (u.finish slot (.done o st d r data))) :=
    ((acceptReply_only p slot _).step (Effect.step (finish_only u slot _) .refl (by decide)) (by decide)).1
  refine ⟨only, ?_⟩
  have hfin : u.finish slot (.done o st d r data) = { u with jn := { u.jn with
      running := u.jn.running.filter fun c => decide (c.slot ≠ slot)
      done := u.jn.done ++ [{ slot := slot, outcome := o, status := st, detail := d, result := r, data := data, ns := u.ns }] } } := by
    unfold State.finish State.runningCmd
    rw [h1]
  have hdone : ((u.finish slot (.done o st d r data)).jn.done.find? fun d => decide (d.slot = slot)) =
      some { slot := slot, outcome := o, status := st, detail := d, result := r, data := data, ns := u.ns } := by
    rw [hfin]
    dsimp only
    rw [List.find?_append]
    have hn : (u.jn.done.find? fun d => decide (d.slot = slot)) = none := by
      rw [List.find?_eq_none]; intro d hd; simpa using h2 d hd
    rw [hn]
    simp
  unfold acceptReply
  rw [hdone]
  dsimp only
  generalize hv : ({ u.finish slot (.done o st d r data) with
    jn := { (u.finish slot (.done o st d r data)).jn with
      done := (u.finish slot (.done o st d r data)).jn.done.filter fun d => decide (d.slot ≠ slot) } } : State) = v
  have hve : v.entry slot = e := by rw [← hv, he, hfin, entry_eq]
  have hvf : (v.jn.fail0 && v.jn.fail1) = false := by rw [← hv, hfin]; exact h3
  have hvr : v.jn.running = u.jn.running.filter fun c => decide (c.slot ≠ slot) := by rw [← hv, hfin]
  rw [hve, if_neg (by omega)]
  have hce : (v.complete slot o st d r (some u.ns)).entry slot = { e with
      state := 3, outcome := o, status := st, detail := d, result := r, complete := some u.ns, valid := true,
      writeCount := (e.writeCount + 1) % 2 ^ 32 } := by
    unfold State.complete
    rw [putEntry_entry _ _ _ _ hvf, if_pos rfl, hve]
  have hcr : (v.complete slot o st d r (some u.ns)).jn.running = u.jn.running.filter fun c => decide (c.slot ≠ slot) := by
    unfold State.complete
    rw [putEntry_jn]
    exact hvr
  generalize v.complete slot o st d r (some u.ns) = w at *
  have hj := (reply_only w p st o d (w.entry slot).accept (some u.ns) data false).1.2 .jn (by decide)
  refine ⟨⟨_, rfl, ?_⟩, ?_, ?_⟩
  · rw [hc, entry_eq, hj, ← entry_eq, hce]
    exact ⟨rfl, rfl, rfl, rfl⟩
  · unfold State.runningCmd
    rw [hj, hcr, hc, List.find?_eq_none]
    intro c hc'
    simp at hc' ⊢
    exact hc'.2
  · refine ⟨w, u.ns, ?_⟩
    rw [hce]
    dsimp only
    rw [h12]
    rfl

/-- The reply to one command leaves every other in progress and every other outcome. -/
theorem acceptReply_others (p : Packet) (slot : Nat) (u : State) : (acceptReply p slot u).jn.running = u.jn.running ∧
    ∀ d ∈ u.jn.done, d.slot ≠ slot → d ∈ (acceptReply p slot u).jn.done := by
  unfold acceptReply
  split
  · dsimp only
    rw [(reply_only _ _ _ _ _ _ _ _ _).1.2 .jn (by decide)]
    split
    · exact ⟨rfl, fun d hd h => by rw [List.mem_filter]; exact ⟨hd, by simpa using h⟩⟩
    · unfold State.complete
      rw [putEntry_jn]
      exact ⟨rfl, fun d hd h => by rw [List.mem_filter]; exact ⟨hd, by simpa using h⟩⟩
  · dsimp only
    rw [(reply_only _ _ _ _ _ _ _ _ _).1.2 .jn (by decide)]
    exact ⟨rfl, fun d hd _ => hd⟩

/-- The end of one command leaves every other in progress and every outcome. -/
theorem finish_others (u : State) (slot : Nat) (r : Res) : (∀ x, x ≠ slot → (u.finish slot r).runningCmd x = u.runningCmd x) ∧
    ∀ d ∈ u.jn.done, d ∈ (u.finish slot r).jn.done := by
  unfold State.finish
  split
  · refine ⟨fun x hx => ?_, fun d hd => List.mem_append_left _ hd⟩
    unfold State.runningCmd
    dsimp only
    rw [List.find?_filter]
    congr 1
    funext d
    by_cases hd : d.slot = x
    · simp [hd, hx]
    · simp [hd]
  · exact ⟨fun _ _ => rfl, fun _ hd => hd⟩

/-! ### Rows -/

theorem resetWhenDue_id {s : State} (h : s.pw.resetDue = none) : resetWhenDue s = s := by
  unfold resetWhenDue
  rw [h]

theorem exec_packetOf {i : Instr} {h : Hdr} {op : Nat} {args : List Nat} (hp : packetOf i = some (h, op, args)) (s : State) :
    exec i s = .next (packetRow h op args s) := by
  cases i <;> first | (cases hp; done) | (cases hp; rfl)

theorem stampBytes_length (n : Nat) : (stampBytes n).length = 10 := rfl

theorem rowPacket_timed (h : Hdr) (op : Nat) (args : List Nat) : (rowPacket h op args).timed = h.start.isSome := by
  unfold Packet.timed rowPacket
  cases h.start with
  | none =>
    dsimp only
    rw [Nat.testBit_eq_decide_div_mod_eq]; simp; omega
  | some t =>
    dsimp only
    rw [Nat.testBit_eq_decide_div_mod_eq]; simp; omega

theorem rowPacket_args (h : Hdr) (op : Nat) (args : List Nat) : (rowPacket h op args).args = args.map (· % 256) := by
  unfold Packet.args
  rw [rowPacket_timed]
  unfold rowPacket
  cases h.start with
  | none => rfl
  | some t =>
    dsimp only [Option.isSome]
    rw [if_pos rfl, List.drop_left' (stampBytes_length t)]

theorem le_length (k n : Nat) : (le k n).length = k := by
  induction k generalizing n with
  | zero => rfl
  | succ k ih => unfold le; simp [ih]

theorem ofLe_le (k n : Nat) : ofLe (le k n) = n % 256 ^ k := by
  induction k generalizing n with
  | zero => unfold le ofLe; omega
  | succ k ih =>
    unfold le ofLe
    rw [ih, Nat.mod_mod, Nat.pow_succ, Nat.mul_comm (256 ^ k) 256, Nat.mod_mul]

theorem le_lt (k n : Nat) : ∀ b ∈ le k n, b < 256 := by
  induction k generalizing n with
  | zero => intro b hb; cases hb
  | succ k ih =>
    intro b hb
    unfold le at hb
    rcases List.mem_cons.1 hb with rfl | hb
    · exact Nat.mod_lt _ (by decide)
    · exact ih _ _ hb

theorem map_mod_of_lt (l : List Nat) (h : ∀ b ∈ l, b < 256) : l.map (· % 256) = l := by
  induction l with
  | nil => rfl
  | cons a l ih =>
    rw [List.map_cons, ih fun b hb => h b (List.mem_cons_of_mem _ hb), Nat.mod_eq_of_lt (h a List.mem_cons_self)]

@[simp] theorem le_map_mod (k n : Nat) : (le k n).map (· % 256) = le k n := map_mod_of_lt _ (le_lt k n)

theorem sub_here (l m : List Nat) (n : Nat) (h : l.length = n) : sub (l ++ m) 0 n = l := by
  unfold sub
  rw [List.drop_zero, List.take_left' h]

theorem sub_skip (l m : List Nat) (o n k : Nat) (h : l.length = k) (hk : k ≤ o) : sub (l ++ m) o n = sub m (o - k) n := by
  unfold sub
  rw [List.drop_append, h, List.drop_eq_nil_of_le (by omega), List.nil_append]

/-- What the header and the arguments of a row's packet give its command. -/
structure CmdOf (h : Hdr) (op : Nat) (args : List Nat) (c : Cmd) : Prop where
  opcode : c.opcode = op
  target : c.target = h.target
  link : c.link = h.link
  session : c.session = h.session
  args : c.args = args.map (· % 256)
  start_none : h.start = none → c.start = none
  start_some : ∀ n, h.start = some n → n < 2 ^ 48 * nsPerS → c.start = some n

theorem cmdOf_row (s : State) (h : Hdr) (op : Nat) (args : List Nat) (slot : Nat) : CmdOf h op args (s.cmdOf (rowPacket h op args) slot) := by
  refine ⟨rfl, rfl, rfl, rfl, rowPacket_args h op args, ?_, ?_⟩
  · intro hs
    show (if (rowPacket h op args).timed then _ else none) = none
    rw [rowPacket_timed, hs]
    rfl
  · intro n hs hn
    show (if (rowPacket h op args).timed then _ else none) = some n
    rw [rowPacket_timed, hs]
    unfold rowPacket
    rw [hs]
    dsimp only
    have h1 : fld (stampBytes n ++ args.map (· % 256)) 0 6 = n / nsPerS := by
      unfold fld stampBytes
      rw [List.append_assoc, sub_here _ _ _ (le_length 6 _), ofLe_le]
      exact Nat.mod_eq_of_lt (Nat.div_lt_of_lt_mul (by rw [Nat.mul_comm]; exact hn))
    have h2 : fld (stampBytes n ++ args.map (· % 256)) 6 4 = n % nsPerS := by
      unfold fld stampBytes
      rw [List.append_assoc, sub_skip _ _ _ _ _ (le_length 6 _) (by decide), sub_here _ _ _ (le_length 4 _), ofLe_le]
      have : n % nsPerS < nsPerS := Nat.mod_lt _ (by decide)
      exact Nat.mod_eq_of_lt (Nat.lt_trans this (by decide))
    rw [h1, h2, if_pos (by rfl), Nat.div_add_mod']

/-- What a started command finds in the state besides its entry: no reset, no power entry and no supply warning is in progress (R398). -/
structure Ready (b : State) (c : Cmd) : Prop where
  holds : b.jn.Holds c
  ready : b.pw.ready = true
  warning : b.pw.warning = false
  entry : b.pw.entry = none
  mode : b.pw.mode ≠ .recovery
  resetDue : b.pw.resetDue = none

theorem starting_ready {s : State} {p : Packet} {slot : Nat} (h : s.accepts p slot) : Ready (s.starting p slot) (s.cmdOf p slot) := by
  have hpw : (s.starting p slot).pw = s.pw := (starting_only h.1.2.2.2.2.2.2.2.1).1.2 .pw (by decide)
  obtain ⟨⟨_, h4, _, _, _, _, _, _, h12, h13, h14, h15⟩, _⟩ := id h
  refine ⟨starting_holds h, ?_, ?_, ?_, ?_, ?_⟩ <;> rw [hpw] <;> assumption

/-- A row whose command finishes as it starts. -/
theorem Runs.of_done' {i : Instr} {pre : Cmd → State → Prop} {P : Cmd → State → State → Prop} (h : Hdr) (op : Nat) (args : List Nat)
    (hp : packetOf i = some (h, op, args))
    (H : ∀ c b, CmdOf h op args c → Ready b c → pre c b →
      ∃ o st d r data u, startOf c b = (.done o st d r data, u) ∧ u.jn.Holds c ∧ u.pw.resetDue = none ∧
        ∀ t, OnlyChanges replyParts u t → t.Reports c o st d data → (∀ x, x ≠ c.slot → t.runningCmd x = u.runningCmd x) →
          (∀ d ∈ u.jn.done, d ∈ t.jn.done) → P c b t) : Runs i pre P := by
  refine ⟨h, op, args, hp, ?_⟩
  intro s slot e p c b ha hpre
  obtain ⟨o, st, d, r, data, u, hs, hj, hd, hP⟩ := H c b (cmdOf_row _ _ _ _ _) (starting_ready ha) hpre
  have hr := receive_accepts ha
  have hs' : startOf (State.cmdOf (s.elapse h.dt) (rowPacket h op args) slot) (State.starting (s.elapse h.dt) (rowPacket h op args) slot) =
    (.done o st d r data, u) := hs
  rw [hs'] at hr
  obtain ⟨h1, h2⟩ := reports_of (o := o) (st := st) (d := d) (r := r) (data := data) hj
  refine ⟨_, exec_packetOf hp s, ?_⟩
  unfold packetRow
  rw [hr, resetWhenDue_id]
  · obtain ⟨a1, a2⟩ := acceptReply_others (rowPacket h op args) slot (u.finish slot (.done o st d r data))
    obtain ⟨f1, f2⟩ := finish_others u slot (.done o st d r data)
    refine hP _ h1 h2 (fun x hx => ?_) (fun y hy => a2 y (f2 y hy) (hj.2.1 y hy))
    show (acceptReply (rowPacket h op args) slot (u.finish slot (.done o st d r data))).runningCmd x = _
    rw [← f1 x hx]
    unfold State.runningCmd
    rw [a1]
  · have h3 : (acceptReply (rowPacket h op args) slot (u.finish slot (.done o st d r data))).pw = u.pw := h1.2 .pw (by decide)
    rw [h3]; exact hd

/-- The same, where nothing is said of other commands. -/
theorem Runs.of_done {i : Instr} {pre : Cmd → State → Prop} {P : Cmd → State → State → Prop} (h : Hdr) (op : Nat) (args : List Nat)
    (hp : packetOf i = some (h, op, args))
    (H : ∀ c b, CmdOf h op args c → Ready b c → pre c b →
      ∃ o st d r data u, startOf c b = (.done o st d r data, u) ∧ u.jn.Holds c ∧ u.pw.resetDue = none ∧
        ∀ t, OnlyChanges replyParts u t → t.Reports c o st d data → P c b t) : Runs i pre P :=
  Runs.of_done' h op args hp fun c b h1 h2 h3 => by
    obtain ⟨o, st, d, r, data, u, a1, a2, a3, a4⟩ := H c b h1 h2 h3
    exact ⟨o, st, d, r, data, u, a1, a2, a3, fun t g1 g2 _ _ => a4 t g1 g2⟩

/-- A row whose command is in progress after its start. -/
theorem Runs.of_pending {i : Instr} {pre : Cmd → State → Prop} {P : Cmd → State → State → Prop} (h : Hdr) (op : Nat) (args : List Nat)
    (hp : packetOf i = some (h, op, args))
    (H : ∀ c b, CmdOf h op args c → Ready b c → pre c b →
      ∃ u, startOf c b = (.pending, u) ∧ u.jn.Holds c ∧ u.pw.resetDue = none ∧
        ∀ t, OnlyChanges [.hp, .eth, .can, .sent] u t → t.InProgress c → P c b t) : Runs i pre P := by
  refine ⟨h, op, args, hp, ?_⟩
  intro s slot e p c b ha hpre
  obtain ⟨u, hs, hj, hd, hP⟩ := H c b (cmdOf_row _ _ _ _ _) (starting_ready ha) hpre
  have hr := receive_accepts ha
  have hs' : startOf (State.cmdOf (s.elapse h.dt) (rowPacket h op args) slot) (State.starting (s.elapse h.dt) (rowPacket h op args) slot) =
    (.pending, u) := hs
  rw [hs'] at hr
  obtain ⟨h1, h2⟩ := in_progress_of hj
  refine ⟨_, exec_packetOf hp s, ?_⟩
  unfold packetRow
  rw [hr, resetWhenDue_id]
  · exact hP _ h1 h2
  · have h3 : (acceptReply (rowPacket h op args) slot (u.finish slot .pending)).pw = u.pw := h1.2 .pw (by decide)
    rw [h3]; exact hd

/-- What a query's row brings about. -/
theorem Replies.of_query {i : Instr} {pre : Packet → State → Prop} {P : Packet → State → State → Prop} (h : Hdr) (op : Nat)
    (args : List Nat) (hp : packetOf i = some (h, op, args)) {row} (hop : opRow op = some (.query, row)) (hl : op ≠ 0x201 ∨ h.target / 4096 ≠ 5)
    (H : ∀ p b, p = rowPacket h op args → CmdOf h op args (p.cmd 0 0 0) → pre p b →
      ∃ o st d r data, query (p.cmd 0 0 0) b = (.done o st d r data, b) ∧ P p b (b.reply p st 0 d none none data)) : Replies i pre P := by
  refine ⟨h, op, args, hp, ?_⟩
  intro s k e p b hh hk hpre
  have hco := cmdOf_row s h op args 0
  obtain ⟨o, st, d, r, data, hq, hP⟩ := H p b rfl ⟨hco.1, hco.2, hco.3, hco.4, hco.5, hco.6, hco.7⟩ hpre
  have hkq : k = .query := by
    obtain ⟨r, h8, h9⟩ := hh.2.2.2.2.2.1
    have : opRow p.opcode = opRow op := rfl
    rw [this, hop] at h8
    cases h8
    rw [← h9]
    unfold Packet.kind
    rw [if_neg]
    have e1 : p.opcode = op := rfl
    have e2 : p.target = h.target := rfl
    rw [e1, e2]
    omega
  subst hkq
  refine ⟨_, exec_packetOf hp s, ?_⟩
  have hr := receive_query hh
  unfold packetRow
  have hr' : receive (rowPacket h op args) (s.elapse h.dt) = b.reply p st 0 d none none data := by
    rw [hr]
    show (match query (p.cmd 0 0 0) b with
      | (.done _ st d _ data, s) => s.reply p st 0 d none none data
      | (.pending, s) => s) = _
    rw [hq]
  rw [hr', resetWhenDue_id]
  · exact hP
  · have h1 : (b.reply p st 0 d none none data).pw = b.pw := (reply_only _ _ _ _ _ _ _ _ _).1.2 .pw (by decide)
    obtain ⟨f, hf, _⟩ := heard_same hh.2.2.2.2.2.2.2.1
    have h2 : b.pw = e.pw := by show (e.heard p).pw = _; rw [hf]
    rw [h1, h2]
    exact hh.2.2.2.2.2.2.2.2.2.2.2

/-- What a session-control row brings about. -/
theorem Replies.of_control {i : Instr} {pre : Packet → State → Prop} {P : Packet → State → State → Prop} (h : Hdr) (op : Nat)
    (args : List Nat) (hp : packetOf i = some (h, op, args)) {row} (hop : opRow op = some (.control, row))
    (H : ∀ p b, p = rowPacket h op args → p.payload = args.map (· % 256) → pre p b → P p b (control p b)) : Replies i pre P := by
  refine ⟨h, op, args, hp, ?_⟩
  intro s k e p b hh hk hpre
  have hpl : p.payload = args.map (· % 256) := by
    have h7 := hh.2.2.2.2.1
    have hst : p.timed = false := by
      unfold State.headerCheck at h7
      cases ht : p.timed with
      | false => rfl
      | true =>
        exfalso
        have e2 : p.opcode = op := rfl
        have hc : ¬ (0x500 ≤ p.opcode ∧ p.opcode ≤ 0x50C) := by
          rintro ⟨a, b⟩
          rw [e2] at a b
          unfold opRow at hop
          split at hop <;> first | omega | cases hop
        rw [e2, hop] at h7
        simp only [ht] at h7
        split at h7
        · cases h7
        split at h7
        · cases h7
        split at h7
        · cases h7
        split at h7
        · cases h7
        split at h7
        · cases h7
        split at h7
        · cases h7
        · rename_i h8
          rw [e2] at hc
          simp [hc] at h8
    have ha := rowPacket_args h op args
    have : (rowPacket h op args).args = p.payload := by
      unfold Packet.args
      rw [if_neg]
      have : (rowPacket h op args).timed = false := hst
      rw [this]; simp
    rw [← this, ha]
  have hkq : k = .control := by
    obtain ⟨r, h8, h9⟩ := hh.2.2.2.2.2.1
    have : opRow p.opcode = opRow op := rfl
    rw [this, hop] at h8
    cases h8
    rw [← h9]
    unfold Packet.kind
    rw [if_neg]
    rintro ⟨e1, _⟩
    have e2 : p.opcode = op := rfl
    rw [← e2, e1] at hop
    cases hop
  subst hkq
  have hr := receive_control hh
  have hpw : (control p b).pw = b.pw := (control_only p b).1.2 .pw (by decide)
  obtain ⟨f, hf, _⟩ := heard_same hh.2.2.2.2.2.2.2.1
  have h2 : b.pw = e.pw := by show (e.heard p).pw = _; rw [hf]
  refine ⟨_, exec_packetOf hp s, ?_⟩
  unfold packetRow
  have hr' : receive (rowPacket h op args) (s.elapse h.dt) = control p b := hr
  rw [hr', resetWhenDue_id]
  · exact H p b rfl hpl hpre
  · rw [hpw, h2]; exact hh.2.2.2.2.2.2.2.2.2.2.2

end Sys2Proof.Machine
end

