-- ==== Sys2Proof/Laws/Events.lean ====
section
/-!
SUPPORT. Sys2Proof/Laws/Events.lean: rows that time or the world brings: how a statement about one is met, and what a report to the Cairn
journal looks at.
-/
namespace Sys2Proof.Machine

/-- A row whose meaning is an operation on the state that time has made. -/
theorem Acts.of {i : Instr} {dt : Nat} {pre : State → Prop} {P : State → State → Prop} (f : State → State)
    (h : ∀ s, exec i s = .next (f (s.elapse dt))) (hp : ∀ e, pre e → P e (f e)) : Acts i dt pre P :=
  fun s he => ⟨_, h s, hp _ he⟩

theorem Idles.of {i : Instr} {dt : Nat} {pre : State → Prop} (f : State → State)
    (h : ∀ s, exec i s = .next (f (s.elapse dt))) (hp : ∀ e, pre e → f e = e) : Idles i dt pre :=
  Acts.of f h hp

/-- A part that a frame does not name. -/
theorem OnlyChanges.keeps {ps : List Part} {s t : State} (h : OnlyChanges ps s t) (p : Part) (hp : p ∉ ps := by decide) : p.same s t :=
  h.2 p hp

/-- Two states are the same to a report: part, time, journal, capture engine, parameters, power and memories. -/
structure SameToReports (s t : State) : Prop where
  part : t.part = s.part
  tm : t.tm = s.tm
  cn : t.cn = s.cn
  cp : t.cp = s.cp
  pm : t.pm = s.pm
  pw : t.pw = s.pw
  mm : t.mm = s.mm

theorem SameToReports.refl (s : State) : SameToReports s s := ⟨rfl, rfl, rfl, rfl, rfl, rfl, rfl⟩

theorem SameToReports.trans {s t u : State} (h : SameToReports s t) (g : SameToReports t u) : SameToReports s u :=
  ⟨g.part.trans h.part, g.tm.trans h.tm, g.cn.trans h.cn, g.cp.trans h.cp, g.pm.trans h.pm, g.pw.trans h.pw, g.mm.trans h.mm⟩

theorem SameToReports.of_only {ps : List Part} {s t : State} (h : OnlyChanges ps s t)
    (hp : ∀ p ∈ [Part.tm, .cn, .cp, .pm, .pw, .mm], p ∉ ps := by decide) : SameToReports s t :=
  ⟨h.1.1, h.2 .tm (hp _ (by decide)), h.2 .cn (hp _ (by decide)), h.2 .cp (hp _ (by decide)), h.2 .pm (hp _ (by decide)),
    h.2 .pw (hp _ (by decide)), h.2 .mm (hp _ (by decide))⟩

namespace SameToReports
variable {s t : State}

theorem parN (h : SameToReports s t) (b i : Nat) : t.parN b i = s.parN b i := by
  have hd (id : Nat) : t.paramDef id = s.paramDef id := by
    unfold State.paramDef
    have hi (c : InstCount) : t.instances c = s.instances c := by
      cases c <;> simp only [State.instances, State.stages, State.machines, State.axes, State.channels, h.part]
    simp only [hi]
  unfold State.parN State.par State.parId State.paramDefault
  rw [h.pm, hd]

theorem worn (h : SameToReports s t) (a n : Nat) : SameToReports (s.worn a n) (t.worn a n) := by
  unfold State.worn
  split
  · exact h
  · exact ⟨h.part, h.tm, h.cn, h.cp, h.pm, h.pw, by rw [h.mm]⟩

theorem ringSlot (h : SameToReports s t) (q : Nat) : t.ringSlot q = s.ringSlot q := by
  unfold State.ringSlot
  rw [h.mm]

theorem writeRecord (h : SameToReports s t) (r : CairnRec) : SameToReports (s.writeRecord r) (t.writeRecord r) := by
  unfold State.writeRecord
  have hw := h.worn (0x40580000 + s.ringSlot s.cn.nextSeq * 32) 32
  have hq : t.cn.nextSeq = s.cn.nextSeq := by rw [h.cn]
  dsimp only
  rw [hq, h.ringSlot]
  generalize e1 : s.worn _ _ = x at hw ⊢
  generalize e2 : t.worn _ _ = y at hw ⊢
  have h3 : SameToReports { x with cn := { x.cn with
      ring := Store.write none x.cn.ring (x.ringSlot s.cn.nextSeq) (some (s.cn.nextSeq, r))
      nextSeq := (s.cn.nextSeq + 1) % 2 ^ 32, newest := some s.cn.nextSeq, flushed := x.cn.flushed + 1 } } { y with cn := { y.cn with
      ring := Store.write none y.cn.ring (y.ringSlot s.cn.nextSeq) (some (s.cn.nextSeq, r))
      nextSeq := (s.cn.nextSeq + 1) % 2 ^ 32, newest := some s.cn.nextSeq, flushed := y.cn.flushed + 1 } } :=
    ⟨hw.part, hw.tm, by rw [hw.cn, hw.ringSlot], hw.cp, hw.pm, hw.pw, hw.mm⟩
  rw [h3.parN]
  split
  · exact ⟨h3.part, h3.tm, h3.cn, h3.cp, h3.pm, h3.pw, h3.mm⟩
  · exact h3

theorem toScree (h : SameToReports s t) (r : CairnRec) : SameToReports (s.toScree r) (t.toScree r) := by
  unfold State.toScree
  exact ⟨h.part, h.tm, by rw [h.cn], h.cp, h.pm, h.pw, h.mm⟩

theorem set_cn (h : SameToReports s t) (c : CairnSt) : SameToReports { s with cn := c } { t with cn := c } :=
  ⟨h.part, h.tm, rfl, h.cp, h.pm, h.pw, h.mm⟩

theorem enqueue (h : SameToReports s t) (r : CairnRec) : SameToReports (s.enqueue r) (t.enqueue r) := by
  unfold State.enqueue
  dsimp only
  rw [h.parN, h.parN, h.cn]
  split
  · split
    · exact h.set_cn _
    · split
      · exact h.set_cn _
      · exact (h.set_cn _).toScree _
  · exact h.set_cn _

theorem file (h : SameToReports s t) (r : CairnRec) : SameToReports (s.file r) (t.file r) := by
  unfold State.file
  dsimp only
  rw [h.parN, h.cn, h.pw]
  split
  · exact h
  · split
    · split
      · exact h.writeRecord r
      · exact h.toScree r
    · split
      · exact h.enqueue r
      · split
        · exact h.enqueue r
        · exact h.toScree r

theorem reportNs (h : SameToReports s t) : t.reportNs = s.reportNs := by
  unfold State.reportNs State.clocked State.busNs
  rw [h.pw, h.tm]

/-- A report to both leaves them the same to reports. -/
theorem report (h : SameToReports s t) (a l c : Nat) (d : List Nat) : SameToReports (s.report a l c d) (t.report a l c d) := by
  unfold State.report
  rw [h.reportNs]
  split
  rename_i n b _
  have h1 : SameToReports { s with cp := { s.cp with reports := s.cp.reports ++ [(a, c, l, n)] } }
      { t with cp := { t.cp with reports := t.cp.reports ++ [(a, c, l, n)] } } :=
    ⟨h.part, h.tm, h.cn, by rw [h.cp], h.pm, h.pw, h.mm⟩
  exact h1.file _

end SameToReports

/-- The state `t` is, to reports, the state `s` after the reports `rs`. -/
def Traces (s t : State) (rs : List (Nat × Nat × Nat × List Nat)) : Prop := SameToReports (s.told rs) t

theorem Traces.refl (s : State) : Traces s s [] := SameToReports.refl s

theorem Traces.report {s t : State} {rs : List (Nat × Nat × Nat × List Nat)} (h : Traces s t rs) (a l c : Nat) (d : List Nat) :
    Traces s (t.report a l c d) (rs ++ [(a, l, c, d)]) := by
  unfold Traces State.told
  rw [List.foldl_append]
  exact SameToReports.report h a l c d

theorem Traces.step {s t u : State} {rs : List (Nat × Nat × Nat × List Nat)} (h : Traces s t rs) (g : SameToReports t u) : Traces s u rs :=
  SameToReports.trans h g

theorem Traces.only {ps : List Part} {s t u : State} {rs : List (Nat × Nat × Nat × List Nat)} (h : Traces s t rs) (g : OnlyChanges ps t u)
    (hp : ∀ p ∈ [Part.tm, .cn, .cp, .pm, .pw, .mm], p ∉ ps := by decide) : Traces s u rs := h.step (.of_only g hp)

theorem Traces.tells {s t : State} {rs : List (Nat × Nat × Nat × List Nat)} (h : Traces s t rs) : s.Tells t rs := ⟨h.cn, h.cp⟩

/-- A command at journal slot `x` finished: it is in progress no longer, and if it was, its outcome waits. -/
theorem finish_ends (u : State) (x st d r : Nat) (data : List Nat) : u.Ends (u.finish x (.done 2 st d r data)) x st := by
  unfold State.finish State.Ends
  cases hr : u.runningCmd x with
  | none => exact ⟨hr, fun h => by simp at h⟩
  | some c =>
    refine ⟨?_, fun _ => ⟨_, List.mem_append_right _ (List.mem_singleton.2 rfl), rfl, rfl, rfl⟩⟩
    unfold State.runningCmd
    dsimp only
    rw [List.find?_filter, List.find?_eq_none]
    intro d _
    simp

theorem finishAt_ends (u : State) (x n st d r : Nat) (data : List Nat) : u.Ends (u.finishAt x n (.done 2 st d r data)) x st := by
  obtain ⟨h1, h2⟩ := finish_ends u x st d r data
  refine ⟨h1, fun h => ?_⟩
  obtain ⟨e, he, h3, h4, h5⟩ := h2 h
  exact ⟨{ e with ns := n }, List.mem_map.2 ⟨e, he, by simp [h3]⟩, h3, h4, h5⟩

end Sys2Proof.Machine
end

