-- ==== Sys2Proof/Laws/FrameSpurArith.lean ====
section
/-!
SUPPORT. Sys2Proof/Laws/FrameSpurArith.lean: what each operation of Machine/SpurArith.lean may change, one lemma per operation.
-/

namespace Sys2Proof.Machine
set_option Elab.async false

theorem execLdad_only a0 a1 a2 (s : State) : ∃ t, execLdad a0 a1 a2 s = .next t ∧ Effect [.cn, .sp, .st, .mc, .cp, .hp, .mm] s t := by
  refine ⟨_, rfl, ?_⟩
  exact Effect.step (spurReg_only _ _ _) .refl (by decide)
theorem execMova_only a0 a1 a2 (s : State) : ∃ t, execMova a0 a1 a2 s = .next t ∧ Effect [.cn, .sp, .st, .mc, .cp, .hp, .mm] s t := by
  refine ⟨_, rfl, ?_⟩
  exact Effect.step (spurReg_only _ _ _) .refl (by decide)
theorem execCall_only a0 a1 (s : State) : ∃ t, execCall a0 a1 s = .next t ∧ Effect [.cn, .sp, .st, .mc, .cp, .hp, .mm] s t := by
  refine ⟨_, rfl, ?_⟩
  exact Effect.step (spurReg_only _ _ _) .refl (by decide)
theorem flagOf_only (s : State) a1 : Effect [.free] s (flagOf s a1).2 := by
  unfold flagOf
  split
  · dsimp only
    exact .refl
  · split
    rename_i v6
    dsimp only
    exact Effect.step (take_only_of v6) .refl (by decide)
theorem flagOf_only_of {s : State} {a1} {r t} (h : flagOf s a1 = (r, t)) : Effect [.free] s t := by
  have := flagOf_only s a1
  rwa [h] at this
theorem spurAlu_only a0 a1 a2 a3 a4 a5 (s : State) : Effect [.cn, .sp, .st, .mc, .cp, .hp, .mm, .free] s (spurAlu a0 a1 a2 a3 a4 a5 s) := by
  unfold spurAlu
  refine Effect.step (spurStep_only (ps := [.cn, .sp, .st, .mc, .cp, .hp, .mm, .free]) _ _ _ (fun s0 r1 w2 => ?_) (by decide) _) ?_ (by decide)
  · lift_lets -underBinder
    intro x3
    split
    rename_i v7
    split
    rename_i v11
    lift_lets -underBinder
    intro x12
    dsimp only
    exact Effect.step (flagOf_only_of v11) (Effect.step (flagOf_only_of v7) .refl (by decide)) (by decide)
  · exact .refl
theorem execSub_only a0 a1 a2 a3 (s : State) : ∃ t, execSub a0 a1 a2 a3 s = .next t ∧ Effect [.cn, .sp, .st, .mc, .cp, .hp, .mm, .free] s t := by
  refine ⟨_, rfl, ?_⟩
  exact Effect.step (spurAlu_only _ _ _ _ _ _ _) .refl (by decide)
theorem execXorOp_only a0 a1 a2 a3 (s : State) : ∃ t, execXorOp a0 a1 a2 a3 s = .next t ∧ Effect [.cn, .sp, .st, .mc, .cp, .hp, .mm, .free] s t := by
  refine ⟨_, rfl, ?_⟩
  exact Effect.step (spurAlu_only _ _ _ _ _ _ _) .refl (by decide)
theorem execSubs_only a0 a1 a2 a3 (s : State) : ∃ t, execSubs a0 a1 a2 a3 s = .next t ∧ Effect [.cn, .sp, .st, .mc, .cp, .hp, .mm, .free] s t := by
  refine ⟨_, rfl, ?_⟩
  exact Effect.step (spurAlu_only _ _ _ _ _ _ _) .refl (by decide)
theorem execAcmp_only a0 a1 a2 (s : State) : ∃ t, execAcmp a0 a1 a2 s = .next t ∧ Effect [.cn, .sp, .st, .mc, .cp, .hp, .mm] s t := by
  refine ⟨_, rfl, ?_⟩
  exact Effect.step (spurReg_only _ _ _) .refl (by decide)
theorem execBfc_only a0 a1 a2 a3 (s : State) : ∃ t, execBfc a0 a1 a2 a3 s = .next t ∧ Effect [.cn, .sp, .st, .mc, .cp, .hp, .mm] s t := by
  refine ⟨_, rfl, ?_⟩
  exact Effect.step (spurReg_only _ _ _) .refl (by decide)
theorem spurCplx_only a0 a1 a2 a3 (s : State) : Effect [.cn, .sp, .st, .mc, .cp, .hp, .mm, .free] s (spurCplx a0 a1 a2 a3 s) := by
  unfold spurCplx
  refine Effect.step (spurStep_only (ps := [.cn, .sp, .st, .mc, .cp, .hp, .mm, .free]) _ _ _ (fun s0 r1 w2 => ?_) (by decide) _) ?_ (by decide)
  · split
    rename_i v7
    split
    rename_i v12
    lift_lets -underBinder
    intro x13 x14 x15 x16 x17 x18 x19 x20 x21 x22 x23 x24 x25
    dsimp only
    exact Effect.step (dualPair_only_of v12) (Effect.step (dualPair_only_of v7) .refl (by decide)) (by decide)
  · exact .refl
theorem execCmac_only a0 a1 (s : State) : ∃ t, execCmac a0 a1 s = .next t ∧ Effect [.cn, .sp, .st, .mc, .cp, .hp, .mm, .free] s t := by
  refine ⟨_, rfl, ?_⟩
  exact Effect.step (spurCplx_only _ _ _ _ _) .refl (by decide)
theorem execAbsOp_only a0 a1 a2 (s : State) : ∃ t, execAbsOp a0 a1 a2 s = .next t ∧ Effect [.cn, .sp, .st, .mc, .cp, .hp, .mm, .free] s t := by
  refine ⟨_, rfl, ?_⟩
  exact Effect.step (spurAlu_only _ _ _ _ _ _ _) .refl (by decide)
theorem execShr_only a0 a1 a2 a3 (s : State) : ∃ t, execShr a0 a1 a2 a3 s = .next t ∧ Effect [.cn, .sp, .st, .mc, .cp, .hp, .mm, .free] s t := by
  refine ⟨_, rfl, ?_⟩
  exact Effect.step (spurAlu_only _ _ _ _ _ _ _) .refl (by decide)
theorem spurMac_only a0 a1 a2 (s : State) : Effect [.cn, .sp, .st, .mc, .cp, .hp, .mm, .free] s (spurMac a0 a1 a2 s) := by
  unfold spurMac
  refine Effect.step (spurStep_only (ps := [.cn, .sp, .st, .mc, .cp, .hp, .mm, .free]) _ _ _ (fun s0 r1 w2 => ?_) (by decide) _) ?_ (by decide)
  · split
    rename_i v7
    split
    rename_i v12
    split
    split
    dsimp only
    exact Effect.step (macSrc_only_of v12) (Effect.step (macSrc_only_of v7) .refl (by decide)) (by decide)
  · exact .refl
theorem execCmp_only a0 a1 a2 (s : State) : ∃ t, execCmp a0 a1 a2 s = .next t ∧ Effect [.cn, .sp, .st, .mc, .cp, .hp, .mm, .free] s t := by
  refine ⟨_, rfl, ?_⟩
  exact Effect.step (spurAlu_only _ _ _ _ _ _ _) .refl (by decide)
theorem execSuba_only a0 a1 a2 a3 (s : State) : ∃ t, execSuba a0 a1 a2 a3 s = .next t ∧ Effect [.cn, .sp, .st, .mc, .cp, .hp, .mm] s t := by
  refine ⟨_, rfl, ?_⟩
  exact Effect.step (spurReg_only _ _ _) .refl (by decide)
theorem execClra_only a0 a1 (s : State) : ∃ t, execClra a0 a1 s = .next t ∧ Effect [.cn, .sp, .st, .mc, .cp, .hp, .mm] s t := by
  refine ⟨_, rfl, ?_⟩
  exact Effect.step (spurReg_only _ _ _) .refl (by decide)
theorem execRep_only a0 a1 a2 (s : State) : ∃ t, execRep a0 a1 a2 s = .next t ∧ Effect [.cn, .sp, .st, .mc, .cp, .hp, .mm] s t := by
  refine ⟨_, rfl, ?_⟩
  exact Effect.step (spurReg_only _ _ _) .refl (by decide)
theorem execAdda_only a0 a1 a2 a3 (s : State) : ∃ t, execAdda a0 a1 a2 a3 s = .next t ∧ Effect [.cn, .sp, .st, .mc, .cp, .hp, .mm] s t := by
  refine ⟨_, rfl, ?_⟩
  exact Effect.step (spurReg_only _ _ _) .refl (by decide)
theorem execAluImmediate_only a0 a1 a2 a3 a4 (s : State) : ∃ t, execAluImmediate a0 a1 a2 a3 a4 s = .next t ∧ Effect [.cn, .sp, .st, .mc, .cp, .hp, .mm, .free] s t := by
  refine ⟨_, rfl, ?_⟩
  exact Effect.step (spurAlu_only _ _ _ _ _ _ _) .refl (by decide)
theorem execOrOp_only a0 a1 a2 a3 (s : State) : ∃ t, execOrOp a0 a1 a2 a3 s = .next t ∧ Effect [.cn, .sp, .st, .mc, .cp, .hp, .mm, .free] s t := by
  refine ⟨_, rfl, ?_⟩
  exact Effect.step (spurAlu_only _ _ _ _ _ _ _) .refl (by decide)
theorem execAdds_only a0 a1 a2 a3 (s : State) : ∃ t, execAdds a0 a1 a2 a3 s = .next t ∧ Effect [.cn, .sp, .st, .mc, .cp, .hp, .mm, .free] s t := by
  refine ⟨_, rfl, ?_⟩
  exact Effect.step (spurAlu_only _ _ _ _ _ _ _) .refl (by decide)
theorem execClrf_only a0 (s : State) : ∃ t, execClrf a0 s = .next t ∧ Effect [.cn, .sp, .st, .mc, .cp, .hp, .mm] s t := by
  refine ⟨_, rfl, ?_⟩
  exact Effect.step (spurReg_only _ _ _) .refl (by decide)
theorem execCmacj_only a0 a1 (s : State) : ∃ t, execCmacj a0 a1 s = .next t ∧ Effect [.cn, .sp, .st, .mc, .cp, .hp, .mm, .free] s t := by
  refine ⟨_, rfl, ?_⟩
  exact Effect.step (spurCplx_only _ _ _ _ _) .refl (by decide)
theorem execShl_only a0 a1 a2 a3 (s : State) : ∃ t, execShl a0 a1 a2 a3 s = .next t ∧ Effect [.cn, .sp, .st, .mc, .cp, .hp, .mm, .free] s t := by
  refine ⟨_, rfl, ?_⟩
  exact Effect.step (spurAlu_only _ _ _ _ _ _ _) .refl (by decide)
theorem execAsh_only a0 a1 a2 (s : State) : ∃ t, execAsh a0 a1 a2 s = .next t ∧ Effect [.cn, .sp, .st, .mc, .cp, .hp, .mm] s t := by
  refine ⟨_, rfl, ?_⟩
  exact Effect.step (spurReg_only _ _ _) .refl (by decide)
theorem execNop_only a0 (s : State) : ∃ t, execNop a0 s = .next t ∧ Effect [.cn, .sp, .st, .mc, .cp, .hp, .mm] s t := by
  refine ⟨_, rfl, ?_⟩
  exact Effect.step (spurReg_only _ _ _) .refl (by decide)
theorem execCsel_only a0 a1 a2 a3 a4 (s : State) : ∃ t, execCsel a0 a1 a2 a3 a4 s = .next t ∧ Effect [.cn, .sp, .st, .mc, .cp, .hp, .mm] s t := by
  refine ⟨_, rfl, ?_⟩
  exact Effect.step (spurReg_only _ _ _) .refl (by decide)
theorem execMaxOp_only a0 a1 a2 a3 (s : State) : ∃ t, execMaxOp a0 a1 a2 a3 s = .next t ∧ Effect [.cn, .sp, .st, .mc, .cp, .hp, .mm, .free] s t := by
  refine ⟨_, rfl, ?_⟩
  exact Effect.step (spurAlu_only _ _ _ _ _ _ _) .refl (by decide)
theorem spurWide_only a0 a1 a2 a3 a4 (s : State) : Effect [.cn, .sp, .st, .mc, .cp, .hp, .mm] s (spurWide a0 a1 a2 a3 a4 s) := by
  unfold spurWide
  refine Effect.step (spurStep_only (ps := [.cn, .sp, .st, .mc, .cp, .hp, .mm]) _ _ _ (fun s0 r1 w2 => ?_) (by decide) _) ?_ (by decide)
  · lift_lets -underBinder
    intro x3
    dsimp only
    exact .refl
  · exact .refl
theorem execMulwSs_only a0 a1 a2 a3 (s : State) : ∃ t, execMulwSs a0 a1 a2 a3 s = .next t ∧ Effect [.cn, .sp, .st, .mc, .cp, .hp, .mm] s t := by
  refine ⟨_, rfl, ?_⟩
  exact Effect.step (spurWide_only _ _ _ _ _ _) .refl (by decide)
theorem execMac_only a0 a1 (s : State) : ∃ t, execMac a0 a1 s = .next t ∧ Effect [.cn, .sp, .st, .mc, .cp, .hp, .mm, .free] s t := by
  refine ⟨_, rfl, ?_⟩
  exact Effect.step (spurMac_only _ _ _ _) .refl (by decide)
theorem execSat32_only a0 a1 a2 (s : State) : ∃ t, execSat32 a0 a1 a2 s = .next t ∧ Effect [.cn, .sp, .st, .mc, .cp, .hp, .mm] s t := by
  refine ⟨_, rfl, ?_⟩
  exact Effect.step (spurReg_only _ _ _) .refl (by decide)
theorem execSubc_only a0 a1 a2 a3 (s : State) : ∃ t, execSubc a0 a1 a2 a3 s = .next t ∧ Effect [.cn, .sp, .st, .mc, .cp, .hp, .mm, .free] s t := by
  refine ⟨_, rfl, ?_⟩
  exact Effect.step (spurAlu_only _ _ _ _ _ _ _) .refl (by decide)
theorem execMpy_only a0 a1 (s : State) : ∃ t, execMpy a0 a1 s = .next t ∧ Effect [.cn, .sp, .st, .mc, .cp, .hp, .mm, .free] s t := by
  refine ⟨_, rfl, ?_⟩
  exact Effect.step (spurMac_only _ _ _ _) .refl (by decide)
theorem execRet_only a0 (s : State) : ∃ t, execRet a0 s = .next t ∧ Effect [.cn, .sp, .st, .mc, .cp, .hp, .mm, .free] s t := by
  refine ⟨_, rfl, ?_⟩
  refine Effect.step (spurStep_only (ps := [.cn, .sp, .st, .mc, .cp, .hp, .mm, .free]) _ _ _ (fun s0 r1 w2 => ?_) (by decide) _) ?_ (by decide)
  · split
    · dsimp only
      exact .refl
    · split
      rename_i v12
      dsimp only
      exact Effect.step (take_only_of v12) .refl (by decide)
  · exact .refl
theorem execCmpyj_only a0 a1 (s : State) : ∃ t, execCmpyj a0 a1 s = .next t ∧ Effect [.cn, .sp, .st, .mc, .cp, .hp, .mm, .free] s t := by
  refine ⟨_, rfl, ?_⟩
  exact Effect.step (spurCplx_only _ _ _ _ _) .refl (by decide)
theorem execAcsel_only a0 a1 a2 a3 a4 (s : State) : ∃ t, execAcsel a0 a1 a2 a3 a4 s = .next t ∧ Effect [.cn, .sp, .st, .mc, .cp, .hp, .mm] s t := by
  refine ⟨_, rfl, ?_⟩
  exact Effect.step (spurReg_only _ _ _) .refl (by decide)
theorem execMulwUs_only a0 a1 a2 a3 (s : State) : ∃ t, execMulwUs a0 a1 a2 a3 s = .next t ∧ Effect [.cn, .sp, .st, .mc, .cp, .hp, .mm] s t := by
  refine ⟨_, rfl, ?_⟩
  exact Effect.step (spurWide_only _ _ _ _ _ _) .refl (by decide)
theorem execMinOp_only a0 a1 a2 a3 (s : State) : ∃ t, execMinOp a0 a1 a2 a3 s = .next t ∧ Effect [.cn, .sp, .st, .mc, .cp, .hp, .mm, .free] s t := by
  refine ⟨_, rfl, ?_⟩
  exact Effect.step (spurAlu_only _ _ _ _ _ _ _) .refl (by decide)
theorem execRnd_only a0 a1 a2 (s : State) : ∃ t, execRnd a0 a1 a2 s = .next t ∧ Effect [.cn, .sp, .st, .mc, .cp, .hp, .mm] s t := by
  refine ⟨_, rfl, ?_⟩
  exact Effect.step (spurReg_only _ _ _) .refl (by decide)
theorem execAsr_only a0 a1 a2 a3 (s : State) : ∃ t, execAsr a0 a1 a2 a3 s = .next t ∧ Effect [.cn, .sp, .st, .mc, .cp, .hp, .mm, .free] s t := by
  refine ⟨_, rfl, ?_⟩
  exact Effect.step (spurAlu_only _ _ _ _ _ _ _) .refl (by decide)
theorem execAddc_only a0 a1 a2 a3 (s : State) : ∃ t, execAddc a0 a1 a2 a3 s = .next t ∧ Effect [.cn, .sp, .st, .mc, .cp, .hp, .mm, .free] s t := by
  refine ⟨_, rfl, ?_⟩
  exact Effect.step (spurAlu_only _ _ _ _ _ _ _) .refl (by decide)
theorem execNeg_only a0 a1 a2 (s : State) : ∃ t, execNeg a0 a1 a2 s = .next t ∧ Effect [.cn, .sp, .st, .mc, .cp, .hp, .mm, .free] s t := by
  refine ⟨_, rfl, ?_⟩
  exact Effect.step (spurAlu_only _ _ _ _ _ _ _) .refl (by decide)
theorem execCmov_only a0 a1 a2 a3 (s : State) : ∃ t, execCmov a0 a1 a2 a3 s = .next t ∧ Effect [.cn, .sp, .st, .mc, .cp, .hp, .mm] s t := by
  refine ⟨_, rfl, ?_⟩
  exact Effect.step (spurReg_only _ _ _) .refl (by decide)
theorem execBra_only a0 a1 (s : State) : ∃ t, execBra a0 a1 s = .next t ∧ Effect [.cn, .sp, .st, .mc, .cp, .hp, .mm] s t := by
  refine ⟨_, rfl, ?_⟩
  exact Effect.step (spurReg_only _ _ _) .refl (by decide)
theorem execMsu_only a0 a1 (s : State) : ∃ t, execMsu a0 a1 s = .next t ∧ Effect [.cn, .sp, .st, .mc, .cp, .hp, .mm, .free] s t := by
  refine ⟨_, rfl, ?_⟩
  exact Effect.step (spurMac_only _ _ _ _) .refl (by decide)
theorem execAdd_only a0 a1 a2 a3 (s : State) : ∃ t, execAdd a0 a1 a2 a3 s = .next t ∧ Effect [.cn, .sp, .st, .mc, .cp, .hp, .mm, .free] s t := by
  refine ⟨_, rfl, ?_⟩
  exact Effect.step (spurAlu_only _ _ _ _ _ _ _) .refl (by decide)
theorem execAndOp_only a0 a1 a2 a3 (s : State) : ∃ t, execAndOp a0 a1 a2 a3 s = .next t ∧ Effect [.cn, .sp, .st, .mc, .cp, .hp, .mm, .free] s t := by
  refine ⟨_, rfl, ?_⟩
  exact Effect.step (spurAlu_only _ _ _ _ _ _ _) .refl (by decide)
theorem execCmpy_only a0 a1 (s : State) : ∃ t, execCmpy a0 a1 s = .next t ∧ Effect [.cn, .sp, .st, .mc, .cp, .hp, .mm, .free] s t := by
  refine ⟨_, rfl, ?_⟩
  exact Effect.step (spurCplx_only _ _ _ _ _) .refl (by decide)

end Sys2Proof.Machine
end

