-- ==== Sys2Proof/Laws/FrameSpurMemory.lean ====
section
/-!
SUPPORT. Sys2Proof/Laws/FrameSpurMemory.lean: what each operation of Machine/SpurMemory.lean may change, one lemma per operation.
-/

namespace Sys2Proof.Machine
set_option Elab.async false

theorem execLdiH_only a0 a1 a2 (s : State) : ∃ t, execLdiH a0 a1 a2 s = .next t ∧ Effect [.cn, .sp, .st, .mc, .cp, .hp, .mm] s t := by
  refine ⟨_, rfl, ?_⟩
  exact Effect.step (spurReg_only _ _ _) .refl (by decide)
theorem spurLoad_only a0 a1 a2 a3 (s : State) : Effect [.cn, .sp, .st, .mc, .cp, .hp, .mm, .free] s (spurLoad a0 a1 a2 a3 s) := by
  unfold spurLoad
  refine Effect.step (spurStep_only (ps := [.cn, .sp, .st, .mc, .cp, .hp, .mm, .free]) _ _ _ (fun s0 r1 w2 => ?_) (by decide) _) ?_ (by decide)
  · lift_lets -underBinder
    intro x3
    split
    rename_i v7
    dsimp only
    exact Effect.step (applyPost_only_of v7) .refl (by decide)
  · exact .refl
theorem execRdsr_only a0 a1 (s : State) : ∃ t, execRdsr a0 a1 s = .next t ∧ Effect [.cn, .sp, .st, .mc, .cp, .hp, .mm] s t := by
  refine ⟨_, rfl, ?_⟩
  exact Effect.step (spurReg_only _ _ _) .refl (by decide)
theorem execDualLoad_only a0 a1 a2 a3 a4 (s : State) : ∃ t, execDualLoad a0 a1 a2 a3 a4 s = .next t ∧ Effect [.cn, .sp, .st, .mc, .cp, .hp, .mm, .free] s t := by
  refine ⟨_, rfl, ?_⟩
  refine Effect.step (spurStep_only (ps := [.cn, .sp, .st, .mc, .cp, .hp, .mm, .free]) _ _ _ (fun s0 r1 w2 => ?_) (by decide) _) ?_ (by decide)
  · split
    rename_i v7
    split
    rename_i v12
    refine Effect.of_ite1 ?_ ?_
    · split
      rename_i v16
      dsimp only
      exact Effect.step (take_only_of v16) (Effect.step (dualPair_only_of v12) (Effect.step (dualPair_only_of v7) .refl (by decide)) (by decide)) (by decide)
    · dsimp only
      exact Effect.step (dualPair_only_of v12) (Effect.step (dualPair_only_of v7) .refl (by decide)) (by decide)
  · exact .refl
theorem execLda32_only a0 a1 a2 (s : State) : ∃ t, execLda32 a0 a1 a2 s = .next t ∧ Effect [.cn, .sp, .st, .mc, .cp, .hp, .mm, .free] s t := by
  refine ⟨_, rfl, ?_⟩
  exact Effect.step (spurLoad_only _ _ _ _ _) .refl (by decide)
theorem execWrsr_only a0 a1 (s : State) : ∃ t, execWrsr a0 a1 s = .next t ∧ Effect [.cn, .sp, .st, .mc, .cp, .hp, .mm] s t := by
  refine ⟨_, rfl, ?_⟩
  exact Effect.step (spurReg_only _ _ _) .refl (by decide)
theorem execAddp_only a0 a1 a2 (s : State) : ∃ t, execAddp a0 a1 a2 s = .next t ∧ Effect [.cn, .sp, .st, .mc, .cp, .hp, .mm] s t := by
  refine ⟨_, rfl, ?_⟩
  exact Effect.step (spurReg_only _ _ _) .refl (by decide)
theorem execSt16_only a0 a1 a2 (s : State) : ∃ t, execSt16 a0 a1 a2 s = .next t ∧ Effect [.cn, .sp, .st, .mc, .cp, .hp, .mm, .mem, .free] s t := by
  refine ⟨_, rfl, ?_⟩
  refine Effect.step (spurStep_only (ps := [.cn, .sp, .st, .mc, .cp, .hp, .mm, .mem, .free]) _ _ _ (fun s0 r1 w2 => ?_) (by decide) _) ?_ (by decide)
  · exact Effect.step (applyPost_only _ _ _ _ _ _) (Effect.step (st16_only _ _ _ _ _) .refl (by decide)) (by decide)
  · exact .refl
theorem execLdiL_only a0 a1 a2 (s : State) : ∃ t, execLdiL a0 a1 a2 s = .next t ∧ Effect [.cn, .sp, .st, .mc, .cp, .hp, .mm] s t := by
  refine ⟨_, rfl, ?_⟩
  exact Effect.step (spurReg_only _ _ _) .refl (by decide)
theorem execMov_only a0 a1 a2 (s : State) : ∃ t, execMov a0 a1 a2 s = .next t ∧ Effect [.cn, .sp, .st, .mc, .cp, .hp, .mm] s t := by
  refine ⟨_, rfl, ?_⟩
  exact Effect.step (spurReg_only _ _ _) .refl (by decide)
theorem execLdml_only a0 a1 a2 (s : State) : ∃ t, execLdml a0 a1 a2 s = .next t ∧ Effect [.cn, .sp, .st, .mc, .cp, .hp, .mm] s t := by
  refine ⟨_, rfl, ?_⟩
  exact Effect.step (spurReg_only _ _ _) .refl (by decide)
theorem execStr_only a0 a1 a2 (s : State) : ∃ t, execStr a0 a1 a2 s = .next t ∧ Effect [.cn, .sp, .st, .mc, .cp, .hp, .mm, .mem, .free] s t := by
  refine ⟨_, rfl, ?_⟩
  refine Effect.step (spurStep_only (ps := [.cn, .sp, .st, .mc, .cp, .hp, .mm, .mem, .free]) _ _ _ (fun s0 r1 w2 => ?_) (by decide) _) ?_ (by decide)
  · lift_lets -underBinder
    intro x3
    exact Effect.step (applyPost_only _ _ _ _ _ _) (Effect.step (st16_only _ _ _ _ _) .refl (by decide)) (by decide)
  · exact .refl
theorem execLdp_only a0 a1 a2 (s : State) : ∃ t, execLdp a0 a1 a2 s = .next t ∧ Effect [.cn, .sp, .st, .mc, .cp, .hp, .mm] s t := by
  refine ⟨_, rfl, ?_⟩
  exact Effect.step (spurReg_only _ _ _) .refl (by decide)
theorem execLd16_only a0 a1 a2 (s : State) : ∃ t, execLd16 a0 a1 a2 s = .next t ∧ Effect [.cn, .sp, .st, .mc, .cp, .hp, .mm, .free] s t := by
  refine ⟨_, rfl, ?_⟩
  exact Effect.step (spurLoad_only _ _ _ _ _) .refl (by decide)
theorem execSts_only a0 a1 a2 (s : State) : ∃ t, execSts a0 a1 a2 s = .next t ∧ Effect [.cn, .sp, .st, .mc, .cp, .hp, .mm, .mem, .free] s t := by
  refine ⟨_, rfl, ?_⟩
  refine Effect.step (spurStep_only (ps := [.cn, .sp, .st, .mc, .cp, .hp, .mm, .mem, .free]) _ _ _ (fun s0 r1 w2 => ?_) (by decide) _) ?_ (by decide)
  · lift_lets -underBinder
    intro x3
    exact Effect.step (applyPost_only _ _ _ _ _ _) (Effect.step (st32_only _ _ _ _ _) .refl (by decide)) (by decide)
  · exact .refl
theorem execLd32_only a0 a1 a2 (s : State) : ∃ t, execLd32 a0 a1 a2 s = .next t ∧ Effect [.cn, .sp, .st, .mc, .cp, .hp, .mm, .free] s t := by
  refine ⟨_, rfl, ?_⟩
  exact Effect.step (spurLoad_only _ _ _ _ _) .refl (by decide)
theorem execMovp_only a0 a1 a2 (s : State) : ∃ t, execMovp a0 a1 a2 s = .next t ∧ Effect [.cn, .sp, .st, .mc, .cp, .hp, .mm] s t := by
  refine ⟨_, rfl, ?_⟩
  exact Effect.step (spurReg_only _ _ _) .refl (by decide)
theorem execSt32_only a0 a1 a2 (s : State) : ∃ t, execSt32 a0 a1 a2 s = .next t ∧ Effect [.cn, .sp, .st, .mc, .cp, .hp, .mm, .mem, .free] s t := by
  refine ⟨_, rfl, ?_⟩
  refine Effect.step (spurStep_only (ps := [.cn, .sp, .st, .mc, .cp, .hp, .mm, .mem, .free]) _ _ _ (fun s0 r1 w2 => ?_) (by decide) _) ?_ (by decide)
  · exact Effect.step (applyPost_only _ _ _ _ _ _) (Effect.step (st32_only _ _ _ _ _) .refl (by decide)) (by decide)
  · exact .refl
theorem execMovm_only a0 a1 a2 (s : State) : ∃ t, execMovm a0 a1 a2 s = .next t ∧ Effect [.cn, .sp, .st, .mc, .cp, .hp, .mm] s t := by
  refine ⟨_, rfl, ?_⟩
  exact Effect.step (spurReg_only _ _ _) .refl (by decide)
theorem execRdfc_only a0 a1 (s : State) : ∃ t, execRdfc a0 a1 s = .next t ∧ Effect [.cn, .sp, .st, .mc, .cp, .hp, .mm] s t := by
  refine ⟨_, rfl, ?_⟩
  exact Effect.step (spurReg_only _ _ _) .refl (by decide)
theorem execLd16h_only a0 a1 a2 (s : State) : ∃ t, execLd16h a0 a1 a2 s = .next t ∧ Effect [.cn, .sp, .st, .mc, .cp, .hp, .mm, .free] s t := by
  refine ⟨_, rfl, ?_⟩
  exact Effect.step (spurLoad_only _ _ _ _ _) .refl (by decide)
theorem execLdmh_only a0 a1 a2 (s : State) : ∃ t, execLdmh a0 a1 a2 s = .next t ∧ Effect [.cn, .sp, .st, .mc, .cp, .hp, .mm] s t := by
  refine ⟨_, rfl, ?_⟩
  exact Effect.step (spurReg_only _ _ _) .refl (by decide)

end Sys2Proof.Machine
end

