-- ==== Sys2Proof/Laws/Exec.lean ====
section
/-!
SUPPORT. Sys2Proof/Laws/Exec.lean: every command completes, changes no more than its frame, and keeps the memory's canonical form.
-/
namespace Sys2Proof.Machine
set_option Elab.async false

/-- What a command can do, said once: it completes, within some frame that names no part code, no stepping and no queue. -/
theorem exec_effect (i : Instr) (s : State) : ∃ t ps, exec i s = .next t ∧ Effect ps s t := by
  cases i with
  | hello h mode reqAuth maxPacket => obtain ⟨t, h, e⟩ := execHello_only h mode reqAuth maxPacket s; exact ⟨t, _, h, e⟩
  | bye h => obtain ⟨t, h, e⟩ := execBye_only h s; exact ⟨t, _, h, e⟩
  | resume h firstSeq count => obtain ⟨t, h, e⟩ := execResume_only h firstSeq count s; exact ⟨t, _, h, e⟩
  | ackOutcomes h n => obtain ⟨t, h, e⟩ := execAckOutcomes_only h n s; exact ⟨t, _, h, e⟩
  | ping h data => obtain ⟨t, h, e⟩ := execPing_only h data s; exact ⟨t, _, h, e⟩
  | auth h r => obtain ⟨t, h, e⟩ := execAuth_only h r s; exact ⟨t, _, h, e⟩
  | getIdentity h => obtain ⟨t, h, e⟩ := execGetIdentity_only h s; exact ⟨t, _, h, e⟩
  | getStatus h => obtain ⟨t, h, e⟩ := execGetStatus_only h s; exact ⟨t, _, h, e⟩
  | getParam h id source => obtain ⟨t, h, e⟩ := execGetParam_only h id source s; exact ⟨t, _, h, e⟩
  | getParamInfo h id => obtain ⟨t, h, e⟩ := execGetParamInfo_only h id s; exact ⟨t, _, h, e⟩
  | setParamLive h id value => obtain ⟨t, h, e⟩ := execSetParamLive_only h id value s; exact ⟨t, _, h, e⟩
  | stageOpen h => obtain ⟨t, h, e⟩ := execStageOpen_only h s; exact ⟨t, _, h, e⟩
  | stageWrite h writes => obtain ⟨t, h, e⟩ := execStageWrite_only h writes s; exact ⟨t, _, h, e⟩
  | stageCheck h => obtain ⟨t, h, e⟩ := execStageCheck_only h s; exact ⟨t, _, h, e⟩
  | stageCommit h mode stamp => obtain ⟨t, h, e⟩ := execStageCommit_only h mode stamp s; exact ⟨t, _, h, e⟩
  | commitBanksPrepared dt readbackOk => obtain ⟨t, h, e⟩ := execCommitBanksPrepared_only dt readbackOk s; exact ⟨t, _, h, e⟩
  | commitMarkerWritten dt => obtain ⟨t, h, e⟩ := execCommitMarkerWritten_only dt s; exact ⟨t, _, h, e⟩
  | stageDiscard h => obtain ⟨t, h, e⟩ := execStageDiscard_only h s; exact ⟨t, _, h, e⟩
  | stageRead h first count => obtain ⟨t, h, e⟩ := execStageRead_only h first count s; exact ⟨t, _, h, e⟩
  | stageEnable h => obtain ⟨t, h, e⟩ := execStageEnable_only h s; exact ⟨t, _, h, e⟩
  | stageDisable h => obtain ⟨t, h, e⟩ := execStageDisable_only h s; exact ⟨t, _, h, e⟩
  | machineIdentify h mode => obtain ⟨t, h, e⟩ := execMachineIdentify_only h mode s; exact ⟨t, _, h, e⟩
  | identifyComplete dt machine result => obtain ⟨t, h, e⟩ := execIdentifyComplete_only dt machine result s; exact ⟨t, _, h, e⟩
  | tripClear h => obtain ⟨t, h, e⟩ := execTripClear_only h s; exact ⟨t, _, h, e⟩
  | axisEnable h preload => obtain ⟨t, h, e⟩ := execAxisEnable_only h preload s; exact ⟨t, _, h, e⟩
  | axisEnableRemoteTimeout dt axis => obtain ⟨t, h, e⟩ := execAxisEnableRemoteTimeout_only dt axis s; exact ⟨t, _, h, e⟩
  | axisDisable h => obtain ⟨t, h, e⟩ := execAxisDisable_only h s; exact ⟨t, _, h, e⟩
  | moveAbs h pos => obtain ⟨t, h, e⟩ := execMoveAbs_only h pos s; exact ⟨t, _, h, e⟩
  | moveRel h dist => obtain ⟨t, h, e⟩ := execMoveRel_only h dist s; exact ⟨t, _, h, e⟩
  | moveVel h vel => obtain ⟨t, h, e⟩ := execMoveVel_only h vel s; exact ⟨t, _, h, e⟩
  | retarget h pos => obtain ⟨t, h, e⟩ := execRetarget_only h pos s; exact ⟨t, _, h, e⟩
  | setMotionLimits h v a d j => obtain ⟨t, h, e⟩ := execSetMotionLimits_only h v a d j s; exact ⟨t, _, h, e⟩
  | stop h mode => obtain ⟨t, h, e⟩ := execStop_only h mode s; exact ⟨t, _, h, e⟩
  | home h => obtain ⟨t, h, e⟩ := execHome_only h s; exact ⟨t, _, h, e⟩
  | pathAppend h segs => obtain ⟨t, h, e⟩ := execPathAppend_only h segs s; exact ⟨t, _, h, e⟩
  | pathStart h => obtain ⟨t, h, e⟩ := execPathStart_only h s; exact ⟨t, _, h, e⟩
  | gearEngage h mode => obtain ⟨t, h, e⟩ := execGearEngage_only h mode s; exact ⟨t, _, h, e⟩
  | gearDisengage h mode => obtain ⟨t, h, e⟩ := execGearDisengage_only h mode s; exact ⟨t, _, h, e⟩
  | ltFreeze h table => obtain ⟨t, h, e⟩ := execLtFreeze_only h table s; exact ⟨t, _, h, e⟩
  | ltResume h table => obtain ⟨t, h, e⟩ := execLtResume_only h table s; exact ⟨t, _, h, e⟩
  | ltClear h table => obtain ⟨t, h, e⟩ := execLtClear_only h table s; exact ⟨t, _, h, e⟩
  | ltRead h table first count => obtain ⟨t, h, e⟩ := execLtRead_only h table first count s; exact ⟨t, _, h, e⟩
  | ltWrite h table first bins => obtain ⟨t, h, e⟩ := execLtWrite_only h table first bins s; exact ⟨t, _, h, e⟩
  | ltSave h table => obtain ⟨t, h, e⟩ := execLtSave_only h table s; exact ⟨t, _, h, e⟩
  | ltStatus h table => obtain ⟨t, h, e⟩ := execLtStatus_only h table s; exact ⟨t, _, h, e⟩
  | compareLoad h entries => obtain ⟨t, h, e⟩ := execCompareLoad_only h entries s; exact ⟨t, _, h, e⟩
  | latchArm h edge mode => obtain ⟨t, h, e⟩ := execLatchArm_only h edge mode s; exact ⟨t, _, h, e⟩
  | safetyStatus h => obtain ⟨t, h, e⟩ := execSafetyStatus_only h s; exact ⟨t, _, h, e⟩
  | safetyReset h groups => obtain ⟨t, h, e⟩ := execSafetyReset_only h groups s; exact ⟨t, _, h, e⟩
  | safetyConfigBegin h => obtain ⟨t, h, e⟩ := execSafetyConfigBegin_only h s; exact ⟨t, _, h, e⟩
  | safetyConfigWrite h writes => obtain ⟨t, h, e⟩ := execSafetyConfigWrite_only h writes s; exact ⟨t, _, h, e⟩
  | safetyConfigValidate h => obtain ⟨t, h, e⟩ := execSafetyConfigValidate_only h s; exact ⟨t, _, h, e⟩
  | safetyConfigActivate h crc => obtain ⟨t, h, e⟩ := execSafetyConfigActivate_only h crc s; exact ⟨t, _, h, e⟩
  | safetyTestRunLatent h groups => obtain ⟨t, h, e⟩ := execSafetyTestRunLatent_only h groups s; exact ⟨t, _, h, e⟩
  | safetyTestRunBrake h axis outputs dir torque => obtain ⟨t, h, e⟩ := execSafetyTestRunBrake_only h axis outputs dir torque s; exact ⟨t, _, h, e⟩
  | brakeTestStep dt => obtain ⟨t, h, e⟩ := execBrakeTestStep_only dt s; exact ⟨t, _, h, e⟩
  | journalRead h first count => obtain ⟨t, h, e⟩ := execJournalRead_only h first count s; exact ⟨t, _, h, e⟩
  | journalMark h code data => obtain ⟨t, h, e⟩ := execJournalMark_only h code data s; exact ⟨t, _, h, e⟩
  | timeGet h => obtain ⟨t, h, e⟩ := execTimeGet_only h s; exact ⟨t, _, h, e⟩
  | timeSet h stamp => obtain ⟨t, h, e⟩ := execTimeSet_only h stamp s; exact ⟨t, _, h, e⟩
  | captureArm h flags states => obtain ⟨t, h, e⟩ := execCaptureArm_only h flags states s; exact ⟨t, _, h, e⟩
  | captureStop h => obtain ⟨t, h, e⟩ := execCaptureStop_only h s; exact ⟨t, _, h, e⟩
  | captureReleaseUser h first last => obtain ⟨t, h, e⟩ := execCaptureReleaseUser_only h first last s; exact ⟨t, _, h, e⟩
  | captureReleaseEvidence h first last => obtain ⟨t, h, e⟩ := execCaptureReleaseEvidence_only h first last s; exact ⟨t, _, h, e⟩
  | captureRead h segment first count => obtain ⟨t, h, e⟩ := execCaptureRead_only h segment first count s; exact ⟨t, _, h, e⟩
  | captureStatus h => obtain ⟨t, h, e⟩ := execCaptureStatus_only h s; exact ⟨t, _, h, e⟩
  | powerState h state => obtain ⟨t, h, e⟩ := execPowerState_only h state s; exact ⟨t, _, h, e⟩
  | powerBlockAnswer dt answer => obtain ⟨t, h, e⟩ := execPowerBlockAnswer_only dt answer s; exact ⟨t, _, h, e⟩
  | powerBlockDelayExpired dt => obtain ⟨t, h, e⟩ := execPowerBlockDelayExpired_only dt s; exact ⟨t, _, h, e⟩
  | powerBlockNoAnswer dt => obtain ⟨t, h, e⟩ := execPowerBlockNoAnswer_only dt s; exact ⟨t, _, h, e⟩
  | resetRequestWarm h => obtain ⟨t, h, e⟩ := execResetRequestWarm_only h s; exact ⟨t, _, h, e⟩
  | resetRequestDomain h block => obtain ⟨t, h, e⟩ := execResetRequestDomain_only h block s; exact ⟨t, _, h, e⟩
  | domainResetRelease dt block deferred => obtain ⟨t, h, e⟩ := execDomainResetRelease_only dt block deferred s; exact ⟨t, _, h, e⟩
  | ageingReportSummary h => obtain ⟨t, h, e⟩ := execAgeingReportSummary_only h s; exact ⟨t, _, h, e⟩
  | ageingReportWear h first count => obtain ⟨t, h, e⟩ := execAgeingReportWear_only h first count s; exact ⟨t, _, h, e⟩
  | ageingReportCounters h => obtain ⟨t, h, e⟩ := execAgeingReportCounters_only h s; exact ⟨t, _, h, e⟩
  | imageBegin h length => obtain ⟨t, h, e⟩ := execImageBegin_only h length s; exact ⟨t, _, h, e⟩
  | imageData h offset data => obtain ⟨t, h, e⟩ := execImageData_only h offset data s; exact ⟨t, _, h, e⟩
  | imageEnd h => obtain ⟨t, h, e⟩ := execImageEnd_only h s; exact ⟨t, _, h, e⟩
  | imageActivate h => obtain ⟨t, h, e⟩ := execImageActivate_only h s; exact ⟨t, _, h, e⟩
  | imageList h => obtain ⟨t, h, e⟩ := execImageList_only h s; exact ⟨t, _, h, e⟩
  | ioRead h => obtain ⟨t, h, e⟩ := execIoRead_only h s; exact ⟨t, _, h, e⟩
  | ioWrite h mask levels safe => obtain ⟨t, h, e⟩ := execIoWrite_only h mask levels safe s; exact ⟨t, _, h, e⟩
  | ioWriteApplied dt ok => obtain ⟨t, h, e⟩ := execIoWriteApplied_only dt ok s; exact ⟨t, _, h, e⟩
  | canSend h req => obtain ⟨t, h, e⟩ := execCanSend_only h req s; exact ⟨t, _, h, e⟩
  | canCancel h buffer => obtain ⟨t, h, e⟩ := execCanCancel_only h buffer s; exact ⟨t, _, h, e⟩
  | canRead h count => obtain ⟨t, h, e⟩ := execCanRead_only h count s; exact ⟨t, _, h, e⟩
  | commandStart dt => obtain ⟨t, h, e⟩ := execCommandStart_only dt s; exact ⟨t, _, h, e⟩
  | completionReport dt => obtain ⟨t, h, e⟩ := execCompletionReport_only dt s; exact ⟨t, _, h, e⟩
  | spiFrame dt words clocks underrun => obtain ⟨t, h, e⟩ := execSpiFrame_only dt words clocks underrun s; exact ⟨t, _, h, e⟩
  | hostMbxResync dt => obtain ⟨t, h, e⟩ := execHostMbxResync_only dt s; exact ⟨t, _, h, e⟩
  | mbxPartialTimeout dt => obtain ⟨t, h, e⟩ := execMbxPartialTimeout_only dt s; exact ⟨t, _, h, e⟩
  | hostReportDropped dt => obtain ⟨t, h, e⟩ := execHostReportDropped_only dt s; exact ⟨t, _, h, e⟩
  | lowWordReadLatch dt master addr => obtain ⟨t, h, e⟩ := execLowWordReadLatch_only dt master addr s; exact ⟨t, _, h, e⟩
  | registerWrite dt master addr value => obtain ⟨t, h, e⟩ := execRegisterWrite_only dt master addr value s; exact ⟨t, _, h, e⟩
  | unmappedAccess dt master addr write => obtain ⟨t, h, e⟩ := execUnmappedAccess_only dt master addr write s; exact ⟨t, _, h, e⟩
  | loadAllWrite dt group => obtain ⟨t, h, e⟩ := execLoadAllWrite_only dt group s; exact ⟨t, _, h, e⟩
  | cwWrAdvance dt w n => obtain ⟨t, h, e⟩ := execCwWrAdvance_only dt w n s; exact ⟨t, _, h, e⟩
  | cwRdAdvance dt w n => obtain ⟨t, h, e⟩ := execCwRdAdvance_only dt w n s; exact ⟨t, _, h, e⟩
  | cwProducerWrite dt w offset data => obtain ⟨t, h, e⟩ := execCwProducerWrite_only dt w offset data s; exact ⟨t, _, h, e⟩
  | cwConsumerRead dt w offset n => obtain ⟨t, h, e⟩ := execCwConsumerRead_only dt w offset n s; exact ⟨t, _, h, e⟩
  | cwStatusWrite dt w value => obtain ⟨t, h, e⟩ := execCwStatusWrite_only dt w value s; exact ⟨t, _, h, e⟩
  | canBufferLock dt ctrl buffer master => obtain ⟨t, h, e⟩ := execCanBufferLock_only dt ctrl buffer master s; exact ⟨t, _, h, e⟩
  | canBufferRelease dt ctrl buffer master => obtain ⟨t, h, e⟩ := execCanBufferRelease_only dt ctrl buffer master s; exact ⟨t, _, h, e⟩
  | canLockTimeout dt ctrl buffer => obtain ⟨t, h, e⟩ := execCanLockTimeout_only dt ctrl buffer s; exact ⟨t, _, h, e⟩
  | rmStatusClear dt rm value => obtain ⟨t, h, e⟩ := execRmStatusClear_only dt rm value s; exact ⟨t, _, h, e⟩
  | debugChallengeRead dt => obtain ⟨t, h, e⟩ := execDebugChallengeRead_only dt s; exact ⟨t, _, h, e⟩
  | debugUnlockAnswer dt answer => obtain ⟨t, h, e⟩ := execDebugUnlockAnswer_only dt answer s; exact ⟨t, _, h, e⟩
  | debugUnlockTimeout dt => obtain ⟨t, h, e⟩ := execDebugUnlockTimeout_only dt s; exact ⟨t, _, h, e⟩
  | debugHalt dt spur => obtain ⟨t, h, e⟩ := execDebugHalt_only dt spur s; exact ⟨t, _, h, e⟩
  | frameStart dt => obtain ⟨t, h, e⟩ := execFrameStart_only dt s; exact ⟨t, _, h, e⟩
  | fallbackTakesEffect dt => obtain ⟨t, h, e⟩ := execFallbackTakesEffect_only dt s; exact ⟨t, _, h, e⟩
  | ridgeStart dt passed => obtain ⟨t, h, e⟩ := execRidgeStart_only dt passed s; exact ⟨t, _, h, e⟩
  | spurCheckFailed dt spur check => obtain ⟨t, h, e⟩ := execSpurCheckFailed_only dt spur check s; exact ⟨t, _, h, e⟩
  | spurRetirementEffect dt spur => obtain ⟨t, h, e⟩ := execSpurRetirementEffect_only dt spur s; exact ⟨t, _, h, e⟩
  | spurEccCorrected dt spur addr => obtain ⟨t, h, e⟩ := execSpurEccCorrected_only dt spur addr s; exact ⟨t, _, h, e⟩
  | tripNotice dt spur => obtain ⟨t, h, e⟩ := execTripNotice_only dt spur s; exact ⟨t, _, h, e⟩
  | frameAbort dt spur => obtain ⟨t, h, e⟩ := execFrameAbort_only dt spur s; exact ⟨t, _, h, e⟩
  | failoverHalt dt spur => obtain ⟨t, h, e⟩ := execFailoverHalt_only dt spur s; exact ⟨t, _, h, e⟩
  | nop k => obtain ⟨t, h, e⟩ := execNop_only k s; exact ⟨t, _, h, e⟩
  | bra k target => obtain ⟨t, h, e⟩ := execBra_only k target s; exact ⟨t, _, h, e⟩
  | call k target => obtain ⟨t, h, e⟩ := execCall_only k target s; exact ⟨t, _, h, e⟩
  | ret k => obtain ⟨t, h, e⟩ := execRet_only k s; exact ⟨t, _, h, e⟩
  | bfc k mask value target => obtain ⟨t, h, e⟩ := execBfc_only k mask value target s; exact ⟨t, _, h, e⟩
  | rep k n last => obtain ⟨t, h, e⟩ := execRep_only k n last s; exact ⟨t, _, h, e⟩
  | endOp k => obtain ⟨t, h, e⟩ := execEndOp_only k s; exact ⟨t, _, h, e⟩
  | clrf k => obtain ⟨t, h, e⟩ := execClrf_only k s; exact ⟨t, _, h, e⟩
  | mpy k op => obtain ⟨t, h, e⟩ := execMpy_only k op s; exact ⟨t, _, h, e⟩
  | mac k op => obtain ⟨t, h, e⟩ := execMac_only k op s; exact ⟨t, _, h, e⟩
  | msu k op => obtain ⟨t, h, e⟩ := execMsu_only k op s; exact ⟨t, _, h, e⟩
  | cmpy k op => obtain ⟨t, h, e⟩ := execCmpy_only k op s; exact ⟨t, _, h, e⟩
  | cmac k op => obtain ⟨t, h, e⟩ := execCmac_only k op s; exact ⟨t, _, h, e⟩
  | cmpyj k op => obtain ⟨t, h, e⟩ := execCmpyj_only k op s; exact ⟨t, _, h, e⟩
  | cmacj k op => obtain ⟨t, h, e⟩ := execCmacj_only k op s; exact ⟨t, _, h, e⟩
  | clra k a => obtain ⟨t, h, e⟩ := execClra_only k a s; exact ⟨t, _, h, e⟩
  | ash k a sh => obtain ⟨t, h, e⟩ := execAsh_only k a sh s; exact ⟨t, _, h, e⟩
  | rnd k a d => obtain ⟨t, h, e⟩ := execRnd_only k a d s; exact ⟨t, _, h, e⟩
  | sat32 k a d => obtain ⟨t, h, e⟩ := execSat32_only k a d s; exact ⟨t, _, h, e⟩
  | adda k d a b => obtain ⟨t, h, e⟩ := execAdda_only k d a b s; exact ⟨t, _, h, e⟩
  | suba k d a b => obtain ⟨t, h, e⟩ := execSuba_only k d a b s; exact ⟨t, _, h, e⟩
  | acmp k a b => obtain ⟨t, h, e⟩ := execAcmp_only k a b s; exact ⟨t, _, h, e⟩
  | mova k d a => obtain ⟨t, h, e⟩ := execMova_only k d a s; exact ⟨t, _, h, e⟩
  | ldad k d a => obtain ⟨t, h, e⟩ := execLdad_only k d a s; exact ⟨t, _, h, e⟩
  | add k d a b => obtain ⟨t, h, e⟩ := execAdd_only k d a b s; exact ⟨t, _, h, e⟩
  | addc k d a b => obtain ⟨t, h, e⟩ := execAddc_only k d a b s; exact ⟨t, _, h, e⟩
  | adds k d a b => obtain ⟨t, h, e⟩ := execAdds_only k d a b s; exact ⟨t, _, h, e⟩
  | sub k d a b => obtain ⟨t, h, e⟩ := execSub_only k d a b s; exact ⟨t, _, h, e⟩
  | subc k d a b => obtain ⟨t, h, e⟩ := execSubc_only k d a b s; exact ⟨t, _, h, e⟩
  | subs k d a b => obtain ⟨t, h, e⟩ := execSubs_only k d a b s; exact ⟨t, _, h, e⟩
  | andOp k d a b => obtain ⟨t, h, e⟩ := execAndOp_only k d a b s; exact ⟨t, _, h, e⟩
  | orOp k d a b => obtain ⟨t, h, e⟩ := execOrOp_only k d a b s; exact ⟨t, _, h, e⟩
  | xorOp k d a b => obtain ⟨t, h, e⟩ := execXorOp_only k d a b s; exact ⟨t, _, h, e⟩
  | cmp k a b => obtain ⟨t, h, e⟩ := execCmp_only k a b s; exact ⟨t, _, h, e⟩
  | minOp k d a b => obtain ⟨t, h, e⟩ := execMinOp_only k d a b s; exact ⟨t, _, h, e⟩
  | maxOp k d a b => obtain ⟨t, h, e⟩ := execMaxOp_only k d a b s; exact ⟨t, _, h, e⟩
  | absOp k d a => obtain ⟨t, h, e⟩ := execAbsOp_only k d a s; exact ⟨t, _, h, e⟩
  | neg k d a => obtain ⟨t, h, e⟩ := execNeg_only k d a s; exact ⟨t, _, h, e⟩
  | shl k d a sh => obtain ⟨t, h, e⟩ := execShl_only k d a sh s; exact ⟨t, _, h, e⟩
  | shr k d a sh => obtain ⟨t, h, e⟩ := execShr_only k d a sh s; exact ⟨t, _, h, e⟩
  | asr k d a sh => obtain ⟨t, h, e⟩ := execAsr_only k d a sh s; exact ⟨t, _, h, e⟩
  | aluImmediate k op d a imm => obtain ⟨t, h, e⟩ := execAluImmediate_only k op d a imm s; exact ⟨t, _, h, e⟩
  | mulwSs k p a b => obtain ⟨t, h, e⟩ := execMulwSs_only k p a b s; exact ⟨t, _, h, e⟩
  | mulwUs k p a b => obtain ⟨t, h, e⟩ := execMulwUs_only k p a b s; exact ⟨t, _, h, e⟩
  | csel k d a b cond => obtain ⟨t, h, e⟩ := execCsel_only k d a b cond s; exact ⟨t, _, h, e⟩
  | cmov k d a cond => obtain ⟨t, h, e⟩ := execCmov_only k d a cond s; exact ⟨t, _, h, e⟩
  | acsel k d a b cond => obtain ⟨t, h, e⟩ := execAcsel_only k d a b cond s; exact ⟨t, _, h, e⟩
  | ld16 k d m => obtain ⟨t, h, e⟩ := execLd16_only k d m s; exact ⟨t, _, h, e⟩
  | ld16h k d m => obtain ⟨t, h, e⟩ := execLd16h_only k d m s; exact ⟨t, _, h, e⟩
  | ld32 k d m => obtain ⟨t, h, e⟩ := execLd32_only k d m s; exact ⟨t, _, h, e⟩
  | lda32 k a m => obtain ⟨t, h, e⟩ := execLda32_only k a m s; exact ⟨t, _, h, e⟩
  | st16 k d m => obtain ⟨t, h, e⟩ := execSt16_only k d m s; exact ⟨t, _, h, e⟩
  | st32 k d m => obtain ⟨t, h, e⟩ := execSt32_only k d m s; exact ⟨t, _, h, e⟩
  | str k a m => obtain ⟨t, h, e⟩ := execStr_only k a m s; exact ⟨t, _, h, e⟩
  | sts k a m => obtain ⟨t, h, e⟩ := execSts_only k a m s; exact ⟨t, _, h, e⟩
  | dualLoad k dx x dy y => obtain ⟨t, h, e⟩ := execDualLoad_only k dx x dy y s; exact ⟨t, _, h, e⟩
  | ldp k p addr => obtain ⟨t, h, e⟩ := execLdp_only k p addr s; exact ⟨t, _, h, e⟩
  | addp k p step => obtain ⟨t, h, e⟩ := execAddp_only k p step s; exact ⟨t, _, h, e⟩
  | movp k p d => obtain ⟨t, h, e⟩ := execMovp_only k p d s; exact ⟨t, _, h, e⟩
  | ldml k m imm => obtain ⟨t, h, e⟩ := execLdml_only k m imm s; exact ⟨t, _, h, e⟩
  | ldmh k m imm => obtain ⟨t, h, e⟩ := execLdmh_only k m imm s; exact ⟨t, _, h, e⟩
  | movm k m d => obtain ⟨t, h, e⟩ := execMovm_only k m d s; exact ⟨t, _, h, e⟩
  | xch k index bankY addr => obtain ⟨t, h, e⟩ := execXch_only k index bankY addr s; exact ⟨t, _, h, e⟩
  | ldiL k d imm => obtain ⟨t, h, e⟩ := execLdiL_only k d imm s; exact ⟨t, _, h, e⟩
  | ldiH k d imm => obtain ⟨t, h, e⟩ := execLdiH_only k d imm s; exact ⟨t, _, h, e⟩
  | mov k d a => obtain ⟨t, h, e⟩ := execMov_only k d a s; exact ⟨t, _, h, e⟩
  | rdsr k d => obtain ⟨t, h, e⟩ := execRdsr_only k d s; exact ⟨t, _, h, e⟩
  | wrsr k a => obtain ⟨t, h, e⟩ := execWrsr_only k a s; exact ⟨t, _, h, e⟩
  | rdfc k d => obtain ⟨t, h, e⟩ := execRdfc_only k d s; exact ⟨t, _, h, e⟩
  | reservedEncoding k => obtain ⟨t, h, e⟩ := execReservedEncoding_only k s; exact ⟨t, _, h, e⟩
  | stageReload dt stage valley => obtain ⟨t, h, e⟩ := execStageReload_only dt stage valley s; exact ⟨t, _, h, e⟩
  | loadAllProxy dt group => obtain ⟨t, h, e⟩ := execLoadAllProxy_only dt group s; exact ⟨t, _, h, e⟩
  | pwmIntervalEdge dt stage switch on => obtain ⟨t, h, e⟩ := execPwmIntervalEdge_only dt stage switch on s; exact ⟨t, _, h, e⟩
  | tripInputLatch dt stage active samples => obtain ⟨t, h, e⟩ := execTripInputLatch_only dt stage active samples s; exact ⟨t, _, h, e⟩
  | sinc2Result dt input raw rawV => obtain ⟨t, h, e⟩ := execSinc2Result_only dt input raw rawV s; exact ⟨t, _, h, e⟩
  | sinc3Result dt input raw => obtain ⟨t, h, e⟩ := execSinc3Result_only dt input raw s; exact ⟨t, _, h, e⟩
  | modulatorStuck dt input run => obtain ⟨t, h, e⟩ := execModulatorStuck_only dt input run s; exact ⟨t, _, h, e⟩
  | carrierWatchdog dt stage => obtain ⟨t, h, e⟩ := execCarrierWatchdog_only dt stage s; exact ⟨t, _, h, e⟩
  | apwmIntervalEnd dt ch sense => obtain ⟨t, h, e⟩ := execApwmIntervalEnd_only dt ch sense s; exact ⟨t, _, h, e⟩
  | apwmTimeout dt ch => obtain ⟨t, h, e⟩ := execApwmTimeout_only dt ch s; exact ⟨t, _, h, e⟩
  | apwmPickEnd dt ch => obtain ⟨t, h, e⟩ := execApwmPickEnd_only dt ch s; exact ⟨t, _, h, e⟩
  | quadEdge dt ch aLeads => obtain ⟨t, h, e⟩ := execQuadEdge_only dt ch aLeads s; exact ⟨t, _, h, e⟩
  | illegalTransition dt ch => obtain ⟨t, h, e⟩ := execIllegalTransition_only dt ch s; exact ⟨t, _, h, e⟩
  | indexEvent dt ch gate => obtain ⟨t, h, e⟩ := execIndexEvent_only dt ch gate s; exact ⟨t, _, h, e⟩
  | hallChange dt ch code => obtain ⟨t, h, e⟩ := execHallChange_only dt ch code s; exact ⟨t, _, h, e⟩
  | stepDirEdge dt ch dirHigh dirChanged => obtain ⟨t, h, e⟩ := execStepDirEdge_only dt ch dirHigh dirChanged s; exact ⟨t, _, h, e⟩
  | cmpPulseEnd dt pin => obtain ⟨t, h, e⟩ := execCmpPulseEnd_only dt pin s; exact ⟨t, _, h, e⟩
  | serialTransactionEnd dt ch frame => obtain ⟨t, h, e⟩ := execSerialTransactionEnd_only dt ch frame s; exact ⟨t, _, h, e⟩
  | serialPollTimer dt => obtain ⟨t, h, e⟩ := execSerialPollTimer_only dt s; exact ⟨t, _, h, e⟩
  | serialReadyTransfer dt ch => obtain ⟨t, h, e⟩ := execSerialReadyTransfer_only dt ch s; exact ⟨t, _, h, e⟩
  | fbAlarmInput dt ch active => obtain ⟨t, h, e⟩ := execFbAlarmInput_only dt ch active s; exact ⟨t, _, h, e⟩
  | latchEdge dt latch rising => obtain ⟨t, h, e⟩ := execLatchEdge_only dt latch rising s; exact ⟨t, _, h, e⟩
  | axisSample dt axis => obtain ⟨t, h, e⟩ := execAxisSample_only dt axis s; exact ⟨t, _, h, e⟩
  | followingErrorFault dt axis => obtain ⟨t, h, e⟩ := execFollowingErrorFault_only dt axis s; exact ⟨t, _, h, e⟩
  | torqueInterruptExpired dt machine => obtain ⟨t, h, e⟩ := execTorqueInterruptExpired_only dt machine s; exact ⟨t, _, h, e⟩
  | remoteLost dt axis => obtain ⟨t, h, e⟩ := execRemoteLost_only dt axis s; exact ⟨t, _, h, e⟩
  | moveInPosition dt axis => obtain ⟨t, h, e⟩ := execMoveInPosition_only dt axis s; exact ⟨t, _, h, e⟩
  | gearBroken dt axis => obtain ⟨t, h, e⟩ := execGearBroken_only dt axis s; exact ⟨t, _, h, e⟩
  | obsResidual dt axis => obtain ⟨t, h, e⟩ := execObsResidual_only dt axis s; exact ⟨t, _, h, e⟩
  | obsResidualCleared dt axis => obtain ⟨t, h, e⟩ := execObsResidualCleared_only dt axis s; exact ⟨t, _, h, e⟩
  | obsSettleEnd dt axis => obtain ⟨t, h, e⟩ := execObsSettleEnd_only dt axis s; exact ⟨t, _, h, e⟩
  | rmStepEmit dt rm => obtain ⟨t, h, e⟩ := execRmStepEmit_only dt rm s; exact ⟨t, _, h, e⟩
  | rmStale dt rm => obtain ⟨t, h, e⟩ := execRmStale_only dt rm s; exact ⟨t, _, h, e⟩
  | safetyCycle dt inp => obtain ⟨t, h, e⟩ := execSafetyCycle_only dt inp s; exact ⟨t, _, h, e⟩
  | discrepancy dt pair => obtain ⟨t, h, e⟩ := execDiscrepancy_only dt pair s; exact ⟨t, _, h, e⟩
  | heartbeatLost dt => obtain ⟨t, h, e⟩ := execHeartbeatLost_only dt s; exact ⟨t, _, h, e⟩
  | heartbeatDomainReset dt => obtain ⟨t, h, e⟩ := execHeartbeatDomainReset_only dt s; exact ⟨t, _, h, e⟩
  | ss1TimeExpired dt axis => obtain ⟨t, h, e⟩ := execSs1TimeExpired_only dt axis s; exact ⟨t, _, h, e⟩
  | slsGraceExpired dt axis => obtain ⟨t, h, e⟩ := execSlsGraceExpired_only dt axis s; exact ⟨t, _, h, e⟩
  | plausibilityFault dt axis => obtain ⟨t, h, e⟩ := execPlausibilityFault_only dt axis s; exact ⟨t, _, h, e⟩
  | slipFault dt axis => obtain ⟨t, h, e⟩ := execSlipFault_only dt axis s; exact ⟨t, _, h, e⟩
  | slipAnchor dt axis => obtain ⟨t, h, e⟩ := execSlipAnchor_only dt axis s; exact ⟨t, _, h, e⟩
  | safeOutputOffPulse dt output below2V => obtain ⟨t, h, e⟩ := execSafeOutputOffPulse_only dt output below2V s; exact ⟨t, _, h, e⟩
  | inputTestPulse dt pair chB noVoltage => obtain ⟨t, h, e⟩ := execInputTestPulse_only dt pair chB noVoltage s; exact ⟨t, _, h, e⟩
  | outputTestFault dt output readback => obtain ⟨t, h, e⟩ := execOutputTestFault_only dt output readback s; exact ⟨t, _, h, e⟩
  | gdFbFault dt group => obtain ⟨t, h, e⟩ := execGdFbFault_only dt group s; exact ⟨t, _, h, e⟩
  | sbcOutputOff dt output => obtain ⟨t, h, e⟩ := execSbcOutputOff_only dt output s; exact ⟨t, _, h, e⟩
  | latentTestDue dt group => obtain ⟨t, h, e⟩ := execLatentTestDue_only dt group s; exact ⟨t, _, h, e⟩
  | latentTestEnd dt group failedStep => obtain ⟨t, h, e⟩ := execLatentTestEnd_only dt group failedStep s; exact ⟨t, _, h, e⟩
  | latentTestOverdue dt group => obtain ⟨t, h, e⟩ := execLatentTestOverdue_only dt group s; exact ⟨t, _, h, e⟩
  | safetyResetInput dt active => obtain ⟨t, h, e⟩ := execSafetyResetInput_only dt active s; exact ⟨t, _, h, e⟩
  | safeCfgEnFall dt => obtain ⟨t, h, e⟩ := execSafeCfgEnFall_only dt s; exact ⟨t, _, h, e⟩
  | safetyDraftTimeout dt => obtain ⟨t, h, e⟩ := execSafetyDraftTimeout_only dt s; exact ⟨t, _, h, e⟩
  | monitorStart dt selfTestOk => obtain ⟨t, h, e⟩ := execMonitorStart_only dt selfTestOk s; exact ⟨t, _, h, e⟩
  | monitorFault dt kind detail => obtain ⟨t, h, e⟩ := execMonitorFault_only dt kind detail s; exact ⟨t, _, h, e⟩
  | clockCrossCheckFail dt => obtain ⟨t, h, e⟩ := execClockCrossCheckFail_only dt s; exact ⟨t, _, h, e⟩
  | pllLockLost dt => obtain ⟨t, h, e⟩ := execPllLockLost_only dt s; exact ⟨t, _, h, e⟩
  | timeMeasurement dt source offset => obtain ⟨t, h, e⟩ := execTimeMeasurement_only dt source offset s; exact ⟨t, _, h, e⟩
  | ppsEdge dt => obtain ⟨t, h, e⟩ := execPpsEdge_only dt s; exact ⟨t, _, h, e⟩
  | timeSourceLost dt => obtain ⟨t, h, e⟩ := execTimeSourceLost_only dt s; exact ⟨t, _, h, e⟩
  | cairnReport dt rep => obtain ⟨t, h, e⟩ := execCairnReport_only dt rep s; exact ⟨t, _, h, e⟩
  | cairnRecordWrite dt => obtain ⟨t, h, e⟩ := execCairnRecordWrite_only dt s; exact ⟨t, _, h, e⟩
  | screeRelease dt => obtain ⟨t, h, e⟩ := execScreeRelease_only dt s; exact ⟨t, _, h, e⟩
  | journalFlushed dt => obtain ⟨t, h, e⟩ := execJournalFlushed_only dt s; exact ⟨t, _, h, e⟩
  | captureIdleTick dt => obtain ⟨t, h, e⟩ := execCaptureIdleTick_only dt s; exact ⟨t, _, h, e⟩
  | captureEvent dt type value => obtain ⟨t, h, e⟩ := execCaptureEvent_only dt type value s; exact ⟨t, _, h, e⟩
  | captureOverflow dt cause => obtain ⟨t, h, e⟩ := execCaptureOverflow_only dt cause s; exact ⟨t, _, h, e⟩
  | captureRearm dt => obtain ⟨t, h, e⟩ := execCaptureRearm_only dt s; exact ⟨t, _, h, e⟩
  | captureStreamSend dt => obtain ⟨t, h, e⟩ := execCaptureStreamSend_only dt s; exact ⟨t, _, h, e⟩
  | ethernetFrameRx dt frame => obtain ⟨t, h, e⟩ := execEthernetFrameRx_only dt frame s; exact ⟨t, _, h, e⟩
  | arpRequestRx dt port senderMac senderIp targetIp => obtain ⟨t, h, e⟩ := execArpRequestRx_only dt port senderMac senderIp targetIp s; exact ⟨t, _, h, e⟩
  | arpResolveFail dt port ip => obtain ⟨t, h, e⟩ := execArpResolveFail_only dt port ip s; exact ⟨t, _, h, e⟩
  | icmpEcho dt port senderMac senderIp data => obtain ⟨t, h, e⟩ := execIcmpEcho_only dt port senderMac senderIp data s; exact ⟨t, _, h, e⟩
  | ptpMessage dt port msg => obtain ⟨t, h, e⟩ := execPtpMessage_only dt port msg s; exact ⟨t, _, h, e⟩
  | ptpMasterSend dt port announce => obtain ⟨t, h, e⟩ := execPtpMasterSend_only dt port announce s; exact ⟨t, _, h, e⟩
  | linkDown dt port => obtain ⟨t, h, e⟩ := execLinkDown_only dt port s; exact ⟨t, _, h, e⟩
  | linkUp dt port speed duplex => obtain ⟨t, h, e⟩ := execLinkUp_only dt port speed duplex s; exact ⟨t, _, h, e⟩
  | dxSetpointSend dt late => obtain ⟨t, h, e⟩ := execDxSetpointSend_only dt late s; exact ⟨t, _, h, e⟩
  | dxReply dt payload => obtain ⟨t, h, e⟩ := execDxReply_only dt payload s; exact ⟨t, _, h, e⟩
  | wakeFrame dt port destMac fcsOk payload => obtain ⟨t, h, e⟩ := execWakeFrame_only dt port destMac fcsOk payload s; exact ⟨t, _, h, e⟩
  | canFrameRx dt ctrl frame => obtain ⟨t, h, e⟩ := execCanFrameRx_only dt ctrl frame s; exact ⟨t, _, h, e⟩
  | canFrameTxDone dt ctrl buffer result tec recErr => obtain ⟨t, h, e⟩ := execCanFrameTxDone_only dt ctrl buffer result tec recErr s; exact ⟨t, _, h, e⟩
  | canSendTimeout dt ctrl buffer => obtain ⟨t, h, e⟩ := execCanSendTimeout_only dt ctrl buffer s; exact ⟨t, _, h, e⟩
  | canTtTimeMark dt ctrl buffer busIdle => obtain ⟨t, h, e⟩ := execCanTtTimeMark_only dt ctrl buffer busIdle s; exact ⟨t, _, h, e⟩
  | canRecovered dt ctrl => obtain ⟨t, h, e⟩ := execCanRecovered_only dt ctrl s; exact ⟨t, _, h, e⟩
  | canCmdSegment dt ctrl data back => obtain ⟨t, h, e⟩ := execCanCmdSegment_only dt ctrl data back s; exact ⟨t, _, h, e⟩
  | canCmdPartialTimeout dt ctrl => obtain ⟨t, h, e⟩ := execCanCmdPartialTimeout_only dt ctrl s; exact ⟨t, _, h, e⟩
  | canTtReferenceSend dt ctrl => obtain ⟨t, h, e⟩ := execCanTtReferenceSend_only dt ctrl s; exact ⟨t, _, h, e⟩
  | canTtReferenceRx dt ctrl data back => obtain ⟨t, h, e⟩ := execCanTtReferenceRx_only dt ctrl data back s; exact ⟨t, _, h, e⟩
  | canTtRefLost dt ctrl => obtain ⟨t, h, e⟩ := execCanTtRefLost_only dt ctrl s; exact ⟨t, _, h, e⟩
  | canWake dt ctrl cause => obtain ⟨t, h, e⟩ := execCanWake_only dt ctrl cause s; exact ⟨t, _, h, e⟩
  | canopenSyncSend dt ctrl => obtain ⟨t, h, e⟩ := execCanopenSyncSend_only dt ctrl s; exact ⟨t, _, h, e⟩
  | canopenTpdo dt ctrl node status pos => obtain ⟨t, h, e⟩ := execCanopenTpdo_only dt ctrl node status pos s; exact ⟨t, _, h, e⟩
  | canopenHbLost dt ctrl node => obtain ⟨t, h, e⟩ := execCanopenHbLost_only dt ctrl node s; exact ⟨t, _, h, e⟩
  | canopenSdoRequest dt ctrl data => obtain ⟨t, h, e⟩ := execCanopenSdoRequest_only dt ctrl data s; exact ⟨t, _, h, e⟩
  | canopenEmcy dt ctrl node code reg => obtain ⟨t, h, e⟩ := execCanopenEmcy_only dt ctrl node code reg s; exact ⟨t, _, h, e⟩
  | canopenHeartbeatSend dt ctrl => obtain ⟨t, h, e⟩ := execCanopenHeartbeatSend_only dt ctrl s; exact ⟨t, _, h, e⟩
  | cia417Setpoint dt ctrl opcode payload => obtain ⟨t, h, e⟩ := execCia417Setpoint_only dt ctrl opcode payload s; exact ⟨t, _, h, e⟩
  | canopenDoor dt ctrl door state => obtain ⟨t, h, e⟩ := execCanopenDoor_only dt ctrl door state s; exact ⟨t, _, h, e⟩
  | fieldInputSample dt raw cfgEn => obtain ⟨t, h, e⟩ := execFieldInputSample_only dt raw cfgEn s; exact ⟨t, _, h, e⟩
  | outFaultSet dt output cause => obtain ⟨t, h, e⟩ := execOutFaultSet_only dt output cause s; exact ⟨t, _, h, e⟩
  | fieldLinkLostB dt => obtain ⟨t, h, e⟩ := execFieldLinkLostB_only dt s; exact ⟨t, _, h, e⟩
  | fieldLinkLost dt => obtain ⟨t, h, e⟩ := execFieldLinkLost_only dt s; exact ⟨t, _, h, e⟩
  | fieldSupplyMeasure dt va vb => obtain ⟨t, h, e⟩ := execFieldSupplyMeasure_only dt va vb s; exact ⟨t, _, h, e⟩
  | operationCounterSave dt => obtain ⟨t, h, e⟩ := execOperationCounterSave_only dt s; exact ⟨t, _, h, e⟩
  | powerOn dt alwaysOnKept => obtain ⟨t, h, e⟩ := execPowerOn_only dt alwaysOnKept s; exact ⟨t, _, h, e⟩
  | vinResetLevel dt => obtain ⟨t, h, e⟩ := execVinResetLevel_only dt s; exact ⟨t, _, h, e⟩
  | supplyFault dt supply mv => obtain ⟨t, h, e⟩ := execSupplyFault_only dt supply mv s; exact ⟨t, _, h, e⟩
  | vaonBkLow dt mv => obtain ⟨t, h, e⟩ := execVaonBkLow_only dt mv s; exact ⟨t, _, h, e⟩
  | resetNLow dt ns => obtain ⟨t, h, e⟩ := execResetNLow_only dt ns s; exact ⟨t, _, h, e⟩
  | stuckReset dt seconds => obtain ⟨t, h, e⟩ := execStuckReset_only dt seconds s; exact ⟨t, _, h, e⟩
  | startSequence dt boot => obtain ⟨t, h, e⟩ := execStartSequence_only dt boot s; exact ⟨t, _, h, e⟩
  | supervisorWatchdog dt => obtain ⟨t, h, e⟩ := execSupervisorWatchdog_only dt s; exact ⟨t, _, h, e⟩
  | supplyWarning dt vin => obtain ⟨t, h, e⟩ := execSupplyWarning_only dt vin s; exact ⟨t, _, h, e⟩
  | supplyDip dt lowest => obtain ⟨t, h, e⟩ := execSupplyDip_only dt lowest s; exact ⟨t, _, h, e⟩
  | wakeSource dt source => obtain ⟨t, h, e⟩ := execWakeSource_only dt source s; exact ⟨t, _, h, e⟩
  | wakeStepDone dt => obtain ⟨t, h, e⟩ := execWakeStepDone_only dt s; exact ⟨t, _, h, e⟩
  | wakeStepTimeout dt => obtain ⟨t, h, e⟩ := execWakeStepTimeout_only dt s; exact ⟨t, _, h, e⟩
  | wakeRetry dt => obtain ⟨t, h, e⟩ := execWakeRetry_only dt s; exact ⟨t, _, h, e⟩
  | wakeTimeReached dt => obtain ⟨t, h, e⟩ := execWakeTimeReached_only dt s; exact ⟨t, _, h, e⟩
  | scrubTick dt region addr result reader => obtain ⟨t, h, e⟩ := execScrubTick_only dt region addr result reader s; exact ⟨t, _, h, e⟩
  | ageingSlackMeasure dt slack => obtain ⟨t, h, e⟩ := execAgeingSlackMeasure_only dt slack s; exact ⟨t, _, h, e⟩
  | ageingReplan dt need => obtain ⟨t, h, e⟩ := execAgeingReplan_only dt need s; exact ⟨t, _, h, e⟩
  | temperatureBandCrossing dt band need => obtain ⟨t, h, e⟩ := execTemperatureBandCrossing_only dt band need s; exact ⟨t, _, h, e⟩
  | commitStampReached dt => obtain ⟨t, h, e⟩ := execCommitStampReached_only dt s; exact ⟨t, _, h, e⟩
  | fieldLinkRestored dt sideB => obtain ⟨t, h, e⟩ := execFieldLinkRestored_only dt sideB s; exact ⟨t, _, h, e⟩
  | debugPortInstruction dt ins => obtain ⟨t, h, e⟩ := execDebugPortInstruction_only dt ins s; exact ⟨t, _, h, e⟩
  | holdoverTimeout dt => obtain ⟨t, h, e⟩ := execHoldoverTimeout_only dt s; exact ⟨t, _, h, e⟩
  | countingRecord dt => obtain ⟨t, h, e⟩ := execCountingRecord_only dt s; exact ⟨t, _, h, e⟩
  | arpCacheEntryExpired dt port ip => obtain ⟨t, h, e⟩ := execArpCacheEntryExpired_only dt port ip s; exact ⟨t, _, h, e⟩
  | ptpAnnounceTimeout dt port => obtain ⟨t, h, e⟩ := execPtpAnnounceTimeout_only dt port s; exact ⟨t, _, h, e⟩
  | ptpDelayReqSend dt port => obtain ⟨t, h, e⟩ := execPtpDelayReqSend_only dt port s; exact ⟨t, _, h, e⟩

end Sys2Proof.Machine
end

