-- ==== Sys2Proof/WellFormed.lean ====
section
/-!
DEFINITION. Sys2Proof/WellFormed.lean: the bounds of the operands that the packet formats of R391, R392 and R394 give a command's
header. Everything else a sender may get wrong is answered by the module itself, so it is no matter of form.
-/
namespace Sys2Proof

/-- A header whose fields lie in their widths (R391, R392). -/
def Hdr.wf (h : Hdr) : Bool :=
  decide (h.version < 256) && decide (h.flags < 256) && decide (h.session < 2 ^ 16) && decide (h.seq < 2 ^ 32) &&
    decide (h.target < 2 ^ 16) && decide (h.tag.length = 0 ∨ h.tag.length = 16) && h.tag.all (fun b => decide (b < 256))

end Sys2Proof
end

