-- ==== Sys2Proof/Laws/PerInstr.lean ====
section
/-!
SUPPORT. Sys2Proof/Laws/PerInstr.lean: statements made per command. `Operands`: no word of the opcode table's bits spells the command,
whatever its operands, since the table gives no row any bits.
-/
namespace Sys2Proof.Laws.Operands

/-- No word spells `i` by the table's bits. -/
def Statement (i : Instr) : Prop := ∀ nbits w : Nat, decodeTableWord nbits w ≠ some i

theorem hello (h : Hdr) (mode : Nat) (reqAuth : Nat) (maxPacket : Nat) : Statement (.hello h mode reqAuth maxPacket) := fun _ _ h => nomatch h
theorem bye (h : Hdr) : Statement (.bye h) := fun _ _ h => nomatch h
theorem resume (h : Hdr) (firstSeq : Nat) (count : Nat) : Statement (.resume h firstSeq count) := fun _ _ h => nomatch h
theorem ackOutcomes (h : Hdr) (n : Nat) : Statement (.ackOutcomes h n) := fun _ _ h => nomatch h
theorem ping (h : Hdr) (data : List Nat) : Statement (.ping h data) := fun _ _ h => nomatch h
theorem auth (h : Hdr) (r : List Nat) : Statement (.auth h r) := fun _ _ h => nomatch h
theorem getIdentity (h : Hdr) : Statement (.getIdentity h) := fun _ _ h => nomatch h
theorem getStatus (h : Hdr) : Statement (.getStatus h) := fun _ _ h => nomatch h
theorem getParam (h : Hdr) (id : Nat) (source : Nat) : Statement (.getParam h id source) := fun _ _ h => nomatch h
theorem getParamInfo (h : Hdr) (id : Nat) : Statement (.getParamInfo h id) := fun _ _ h => nomatch h
theorem setParamLive (h : Hdr) (id : Nat) (value : Int) : Statement (.setParamLive h id value) := fun _ _ h => nomatch h
theorem stageOpen (h : Hdr) : Statement (.stageOpen h) := fun _ _ h => nomatch h
theorem stageWrite (h : Hdr) (writes : List (Nat × Int)) : Statement (.stageWrite h writes) := fun _ _ h => nomatch h
theorem stageCheck (h : Hdr) : Statement (.stageCheck h) := fun _ _ h => nomatch h
theorem stageCommit (h : Hdr) (mode : Nat) (stamp : List Nat) : Statement (.stageCommit h mode stamp) := fun _ _ h => nomatch h
theorem commitBanksPrepared (dt : Nat) (readbackOk : Bool) : Statement (.commitBanksPrepared dt readbackOk) := fun _ _ h => nomatch h
theorem commitMarkerWritten (dt : Nat) : Statement (.commitMarkerWritten dt) := fun _ _ h => nomatch h
theorem stageDiscard (h : Hdr) : Statement (.stageDiscard h) := fun _ _ h => nomatch h
theorem stageRead (h : Hdr) (first : Nat) (count : Nat) : Statement (.stageRead h first count) := fun _ _ h => nomatch h
theorem stageEnable (h : Hdr) : Statement (.stageEnable h) := fun _ _ h => nomatch h
theorem stageDisable (h : Hdr) : Statement (.stageDisable h) := fun _ _ h => nomatch h
theorem machineIdentify (h : Hdr) (mode : Nat) : Statement (.machineIdentify h mode) := fun _ _ h => nomatch h
theorem identifyComplete (dt : Nat) (machine : Nat) (result : IdentResult) : Statement (.identifyComplete dt machine result) := fun _ _ h => nomatch h
theorem tripClear (h : Hdr) : Statement (.tripClear h) := fun _ _ h => nomatch h
theorem axisEnable (h : Hdr) (preload : Int) : Statement (.axisEnable h preload) := fun _ _ h => nomatch h
theorem axisEnableRemoteTimeout (dt : Nat) (axis : Nat) : Statement (.axisEnableRemoteTimeout dt axis) := fun _ _ h => nomatch h
theorem axisDisable (h : Hdr) : Statement (.axisDisable h) := fun _ _ h => nomatch h
theorem moveAbs (h : Hdr) (pos : Int) : Statement (.moveAbs h pos) := fun _ _ h => nomatch h
theorem moveRel (h : Hdr) (dist : Int) : Statement (.moveRel h dist) := fun _ _ h => nomatch h
theorem moveVel (h : Hdr) (vel : Int) : Statement (.moveVel h vel) := fun _ _ h => nomatch h
theorem retarget (h : Hdr) (pos : Int) : Statement (.retarget h pos) := fun _ _ h => nomatch h
theorem setMotionLimits (h : Hdr) (v : Nat) (a : Nat) (d : Nat) (j : Nat) : Statement (.setMotionLimits h v a d j) := fun _ _ h => nomatch h
theorem stop (h : Hdr) (mode : Nat) : Statement (.stop h mode) := fun _ _ h => nomatch h
theorem home (h : Hdr) : Statement (.home h) := fun _ _ h => nomatch h
theorem pathAppend (h : Hdr) (segs : List PathSeg) : Statement (.pathAppend h segs) := fun _ _ h => nomatch h
theorem pathStart (h : Hdr) : Statement (.pathStart h) := fun _ _ h => nomatch h
theorem gearEngage (h : Hdr) (mode : Nat) : Statement (.gearEngage h mode) := fun _ _ h => nomatch h
theorem gearDisengage (h : Hdr) (mode : Nat) : Statement (.gearDisengage h mode) := fun _ _ h => nomatch h
theorem ltFreeze (h : Hdr) (table : Nat) : Statement (.ltFreeze h table) := fun _ _ h => nomatch h
theorem ltResume (h : Hdr) (table : Nat) : Statement (.ltResume h table) := fun _ _ h => nomatch h
theorem ltClear (h : Hdr) (table : Nat) : Statement (.ltClear h table) := fun _ _ h => nomatch h
theorem ltRead (h : Hdr) (table : Nat) (first : Nat) (count : Nat) : Statement (.ltRead h table first count) := fun _ _ h => nomatch h
theorem ltWrite (h : Hdr) (table : Nat) (first : Nat) (bins : List Int) : Statement (.ltWrite h table first bins) := fun _ _ h => nomatch h
theorem ltSave (h : Hdr) (table : Nat) : Statement (.ltSave h table) := fun _ _ h => nomatch h
theorem ltStatus (h : Hdr) (table : Nat) : Statement (.ltStatus h table) := fun _ _ h => nomatch h
theorem compareLoad (h : Hdr) (entries : List CompareEntry) : Statement (.compareLoad h entries) := fun _ _ h => nomatch h
theorem latchArm (h : Hdr) (edge : Nat) (mode : Nat) : Statement (.latchArm h edge mode) := fun _ _ h => nomatch h
theorem safetyStatus (h : Hdr) : Statement (.safetyStatus h) := fun _ _ h => nomatch h
theorem safetyReset (h : Hdr) (groups : Nat) : Statement (.safetyReset h groups) := fun _ _ h => nomatch h
theorem safetyConfigBegin (h : Hdr) : Statement (.safetyConfigBegin h) := fun _ _ h => nomatch h
theorem safetyConfigWrite (h : Hdr) (writes : List (Nat × Int)) : Statement (.safetyConfigWrite h writes) := fun _ _ h => nomatch h
theorem safetyConfigValidate (h : Hdr) : Statement (.safetyConfigValidate h) := fun _ _ h => nomatch h
theorem safetyConfigActivate (h : Hdr) (crc : Nat) : Statement (.safetyConfigActivate h crc) := fun _ _ h => nomatch h
theorem safetyTestRunLatent (h : Hdr) (groups : Nat) : Statement (.safetyTestRunLatent h groups) := fun _ _ h => nomatch h
theorem safetyTestRunBrake (h : Hdr) (axis : Nat) (outputs : Nat) (dir : Nat) (torque : Int) : Statement (.safetyTestRunBrake h axis outputs dir torque) := fun _ _ h => nomatch h
theorem brakeTestStep (dt : Nat) : Statement (.brakeTestStep dt) := fun _ _ h => nomatch h
theorem journalRead (h : Hdr) (first : Nat) (count : Nat) : Statement (.journalRead h first count) := fun _ _ h => nomatch h
theorem journalMark (h : Hdr) (code : Nat) (data : List Nat) : Statement (.journalMark h code data) := fun _ _ h => nomatch h
theorem timeGet (h : Hdr) : Statement (.timeGet h) := fun _ _ h => nomatch h
theorem timeSet (h : Hdr) (stamp : Nat) : Statement (.timeSet h stamp) := fun _ _ h => nomatch h
theorem captureArm (h : Hdr) (flags : Nat) (states : List TrigState) : Statement (.captureArm h flags states) := fun _ _ h => nomatch h
theorem captureStop (h : Hdr) : Statement (.captureStop h) := fun _ _ h => nomatch h
theorem captureReleaseUser (h : Hdr) (first : Nat) (last : Nat) : Statement (.captureReleaseUser h first last) := fun _ _ h => nomatch h
theorem captureReleaseEvidence (h : Hdr) (first : Nat) (last : Nat) : Statement (.captureReleaseEvidence h first last) := fun _ _ h => nomatch h
theorem captureRead (h : Hdr) (segment : Nat) (first : Nat) (count : Nat) : Statement (.captureRead h segment first count) := fun _ _ h => nomatch h
theorem captureStatus (h : Hdr) : Statement (.captureStatus h) := fun _ _ h => nomatch h
theorem powerState (h : Hdr) (state : Nat) : Statement (.powerState h state) := fun _ _ h => nomatch h
theorem powerBlockAnswer (dt : Nat) (answer : BlockAnswer) : Statement (.powerBlockAnswer dt answer) := fun _ _ h => nomatch h
theorem powerBlockDelayExpired (dt : Nat) : Statement (.powerBlockDelayExpired dt) := fun _ _ h => nomatch h
theorem powerBlockNoAnswer (dt : Nat) : Statement (.powerBlockNoAnswer dt) := fun _ _ h => nomatch h
theorem resetRequestWarm (h : Hdr) : Statement (.resetRequestWarm h) := fun _ _ h => nomatch h
theorem resetRequestDomain (h : Hdr) (block : Nat) : Statement (.resetRequestDomain h block) := fun _ _ h => nomatch h
theorem domainResetRelease (dt : Nat) (block : Nat) (deferred : Nat) : Statement (.domainResetRelease dt block deferred) := fun _ _ h => nomatch h
theorem ageingReportSummary (h : Hdr) : Statement (.ageingReportSummary h) := fun _ _ h => nomatch h
theorem ageingReportWear (h : Hdr) (first : Nat) (count : Nat) : Statement (.ageingReportWear h first count) := fun _ _ h => nomatch h
theorem ageingReportCounters (h : Hdr) : Statement (.ageingReportCounters h) := fun _ _ h => nomatch h
theorem imageBegin (h : Hdr) (length : Nat) : Statement (.imageBegin h length) := fun _ _ h => nomatch h
theorem imageData (h : Hdr) (offset : Nat) (data : List Nat) : Statement (.imageData h offset data) := fun _ _ h => nomatch h
theorem imageEnd (h : Hdr) : Statement (.imageEnd h) := fun _ _ h => nomatch h
theorem imageActivate (h : Hdr) : Statement (.imageActivate h) := fun _ _ h => nomatch h
theorem imageList (h : Hdr) : Statement (.imageList h) := fun _ _ h => nomatch h
theorem ioRead (h : Hdr) : Statement (.ioRead h) := fun _ _ h => nomatch h
theorem ioWrite (h : Hdr) (mask : Nat) (levels : Nat) (safe : Option (Nat × Nat)) : Statement (.ioWrite h mask levels safe) := fun _ _ h => nomatch h
theorem ioWriteApplied (dt : Nat) (ok : Bool) : Statement (.ioWriteApplied dt ok) := fun _ _ h => nomatch h
theorem canSend (h : Hdr) (req : CanSendReq) : Statement (.canSend h req) := fun _ _ h => nomatch h
theorem canCancel (h : Hdr) (buffer : Nat) : Statement (.canCancel h buffer) := fun _ _ h => nomatch h
theorem canRead (h : Hdr) (count : Nat) : Statement (.canRead h count) := fun _ _ h => nomatch h
theorem commandStart (dt : Nat) : Statement (.commandStart dt) := fun _ _ h => nomatch h
theorem completionReport (dt : Nat) : Statement (.completionReport dt) := fun _ _ h => nomatch h
theorem spiFrame (dt : Nat) (words : List Nat) (clocks : Nat) (underrun : Bool) : Statement (.spiFrame dt words clocks underrun) := fun _ _ h => nomatch h
theorem hostMbxResync (dt : Nat) : Statement (.hostMbxResync dt) := fun _ _ h => nomatch h
theorem mbxPartialTimeout (dt : Nat) : Statement (.mbxPartialTimeout dt) := fun _ _ h => nomatch h
theorem hostReportDropped (dt : Nat) : Statement (.hostReportDropped dt) := fun _ _ h => nomatch h
theorem lowWordReadLatch (dt : Nat) (master : Nat) (addr : Nat) : Statement (.lowWordReadLatch dt master addr) := fun _ _ h => nomatch h
theorem registerWrite (dt : Nat) (master : Nat) (addr : Nat) (value : Nat) : Statement (.registerWrite dt master addr value) := fun _ _ h => nomatch h
theorem unmappedAccess (dt : Nat) (master : Nat) (addr : Nat) (write : Option Nat) : Statement (.unmappedAccess dt master addr write) := fun _ _ h => nomatch h
theorem loadAllWrite (dt : Nat) (group : Nat) : Statement (.loadAllWrite dt group) := fun _ _ h => nomatch h
theorem cwWrAdvance (dt : Nat) (w : Nat) (n : Nat) : Statement (.cwWrAdvance dt w n) := fun _ _ h => nomatch h
theorem cwRdAdvance (dt : Nat) (w : Nat) (n : Nat) : Statement (.cwRdAdvance dt w n) := fun _ _ h => nomatch h
theorem cwProducerWrite (dt : Nat) (w : Nat) (offset : Nat) (data : List Nat) : Statement (.cwProducerWrite dt w offset data) := fun _ _ h => nomatch h
theorem cwConsumerRead (dt : Nat) (w : Nat) (offset : Nat) (n : Nat) : Statement (.cwConsumerRead dt w offset n) := fun _ _ h => nomatch h
theorem cwStatusWrite (dt : Nat) (w : Nat) (value : Nat) : Statement (.cwStatusWrite dt w value) := fun _ _ h => nomatch h
theorem canBufferLock (dt : Nat) (ctrl : Nat) (buffer : Nat) (master : Nat) : Statement (.canBufferLock dt ctrl buffer master) := fun _ _ h => nomatch h
theorem canBufferRelease (dt : Nat) (ctrl : Nat) (buffer : Nat) (master : Nat) : Statement (.canBufferRelease dt ctrl buffer master) := fun _ _ h => nomatch h
theorem canLockTimeout (dt : Nat) (ctrl : Nat) (buffer : Nat) : Statement (.canLockTimeout dt ctrl buffer) := fun _ _ h => nomatch h
theorem rmStatusClear (dt : Nat) (rm : Nat) (value : Nat) : Statement (.rmStatusClear dt rm value) := fun _ _ h => nomatch h
theorem debugChallengeRead (dt : Nat) : Statement (.debugChallengeRead dt) := fun _ _ h => nomatch h
theorem debugUnlockAnswer (dt : Nat) (answer : List Nat) : Statement (.debugUnlockAnswer dt answer) := fun _ _ h => nomatch h
theorem debugUnlockTimeout (dt : Nat) : Statement (.debugUnlockTimeout dt) := fun _ _ h => nomatch h
theorem debugHalt (dt : Nat) (spur : Nat) : Statement (.debugHalt dt spur) := fun _ _ h => nomatch h
theorem frameStart (dt : Nat) : Statement (.frameStart dt) := fun _ _ h => nomatch h
theorem fallbackTakesEffect (dt : Nat) : Statement (.fallbackTakesEffect dt) := fun _ _ h => nomatch h
theorem ridgeStart (dt : Nat) (passed : List Nat) : Statement (.ridgeStart dt passed) := fun _ _ h => nomatch h
theorem spurCheckFailed (dt : Nat) (spur : Nat) (check : Nat) : Statement (.spurCheckFailed dt spur check) := fun _ _ h => nomatch h
theorem spurRetirementEffect (dt : Nat) (spur : Nat) : Statement (.spurRetirementEffect dt spur) := fun _ _ h => nomatch h
theorem spurEccCorrected (dt : Nat) (spur : Nat) (addr : Nat) : Statement (.spurEccCorrected dt spur addr) := fun _ _ h => nomatch h
theorem tripNotice (dt : Nat) (spur : Nat) : Statement (.tripNotice dt spur) := fun _ _ h => nomatch h
theorem frameAbort (dt : Nat) (spur : Nat) : Statement (.frameAbort dt spur) := fun _ _ h => nomatch h
theorem failoverHalt (dt : Nat) (spur : Nat) : Statement (.failoverHalt dt spur) := fun _ _ h => nomatch h
theorem nop (k : Fin 8) : Statement (.nop k) := fun _ _ h => nomatch h
theorem bra (k : Fin 8) (target : BitVec 14) : Statement (.bra k target) := fun _ _ h => nomatch h
theorem call (k : Fin 8) (target : BitVec 14) : Statement (.call k target) := fun _ _ h => nomatch h
theorem ret (k : Fin 8) : Statement (.ret k) := fun _ _ h => nomatch h
theorem bfc (k : Fin 8) (mask : BitVec 6) (value : BitVec 6) (target : BitVec 14) : Statement (.bfc k mask value target) := fun _ _ h => nomatch h
theorem rep (k : Fin 8) (n : BitVec 12) (last : BitVec 14) : Statement (.rep k n last) := fun _ _ h => nomatch h
theorem endOp (k : Fin 8) : Statement (.endOp k) := fun _ _ h => nomatch h
theorem clrf (k : Fin 8) : Statement (.clrf k) := fun _ _ h => nomatch h
theorem mpy (k : Fin 8) (op : MacOperands) : Statement (.mpy k op) := fun _ _ h => nomatch h
theorem mac (k : Fin 8) (op : MacOperands) : Statement (.mac k op) := fun _ _ h => nomatch h
theorem msu (k : Fin 8) (op : MacOperands) : Statement (.msu k op) := fun _ _ h => nomatch h
theorem cmpy (k : Fin 8) (op : CplxOperands) : Statement (.cmpy k op) := fun _ _ h => nomatch h
theorem cmac (k : Fin 8) (op : CplxOperands) : Statement (.cmac k op) := fun _ _ h => nomatch h
theorem cmpyj (k : Fin 8) (op : CplxOperands) : Statement (.cmpyj k op) := fun _ _ h => nomatch h
theorem cmacj (k : Fin 8) (op : CplxOperands) : Statement (.cmacj k op) := fun _ _ h => nomatch h
theorem clra (k : Fin 8) (a : Fin 4) : Statement (.clra k a) := fun _ _ h => nomatch h
theorem ash (k : Fin 8) (a : Fin 4) (sh : BitVec 5) : Statement (.ash k a sh) := fun _ _ h => nomatch h
theorem rnd (k : Fin 8) (a : Fin 4) (d : Fin 16) : Statement (.rnd k a d) := fun _ _ h => nomatch h
theorem sat32 (k : Fin 8) (a : Fin 4) (d : Fin 16) : Statement (.sat32 k a d) := fun _ _ h => nomatch h
theorem adda (k : Fin 8) (d : Fin 4) (a : Fin 4) (b : Fin 4) : Statement (.adda k d a b) := fun _ _ h => nomatch h
theorem suba (k : Fin 8) (d : Fin 4) (a : Fin 4) (b : Fin 4) : Statement (.suba k d a b) := fun _ _ h => nomatch h
theorem acmp (k : Fin 8) (a : Fin 4) (b : Fin 4) : Statement (.acmp k a b) := fun _ _ h => nomatch h
theorem mova (k : Fin 8) (d : Fin 4) (a : Fin 4) : Statement (.mova k d a) := fun _ _ h => nomatch h
theorem ldad (k : Fin 8) (d : Fin 4) (a : Fin 16) : Statement (.ldad k d a) := fun _ _ h => nomatch h
theorem add (k : Fin 8) (d : Fin 16) (a : Fin 16) (b : Fin 16) : Statement (.add k d a b) := fun _ _ h => nomatch h
theorem addc (k : Fin 8) (d : Fin 16) (a : Fin 16) (b : Fin 16) : Statement (.addc k d a b) := fun _ _ h => nomatch h
theorem adds (k : Fin 8) (d : Fin 16) (a : Fin 16) (b : Fin 16) : Statement (.adds k d a b) := fun _ _ h => nomatch h
theorem sub (k : Fin 8) (d : Fin 16) (a : Fin 16) (b : Fin 16) : Statement (.sub k d a b) := fun _ _ h => nomatch h
theorem subc (k : Fin 8) (d : Fin 16) (a : Fin 16) (b : Fin 16) : Statement (.subc k d a b) := fun _ _ h => nomatch h
theorem subs (k : Fin 8) (d : Fin 16) (a : Fin 16) (b : Fin 16) : Statement (.subs k d a b) := fun _ _ h => nomatch h
theorem andOp (k : Fin 8) (d : Fin 16) (a : Fin 16) (b : Fin 16) : Statement (.andOp k d a b) := fun _ _ h => nomatch h
theorem orOp (k : Fin 8) (d : Fin 16) (a : Fin 16) (b : Fin 16) : Statement (.orOp k d a b) := fun _ _ h => nomatch h
theorem xorOp (k : Fin 8) (d : Fin 16) (a : Fin 16) (b : Fin 16) : Statement (.xorOp k d a b) := fun _ _ h => nomatch h
theorem cmp (k : Fin 8) (a : Fin 16) (b : Fin 16) : Statement (.cmp k a b) := fun _ _ h => nomatch h
theorem minOp (k : Fin 8) (d : Fin 16) (a : Fin 16) (b : Fin 16) : Statement (.minOp k d a b) := fun _ _ h => nomatch h
theorem maxOp (k : Fin 8) (d : Fin 16) (a : Fin 16) (b : Fin 16) : Statement (.maxOp k d a b) := fun _ _ h => nomatch h
theorem absOp (k : Fin 8) (d : Fin 16) (a : Fin 16) : Statement (.absOp k d a) := fun _ _ h => nomatch h
theorem neg (k : Fin 8) (d : Fin 16) (a : Fin 16) : Statement (.neg k d a) := fun _ _ h => nomatch h
theorem shl (k : Fin 8) (d : Fin 16) (a : Fin 16) (sh : BitVec 5) : Statement (.shl k d a sh) := fun _ _ h => nomatch h
theorem shr (k : Fin 8) (d : Fin 16) (a : Fin 16) (sh : BitVec 5) : Statement (.shr k d a sh) := fun _ _ h => nomatch h
theorem asr (k : Fin 8) (d : Fin 16) (a : Fin 16) (sh : BitVec 5) : Statement (.asr k d a sh) := fun _ _ h => nomatch h
theorem aluImmediate (k : Fin 8) (op : AluOp) (d : Fin 16) (a : Fin 16) (imm : BitVec 12) : Statement (.aluImmediate k op d a imm) := fun _ _ h => nomatch h
theorem mulwSs (k : Fin 8) (p : Fin 8) (a : Fin 16) (b : Fin 16) : Statement (.mulwSs k p a b) := fun _ _ h => nomatch h
theorem mulwUs (k : Fin 8) (p : Fin 8) (a : Fin 16) (b : Fin 16) : Statement (.mulwUs k p a b) := fun _ _ h => nomatch h
theorem csel (k : Fin 8) (d : Fin 16) (a : Fin 16) (b : Fin 16) (cond : SelCond) : Statement (.csel k d a b cond) := fun _ _ h => nomatch h
theorem cmov (k : Fin 8) (d : Fin 16) (a : Fin 16) (cond : SelCond) : Statement (.cmov k d a cond) := fun _ _ h => nomatch h
theorem acsel (k : Fin 8) (d : Fin 4) (a : Fin 4) (b : Fin 4) (cond : SelCond) : Statement (.acsel k d a b cond) := fun _ _ h => nomatch h
theorem ld16 (k : Fin 8) (d : Fin 16) (m : MemOperand) : Statement (.ld16 k d m) := fun _ _ h => nomatch h
theorem ld16h (k : Fin 8) (d : Fin 16) (m : MemOperand) : Statement (.ld16h k d m) := fun _ _ h => nomatch h
theorem ld32 (k : Fin 8) (d : Fin 16) (m : MemOperand) : Statement (.ld32 k d m) := fun _ _ h => nomatch h
theorem lda32 (k : Fin 8) (a : Fin 4) (m : MemOperand) : Statement (.lda32 k a m) := fun _ _ h => nomatch h
theorem st16 (k : Fin 8) (d : Fin 16) (m : MemOperand) : Statement (.st16 k d m) := fun _ _ h => nomatch h
theorem st32 (k : Fin 8) (d : Fin 16) (m : MemOperand) : Statement (.st32 k d m) := fun _ _ h => nomatch h
theorem str (k : Fin 8) (a : Fin 4) (m : MemOperand) : Statement (.str k a m) := fun _ _ h => nomatch h
theorem sts (k : Fin 8) (a : Fin 4) (m : MemOperand) : Statement (.sts k a m) := fun _ _ h => nomatch h
theorem dualLoad (k : Fin 8) (dx : Fin 16) (x : DualAddr) (dy : Fin 16) (y : DualAddr) : Statement (.dualLoad k dx x dy y) := fun _ _ h => nomatch h
theorem ldp (k : Fin 8) (p : Fin 8) (addr : BitVec 14) : Statement (.ldp k p addr) := fun _ _ h => nomatch h
theorem addp (k : Fin 8) (p : Fin 8) (step : BitVec 16) : Statement (.addp k p step) := fun _ _ h => nomatch h
theorem movp (k : Fin 8) (p : Fin 8) (d : Fin 16) : Statement (.movp k p d) := fun _ _ h => nomatch h
theorem ldml (k : Fin 8) (m : Fin 4) (imm : BitVec 16) : Statement (.ldml k m imm) := fun _ _ h => nomatch h
theorem ldmh (k : Fin 8) (m : Fin 4) (imm : BitVec 16) : Statement (.ldmh k m imm) := fun _ _ h => nomatch h
theorem movm (k : Fin 8) (m : Fin 4) (d : Fin 16) : Statement (.movm k m d) := fun _ _ h => nomatch h
theorem xch (k : Fin 8) (index : BitVec 12) (bankY : Bool) (addr : BitVec 14) : Statement (.xch k index bankY addr) := fun _ _ h => nomatch h
theorem ldiL (k : Fin 8) (d : Fin 16) (imm : BitVec 16) : Statement (.ldiL k d imm) := fun _ _ h => nomatch h
theorem ldiH (k : Fin 8) (d : Fin 16) (imm : BitVec 16) : Statement (.ldiH k d imm) := fun _ _ h => nomatch h
theorem mov (k : Fin 8) (d : Fin 16) (a : Fin 16) : Statement (.mov k d a) := fun _ _ h => nomatch h
theorem rdsr (k : Fin 8) (d : Fin 16) : Statement (.rdsr k d) := fun _ _ h => nomatch h
theorem wrsr (k : Fin 8) (a : Fin 16) : Statement (.wrsr k a) := fun _ _ h => nomatch h
theorem rdfc (k : Fin 8) (d : Fin 16) : Statement (.rdfc k d) := fun _ _ h => nomatch h
theorem reservedEncoding (k : Fin 8) : Statement (.reservedEncoding k) := fun _ _ h => nomatch h
theorem stageReload (dt : Nat) (stage : Nat) (valley : Bool) : Statement (.stageReload dt stage valley) := fun _ _ h => nomatch h
theorem loadAllProxy (dt : Nat) (group : Nat) : Statement (.loadAllProxy dt group) := fun _ _ h => nomatch h
theorem pwmIntervalEdge (dt : Nat) (stage : Nat) (switch : Nat) (on : Bool) : Statement (.pwmIntervalEdge dt stage switch on) := fun _ _ h => nomatch h
theorem tripInputLatch (dt : Nat) (stage : Nat) (active : Bool) (samples : Nat) : Statement (.tripInputLatch dt stage active samples) := fun _ _ h => nomatch h
theorem sinc2Result (dt : Nat) (input : Nat) (raw : Nat) (rawV : Nat) : Statement (.sinc2Result dt input raw rawV) := fun _ _ h => nomatch h
theorem sinc3Result (dt : Nat) (input : Nat) (raw : Nat) : Statement (.sinc3Result dt input raw) := fun _ _ h => nomatch h
theorem modulatorStuck (dt : Nat) (input : Nat) (run : Nat) : Statement (.modulatorStuck dt input run) := fun _ _ h => nomatch h
theorem carrierWatchdog (dt : Nat) (stage : Nat) : Statement (.carrierWatchdog dt stage) := fun _ _ h => nomatch h
theorem apwmIntervalEnd (dt : Nat) (ch : Nat) (sense : Bool) : Statement (.apwmIntervalEnd dt ch sense) := fun _ _ h => nomatch h
theorem apwmTimeout (dt : Nat) (ch : Nat) : Statement (.apwmTimeout dt ch) := fun _ _ h => nomatch h
theorem apwmPickEnd (dt : Nat) (ch : Nat) : Statement (.apwmPickEnd dt ch) := fun _ _ h => nomatch h
theorem quadEdge (dt : Nat) (ch : Nat) (aLeads : Bool) : Statement (.quadEdge dt ch aLeads) := fun _ _ h => nomatch h
theorem illegalTransition (dt : Nat) (ch : Nat) : Statement (.illegalTransition dt ch) := fun _ _ h => nomatch h
theorem indexEvent (dt : Nat) (ch : Nat) (gate : Bool) : Statement (.indexEvent dt ch gate) := fun _ _ h => nomatch h
theorem hallChange (dt : Nat) (ch : Nat) (code : Nat) : Statement (.hallChange dt ch code) := fun _ _ h => nomatch h
theorem stepDirEdge (dt : Nat) (ch : Nat) (dirHigh : Bool) (dirChanged : Bool) : Statement (.stepDirEdge dt ch dirHigh dirChanged) := fun _ _ h => nomatch h
theorem cmpPulseEnd (dt : Nat) (pin : Nat) : Statement (.cmpPulseEnd dt pin) := fun _ _ h => nomatch h
theorem serialTransactionEnd (dt : Nat) (ch : Nat) (frame : SerialFrame) : Statement (.serialTransactionEnd dt ch frame) := fun _ _ h => nomatch h
theorem serialPollTimer (dt : Nat) : Statement (.serialPollTimer dt) := fun _ _ h => nomatch h
theorem serialReadyTransfer (dt : Nat) (ch : Nat) : Statement (.serialReadyTransfer dt ch) := fun _ _ h => nomatch h
theorem fbAlarmInput (dt : Nat) (ch : Nat) (active : Bool) : Statement (.fbAlarmInput dt ch active) := fun _ _ h => nomatch h
theorem latchEdge (dt : Nat) (latch : Nat) (rising : Bool) : Statement (.latchEdge dt latch rising) := fun _ _ h => nomatch h
theorem axisSample (dt : Nat) (axis : Nat) : Statement (.axisSample dt axis) := fun _ _ h => nomatch h
theorem followingErrorFault (dt : Nat) (axis : Nat) : Statement (.followingErrorFault dt axis) := fun _ _ h => nomatch h
theorem torqueInterruptExpired (dt : Nat) (machine : Nat) : Statement (.torqueInterruptExpired dt machine) := fun _ _ h => nomatch h
theorem remoteLost (dt : Nat) (axis : Nat) : Statement (.remoteLost dt axis) := fun _ _ h => nomatch h
theorem moveInPosition (dt : Nat) (axis : Nat) : Statement (.moveInPosition dt axis) := fun _ _ h => nomatch h
theorem gearBroken (dt : Nat) (axis : Nat) : Statement (.gearBroken dt axis) := fun _ _ h => nomatch h
theorem obsResidual (dt : Nat) (axis : Nat) : Statement (.obsResidual dt axis) := fun _ _ h => nomatch h
theorem obsResidualCleared (dt : Nat) (axis : Nat) : Statement (.obsResidualCleared dt axis) := fun _ _ h => nomatch h
theorem obsSettleEnd (dt : Nat) (axis : Nat) : Statement (.obsSettleEnd dt axis) := fun _ _ h => nomatch h
theorem rmStepEmit (dt : Nat) (rm : Nat) : Statement (.rmStepEmit dt rm) := fun _ _ h => nomatch h
theorem rmStale (dt : Nat) (rm : Nat) : Statement (.rmStale dt rm) := fun _ _ h => nomatch h
theorem safetyCycle (dt : Nat) (inp : SafetyInputs) : Statement (.safetyCycle dt inp) := fun _ _ h => nomatch h
theorem discrepancy (dt : Nat) (pair : Nat) : Statement (.discrepancy dt pair) := fun _ _ h => nomatch h
theorem heartbeatLost (dt : Nat) : Statement (.heartbeatLost dt) := fun _ _ h => nomatch h
theorem heartbeatDomainReset (dt : Nat) : Statement (.heartbeatDomainReset dt) := fun _ _ h => nomatch h
theorem ss1TimeExpired (dt : Nat) (axis : Nat) : Statement (.ss1TimeExpired dt axis) := fun _ _ h => nomatch h
theorem slsGraceExpired (dt : Nat) (axis : Nat) : Statement (.slsGraceExpired dt axis) := fun _ _ h => nomatch h
theorem plausibilityFault (dt : Nat) (axis : Nat) : Statement (.plausibilityFault dt axis) := fun _ _ h => nomatch h
theorem slipFault (dt : Nat) (axis : Nat) : Statement (.slipFault dt axis) := fun _ _ h => nomatch h
theorem slipAnchor (dt : Nat) (axis : Nat) : Statement (.slipAnchor dt axis) := fun _ _ h => nomatch h
theorem safeOutputOffPulse (dt : Nat) (output : Nat) (below2V : Bool) : Statement (.safeOutputOffPulse dt output below2V) := fun _ _ h => nomatch h
theorem inputTestPulse (dt : Nat) (pair : Nat) (chB : Bool) (noVoltage : Bool) : Statement (.inputTestPulse dt pair chB noVoltage) := fun _ _ h => nomatch h
theorem outputTestFault (dt : Nat) (output : Nat) (readback : Nat) : Statement (.outputTestFault dt output readback) := fun _ _ h => nomatch h
theorem gdFbFault (dt : Nat) (group : Nat) : Statement (.gdFbFault dt group) := fun _ _ h => nomatch h
theorem sbcOutputOff (dt : Nat) (output : Nat) : Statement (.sbcOutputOff dt output) := fun _ _ h => nomatch h
theorem latentTestDue (dt : Nat) (group : Nat) : Statement (.latentTestDue dt group) := fun _ _ h => nomatch h
theorem latentTestEnd (dt : Nat) (group : Nat) (failedStep : Nat) : Statement (.latentTestEnd dt group failedStep) := fun _ _ h => nomatch h
theorem latentTestOverdue (dt : Nat) (group : Nat) : Statement (.latentTestOverdue dt group) := fun _ _ h => nomatch h
theorem safetyResetInput (dt : Nat) (active : Bool) : Statement (.safetyResetInput dt active) := fun _ _ h => nomatch h
theorem safeCfgEnFall (dt : Nat) : Statement (.safeCfgEnFall dt) := fun _ _ h => nomatch h
theorem safetyDraftTimeout (dt : Nat) : Statement (.safetyDraftTimeout dt) := fun _ _ h => nomatch h
theorem monitorStart (dt : Nat) (selfTestOk : Bool) : Statement (.monitorStart dt selfTestOk) := fun _ _ h => nomatch h
theorem monitorFault (dt : Nat) (kind : Nat) (detail : Nat) : Statement (.monitorFault dt kind detail) := fun _ _ h => nomatch h
theorem clockCrossCheckFail (dt : Nat) : Statement (.clockCrossCheckFail dt) := fun _ _ h => nomatch h
theorem pllLockLost (dt : Nat) : Statement (.pllLockLost dt) := fun _ _ h => nomatch h
theorem timeMeasurement (dt : Nat) (source : Nat) (offset : Int) : Statement (.timeMeasurement dt source offset) := fun _ _ h => nomatch h
theorem ppsEdge (dt : Nat) : Statement (.ppsEdge dt) := fun _ _ h => nomatch h
theorem timeSourceLost (dt : Nat) : Statement (.timeSourceLost dt) := fun _ _ h => nomatch h
theorem cairnReport (dt : Nat) (rep : CairnRep) : Statement (.cairnReport dt rep) := fun _ _ h => nomatch h
theorem cairnRecordWrite (dt : Nat) : Statement (.cairnRecordWrite dt) := fun _ _ h => nomatch h
theorem screeRelease (dt : Nat) : Statement (.screeRelease dt) := fun _ _ h => nomatch h
theorem journalFlushed (dt : Nat) : Statement (.journalFlushed dt) := fun _ _ h => nomatch h
theorem captureIdleTick (dt : Nat) : Statement (.captureIdleTick dt) := fun _ _ h => nomatch h
theorem captureEvent (dt : Nat) (type : Nat) (value : Nat) : Statement (.captureEvent dt type value) := fun _ _ h => nomatch h
theorem captureOverflow (dt : Nat) (cause : Nat) : Statement (.captureOverflow dt cause) := fun _ _ h => nomatch h
theorem captureRearm (dt : Nat) : Statement (.captureRearm dt) := fun _ _ h => nomatch h
theorem captureStreamSend (dt : Nat) : Statement (.captureStreamSend dt) := fun _ _ h => nomatch h
theorem ethernetFrameRx (dt : Nat) (frame : EthFrame) : Statement (.ethernetFrameRx dt frame) := fun _ _ h => nomatch h
theorem arpRequestRx (dt : Nat) (port : Nat) (senderMac : Nat) (senderIp : Nat) (targetIp : Nat) : Statement (.arpRequestRx dt port senderMac senderIp targetIp) := fun _ _ h => nomatch h
theorem arpResolveFail (dt : Nat) (port : Nat) (ip : Nat) : Statement (.arpResolveFail dt port ip) := fun _ _ h => nomatch h
theorem icmpEcho (dt : Nat) (port : Nat) (senderMac : Nat) (senderIp : Nat) (data : List Nat) : Statement (.icmpEcho dt port senderMac senderIp data) := fun _ _ h => nomatch h
theorem ptpMessage (dt : Nat) (port : Nat) (msg : PtpMsg) : Statement (.ptpMessage dt port msg) := fun _ _ h => nomatch h
theorem ptpMasterSend (dt : Nat) (port : Nat) (announce : Bool) : Statement (.ptpMasterSend dt port announce) := fun _ _ h => nomatch h
theorem linkDown (dt : Nat) (port : Nat) : Statement (.linkDown dt port) := fun _ _ h => nomatch h
theorem linkUp (dt : Nat) (port : Nat) (speed : Nat) (duplex : Nat) : Statement (.linkUp dt port speed duplex) := fun _ _ h => nomatch h
theorem dxSetpointSend (dt : Nat) (late : Bool) : Statement (.dxSetpointSend dt late) := fun _ _ h => nomatch h
theorem dxReply (dt : Nat) (payload : List Nat) : Statement (.dxReply dt payload) := fun _ _ h => nomatch h
theorem wakeFrame (dt : Nat) (port : Nat) (destMac : Nat) (fcsOk : Bool) (payload : List Nat) : Statement (.wakeFrame dt port destMac fcsOk payload) := fun _ _ h => nomatch h
theorem canFrameRx (dt : Nat) (ctrl : Nat) (frame : CanFrame) : Statement (.canFrameRx dt ctrl frame) := fun _ _ h => nomatch h
theorem canFrameTxDone (dt : Nat) (ctrl : Nat) (buffer : Nat) (result : Nat) (tec : Nat) (recErr : Nat) : Statement (.canFrameTxDone dt ctrl buffer result tec recErr) := fun _ _ h => nomatch h
theorem canSendTimeout (dt : Nat) (ctrl : Nat) (buffer : Nat) : Statement (.canSendTimeout dt ctrl buffer) := fun _ _ h => nomatch h
theorem canTtTimeMark (dt : Nat) (ctrl : Nat) (buffer : Nat) (busIdle : Bool) : Statement (.canTtTimeMark dt ctrl buffer busIdle) := fun _ _ h => nomatch h
theorem canRecovered (dt : Nat) (ctrl : Nat) : Statement (.canRecovered dt ctrl) := fun _ _ h => nomatch h
theorem canCmdSegment (dt : Nat) (ctrl : Nat) (data : List Nat) (back : Nat) : Statement (.canCmdSegment dt ctrl data back) := fun _ _ h => nomatch h
theorem canCmdPartialTimeout (dt : Nat) (ctrl : Nat) : Statement (.canCmdPartialTimeout dt ctrl) := fun _ _ h => nomatch h
theorem canTtReferenceSend (dt : Nat) (ctrl : Nat) : Statement (.canTtReferenceSend dt ctrl) := fun _ _ h => nomatch h
theorem canTtReferenceRx (dt : Nat) (ctrl : Nat) (data : List Nat) (back : Nat) : Statement (.canTtReferenceRx dt ctrl data back) := fun _ _ h => nomatch h
theorem canTtRefLost (dt : Nat) (ctrl : Nat) : Statement (.canTtRefLost dt ctrl) := fun _ _ h => nomatch h
theorem canWake (dt : Nat) (ctrl : Nat) (cause : CanWakeCause) : Statement (.canWake dt ctrl cause) := fun _ _ h => nomatch h
theorem canopenSyncSend (dt : Nat) (ctrl : Nat) : Statement (.canopenSyncSend dt ctrl) := fun _ _ h => nomatch h
theorem canopenTpdo (dt : Nat) (ctrl : Nat) (node : Nat) (status : Nat) (pos : Int) : Statement (.canopenTpdo dt ctrl node status pos) := fun _ _ h => nomatch h
theorem canopenHbLost (dt : Nat) (ctrl : Nat) (node : Nat) : Statement (.canopenHbLost dt ctrl node) := fun _ _ h => nomatch h
theorem canopenSdoRequest (dt : Nat) (ctrl : Nat) (data : List Nat) : Statement (.canopenSdoRequest dt ctrl data) := fun _ _ h => nomatch h
theorem canopenEmcy (dt : Nat) (ctrl : Nat) (node : Nat) (code : Nat) (reg : Nat) : Statement (.canopenEmcy dt ctrl node code reg) := fun _ _ h => nomatch h
theorem canopenHeartbeatSend (dt : Nat) (ctrl : Nat) : Statement (.canopenHeartbeatSend dt ctrl) := fun _ _ h => nomatch h
theorem cia417Setpoint (dt : Nat) (ctrl : Nat) (opcode : Nat) (payload : List Nat) : Statement (.cia417Setpoint dt ctrl opcode payload) := fun _ _ h => nomatch h
theorem canopenDoor (dt : Nat) (ctrl : Nat) (door : Nat) (state : Nat) : Statement (.canopenDoor dt ctrl door state) := fun _ _ h => nomatch h
theorem fieldInputSample (dt : Nat) (raw : Nat) (cfgEn : Bool) : Statement (.fieldInputSample dt raw cfgEn) := fun _ _ h => nomatch h
theorem outFaultSet (dt : Nat) (output : Nat) (cause : Nat) : Statement (.outFaultSet dt output cause) := fun _ _ h => nomatch h
theorem fieldLinkLostB (dt : Nat) : Statement (.fieldLinkLostB dt) := fun _ _ h => nomatch h
theorem fieldLinkLost (dt : Nat) : Statement (.fieldLinkLost dt) := fun _ _ h => nomatch h
theorem fieldSupplyMeasure (dt : Nat) (va : Nat) (vb : Nat) : Statement (.fieldSupplyMeasure dt va vb) := fun _ _ h => nomatch h
theorem operationCounterSave (dt : Nat) : Statement (.operationCounterSave dt) := fun _ _ h => nomatch h
theorem powerOn (dt : Nat) (alwaysOnKept : Bool) : Statement (.powerOn dt alwaysOnKept) := fun _ _ h => nomatch h
theorem vinResetLevel (dt : Nat) : Statement (.vinResetLevel dt) := fun _ _ h => nomatch h
theorem supplyFault (dt : Nat) (supply : Nat) (mv : Nat) : Statement (.supplyFault dt supply mv) := fun _ _ h => nomatch h
theorem vaonBkLow (dt : Nat) (mv : Nat) : Statement (.vaonBkLow dt mv) := fun _ _ h => nomatch h
theorem resetNLow (dt : Nat) (ns : Nat) : Statement (.resetNLow dt ns) := fun _ _ h => nomatch h
theorem stuckReset (dt : Nat) (seconds : Nat) : Statement (.stuckReset dt seconds) := fun _ _ h => nomatch h
theorem startSequence (dt : Nat) (boot : BootInputs) : Statement (.startSequence dt boot) := fun _ _ h => nomatch h
theorem supervisorWatchdog (dt : Nat) : Statement (.supervisorWatchdog dt) := fun _ _ h => nomatch h
theorem supplyWarning (dt : Nat) (vin : Nat) : Statement (.supplyWarning dt vin) := fun _ _ h => nomatch h
theorem supplyDip (dt : Nat) (lowest : Nat) : Statement (.supplyDip dt lowest) := fun _ _ h => nomatch h
theorem wakeSource (dt : Nat) (source : Nat) : Statement (.wakeSource dt source) := fun _ _ h => nomatch h
theorem wakeStepDone (dt : Nat) : Statement (.wakeStepDone dt) := fun _ _ h => nomatch h
theorem wakeStepTimeout (dt : Nat) : Statement (.wakeStepTimeout dt) := fun _ _ h => nomatch h
theorem wakeRetry (dt : Nat) : Statement (.wakeRetry dt) := fun _ _ h => nomatch h
theorem wakeTimeReached (dt : Nat) : Statement (.wakeTimeReached dt) := fun _ _ h => nomatch h
theorem scrubTick (dt : Nat) (region : Nat) (addr : Nat) (result : EccResult) (reader : MemReader) : Statement (.scrubTick dt region addr result reader) := fun _ _ h => nomatch h
theorem ageingSlackMeasure (dt : Nat) (slack : List Int) : Statement (.ageingSlackMeasure dt slack) := fun _ _ h => nomatch h
theorem ageingReplan (dt : Nat) (need : List (Nat × Nat)) : Statement (.ageingReplan dt need) := fun _ _ h => nomatch h
theorem temperatureBandCrossing (dt : Nat) (band : Nat) (need : List (Nat × Nat)) : Statement (.temperatureBandCrossing dt band need) := fun _ _ h => nomatch h
theorem commitStampReached (dt : Nat) : Statement (.commitStampReached dt) := fun _ _ h => nomatch h
theorem fieldLinkRestored (dt : Nat) (sideB : Bool) : Statement (.fieldLinkRestored dt sideB) := fun _ _ h => nomatch h
theorem debugPortInstruction (dt : Nat) (ins : DebugIns) : Statement (.debugPortInstruction dt ins) := fun _ _ h => nomatch h
theorem holdoverTimeout (dt : Nat) : Statement (.holdoverTimeout dt) := fun _ _ h => nomatch h
theorem countingRecord (dt : Nat) : Statement (.countingRecord dt) := fun _ _ h => nomatch h
theorem arpCacheEntryExpired (dt : Nat) (port : Nat) (ip : Nat) : Statement (.arpCacheEntryExpired dt port ip) := fun _ _ h => nomatch h
theorem ptpAnnounceTimeout (dt : Nat) (port : Nat) : Statement (.ptpAnnounceTimeout dt port) := fun _ _ h => nomatch h
theorem ptpDelayReqSend (dt : Nat) (port : Nat) : Statement (.ptpDelayReqSend dt port) := fun _ _ h => nomatch h

end Sys2Proof.Laws.Operands
end

