-- ==== Sys2Proof/Laws/Spur.lean ====
section
/-!
SUPPORT. Sys2Proof/Laws/Spur.lean: reading a spur's registers after a write, and everything one executed instruction of a
spur can do.
-/
namespace Sys2Proof.Machine
variable (r w : SpurSt)

/-! ### Registers -/

@[simp] theorem SpurSt.rd_wd (n j : Fin 16) (v : Word) : (r.wd n v).rd j = if j = n then v else r.rd j := by
  simp only [SpurSt.rd, SpurSt.wd, Store.read_write, Fin.ext_iff]
@[simp] theorem SpurSt.ra_wa (n j : Fin 4) (v : Acc) : (r.wa n v).ra j = if j = n then v else r.ra j := by
  simp only [SpurSt.ra, SpurSt.wa, Store.read_write, Fin.ext_iff]
@[simp] theorem SpurSt.rp_wp (n j : Fin 8) (v : Addr) : (r.wp n v).rp j = if j = n then v else r.rp j := by
  simp only [SpurSt.rp, SpurSt.wp, Store.read_write, Fin.ext_iff]
@[simp] theorem SpurSt.rm_wm (n j : Fin 4) (v : Word) : (r.wm n v).rm j = if j = n then v else r.rm j := by
  simp only [SpurSt.rm, SpurSt.wm, Store.read_write, Fin.ext_iff]
@[simp] theorem SpurSt.ra_wd (n : Fin 16) (j : Fin 4) (v : Word) : (r.wd n v).ra j = r.ra j := rfl
@[simp] theorem SpurSt.rp_wd (n : Fin 16) (j : Fin 8) (v : Word) : (r.wd n v).rp j = r.rp j := rfl
@[simp] theorem SpurSt.rm_wd (n : Fin 16) (j : Fin 4) (v : Word) : (r.wd n v).rm j = r.rm j := rfl
@[simp] theorem SpurSt.rd_wa (n : Fin 4) (j : Fin 16) (v : Acc) : (r.wa n v).rd j = r.rd j := rfl
@[simp] theorem SpurSt.rp_wa (n : Fin 4) (j : Fin 8) (v : Acc) : (r.wa n v).rp j = r.rp j := rfl
@[simp] theorem SpurSt.rm_wa (n : Fin 4) (j : Fin 4) (v : Acc) : (r.wa n v).rm j = r.rm j := rfl
@[simp] theorem SpurSt.rd_wp (n : Fin 8) (j : Fin 16) (v : Addr) : (r.wp n v).rd j = r.rd j := rfl
@[simp] theorem SpurSt.ra_wp (n : Fin 8) (j : Fin 4) (v : Addr) : (r.wp n v).ra j = r.ra j := rfl
@[simp] theorem SpurSt.rm_wp (n : Fin 8) (j : Fin 4) (v : Addr) : (r.wp n v).rm j = r.rm j := rfl
@[simp] theorem SpurSt.rd_wm (n : Fin 4) (j : Fin 16) (v : Word) : (r.wm n v).rd j = r.rd j := rfl
@[simp] theorem SpurSt.ra_wm (n : Fin 4) (j : Fin 4) (v : Word) : (r.wm n v).ra j = r.ra j := rfl
@[simp] theorem SpurSt.rp_wm (n : Fin 4) (j : Fin 8) (v : Word) : (r.wm n v).rp j = r.rp j := rfl

/-- Two spurs agree on everything but the D, A, P and M registers and the late writes. -/
def SpurSt.sameControl (r w : SpurSt) : Prop :=
  w.reps = r.reps ∧ w.pc = r.pc ∧ w.stack = r.stack ∧ w.fc = r.fc ∧ w.trn = r.trn ∧ w.rv = r.rv ∧ w.av = r.av ∧ w.ps = r.ps ∧
    w.n = r.n ∧ w.z = r.z ∧ w.c = r.c ∧ w.v = r.v ∧ w.branch = r.branch ∧ w.sig = r.sig ∧ w.cycle = r.cycle ∧ w.live = r.live ∧
    w.halted = r.halted ∧ w.requests = r.requests

theorem SpurSt.settle_control (x : Delayed) : SpurSt.sameControl r (r.settle x) ∧ (r.settle x).late = r.late := by
  cases x <;> simp [SpurSt.settle, SpurSt.sameControl, SpurSt.wd, SpurSt.wdH, SpurSt.wa, SpurSt.wp, SpurSt.wm]

theorem SpurSt.settleAll_control (xs : List Delayed) :
    SpurSt.sameControl r (xs.foldl SpurSt.settle r) ∧ (xs.foldl SpurSt.settle r).late = r.late := by
  induction xs generalizing r with
  | nil => simp [SpurSt.sameControl]
  | cons x xs ih =>
    have h1 := SpurSt.settle_control r x
    have h2 := ih (r.settle x)
    refine ⟨?_, h2.2.trans h1.2⟩
    have a := h1.1; have b := h2.1
    simp only [SpurSt.sameControl, List.foldl_cons] at *
    simp_all

/-- Putting late writes in place touches registers alone, and leaves none waiting. -/
theorem SpurSt.commit_control : SpurSt.sameControl r r.commit ∧ r.commit.late = [] := by
  have h := SpurSt.settleAll_control { r with late := [] } r.late
  exact ⟨h.1, h.2⟩

@[simp] theorem SpurSt.commit_late : r.commit.late = [] := r.commit_control.2
@[simp] theorem SpurSt.commit_reps : r.commit.reps = r.reps := r.commit_control.1.1
@[simp] theorem SpurSt.commit_pc : r.commit.pc = r.pc := r.commit_control.1.2.1
@[simp] theorem SpurSt.commit_stack : r.commit.stack = r.stack := r.commit_control.1.2.2.1
@[simp] theorem SpurSt.commit_fc : r.commit.fc = r.fc := r.commit_control.1.2.2.2.1
@[simp] theorem SpurSt.commit_trn : r.commit.trn = r.trn := r.commit_control.1.2.2.2.2.1
@[simp] theorem SpurSt.commit_rv : r.commit.rv = r.rv := r.commit_control.1.2.2.2.2.2.1
@[simp] theorem SpurSt.commit_av : r.commit.av = r.av := r.commit_control.1.2.2.2.2.2.2.1
@[simp] theorem SpurSt.commit_ps : r.commit.ps = r.ps := r.commit_control.1.2.2.2.2.2.2.2.1
@[simp] theorem SpurSt.commit_n : r.commit.n = r.n := r.commit_control.1.2.2.2.2.2.2.2.2.1
@[simp] theorem SpurSt.commit_z : r.commit.z = r.z := r.commit_control.1.2.2.2.2.2.2.2.2.2.1
@[simp] theorem SpurSt.commit_c : r.commit.c = r.c := r.commit_control.1.2.2.2.2.2.2.2.2.2.2.1
@[simp] theorem SpurSt.commit_v : r.commit.v = r.v := r.commit_control.1.2.2.2.2.2.2.2.2.2.2.2.1
@[simp] theorem SpurSt.commit_branch : r.commit.branch = r.branch := r.commit_control.1.2.2.2.2.2.2.2.2.2.2.2.2.1
@[simp] theorem SpurSt.commit_sig : r.commit.sig = r.sig := r.commit_control.1.2.2.2.2.2.2.2.2.2.2.2.2.2.1
@[simp] theorem SpurSt.commit_cycle : r.commit.cycle = r.cycle := r.commit_control.1.2.2.2.2.2.2.2.2.2.2.2.2.2.2.1
@[simp] theorem SpurSt.commit_live : r.commit.live = r.live := r.commit_control.1.2.2.2.2.2.2.2.2.2.2.2.2.2.2.2.1
@[simp] theorem SpurSt.commit_halted : r.commit.halted = r.halted := r.commit_control.1.2.2.2.2.2.2.2.2.2.2.2.2.2.2.2.2.1
@[simp] theorem SpurSt.commit_requests : r.commit.requests = r.requests := r.commit_control.1.2.2.2.2.2.2.2.2.2.2.2.2.2.2.2.2.2

/-! ### The step of one instruction -/

/-- The taking of requests at a yield point, as an update of three fields. -/
theorem SpurSt.yieldPoint_eq : ∃ h q t, w.yieldPoint = { w with halted := h, requests := q, trn := t } := by
  unfold SpurSt.yieldPoint
  split
  · exact ⟨w.halted, w.requests, w.trn, rfl⟩
  · split
    · exact ⟨_, _, w.trn, rfl⟩
    · split
      · exact ⟨_, _, w.trn, rfl⟩
      · split
        · exact ⟨_, _, w.trn, rfl⟩
        · split
          · exact ⟨w.halted, _, _, rfl⟩
          · exact ⟨w.halted, w.requests, w.trn, rfl⟩

/-- Where execution goes, as an update of three fields. -/
theorem SpurSt.goOn_eq : ∃ pc br rp, r.goOn w = { w with pc := pc, branch := br, reps := rp } := by
  unfold SpurSt.goOn
  split
  · split
    · exact ⟨_, _, w.reps, rfl⟩
    · exact ⟨_, _, w.reps, rfl⟩
  · split
    · split
      · split
        · exact ⟨_, w.branch, _, rfl⟩
        · exact ⟨_, w.branch, _, rfl⟩
      · exact ⟨_, w.branch, w.reps, rfl⟩
    · exact ⟨_, w.branch, w.reps, rfl⟩

theorem debugStages_sp (k : Nat) (s : State) : (debugStages k s).sp = s.sp :=
  (debugStages_only k s).1.2 .sp (by decide)

theorem spurYield_sp (k : Nat) (r : SpurSt) (s : State) : (spurYield k r s).sp = (s.updSpur k fun _ => r.yieldPoint).sp := by
  unfold spurYield
  dsimp only
  split
  · rw [debugStages_sp]
  · rfl

theorem spurYield_spur (k j : Nat) (r : SpurSt) (s : State) :
    (spurYield k r s).spur j = if j = k then r.yieldPoint else s.spur j := by
  have h : (spurYield k r s).spur j = (s.updSpur k fun _ => r.yieldPoint).spur j := by
    simp only [State.spur, spurYield_sp]
  rw [h, State.spur_updSpur]

/-- The spur after one executed instruction, from what the instruction itself leaves in its registers, with the fields that
the going on, the signature and the yield point change. -/
def SpurSt.after (r w : SpurSt) (cost : Nat) : SpurSt := ({ (r.goOn w).feed r.pc with cycle := r.cycle + cost }).yieldPoint

/-- Everything one executed instruction does to the spurs: its own goes on from what `f` leaves, the others are as `f` leaves
them. -/
theorem spurStep_spur {s : State} {k : Fin 8} (h : s.spurExecutes k) (cost : Nat)
    (f : State → SpurSt → SpurSt → State × SpurSt) (j : Nat) :
    (spurStep k cost f s).spur j =
      if j = k then (s.spur k).after (f s (s.spur k) (s.spur k).commit).2 cost else (f s (s.spur k) (s.spur k).commit).1.spur j := by
  unfold spurStep
  obtain ⟨h1, h2⟩ := h
  simp only [h1, h2]
  rw [if_neg (by simp)]
  exact spurYield_spur _ _ _ _

/-- The instruction's own effect on the rest of the state reaches the next state but for what a halt for debug changes. -/
theorem spurStep_rest {s : State} {k : Fin 8} (h : s.spurExecutes k) (cost : Nat)
    (f : State → SpurSt → SpurSt → State × SpurSt) :
    Effect [.cn, .sp, .st, .mc, .cp, .hp, .mm] (f s (s.spur k) (s.spur k).commit).1 (spurStep k cost f s) := by
  unfold spurStep
  obtain ⟨h1, h2⟩ := h
  simp only [h1, h2]
  rw [if_neg (by simp)]
  exact spurYield_only _ _ _

theorem SpurSt.after_eq (cost : Nat) : ∃ pc br rp h q t, r.after w cost =
    { w with pc := pc, branch := br, reps := rp, halted := h, requests := q, trn := t, sig := crcFlow w.sig (be 2 r.pc.toNat),
             cycle := r.cycle + cost } := by
  obtain ⟨pc, br, rp, hg⟩ := SpurSt.goOn_eq r w
  unfold SpurSt.after SpurSt.feed
  rw [hg]
  obtain ⟨h, q, t, hy⟩ := SpurSt.yieldPoint_eq
    { w with pc := pc, branch := br, reps := rp, sig := crcFlow w.sig (be 2 r.pc.toNat), cycle := r.cycle + cost }
  exact ⟨pc, br, rp, h, q, t, hy⟩

variable (cost : Nat)
@[simp] theorem SpurSt.after_rd (j : Fin 16) : (r.after w cost).rd j = w.rd j := by
  obtain ⟨_, _, _, _, _, _, h⟩ := SpurSt.after_eq r w cost; rw [h]; rfl
@[simp] theorem SpurSt.after_ra (j : Fin 4) : (r.after w cost).ra j = w.ra j := by
  obtain ⟨_, _, _, _, _, _, h⟩ := SpurSt.after_eq r w cost; rw [h]; rfl
@[simp] theorem SpurSt.after_rp (j : Fin 8) : (r.after w cost).rp j = w.rp j := by
  obtain ⟨_, _, _, _, _, _, h⟩ := SpurSt.after_eq r w cost; rw [h]; rfl
@[simp] theorem SpurSt.after_rm (j : Fin 4) : (r.after w cost).rm j = w.rm j := by
  obtain ⟨_, _, _, _, _, _, h⟩ := SpurSt.after_eq r w cost; rw [h]; rfl
@[simp] theorem SpurSt.after_n : (r.after w cost).n = w.n := by
  obtain ⟨_, _, _, _, _, _, h⟩ := SpurSt.after_eq r w cost; rw [h]
@[simp] theorem SpurSt.after_z : (r.after w cost).z = w.z := by
  obtain ⟨_, _, _, _, _, _, h⟩ := SpurSt.after_eq r w cost; rw [h]
@[simp] theorem SpurSt.after_c : (r.after w cost).c = w.c := by
  obtain ⟨_, _, _, _, _, _, h⟩ := SpurSt.after_eq r w cost; rw [h]
@[simp] theorem SpurSt.after_v : (r.after w cost).v = w.v := by
  obtain ⟨_, _, _, _, _, _, h⟩ := SpurSt.after_eq r w cost; rw [h]
@[simp] theorem SpurSt.after_ps : (r.after w cost).ps = w.ps := by
  obtain ⟨_, _, _, _, _, _, h⟩ := SpurSt.after_eq r w cost; rw [h]
@[simp] theorem SpurSt.after_av : (r.after w cost).av = w.av := by
  obtain ⟨_, _, _, _, _, _, h⟩ := SpurSt.after_eq r w cost; rw [h]
@[simp] theorem SpurSt.after_rv : (r.after w cost).rv = w.rv := by
  obtain ⟨_, _, _, _, _, _, h⟩ := SpurSt.after_eq r w cost; rw [h]
@[simp] theorem SpurSt.after_fc : (r.after w cost).fc = w.fc := by
  obtain ⟨_, _, _, _, _, _, h⟩ := SpurSt.after_eq r w cost; rw [h]
@[simp] theorem SpurSt.after_stack : (r.after w cost).stack = w.stack := by
  obtain ⟨_, _, _, _, _, _, h⟩ := SpurSt.after_eq r w cost; rw [h]
@[simp] theorem SpurSt.after_late : (r.after w cost).late = w.late := by
  obtain ⟨_, _, _, _, _, _, h⟩ := SpurSt.after_eq r w cost; rw [h]
@[simp] theorem SpurSt.after_cycle : (r.after w cost).cycle = r.cycle + cost := by
  obtain ⟨_, _, _, _, _, _, h⟩ := SpurSt.after_eq r w cost; rw [h]
@[simp] theorem SpurSt.after_live : (r.after w cost).live = w.live := by
  obtain ⟨_, _, _, _, _, _, h⟩ := SpurSt.after_eq r w cost; rw [h]
@[simp] theorem SpurSt.after_sig : (r.after w cost).sig = crcFlow w.sig (be 2 r.pc.toNat) := by
  obtain ⟨_, _, _, _, _, _, h⟩ := SpurSt.after_eq r w cost; rw [h]

/-- The place execution goes on from, and the branch and the repeats then waiting, are those of `goOn`. -/
theorem SpurSt.after_flow :
    (r.after w cost).pc = (r.goOn w).pc ∧ (r.after w cost).branch = (r.goOn w).branch ∧ (r.after w cost).reps = (r.goOn w).reps := by
  unfold SpurSt.after
  obtain ⟨h, q, t, hy⟩ := SpurSt.yieldPoint_eq ({ (r.goOn w).feed r.pc with cycle := r.cycle + cost })
  rw [hy]
  exact ⟨rfl, rfl, rfl⟩

end Sys2Proof.Machine
end

