-- ==== Sys2Proof/Tests/Slice0.lean ====
section
/-!
SUPPORT. Sys2Proof/Tests/Slice0.lean: the model's own tests. Most theorems name a statement of Certificates/Slice0/Obligations.lean and show concrete states and
operands that meet its hypotheses, so that none of them is empty; the last ones test values that the spec works out.
`takes`, `asks` and `hearsB` give the packets that the module accepts, answers and hears.
-/

namespace Sys2Proof.Machine

set_option Elab.async false

/-- A packet header of session 1 on the host port. -/
def testHdr (target : Nat) : Hdr :=
  { dt := 0, link := .host, magicOk := true, lenOk := true, crcOk := true, version := 1, flags := 0, session := 1, seq := 1, target := target,
    start := none, tag := [], deferred := false }

/-- A module after its start, with session 1 open on the host port. -/
def testReady : State :=
  { State.reset with pw := { State.reset.pw with ready := true, held := false, pllLost := false }, jn := { State.reset.jn with sessions := [{ id := 1 }] } }

/-- `hears` as a test. -/
def hearsB (s : State) (p : Packet) (k : OpKind) : Bool :=
  (p.magicOk && p.lenOk && p.crcOk) && s.pw.ready && s.linkServes p.link &&
    decide (20 + p.payload.length + (if p.flags.testBit 0 then 16 else 0) ≤ linkLargest p.link) && decide (s.headerCheck p = none) &&
    (match opRow p.opcode with | some r => decide (p.kind r.1 = k) | none => false) && s.sessionOk p k &&
    (tagCheck p s).1 && !s.pw.warning && decide (s.pw.entry = none) && decide (s.pw.mode ≠ .recovery) && decide (s.pw.resetDue = none)

theorem hears_of_hearsB {s : State} {p : Packet} {k : OpKind} (h : hearsB s p k = true) : s.hears p k := by
  unfold hearsB at h
  simp only [Bool.and_eq_true, decide_eq_true_eq, Bool.not_eq_true'] at h
  obtain ⟨⟨⟨⟨⟨⟨⟨⟨⟨⟨⟨h1, h2⟩, h3⟩, h4⟩, h5⟩, h6⟩, h7⟩, h8⟩, h9⟩, h10⟩, h11⟩, h12⟩ := h
  refine ⟨⟨h1.1.1, h1.1.2, h1.2⟩, h2, h3, h4, h5, ?_, h7, h8, h9, h10, h11, h12⟩
  split at h6
  · rename_i r hr; exact ⟨r, hr, by simpa using h6⟩
  · cases h6

/-- `accepts` as a test. -/
def acceptsB (s : State) (p : Packet) (slot : Nat) : Bool :=
  hearsB s p .sequenced && !p.deferred && decide (s.jn.queue = []) &&
    (match s.session p.session with | some x => decide (seqDelta x.lastSeq p.seq = 1) | none => false) && decide (s.open_ < 1024) &&
    !(s.jn.fail0 && s.jn.fail1) && decide (s.freeSlot = some slot) && decide (s.jn.done = [] ∧ s.jn.running = [])

theorem accepts_of_acceptsB {s : State} {p : Packet} {slot : Nat} (h : acceptsB s p slot = true) : s.accepts p slot := by
  unfold acceptsB at h
  simp only [Bool.and_eq_true, decide_eq_true_eq, Bool.not_eq_true'] at h
  obtain ⟨⟨⟨⟨⟨⟨⟨h1, h2⟩, h3⟩, h4⟩, h5⟩, h6⟩, h7⟩, h8⟩ := h
  refine ⟨hears_of_hearsB h1, h2, h3, ?_, h5, h6, h7, by simp [h8.1], by simp [h8.2]⟩
  split at h4
  · rename_i x hx; exact ⟨x, hx, by simpa using h4⟩
  · cases h4

/-- An image of one spur, one machine with stage 0, and one axis: a schedule that reads inputs, commons, latches and writes a stage. -/
def testSched : Schedule :=
  { slots := [{ cycle := 100, spur := 0, kind := 1, divExp := 0, phase := 0, words := 2, target := 0, targetLo := 0 }]
    entries := [(0, 0)], ends := [(0, 5000)], sigs := [(0, some 0)] }

def testLoop : LoopRow :=
  { id := 1, kind := 1, object := 0, divExp := 0, phase := 0, spur := 0, priority := 0, sample := 100, inSlot := 100, compute := 10, outSlot := 200,
    effect := 1000, variants := 1, hosts := [0xFF, 0xFF, 0xFF, 0xFF, 0xFF, 0xFF, 0xFF, 0xFF], producer := 0 }

def testImage : Image :=
  { magic := 0x54525631, format := 0x100, part := 0x6424, spurs := 1, stages := 1, machines := 1, axes := 1, variantCount := 1, sectionCount := 10,
    length := 256, frameLength := 10000, variantMask := 1
    body := { scheds := [(0, some testSched), (1, some { testSched with entries := [(1, 0)], slots := [] })], loops := [testLoop, { testLoop with id := 2, kind := 2, sample := 0 }] } }

/-- The module with that image active and stage 0 in machine 0. -/
def testIdle : State :=
  { testReady with
    rg := { testReady.rg with slots := (0, { state := .active, written := 256, length := 256, image := some testImage }) :: testReady.rg.slots }
    pm := { testReady.pm with run := Store.write none testReady.pm.run P.STG_MACHINE (some 0) }
    mem := Store.writeList 0 [] 0x40300090 ((sha256 (List.replicate 144 0)).map (BitVec.ofNat 8)) }

/-- Its Ridge runs; the next frame start is due. -/
def testRun : State :=
  { testIdle with tm := { testIdle.tm with now := 10000 }, rg := { testIdle.rg with state := .running, fresh := false } }

/-- Spur 0 runs its frame program. -/
def testSpur : State := testRun.updSpur 0 fun r => { r with live := true, cycle := 100 }

/-- SpurIntegerArithmetic, SpurLogicShiftsAndImmediates, SpurAccumulators, SpurWideMultiply, SpurMovesSelectsStatusAndAddressRegisters, SpurLoadsAndStores,
SpurControlFlow and SpurInstructionFrame: a spur that executes, in a delay slot, at its target, and at the end of a repeat block. -/
theorem witness_spur_executes : (testSpur.spur 0).live = true ∧ (testSpur.spur 0).halted = false ∧
    plainSpurOf (.nop 0) = some 0 ∧ (testSpur.spur 0).branch = none ∧ (testSpur.spur 0).reps = [] ∧
    ((testSpur.updSpur 0 fun r => { r with branch := some (2, 5#14) }).spur 0).branch = some (2, 5#14) ∧
    ((testSpur.updSpur 0 fun r => { r with branch := some (1, 5#14) }).spur 0).branch = some (1, 5#14) ∧
    ((testSpur.updSpur 0 fun r => { r with reps := [{ count := 1, start := 0#14, last := 0#14 }] }).spur 0).reps =
      [{ count := 1, start := 0#14, last := (testSpur.spur 0).pc }] := by decide

/-- SpurFailureSequence: the first loss of spur 0, at a wrong signature, at a wrong end cycle and at an exchange slot not in the schedule. -/
theorem witness_first_loss : testSpur.firstLoss 0 ∧ (testSpur.spur 0).has .dbg = false ∧ testSpur.sched = some testSched ∧
    Store.read none testSched.sigs 0 ≠ some (crcFlow (testSpur.spur 0).sig (be 2 (testSpur.spur 0).pc.toNat)) ∧
    testSpur.slotAt 0 0 101 = none := by
  unfold State.firstLoss
  decide

/-- SpurEndMarkerAndExchangeSlots: the exchange slot of the schedule at its cycle. -/
theorem witness_exchange_slot : (testSpur.slotAt 0 0 100).isSome = true ∧ testSpur.spurOut 0 = false ∧ testSpur.openLoop 0 = false := by decide

/-- SpurRequestsAtYieldPoints: spur 0 stands at no yield point and at one; debug access is open, and locked. -/
theorem witness_requests : 0 < testSpur.spurs ∧ (testSpur.spur 0).halted = false ∧ (testSpur.spur 0).atYield = true ∧
    testSpur.pw.mode ≠ .service ∧ testSpur.hosted 0 = [0] ∧ testSpur.machineStages 0 = [0] := by decide

/-- RidgeStartFallbackAndRetirement: a start in which no spur, one spur and none of two spurs is out; the fallback and a retirement that are due. -/
theorem witness_ridge_start : testIdle.framesRun = false ∧ testIdle.clocked = true ∧ testIdle.pw.ready = true ∧ testIdle.pw.state = .run ∧
    testIdle.pw.mode ≠ .recovery ∧ testIdle.pw.entry = none ∧ testIdle.image = some testImage ∧ testIdle.activeSlot = some 0 ∧
    testImage.usesSpur 0 = true ∧ testImage.usesSpur 1 = false ∧ testIdle.spurOut 0 = false ∧
    ({ testIdle with rg := { testIdle.rg with excluded := 1 } } : State).spurOut 0 = true ∧ testImage.variantMask.testBit 0 = true := by decide

theorem witness_slot_hash : testIdle.slotHashOk 0 testImage.length = true := by decide +kernel

theorem witness_fallback : let e : State := { testRun with rg := { testRun.rg with failure := some (0, 5), frame := 8 } }
    e.framesRun = true ∧ e.clocked = true ∧ e.rg.fresh = false ∧ e.rg.frameStart + e.rg.frameLength ≤ e.tm.now ∧ e.rg.retireReq = [] ∧
      e.rg.failure = some (0, 5) ∧ (e.rg.frame + 1) % 2 ^ 32 = (5 + 4) % 2 ^ 32 ∧ e.hosted 0 = [0] ∧ (e.machine 0).disables = [] := by decide

theorem witness_retirement : let e : State := { testIdle with rg := { testIdle.rg with retireReq := [(0, 0)] } }
    e.rg.retireReq.find? (fun x => decide (x.1 = 0)) = some (0, 0) ∧ e.retireDue 0 0 = true ∧ e.spurRuns 0 = false := by decide

/-- FrameStartBeginsPrograms: a frame start that is due, with a program for spur 0 and none for spur 1. -/
theorem witness_frame_start : testRun.framesRun = true ∧ testRun.clocked = true ∧ testRun.rg.frameStart + testRun.rg.frameLength ≤ testRun.tm.now ∧
    testRun.rg.retireReq = [] ∧ testRun.rg.failure = none ∧ testRun.rg.commit = none ∧ testRun.pm.live = [] ∧ testRun.sched = some testSched ∧
    1 < testRun.spurs := by decide

/-- A packet of session 1 to a target is accepted into slot 0 of the journal, and `P` holds of the state in which its command acts. -/
def takes (s : State) (target op : Nat) (args : List Nat) (P : State → Bool) : Bool :=
  let p := rowPacket (testHdr target) op args
  acceptsB s p 0 && P (s.starting p 0)

/-- A query or session-control packet of session 1 is heard, and `P` holds of the state in which it is answered. -/
def asks (s : State) (target op : Nat) (args : List Nat) (k : OpKind) (P : State → Bool) : Bool :=
  let p := rowPacket (testHdr target) op args
  hearsB s p k && P (s.heard p)

/-- Stage 0 and its link are measured and calibrated, its group is released. -/
def testReadyStage : State :=
  ((testRun.updStage 0 fun x => { x with calibrated := true }).updMod 48 fun x => { x with measured := true, main := 30000 }).updGroup 0
    fun x => { x with mode := .released, gdEn := true }

/-- Its machine drives. -/
def testDrive : State :=
  (testReadyStage.updStage 0 fun x => { x with mode := .driving, hiz := false }).updMachine 0 fun x => { x with on := true, aligned := true }

/-- The state at another cycle. -/
def testAt (n : Nat) (s : State) : State := { s with tm := { s.tm with now := n } }

/-- The state with another value of a parameter. -/
def testPar (id : Nat) (v : Int) (s : State) : State := { s with pm := { s.pm with run := Store.write none s.pm.run id (some v) } }

/-- Axis 0 with channel 0 and machine 0, in a mode. -/
def testAxis (f : AxisSt → AxisSt) : State :=
  (testPar P.AX_TYPE 0 (testPar P.AX_FB_CHANNEL 0 (testPar P.AX_MACHINE 0 testDrive))).updAxis 0 f

/-- A command taken by a sample. -/
def testCmd (op : Nat) (args : List Nat) : Cmd :=
  { slot := 3, link := .host, session := 1, seq := 1, opcode := op, target := 0x1000, start := none, args := args, accept := 0 }

/-- StageEnableAndDisable: STAGE_ENABLE that waits for a frame start, and each of its refusals; STAGE_DISABLE in both cases. -/
theorem witness_stage_enable : ([
    takes testReadyStage 0x2000 0x400 [] fun b => b.machineOf 0 = some 0 && b.framesRun && b.machineHeld 0 && b.causeGone 0 && !b.inDemand 0 &&
      (b.stage 0).calibrated && (b.mod 48).measured && decide (b.par P.STG_DC_VMIN 0 ≤ (b.mod 48).main) && b.latchedOf 0 = [] && (b.machine 0).dropBank = none,
    takes testReadyStage 0x2001 0x400 [] fun b => b.machineOf 1 = none, takes testIdle 0x2000 0x400 [] fun b => !b.framesRun,
    takes (testReadyStage.updMachine 0 fun x => { x with unavailable := some 4 }) 0x2000 0x400 [] fun b => !b.causeGone 0,
    takes (testReadyStage.updGroup 0 fun x => { x with mode := .sto, causes := 1 }) 0x2000 0x400 [] fun b => b.causeGone 0 && b.inDemand 0,
    takes (testReadyStage.updStage 0 fun x => { x with calibrated := false }) 0x2000 0x400 [] fun b => !b.inDemand 0 && !(b.stage 0).calibrated,
    takes (testReadyStage.updMod 48 fun x => { x with measured := false }) 0x2000 0x400 [] fun b => (b.stage 0).calibrated && !(b.mod 48).measured,
    takes (testReadyStage.updStage 0 fun x => { x with mode := .latched, causes := 2 }) 0x2000 0x400 [] fun b => b.latchedOf 0 = [0] &&
      b.machineStages 0 = [0],
    takes testIdle 0x2000 0x401 [] fun b => b.machineOf 0 = some 0 && !b.framesRun,
    takes testDrive 0x2000 0x401 [] fun b => b.machineOf 0 = some 0 && b.framesRun && b.axisIdle 0] : List Bool).all id = true := by decide +kernel

/-- TripClearAndIdentify: no cause, a cause gone, an inhibited group; MACHINE_IDENTIFY in a mode that exists not, twice, without a frame, and in modes 1
and 2 where they start. -/
theorem witness_trip_clear : ([
    takes (testRun.updGroup 0 fun x => { x with inhibit := false }) 0x2000 0x403 [] fun b => b.stageStatus 0 / 16 % 16 = 0 && !(b.group 0).inhibit && (b.stage 0).causes = 0,
    takes ((testRun.updStage 0 fun x => { x with mode := .latched, causes := 2 }).updGroup 0 fun x => { x with inhibit := false }) 0x2000 0x403 [] fun b => b.stageStatus 0 / 16 % 16 = 0 &&
      (b.stage 0).causes = 2,
    takes testRun 0x2000 0x403 [] fun b => (b.group 0).inhibit,
    takes testReadyStage 0x3000 0x402 [4] fun _ => true, takes testIdle 0x3000 0x402 [1] fun b => (b.machine 0).ident = none && !b.framesRun,
    takes (testRun.updMachine 0 fun x => { x with ident := some { slot := 5, mode := 1, began := 0, frames := 1, secondOk := false } }) 0x3000 0x402 [1]
      fun b => (b.machine 0).ident ≠ none,
    takes testReadyStage 0x3000 0x402 [1] fun b => (b.machine 0).ident = none && b.framesRun && (b.stage 0).mode = .disabled && (b.group 0).gdEn,
    takes testDrive 0x3000 0x402 [2] fun b => (b.machine 0).ident = none && b.framesRun && b.drivingOf 0 = [0] && b.axisIdle 0] : List Bool).all id = true := by decide +kernel

/-- Machine 0 identifies in mode `n`. -/
def testIdent (n : Nat) : State :=
  testRun.updMachine 0 fun x => { x with ident := some { slot := 5, mode := n, began := 0, frames := 0, secondOk := false } }

/-- IdentifyCompletesAndInterruptExpires: an identification in modes 1 and 2 that has lasted its time, and an interruption of 9 frames. -/
theorem witness_identify : ([
    ((testIdent 1).machine 0).ident = some { slot := 5, mode := 1, began := 0, frames := 0, secondOk := false }, (testIdent 1).rg.commit = none,
    (testIdent 1).rg.flipped = none, (1638 : Int).natAbs ≤ 1638, 1638 < (1639 : Int).natAbs,
    ((testIdent 2).machine 0).ident = some { slot := 5, mode := 2, began := 0, frames := 0, secondOk := false },
    1400 * cyclesPerMs ≤ (testAt (1400 * cyclesPerMs) (testIdent 2)).tm.now - 0,
    ((testRun.updMachine 0 fun x => { x with interrupted := some 9 }).machine 0).interrupted = some 9] : List Bool).all id = true := by decide +kernel

/-- ModulatorResultsAndComparators: results below and at their levels, in range and saturated, and runs at the stuck limit. -/
theorem witness_modulators : ([
    testRun.clocked, 0 < testRun.stages, testRun.framesRun, (toQ15 128 (2 * log2Dec (testRun.parN P.STG_FAST_DEC 0))).natAbs < testRun.parN P.STG_OC_LEVEL 0,
    testRun.parN P.STG_OC_LEVEL 0 ≤ (toQ15 256 (2 * log2Dec (testRun.parN P.STG_FAST_DEC 0))).natAbs,
    (testRun.stage 0).ocRun + 1 < testRun.parN P.STG_OC_COUNT 0,
    testRun.parN P.STG_OC_COUNT 0 ≤ ((testRun.updStage 0 fun x => { x with ocRun := 1 }).stage 0).ocRun + 1,
    testRun.par P.STG_DC_OV_LEVEL 0 ≤ toQ15 256 (2 * log2Dec (testRun.parN P.STG_DC_FAST_DEC 0)),
    toQ15 0 (2 * log2Dec (testRun.parN P.STG_DC_FAST_DEC 0)) < testRun.par P.STG_DC_OV_LEVEL 0,
    testRun.parN P.STG_STUCK_RUN 0 < 33, 32 ≤ testRun.parN P.STG_STUCK_RUN 0] : List Bool).all id = true := by decide +kernel

/-- LoadAllAndReloads: a proxy for a failed spur, and a reload with and without a load pending. -/
theorem witness_reloads : ([
    (let e : State := { testRun with rg := { testRun.rg with failure := some (0, 3), slots := [(0, { state := .active, written := 256, length := 256, image := some { testImage with body := { testImage.body with scheds := [(0, some { testSched with slots := [{ cycle := 100, spur := 0, kind := 6, divExp := 0, phase := 0, words := 0, target := 0, targetLo := 0 }] })] } } })] } }
     e.sched.any fun sc => sc.slots.any fun x => decide (x.kind = 6 ∧ x.spur = 0 ∧ x.target = 0)),
    (let e : State := testDrive.updStage 0 fun x => { x with pending := true }
     decide (0 < e.stages) && e.framesRun && !(e.stage 0).frozen && (e.stage 0).pending && decide ((e.stage 0).loadAt ≠ e.tm.now)),
    !(testDrive.stage 0).pending, testDrive.parN P.PWM_ALIGN 0 < 2, testDrive.parN P.PWM_UPDATE 0 ≠ 1] : List Bool).all id = true := by decide +kernel

/-- PwmIntervalsTripsAndWatchdog: a switch interval of 400 cycles, an active trip sample past the blanking, a carrier without a load, and the intervals
of an auxiliary channel. -/
theorem witness_intervals : ([
    (let e : State := testAt 2500 (testDrive.updStage 0 fun x => { x with compU := 2500 })
     let a := e.stage 0
     !a.hiz && !a.frozen && a.mode = .driving && e.framesRun && Store.read 0 a.until_ 0 ≤ e.tm.now && !a.switches.testBit 0 && !a.switches.testBit 1 &&
      decide (40 ≤ (e.edgeEnd 0 0 false true + 2 * e.period 0 - e.carrier 0) % e.period 0)),
    (testRun.stage 0).blankTo + 41 ≤ testRun.tm.now, testRun.parN P.TRP_FILTER 0 + 1 ≤ (testRun.stage 0).tripCount + 41,
    !((testAt 20000 testDrive).stage 0).hiz, (testDrive.stage 0).lastLoaded + 2 * (testAt 20000 testDrive).period 0 ≤ 20000,
    (let e : State := testAt 40000 (testRun.updApwm 0 fun x => { x with mode := 2, hiz := false, high := true })
     !(e.apwm 0).hiz && e.framesRun && (e.apwm 0).mode = 2 && (e.apwm 0).high && max 40 (e.apwm 0).tOn ≤ e.tm.now - (e.apwm 0).from_),
    (let e : State := testPar P.APWM_T_MAX 10000 (testRun.updApwm 0 fun x => { x with mode := 2, hiz := false, timeouts := 15 })
     (e.apwm 0).mode = 2 && !(e.apwm 0).high && (e.apwm 0).src = 0 && e.parN P.APWM_T_MIN 0 ≤ e.tm.now - (e.apwm 0).from_ &&
      e.parN P.APWM_T_MAX 0 ≠ 0 && e.parN P.APWM_T_MAX 0 ≤ e.tm.now - (e.apwm 0).from_ && (e.apwm 0).timeouts = 15),
    (let e : State := testAt (2 ^ 40) (testRun.updApwm 0 fun x => { x with mode := 4, hiz := false, picking := true })
     (e.apwm 0).mode = 4 && (e.apwm 0).picking && decide (e.parN P.APWM_T_PICK 0 * cyclesPerUs ≤ e.tm.now - (e.apwm 0).from_))] : List Bool).all id = true := by decide +kernel

/-- Channel 0 counts in a mode of FB_MODE. -/
def testChan (mode : Int) : State := testPar P.FB_MODE mode testRun

/-- CountedEdges and FeedbackFaultsAndIndex: a quadrature, a step and a Hall channel that counts, with an armed compare entry one count ahead; a third
illegal transition; index events in each mode, on its distance and away from it; an alarm. -/
theorem witness_feedback : ([
    (testChan 1).counting 0, (testChan 1).fbMode 0 = 1, ((testChan 1).chan 0).loads = [], (testChan 5).fbMode 0 = 5, (testChan 2).fbMode 0 = 2,
    (let e : State := (testChan 2).updChan 0 fun x => { x with hallKnown := true, hall := 1 }
     (e.chan 0).hallKnown && (e.chan 0).hall = 1),
    !((testChan 2).chan 0).hallKnown,
    (let e : State := (testChan 1).updChan 0 fun x => { x with cmp := [(0, { position := 1, qual := 1, pin := 0, action := 0, state := .armed })] }
     let x := Store.read {} (e.chan 0).cmp 0
     x.state = .armed && x.qual % 2 = 1 && x.position = wrap32 ((e.chan 0).count + 1)),
    (let e : State := (testChan 1).updChan 0 fun x => { x with illegalAt := [9000, 8000, 1] }
     (e.chan 0).illegalAt = 9000 :: 8000 :: [1] && e.tm.now ≤ 8000 + cyclesPerMs),
    (testChan 1).parN P.FB_INDEX_GATE 0 ≠ 1, (testChan 1).parN P.FB_INDEX_MODE 0 = 0, (testPar P.FB_INDEX_MODE 2 (testChan 1)).parN P.FB_INDEX_MODE 0 = 2,
    (let e : State := testPar P.FB_INDEX_MODE 3 ((testChan 1).updChan 0 fun x => { x with indexPrev := some 0 })
     (e.chan 0).indexPrev = some 0 && e.parN P.FB_INDEX_TOL 0 < ((wrap32 ((e.chan 0).count - 0)).natAbs - (e.parN P.FB_COUNTS_REV 0 : Int)).natAbs),
    (testPar P.FB_ALARM 1 (testChan 1)).parN P.FB_ALARM 0 ≠ 0] : List Bool).all id = true := by decide +kernel

/-- CompareLoadsAndLatches: a good and a bad compare list, a pulse at its end, LATCH_ARM in both modes and in neither, an armed latch with a full queue. -/
theorem witness_compare_latch : ([
    takes testRun 0x4000 0x50E (compareBytes { position := 5, qual := 1, pin := 15, action := 3, reserved := 0 }) fun b => b.framesRun,
    takes testRun 0x4000 0x50E (compareBytes { position := 5, qual := 4, pin := 0, action := 0, reserved := 0 }) fun _ => true,
    ((testRun.updEvt 0 fun x => { x with pulseTo := some 10000 }).evt 0).pulseTo = some testRun.tm.now,
    takes testRun 0x5000 0x50F [1, 0] fun b => !b.latchReserved 0 && (b.latch 0).slot = none,
    takes testRun 0x5000 0x50F [3, 1] fun b => !b.latchReserved 0, takes testRun 0x5000 0x50F [0, 0] fun _ => true,
    testRun.clocked, testRun.parN P.LAT_CHANNEL 0 < testRun.channels,
    (let x : Latched := { count := 0, ns := 0, interp := false, posValid := false, fault := false }
     let e : State := testRun.updLatch 0 fun l => { l with armed := true, edge := 3, cont := true, queue := [x, x, x, x] }
     (e.latch 0).armed && (e.latch 0).edge.testBit 0 && (e.latch 0).cont && (e.latch 0).queue.length = 4 && !(e.latch 0).overflow),
    takes testRun 0x5000 0x201 [] fun b => (b.latch 0).queue = []] : List Bool).all id = true := by decide +kernel

/-- A serial transaction whose line is as it should be. -/
def testFrame : SerialFrame := { idleHigh := true, trailerLow := true, startClocks := some 1, word := 100, nE := true, nW := true, crc := 0 }

/-- SerialFeedback: SSI and BiSS-C channels with good frames, a frame with the BiSS CRC of its word, a value ready at its frame cycle, and a stopped Ridge. -/
theorem witness_serial : ([
    (testChan 3).counting 0, (testChan 3).fbMode 0 = 3, (testChan 3).framesRun, (testChan 3).clocked, ((testChan 3).chan 0).serPrev = none,
    (testChan 4).fbMode 0 = 4, 1 ≤ (testChan 4).parN P.FB_ACK_MAX 0, bissCrc ((testChan 4).parN P.FB_SER_BITS 0) testFrame < 64,
    (let e : State := (testChan 4).updChan 0 fun x => { x with serGood := some 100 }
     e.fbSerial 0 && !(e.chan 0).serTaken && e.parN P.FB_SER_READY 0 ≤ e.frameCycle && (e.chan 0).loads = [] && (e.chan 0).serGood = some 100),
    !testIdle.framesRun, !testIdle.pw.held, 0 < testIdle.channels, !(testIdle.chan 0).stopped] : List Bool).all id = true := by decide +kernel

/-- MotionCommandsJoinTheirQueues: an axis that runs takes commands, also one of another type; one the image does not run; a start more than a day ahead; a
path group with a member and one without. -/
theorem witness_axis_queues : ([
    takes (testAxis id) 0x1000 0x502 (leI 8 100) fun b => b.axisRuns 0 && b.axisType 0 ≠ 3, takes (testAxis id) 0x1001 0x501 [] fun b => !b.axisRuns 1,
    takes (testPar P.AX_TYPE 3 (testAxis id)) 0x1000 0x503 (leI 8 100) fun b => b.axisRuns 0 && b.axisType 0 = 3,
    takes (testAxis id) 0x1000 0x500 (leI 4 0) fun b => b.axisRuns 0, takes (testAxis id) 0x1000 0x504 (leI 4 0) fun b => b.axisRuns 0,
    takes (testAxis id) 0x1000 0x505 (leI 8 0) fun b => b.axisRuns 0, takes (testAxis id) 0x1000 0x506 (List.replicate 16 1) fun b => b.axisRuns 0,
    takes (testAxis id) 0x1000 0x507 [0] fun b => b.axisRuns 0, takes (testAxis id) 0x1000 0x508 [] fun b => b.axisRuns 0,
    takes (testAxis id) 0x1000 0x50B [0] fun b => b.axisRuns 0, takes (testAxis id) 0x1000 0x50C [0] fun b => b.axisRuns 0,
    takes (testPar P.PTH_AXIS_MASK 1 (testAxis id)) 0x6000 0x509 (List.replicate 16 1) fun b => (b.members 0).filter b.axisRuns = [0],
    takes (testAxis id) 0x6001 0x50A [] fun b => (b.members 1).filter b.axisRuns = [],
    (let h : Hdr := { testHdr 0x1000 with start := some (2 * 86400 * nsPerS) }
     acceptsB (testAxis id) (rowPacket h 0x502 (leI 8 100)) 0 && ((rowPacket h 0x502 (leI 8 100)).cmd 0 0 0).start.isSome)] : List Bool).all id = true := by decide +kernel

/-- StateCommandsAtTheirSample: axis 0 is ready to be enabled and quiet; it holds, moves and stops. -/
theorem witness_axis_states : ([
    ((testAxis id).axis 0).mode = .disabled, ((testAxis id).axis 0).enabling = none, !(testAxis id).causePresent 0, (testAxis id).axisMachines 0 = [0],
    (testAxis id).drivingOf 0 = [0], (testAxis id).isAligned 0, !(testAxis id).inDemand ((testAxis id).machineGroup 0), (testAxis id).axisType 0 = 0,
    (testPar P.AX_TYPE 1 (testAxis id)).axisType 0 = 1, (testPar P.AX_TYPE 1 (testAxis id)).axisMachines 0 = [], (testAxis id).axisChan 0 = some 0,
    !(testAxis id).axisDemand 0, ((testAxis id).updGroup 0 fun x => { x with mode := .sto, causes := 1 }).axisDemand 0,
    ((testAxis fun x => { x with mode := .holding }).axis 0).mode = .holding, (testPar P.HOM_METHOD 5 (testAxis id)).parN P.HOM_METHOD 0 = 5,
    ((testAxis fun x => { x with mode := .moving }).axis 0).mode = .moving, (testAxis id).pathOf 0 = none] : List Bool).all id = true := by decide +kernel

/-- Axis 0 holds, with POS_VALID and limits that bind it. -/
def testHolds : State :=
  (testAxis fun x => { x with mode := .holding }).updChan 0 fun x => { x with posValid := true }

/-- Axis 0 moves at constant velocity under MOVE_ABS, MOVE_VEL or a gear. -/
def testMoves (m : Motion) : State :=
  testAxis fun x => { x with mode := .moving, motion := m, vcmd := 2 ^ 32, slot := some 1
                             profile := some { p0 := 0, v0 := 1, a0 := 0, segs := [], t := 0, target := some 100000000 } }

/-- MovesAtTheirSample: the states and arguments of each command of a motion. -/
theorem witness_moves : ([
    !testHolds.axisDemand 0, testHolds.pathOf 0 = none, (testHolds.axis 0).mode = .holding, testHolds.axisPosValid 0,
    !(testAxis fun x => { x with mode := .holding }).axisPosValid 0, testHolds.inSoftLimits 0 100, !testHolds.hwLimit 0 1,
    !(testPar P.AX_SW_LIMIT_POS 50 testHolds).inSoftLimits 0 100, !testHolds.inPP 0, ((testMoves .vel).axis 0).motion = .vel,
    fldI (testCmd 0x504 (leI 4 (-1))).args 0 4 * ((testMoves .vel).axis 0).vcmd < 0, 1 ≤ ((testMoves .vel).activeLimits 0).v,
    ((testMoves .vel).activeLimits 0).v < (2147483647 : Int).natAbs, ((testMoves .abs).axis 0).motion = .abs,
    retargetTest (0 : Rat) (1, 1, 0) 1 1 = .behind, retargetTest (1 : Rat) (0, 0, 0) 1 1 = .accept,
    testHolds.parN P.AX_VMAX 0 ≠ 0, testHolds.parN P.AX_AMAX 0 ≠ 0, testHolds.parN P.AX_DMAX 0 ≠ 0, testHolds.parN P.AX_JMAX 0 ≠ 0,
    (testPar P.PTH_AXIS_MASK 1 testHolds).members 0 = [0], (parsePath 1 400 (le 2 1 ++ [0, 0] ++ List.replicate 12 0)).length = 1,
    testHolds.segmentsOk [0] (parsePath 1 400 (le 2 1 ++ [0, 0] ++ List.replicate 12 0)) none, (testHolds.path 0).slot = none, testHolds.axisRuns 0,
    (testPar P.GR_MASTER 1 testHolds).parN P.GR_MASTER 0 ≠ 0, ((testMoves .gear).axis 0).motion = .gear] : List Bool).all id = true := by decide +kernel

/-- AxisSampleAndEnds: a sample that is due with an empty queue, one command that is due and one that is not; each end at its time. -/
theorem witness_axis_sample : ([
    (testAxis id).sampleDue 0, ((testAxis id).axis 0).queue = [], ((testAxis fun x => { x with queue := [testCmd 0x501 []] }).axis 0).queue = [testCmd 0x501 []],
    (testAxis id).valley < 2 ^ 62,
    ((testAxis fun x => { x with enabling := some (3, 0) }).axis 0).enabling = some (3, 0), 0 + cyclesPerS ≤ (testAt cyclesPerS (testAxis id)).tm.now,
    (let e := testAt (2 ^ 40) (testAxis fun x => { x with mode := .moving, motion := .abs, followFrom := some 0, windowFrom := some 0, slot := some 1, profile := some { p0 := 0, v0 := 0, a0 := 0, segs := [], t := 0, target := some 0 } })
     e.parN P.AX_FOLLOW_TIME 0 * cyclesPerMs ≤ e.tm.now && e.parN P.AX_INPOS_TIME 0 * cyclesPerMs ≤ e.tm.now && (e.axis 0).home = none &&
      ((e.axis 0).profile.any fun f => f.ended)),
    (let e := testPar P.AX_TYPE 1 (testAxis fun x => { x with mode := .moving, driveFault := true })
     e.axisType 0 = 1 && (e.axis 0).driveFault),
    ((testAxis fun x => { x with mode := .moving, motion := .gear, fast := 2 }).axis 0).fast = 2] : List Bool).all id = true := by decide +kernel

/-- GearsAndRateMultipliers: a gear with a denominator, a rate multiplier with a pending step, one too soon, one without writes, W at and beyond its limit. -/
theorem witness_rates : ([
    0 < testRun.parN P.GR_DEN 0, testRun.clocked, testRun.parN P.RM_MODE 0 ≠ 1,
    (let r := (testRun.updRate 0 fun x => { x with ext := 2 ^ 40 }).rate 0
     (r.ext + r.w * ((10000 - r.from_ : Nat) : Int)) / 2 ^ 40 - r.emitted = 1 && r.lastStep = none),
    (let e := testRun.updRate 0 fun x => { x with ext := 2 ^ 40, lastStep := some 10000 }
     0 < testRun.parN P.RM_MIN_PERIOD 0 && (e.rate 0).lastStep = some e.tm.now),
    (let e := testAt (2 ^ 40) (testRun.updRate 0 fun x => { x with lastWrite := some 0 })
     decide (2 * e.feedCycles 0 ≤ e.tm.now)), (0 : Int).natAbs ≤ 2 ^ 40 / testRun.parN P.RM_MIN_PERIOD 0] : List Bool).all id = true := by decide +kernel

/-- Learning table 0 of axis 0, in a mode. -/
def testTable (m : TableMode) (s : State) : State :=
  testPar P.LT_TARGET_AXIS 0 (testPar P.LT_INDEX_AXIS 0 (s.updTable 0 fun x => { x with mode := m }))

/-- LearnControl: each operation where frames run and where none run, a table that no part has, and a table that is OFF. -/
theorem witness_learn : ([
    takes (testTable .active testRun) 0 0x50D (learnBytes 0 0 0 0 []) fun b => b.framesRun, takes testRun 0 0x50D (learnBytes 16 0 0 0 []) fun _ => true,
    takes (testTable .active testIdle) 0 0x50D (learnBytes 0 0 0 0 []) fun b => !b.framesRun && (b.table 0).mode = .active,
    takes testIdle 0 0x50D (learnBytes 0 1 0 0 []) fun b => (b.table 0).mode = .off,
    takes ((testTable .active testIdle).updChan 0 fun x => { x with posValid := true }) 0 0x50D (learnBytes 0 1 0 0 []) fun b =>
      !((b.axisMachines (b.parN P.LT_TARGET_AXIS 0)).any fun m => b.inDemand (b.machineGroup m)) && b.axisPosValid (b.parN P.LT_INDEX_AXIS 0),
    takes (testTable .blanked testIdle) 0 0x50D (learnBytes 0 2 0 0 []) fun b => (b.table 0).mode = .blanked,
    takes (testTable .active testIdle) 0 0x50D (learnBytes 0 3 0 256 []) fun b => 0 < b.parN P.LT_NBINS 0,
    takes (testTable .active testIdle) 0 0x50D (learnBytes 0 3 0 257 []) fun _ => true,
    takes (testTable .frozen testIdle) 0 0x50D (learnBytes 0 4 0 2 [5, -5]) fun b => (b.table 0).mode = .frozen && 2 ≤ b.parN P.LT_NBINS 0,
    takes (testTable .active testIdle) 0 0x50D (learnBytes 0 5 0 0 []) fun b => (b.table 0).mode ≠ .off,
    takes testIdle 0 0x50D (learnBytes 0 6 0 0 []) fun _ => true] : List Bool).all id = true := by decide +kernel

/-- LearningLawTorqueLoopAndObserver: a table that is OFF and one that is ACTIVE, an axis of type LOCAL in control, and an observer's residual at its time. -/
theorem witness_observer : ([
    (testRun.table 0).mode = .off, ((testTable .active testRun).table 0).mode ≠ .off, (testTable .active testRun).parN P.LT_NBINS 0 ≠ 0,
    !testRun.ltLearns 0 0, testHolds.axisType 0 = 0, (testHolds.axis 0).mode ≠ .disabled, !(testHolds.axis 0).zeroed, 0 ≤ testHolds.axisLimit 0,
    (let e := testAt (2 ^ 40) (testAxis fun x => { x with mode := .moving, obs := { x.obs with overFrom := some 0, underFrom := some 0, suspended := true } })
     0 + e.parN P.OBS_RES_TIME 0 * cyclesPerMs ≤ e.tm.now && !(e.axis 0).obs.flag && (e.axis 0).home = none && (e.axis 0).obs.suspended &&
      (e.axis 0).obs.settleTo = none && (e.chan 0).fault = 0),
    (testPar P.OBS_ACTION 1 testHolds).parN P.OBS_ACTION 0 = 1] : List Bool).all id = true := by decide +kernel

/-- A packet with its header changed. -/
def testPacket (f : Hdr → Hdr) : Packet := rowPacket (f (testHdr 0)) 0x104 []

/-- PacketChecksInOrder: a packet that fails each check in turn and passes those before it. -/
theorem witness_packet_checks : ([
    !State.reset.pw.ready, testReady.pw.ready, testReady.linkServes .host, testReady.pw.resetDue = none, !(testPacket fun h => { h with magicOk := false }).magicOk,
    !(testPacket fun h => { h with lenOk := false }).lenOk, !(testPacket fun h => { h with crcOk := false }).crcOk,
    testReady.headerCheck (testPacket fun h => { h with version := 2 }) = some 2, testReady.headerCheck (testPacket fun h => { h with flags := 2 }) = none,
    !testReady.sessionOk (testPacket fun h => { h with session := 5 }) .control,
    !(tagCheck (testPacket id) ({ testReady with jn := { testReady.jn with sessions := [{ id := 1, authed := true }] } })).1,
    seqDelta 0 3 = 3, seqDelta 5 5 = 0, testReady.findEntry 1 1 = none,
    (let e : State := { testReady with jn := { testReady.jn with sessions := [{ id := 1, lastSeq := 1 }], bank0 := [(0, { valid := true, session := 1, seq := 1, state := 1 })] } }
     (e.findEntry 1 1).isSome)] : List Bool).all id = true := by decide +kernel

/-- SessionControl: HELLO with a new session, one that is open and in mode 1; AUTH with and without a challenge; ACK_OUTCOMES, RESUME, BYE. -/
theorem witness_sessions : ([
    hearsB { testReady with jn := { testReady.jn with sessions := [] } } (rowPacket (testHdr 0) 0x100 [0, 0, 0, 16]) .control,
    asks testReady 0 0x100 [0, 0, 0, 16] .control fun b => (b.session 1).isSome, asks testReady 0 0x100 [1, 1, 0, 16] .control fun b => (b.session 1).isSome,
    asks testReady 0 0x100 [2, 0, 0, 16] .control fun _ => true,
    asks { testReady with jn := { testReady.jn with sessions := [{ id := 1, authed := true, challenge := some (List.replicate 16 0) }] } } 0 0x105
      (List.replicate 32 0) .control fun b => (b.session 1).any fun x => x.challenge.isSome,
    asks { testReady with jn := { testReady.jn with sessions := [{ id := 1, authed := true, fails := 2 }] } } 0 0x105 (List.replicate 32 0) .control fun b =>
      (b.session 1).any fun x => x.fails = 2,
    asks testReady 0 0x103 (le 4 1) .control fun b => Store.wf {} b.bank, asks testReady 0 0x102 (le 4 1 ++ [40]) .control fun b => (b.entriesOf 1).length = 0,
    asks testReady 0 0x101 [] .control fun b => b.heldEntries.length = 0] : List Bool).all id = true := by decide +kernel

/-- A query's header: bit 1 of FLAGS. -/
def testQuery (target op : Nat) (args : List Nat) : Packet := rowPacket { testHdr target with flags := 2 } op args

/-- QueriesAnswerAtOnce: each query to each of its objects. -/
theorem witness_queries : ([
    hearsB testIdle (testQuery 0 0x104 [1]) .query || hearsB testIdle (rowPacket (testHdr 0) 0x104 [1]) .query, hearsB testIdle (testQuery 0 0x200 []) .query,
    hearsB testIdle (testQuery 0 0x201 []) .query, hearsB testIdle (testQuery 0x1000 0x201 []) .query, hearsB testIdle (testQuery 0x2000 0x201 []) .query,
    hearsB testIdle (testQuery 0x3000 0x201 []) .query, hearsB testIdle (testQuery 0x4000 0x201 []) .query, hearsB testIdle (testQuery 0x7000 0x201 []) .query,
    hearsB testIdle (testQuery 0 0x202 (le 4 P.STG_SET ++ [0])) .query, testIdle.paramDef P.STG_SET ≠ none, testIdle.paramDef 0xFFFFFFFF = none,
    hearsB testIdle (testQuery 0 0x204 (le 4 P.STG_SET)) .query, !isKeyParam P.STG_SET, isKeyParam P.ETH_AUTH_KEY_0, testIdle.activeSlot = some 0,
    testReady.activeSlot = none, testIdle.pw.running = none, imageDefaults.contains P.STG_SET] : List Bool).all id = true := by decide +kernel

/-- Draft 0 in a state. -/
def testDraft (d : DraftState) (w : Store (Option Int)) (s : State) : State := s.updDraft 0 fun _ => { state := d, writes := w, checkedGen := s.pm.gen }

/-- DraftsAndLiveWrites: drafts that are free, open and checked; a write that is accepted, to an unknown parameter, out of range; live writes while the
Ridge runs and while it is stopped. -/
theorem witness_drafts : ([
    takes testIdle 0xA000 0x300 [] fun b => (b.draft 0).state = .free, takes (testDraft .opened [] testIdle) 0xAFFF 0x300 [] fun b =>
      (b.draft 0).state ≠ .free && (b.draft 1).state = .free,
    takes (testDraft .opened [] testIdle) 0xA000 0x301 (writeBytes [(P.AX_VMAX, 5)]) fun b => (b.draft 0).state ≠ .free &&
      (match b.layWrites (b.writable .host) [(P.AX_VMAX, 5)] [] with | .ok w => w.length = 1 | .error _ => false),
    (match testIdle.layWrites (testIdle.writable .host) [(0xFFFFFFFF, 5)] [] with | .ok _ => false | .error e => e = 0x200),
    (match testIdle.checkWrite (fun d => decide (d.effect = 0)) P.STG_MACHINE 0 with | .ok _ => false | .error e => e = 0x202),
    takes (testDraft .opened [] testIdle) 0xA000 0x302 [] fun b => (b.draft 0).state ≠ .free, takes testIdle 0xA000 0x302 [] fun b => (b.draft 0).state = .free,
    takes (testDraft .opened [] testIdle) 0xA000 0x304 [] fun _ => true, hearsB testIdle (testQuery 0xA000 0x305 (le 2 0 ++ le 2 256)) .query,
    takes testRun 0 0x203 (le 4 P.AX_FOLLOW_TIME ++ leI 8 5) fun b => b.framesRun && (match b.checkWrite (fun d => decide (d.effect = 0)) P.AX_FOLLOW_TIME 5 with
      | .ok v => v = 5 && (b.violations [(P.AX_FOLLOW_TIME, some v)]).all fun x => !x.2.contains P.AX_FOLLOW_TIME | .error _ => false),
    takes testIdle 0 0x203 (le 4 P.AX_FOLLOW_TIME ++ leI 8 5) fun b => !b.framesRun && P.AX_FOLLOW_TIME / 2 ^ 24 ≠ 0x50] : List Bool).all id = true := by decide +kernel

/-- A commit of draft 0 in a phase. -/
def testCommit (ph : CommitPhase) (stamp : Option Nat) (s : State) : State :=
  { s with rg := { s.rg with commit := some { slot := 3, session := 1, seq := 1, draft := some 0, mode := if stamp.isSome then 2 else 0, stamp := stamp
                                              phase := ph, values := [], ident := none } } }

/-- CommitSteps: STAGE_COMMIT that is refused at each check and one that begins; banks prepared in time, late and ahead; the marker; the stamp. -/
theorem witness_commit : ([
    takes (testDraft .checked [] testIdle) 0xA000 0x303 [0, 0] fun b => b.rg.commit = none && b.rg.waiting = [] && (b.draft 0).state = .checked &&
      (b.draft 0).checkedGen = b.pm.gen && !b.commitForbidden (testCmd 0x303 []) [] && b.rg.flipped = none && b.pm.live = [],
    takes (testCommit .armed none testIdle) 0xA000 0x303 [0, 0] fun b => b.rg.commit.isSome, takes testIdle 0xA000 0x303 [0, 0] fun b => (b.draft 0).state ≠ .checked,
    takes (testDraft .checked [] testIdle) 0xA000 0x303 [3, 0] fun b => (b.draft 0).state = .checked,
    (testCommit .preparing none testRun).framesRun, (testCommit .preparing none testRun).rg.waiting = [], !(testCommit .preparing none testIdle).framesRun,
    (testCommit .preparing (some (2 ^ 62)) testIdle).ns < 2 ^ 62,
    (let e : State := { testCommit .preparing (some 0) testIdle with tm := { testIdle.tm with t := 2 ^ 80 } }
     decide (0 + e.rg.frameLength * 5 / 2 < e.ns)),
    (let e : State := { testIdle with rg := { testIdle.rg with flipped := some { commit := { slot := 3, session := 1, seq := 1, draft := some 0, mode := 0, stamp := none, phase := .armed, values := [], ident := none }, frame := 7, flipped := true } } }
     e.rg.flipped.isSome && e.rg.commit = none && !(e.jn.fail0 && e.jn.fail1)),
    (testCommit .armed (some 0) testIdle).framesRun = false] : List Bool).all id = true := by decide +kernel

/-- StartsAndReports: a waiting command of group 0x05, and a finished one whose session is open. -/
theorem witness_starts : ([
    (let e : State := { testIdle with jn := { testIdle.jn with queue := [testCmd 0x501 []] } }
     e.pw.ready && e.jn.queue.length = 1 && e.runningCmd 3 = none && e.pw.mode ≠ .recovery),
    (let e : State := testReady.putEntry 3 { valid := true, session := 1, seq := 1, state := 2 }
     (e.session (e.entry 3).session).isSome && (e.entry 3).state = 2)] : List Bool).all id = true := by decide +kernel

/-- The safety monitor in a mode, with command `c` in progress in slot 3. -/
def testMon (m : MonState) (c : Cmd) (s : State) : State :=
  { s with sf := { s.sf with mode := m }, jn := { s.jn with running := [c] } }

/-- The configuration input has been on for a second, and a configuration draft is open. -/
def testCfg (s : State) : State :=
  testAt (2 * cyclesPerS) { s with fd := { s.fd with cfgEn := true, cfgFrom := some 0 }
                                   sf := { s.sf with draft := some { values := [], crc := some 5, writes := 0, lastCmd := 0 } } }

/-- SafetyCommands: every safety command is accepted; the monitor's modes, its configuration input, a draft, SAFETY_RESET on groups in STO and in a test. -/
theorem witness_safety_commands : ([
    hearsB testIdle (testQuery 0 0x600 []) .query, hearsB testIdle (testQuery 0x7000 0x600 []) .query,
    takes testIdle 0 0x601 [15] fun _ => true, takes testIdle 0 0x602 [] fun _ => true, takes testIdle 0 0x603 (writeBytes [(P.SAF_AX_CH, 0)]) fun _ => true,
    takes testIdle 0 0x604 [] fun _ => true, takes testIdle 0 0x605 (le 4 0) fun _ => true, takes testIdle 0 0x606 ([1, 15, 0, 0] ++ le 4 0) fun _ => true,
    takes testIdle 0 0x606 ([2, 0, 1, 0] ++ leI 4 0) fun _ => true,
    (let s := testMon .starting (testCmd 0x602 []) testIdle
     (s.runningCmd 3).isSome && s.sf.mode = .starting),
    (let s := testMon .running (testCmd 0x602 []) testIdle
     s.fd.cfgFrom = none && s.sf.draft = none && (List.range 4).all fun g => (s.group g).mode = .sto),
    (let s := testCfg (testMon .running (testCmd 0x605 (le 4 5)) testIdle)
     s.fd.cfgEn && decide (cyclesPerS ≤ s.cycleAt) && (s.sf.draft.any fun d => d.crc = some (fld (testCmd 0x605 (le 4 5)).args 0 4)) &&
      Store.wf none ([] : Store (Option Int))),
    ((testIdle.updGroup 0 fun x => { x with mode := .testing }).group 0).mode = .testing] : List Bool).all id = true := by decide +kernel

/-- The monitor runs and has its supply. -/
def testMonRun : State := { testRun with sf := { testRun.sf with mode := .running } }

/-- MonitorStartAndCauses: a start with a valid copy and with none, and the times of each cause. -/
theorem witness_monitor_causes : ([
    testRun.sf.mode = .starting, testRun.monPowered, testMonRun.sf.mode ≠ .faulted,
    (let s := testAt (2 ^ 40) { testMonRun with sf := { testMonRun.sf with axes := [] } }
     let e := s.updSafeAxis 0 fun x => { x with plausFrom := some 0, slipFrom := some 0, stillFrom := some 0, slsFrom := [(0, some 0)] }
     e.parN P.SAF_AX_PLAUS_TIME 0 * cyclesPerMs ≤ e.tm.now && e.parN P.SAF_AX_SLIP_TIME 0 * cyclesPerMs ≤ e.tm.now && (e.safeAxis 0).stillFrom = some 0 &&
      Store.read none (e.safeAxis 0).slsFrom 0 = some 0),
    (testPar P.SAF_FB_MASK 3 (testPar P.SAF_AX_CH2 1 testMonRun)).saChan P.SAF_AX_CH2 0 = some 1,
    (testPar P.SAF_FB_MASK 1 (testPar P.SAF_AX_CH 0 testMonRun)).saChan P.SAF_AX_CH 0 = some 0,
    (testPar P.SAF_AX_GROUPS 1 testMonRun).saGroups 0 = 1,
    (let e := testAt (2 ^ 40) (testMonRun.updGroup 0 fun x => { x with mode := .ss1Ramp, ss1 := some (0, 0, 0), gdFb := true, gdEn := false, fbFrom := some 0 })
     (e.group 0).ss1 = some (0, 0, 0) && !(e.group 0).causes.testBit 5 && e.parN P.SAF_AX_SS1_TIME 0 * cyclesPerMs ≤ e.tm.now &&
      e.parN P.SAF_GRP_GDFB 0 * cyclesPerMs < e.tm.now && (e.group 0).gdFb ≠ (e.group 0).gdEn),
    (let e := testAt (2 ^ 40) (testMonRun.updPair 0 fun x => { x with seen := true, waits := some (true, (testMonRun.pairDemands 0).2, 0) })
     !(e.pair 0).disc && (e.pair 0).seen && 0 + e.pairDisc 0 + 100000 ≤ e.tm.now)] : List Bool).all id = true := by decide +kernel

/-- MonitorCycleAndTests: a cycle that is due, each step of a brake test, a pulse of an output, a group that is to be tested and one in its test. -/
theorem witness_monitor_cycle : ([
    testMonRun.sf.last = none, testMonRun.sf.mbox = [],
    (let e := testPar P.SAF_OUT_TEST 1 (testMonRun.updSout 0 fun x => { x with on := true })
     e.parN P.SAF_OUT_TEST 0 = 1 && (e.sout 0).on && (e.sout 0).lastPulse = none && (List.range 4).all fun m => !(e.sout m).inPulse && (e.sout m).lastPulse = none),
    ((testMonRun.updSout 0 fun x => { x with on := true, held := true, offAt := some 10000, bad := 3 }).sout 0).offAt = some testMonRun.tm.now,
    (testMonRun.group 0).mode = .sto, !(testMonRun.group 0).tested, ((testMonRun.updGroup 0 fun x => { x with mode := .testing }).group 0).mode = .testing,
    testMonRun.sf.latent = none, ((testMonRun.updGroup 0 fun x => { x with lastPass := some 0 }).group 0).lastPass = some 0,
    (testPar P.SAF_RESET_INPUT 0 testMonRun).parN P.SAF_RESET_INPUT 0 ≠ 255, (testCfg testMonRun).sf.draft ≠ none,
    (testAt (1801 * cyclesPerS) (testCfg testMonRun)).sf.draft.any fun d => d.lastCmd + 1800 * cyclesPerS ≤ 1801 * cyclesPerS] : List Bool).all id = true := by decide +kernel

/-- The servo follows source 1, with source 3 as the other. -/
def testTime (f : TimeSt → TimeSt) : State := { testPar P.TIM_SOURCE 1 (testPar P.TIM_SOURCE_2 3 testIdle) with tm := f testIdle.tm }

/-- TimeServo: measurements that are unused, far, not taken, steps and within the window; PPS edges that are odd and plain; a source that is lost with and
without another; a TIME_SET while a source is held. -/
theorem witness_time_servo : ([
    testIdle.clocked, (testTime id).parN P.TIM_SOURCE 0 = 1, (testTime id).parN P.TIM_SOURCE_2 0 = 3,
    decide ((testTime id).parN P.TIM_STEP_MAX 0 * nsPerS < (2 ^ 62 : Int).natAbs), (testTime fun x => { x with servo := .locked }).tm.servo = .locked,
    sourceTaken (testTime id) 1, !sourceTaken (testTime fun x => { x with source := 1, lastBySource := [(1, some 0)] }) 3,
    decide ((testTime id).parN P.TIM_STEP_THRESHOLD 0 < (2 ^ 40 : Int).natAbs), decide ((testTime id).parN P.TIM_STEP_THRESHOLD 0 ≥ (5 : Int).natAbs),
    decide ((5 : Int).natAbs ≤ (testTime id).parN P.TIM_LOCK_WINDOW 0), decide ((testTime id).parN P.TIM_LOCK_WINDOW 0 < (testTime id).parN P.TIM_STEP_THRESHOLD 0),
    (testTime fun x => { x with source := 1, inWindow := 7 }).tm.inWindow + 1 = 8,
    (let e := testPar (P.CMP_EVT_FUNC + 0) 3 (testTime fun x => { x with lastPps := some 0, t := (1000000000 : Int) * 2 ^ 32 })
     e.parN P.CMP_EVT_FUNC (e.parN P.TIM_PPS_PIN 0) = 3 && decide (((e.nsBack 11 : Int) - 0 - 1000000000).natAbs ≤ 1000000)),
    (let e := testPar (P.CMP_EVT_FUNC + 0) 3 (testTime fun x => { x with lastPps := some 0 })
     decide (1000000 < ((e.nsBack 11 : Int) - 0 - 1000000000).natAbs)),
    (let e := testTime fun x => { x with source := 1, servo := .locked, now := 2 ^ 40, lastBySource := [(1, some 0), (3, some (2 ^ 40))] }
     !sourceAlive e 1 && sourceAlive e 3 && e.tm.servo = .locked),
    (let e := testTime fun x => { x with source := 1, servo := .acquiring, now := 2 ^ 40, lastBySource := [(1, some 0)] }
     !sourceAlive e 1 && !sourceAlive e 3),
    (testTime fun x => { x with servo := .holdover }).tm.servo = .holdover, hearsB testIdle (testQuery 0 0x702 []) .query, hearsB testIdle (testQuery 0 0x700 (le 4 0 ++ [1])) .query,
    takes testIdle 0 0x703 (stampBytes 5) fun b => b.tm.source = 0,
    takes (testTime fun x => { x with source := 1, servo := .locked }) 0 0x703 (stampBytes 5) fun b => b.tm.source = 1 && b.tm.servo = .locked]
    : List Bool).all id = true := by decide +kernel

/-- A report of source 2 at severity 2. -/
def testRep : CairnRep := { source := 2, level := 2, code := 5, data := List.replicate 12 0, compacts := [], epoch := 0 }

/-- A record. -/
def testRecord : CairnRec := { ns := 5, coarse := false, scree := false, source := 2, level := 2, code := 5, data := List.replicate 12 0 }

/-- The Cairn journal in a state. -/
def testCairn (f : CairnSt → CairnSt) : State := { testIdle with cn := f testIdle.cn }

/-- CairnJournal: reports below and above the least severity, with a front queue that has room, that keeps room for severity 3 and that flushes; records that
wait; a mark that waits for room. -/
theorem witness_cairn : ([
    !testIdle.pw.held && testIdle.pw.state ≠ .off, testRep.compacts = [], testRep.data.length = 12, decide (testIdle.parN P.JNL_MIN_SEVERITY 0 ≤ 2),
    !decide ((testPar P.JNL_MIN_SEVERITY 3 testIdle).parN P.JNL_MIN_SEVERITY 0 ≤ 2), decide (testIdle.cn.front.length < 960),
    (testCairn fun x => { x with front := List.replicate 960 testRecord }).cn.front.length = 960,
    (testCairn fun x => { x with front := List.replicate 1024 testRecord }).cn.front.length = 1024,
    (let e : State := { testCairn id with pw := { testIdle.pw with warning := true } }
     e.pw.warning && e.cn.flushFrom = none),
    (testTime fun x => { x with stepEpoch := 1 }).tm.stepEpoch = (testRep.epoch + 1) % 256,
    (testCairn fun x => { x with monQ := [testRecord] }).cn.monQ = [testRecord], (testCairn fun x => { x with front := [testRecord] }).cn.heldMarks = [],
    (let e := testCairn fun x => { x with front := [testRecord], heldMarks := [{ testRecord with source := 1, code := 0x8001 }], marks := [3] }
     e.clocked && e.cn.monQ = [] && isMark { testRecord with source := 1, code := 0x8001 }),
    (let e := testCairn fun x => { x with screes := [{ source := 2, code := 5, level := 2, count := 3, first := 1, last := 2, coarse := false }] }
     e.cn.front.length < 512 && !e.pw.warning && e.cn.screes.length = 1),
    (let e := testCairn fun x => { x with flushFrom := some 0, monQ := [testRecord], front := [testRecord] }
     e.cn.flushFrom = some 0 && 2 + 256 < e.ringSize),
    takes testIdle 0 0x701 (le 2 5 ++ List.replicate 12 0) fun b => b.cn.heldMarks = [] && decide (b.cn.front.length < 1024),
    (let e := testCairn fun x => { x with ring := [(0, some (0, testRecord))], newest := some 0, nextSeq := 1 }
     Store.wf none e.cn.ring && e.cn.newest = some 0 && Store.read none e.cn.ring (e.ringSlot 0) = some (0, testRecord))]
    : List Bool).all id = true := by decide +kernel

/-- Sequencer states of CAPTURE_ARM that are legal: each true at once, without an action. -/
def testStates : List TrigState :=
  List.replicate 8 { logic := 0, onMatch := 0x10, count := 1, timeout := 0, onTimeout := 0, reserved := 0,
                     a := { type := 0, probe := 0, op := 0, reserved := 0, value := 0 }, b := { type := 0, probe := 0, op := 0, reserved := 0, value := 0 } }

/-- The arguments of CAPTURE_ARM. -/
def testArm (flags : Nat) (states : List TrigState) : List Nat := [flags, 0] ++ states.flatMap stateBytes

/-- A module with four segments, in event mode, whose capture engine is in a state. -/
def testCap (f : CapSt → CapSt) : State :=
  let s := testPar P.CAP_MODE 1 (testPar P.CAP_SEGMENTS 4 testIdle)
  { s with cp := f s.cp }

/-- A capture that waits for reports of source 2 in event mode. -/
def testWaits (f : CapSt → CapSt) : State :=
  testCap fun x => f { x with state := .wait, segs := [(0, { held := true })],
                              cfg := { mode := 1, decim := 2, pre := 2, post := 4, eventType := 2, eventValue := 2 * 2 ^ 24 + 0xFFFF * 256, states := testStates } }

/-- CaptureCommands: CAPTURE_ARM that is bad, taken, full and begins, with frames and without; stops, releases and reads. -/
theorem witness_capture_commands : ([
    takes (testCap id) 0 0x710 (testArm 2 testStates) fun _ => true, testStates.all entryOk, testStates.length = 8,
    takes (testWaits id) 0 0x710 (testArm 0 testStates) fun b => b.capRuns,
    takes (testCap fun x => { x with segs := (List.range 4).map fun k => (k, { held := true }) }) 0 0x710 (testArm 0 testStates) fun b =>
      (List.range b.userSegs).all fun k => (b.seg k).held,
    takes (testCap id) 0 0x710 (testArm 0 testStates) fun b => !b.framesRun && !b.capRuns && b.cp.arming = none && decide (0 < b.userSegs) && !(b.seg 0).held,
    (let e : State := testPar P.CAP_SEGMENTS 4 testRun
     takes e 0 0x710 (testArm 1 testStates) fun b => b.framesRun && !b.capRuns && decide (0 < b.userSegs)),
    takes (testWaits id) 0 0x711 [0, 0, 0, 0, 0, 0] fun b => b.capRuns && !b.cp.rearming && !b.cp.cfg.stream,
    takes (testWaits fun x => { x with rearming := true }) 0 0x711 [0, 0, 0, 0, 0, 0] fun b => b.capRuns && b.cp.rearming,
    takes (testCap fun x => { x with segs := [(1, { held := true })] }) 0 0x711 ([1, 0] ++ le 2 0 ++ le 2 1) fun b => !b.capRuns && (b.seg 1).held && decide (1 < b.userSegs),
    takes (testCap id) 0 0x711 ([2, 0] ++ le 2 0 ++ le 2 9) fun b => decide (b.parN P.CAP_SEGMENTS 0 ≤ 9),
    hearsB (testCap fun x => { x with segs := [(1, { held := true })] }) (testQuery 0 0x712 (le 2 1 ++ le 4 0 ++ le 2 1)) .query,
    !(testCap fun x => { x with segs := [(1, { held := true })] }).capBroken 1 0 0, hearsB (testCap id) (testQuery 0 0x713 []) .query]
    : List Bool).all id = true := by decide +kernel

/-- CaptureSamples: an event that the capture asks for, between records, at the end of one, with a trigger, after it and at the last record; a re-arm that
finds a segment and one that finds none; the idle pace; the stream. -/
theorem witness_capture_samples : ([
    (testWaits id).clocked && (testWaits id).capRuns && reportMatches (testWaits id).cp.cfg.eventValue (2, 5, 2, 0), 0x02000502 / 2 ^ 24 = 2,
    edgeMatches 0x13 (3, true, 0), (testWaits fun x => { x with rearming := true, events := List.replicate 16 (2, 0, 0) }).cp.events.length = 16,
    (testWaits fun x => { x with holds := true }).cp.holds, decide (2 ≤ (testWaits fun x => { x with block := { count := 1 } }).cp.block.count + 1),
    (testWaits id).cp.cfg.states[(testWaits id).cp.seqState]? = testStates.head?, !decide (2 ≤ (testWaits id).cp.block.count + 1),
    (testWaits id).cp.trig = none && ((testWaits id).seg 0).trigger = none && !(testWaits id).cp.cfg.stream,
    (let e := testWaits fun x => { x with holds := true, block := { count := 1 }, trig := some (0, 0, 0, 1), segs := [(0, { held := true, trigger := some 0, pre := 0, records := List.replicate 3 { ns := 0, first := 0, flags := 0, values := [] } })] }
     (e.seg 0).trigger = some 0 && decide ((e.seg 0).pre + e.cp.cfg.post ≤ (e.seg 0).records.length + 1) && !e.cp.cfg.rearm),
    !testIdle.framesRun && testIdle.clocked && !testIdle.capRuns,
    (let e := testPar P.CAP_SEGMENTS 4 (testPar P.CAP_EVID_SEGMENTS 1 (testPar P.CAP_EVID_DIV 2 testIdle))
     let e := e.updEvid fun x => { x with runs := true }
     e.cp.evid.runs && e.parN P.CAP_EVID_SEGMENTS 0 = 1 && e.evidBlock = 2),
    (testWaits fun x => { x with rearming := true }).cp.events = [], decide (1 < (testWaits id).userSegs) && !((testWaits id).seg 1).held,
    (testWaits fun x => { x with rearming := true, segs := (List.range 4).map fun k => (k, { held := true }) }).userSegs = 4,
    (let e : State := (testCap fun x => { x with stream := [(0, 0, 8)], segs := [(0, { held := true, size := 8 })] }).updPort 0 fun p =>
       { p with up := true, arp := [{ ip := 0, mac := 5, expires := 2 ^ 60 }] }
     let e := e.updWin 15 fun w => { w with level := 8 }
     (e.port e.streamPort).up && e.clocked && (e.port e.streamPort).resolve e.tm.now (e.nextHop e.streamPort (e.parN P.CAP_STREAM_IP 0)) = some 5 && (e.win 15).level = 8)]
    : List Bool).all id = true := by decide +kernel

/-- The host port in a state. -/
def testHost (f : HostSt → HostSt) : State := { testIdle with hp := f testIdle.hp }

/-- A header word of the host port: sync, write bit, increment bit, number of words less one, address. -/
def testWord (write inc : Bool) (n addr : Nat) : Nat := 0xA5 * 2 ^ 24 + (if write then 2 ^ 23 else 0) + (if inc then 2 ^ 22 else 0) + (n - 1) * 256 + addr

/-- HostPortFrames: a port that is served; headers of each kind; a mailbox with room, without and with something in front of a packet; an old report. -/
theorem witness_host_port : ([
    testIdle.hostServed, (mbxTake testIdle).1.isNone, testIdle.pw.resetDue = none, testIdle.hp.reply = [] && testIdle.hp.waiting = [],
    (let h := testWord true false 1 5
     decide (h / 2 ^ 24 = 0xA5 ∧ h / 2 ^ 16 % 64 = 0 ∧ h / 256 % 256 + 1 = 1 ∧ h % 256 = 5) && h.testBit 23 && !h.testBit 22),
    (let h := testWord false false 2 0x0A
     decide (h / 2 ^ 24 = 0xA5 ∧ h / 2 ^ 16 % 64 = 0 ∧ h / 256 % 256 + 1 = 2 ∧ h % 256 = 0x0A) && !h.testBit 23 && !h.testBit 22),
    decide (0x3F < testWord true false 1 0x40 % 256), !({ testIdle with pw := { testIdle.pw with strapHost := true } } : State).hostServed,
    decide (2048 < (testHost fun x => { x with mbxIn := List.replicate 2048 0 }).hp.mbxIn.length + 1),
    (mbxTake (testHost fun x => { x with mbxIn := [7] })).1.isNone,
    (let e := testHost fun x => { x with mbxOut := [[1, 2]], reply := [(1, true)] }
     e.hp.mbxOut.all (fun p => p ≠ []) && e.hp.reply.all fun x => x.2),
    (let e := testHost fun x => { x with mbxIn := [7, 0x5A57] }
     e.pw.ready && decide (e.hp.mbxIn[0]? = some 7) && decide (e.hp.mbxIn[1]? = some 0x5A57) && (mbxTake { e with hp := { e.hp with mbxIn := e.hp.mbxIn.drop 1 } }).1.isNone),
    (let e := testAt (2 ^ 40) (testHost fun x => { x with mbxIn := [0x5A57], partialFrom := some 0 })
     decide (0 + 100 * cyclesPerMs ≤ e.tm.now) && (mbxTake { e with hp := { e.hp with mbxIn := e.hp.mbxIn.drop 1 } }).1.isNone),
    (let e := testAt (2 ^ 40) (testHost fun x => { x with waiting := [(0, 1, 1, [0, 0, 0, 16])] })
     decide (0 + cyclesPerS ≤ e.tm.now) && (([0, 0, 0, 16] : List Nat).getD 3 0).testBit 4)]
    : List Bool).all id = true := by decide +kernel

/-- RegistersAndWindows: addresses that answer, in each region, and one that nothing answers; a latched upper word; a window with bytes and room, and a full
one. -/
theorem witness_registers : ([
    !testIdle.responds 0xF0000000, testIdle.responds 0x100 && testIdle.region 0x100 = .tcm, testIdle.region 0x10000000 = .commons,
    testIdle.region 0x20000000 = .spur 0 && testIdle.responds 0x20000000, testRun.framesRun,
    testIdle.region 0x30000000 = .capture, testIdle.region 0x40000000 = .mram && testIdle.region 0x40400000 ≠ .tcm,
    testIdle.responds 0x50000000 && decide (0 < testIdle.stages), Store.read [] testIdle.mm.latches (0 * 2 ^ 32 + 0x100) = ([] : List Nat),
    testIdle.hostServed && (mbxTake testIdle).1.isNone && testIdle.pw.resetDue = none,
    (let e := testIdle.updWin 3 fun w => { w with len := 64, level := 8, enable := true }
     decide (56 ≤ (e.win 3).len - (e.win 3).level ∧ 8 ≤ (e.win 3).level ∧ 4 ≤ (e.win 3).len)),
    (let e := testIdle.updWin 3 fun w => { w with len := 64, level := 64 }
     decide ((e.win 3).len - (e.win 3).level < 1)),
    (let e : State := { testIdle with mm := { testIdle.mm with latches := [(5 * 2 ^ 32 + 0x100, [7])] } }
     Store.read [] e.mm.latches (5 * 2 ^ 32 + 0x100) = ([7] : List Nat) && e.responds 0x100)]
    : List Bool).all id = true := by decide +kernel

/-- Port 0 runs with an address. -/
def testNet (f : EthSt → EthSt) : State :=
  (testPar P.ETH_ENABLE 1 (testPar P.ETH_IP 0x0A000001 testIdle)).updPort 0 fun p => f { p with up := true, speed := 3 }

/-- A frame to port 0. -/
def testEth (type : Nat) (ok : Bool) : EthFrame := { port := 0, destMac := 0xFFFFFFFFFFFF, srcMac := 5, vlan := none, etherType := type, payload := [], fcsOk := ok }

/-- An IPv4 datagram without data from 10.0.0.2 to the module's command port. -/
def testDatagram : List Nat :=
  let h := [0x45, 0, 0, 28, 0, 0, 0, 0, 64, 17, 0, 0, 10, 0, 0, 2, 10, 0, 0, 1]
  let w := (List.range 10).map fun i => ofBe (sub h (2 * i) 2)
  let n := w.foldl (· + ·) 0
  let c := 0xFFFF - (n % 65536 + n / 65536)
  h.take 10 ++ be 2 c ++ h.drop 12 ++ be 2 5000 ++ be 2 45320 ++ be 2 8 ++ be 2 0

/-- EthernetPorts: a port that runs and one that does not; a frame for another VLAN; an ARP request, an echo within the budget and beyond it; a link that
comes up and one that is up; counting records that are due. -/
theorem witness_ethernet : ([
    (testNet id).portRuns 0, !testIdle.portRuns 0, (testEth 0x0800 true).fcsOk && !(testEth 0x0800 false).fcsOk, (testEth 0x0800 true).destMac = 0xFFFFFFFFFFFF,
    (testEth 0x0800 true).vlan = none && (testNet id).parN P.ETH_VLAN 0 = 0, (testPar P.ETH_VLAN 5 (testNet id)).parN P.ETH_VLAN 0 ≠ 0,
    (testNet id).udpData 0 [] = none, ((testNet id).udpData 0 testDatagram).isSome, (testNet id).parN P.ETH_IP 0 = 0x0A000001,
    decide (((testNet id).port 0).answers < 100),
    (let e := testNet fun p => { p with answers := 100 }
     !decide ((e.port 0).answersFrom + cyclesPerS ≤ e.tm.now) && !decide ((e.port 0).answers < 100)),
    (testPar P.ETH_ICMP 1 (testNet id)).parN P.ETH_ICMP 0 ≠ 0,
    (let e := testPar P.ETH_ENABLE 1 testIdle
     !(e.port 0).up && e.clocked && e.parN P.ETH_ENABLE 0 ≠ 0 && e.parN P.ETH_PTP_MODE 0 ≠ 1),
    ((testNet id).port 0).up, (testNet id).hp.countedAt = none && (testNet id).clocked] : List Bool).all id = true := by decide +kernel

/-- Port 0 runs PTP alone. -/
def testPtp (f : EthSt → EthSt) : State := testPar P.ETH_PTP_MODE 1 (testNet f)

/-- A message of source 7. -/
def testMsg (type : PtpType) : PtpMsg :=
  { type := type, domain := (testPtp id).parN P.ETH_PTP_DOMAIN 0, twoStep := false, source := 7 * 2 ^ 16, seq := 1, stamp := 5, correction := 0, back := 0,
    requester := 7 * 2 ^ 16, dataset := [1, 6, 0x20, 0, 1, 7, 0] }

/-- PtpAndDriveExchange and EthernetPorts: with `c` the clock identity and `p` the port's MAC address, both open in Config, an answer to the module's own
request, the identity of another clock, and another MAC address. -/
theorem witness_identities (c p : Nat) : c * 2 ^ 16 / 2 ^ 16 = c ∧ (c + 1) * 2 ^ 16 / 2 ^ 16 ≠ c ∧ p + 1 ≠ p := by omega

/-- Axis 0 is driven through Ethernet port 0; its setpoint is due. -/
def testDx : State :=
  testPar P.ETH_DX_PORT 0 <| testPar P.AX_TYPE 1 (testPar P.AX_REMOTE_LINK 0 (testPar P.AX_REMOTE_NODE 9 (testPar P.ETH_ENABLE 1 (testPar P.ETH_IP 0x0A000001
    ((testDrive.updPort 0 fun p => { p with up := true }).updAxis 0 fun x => { x with sampled := some testDrive.rg.frameStart, sentFrame := some testDrive.rg.frame })))))

/-- PtpAndDriveExchange: the port states and data of each message; Announce of a better, a worse and a slave-only master; what is due to be sent; a reply of
the node that the next setpoint waits for. -/
theorem witness_ptp : ([
    (testPtp id).ptpRuns 0, !(testPtp id).ptpRuns 1, (testMsg .sync).domain = (testPtp id).parN P.ETH_PTP_DOMAIN 0,
    ((testPtp fun p => { p with ptpState := 9, best := some (1, 7 * 2 ^ 16) }).port 0).best = some (1, 7 * 2 ^ 16),
    ((testPtp fun p => { p with ptpState := 8, best := some (1, 7 * 2 ^ 16), syncRx := some (1, 3) }).port 0).syncRx = some (1, 3),
    (testPar P.ETH_PTP_DELAY 0 (testPtp id)).parN P.ETH_PTP_DELAY 0 ≠ 1, (testPar P.ETH_PTP_DELAY 1 (testPtp id)).parN P.ETH_PTP_DELAY 0 = 1,
    ((testPtp fun p => { p with ptpState := 6 }).port 0).ptpState = 6,
    ((testPtp fun p => { p with delayTx := some (1, 3), syncDiff := some 2 }).port 0).delayTx = some ((testMsg .delayResp).seq, 3),
    ((testPtp fun p => { p with pdelayRx := some (1, 3) }).port 0).pdelayRx = some ((testMsg .pdelayRespFollowUp).seq, 3),
    decide ((1 : Nat) < (testPtp id).parN P.ETH_PTP_PRIO1 0) && decide ((testPtp id).parN P.ETH_PTP_PRIO1 0 < 255),
    (testPar P.ETH_PTP_SLAVE_ONLY 1 (testPtp id)).parN P.ETH_PTP_SLAVE_ONLY 0 = 1, (testPar P.ETH_PTP_SLAVE_ONLY 0 (testPtp id)).parN P.ETH_PTP_SLAVE_ONLY 0 ≠ 1,
    ((testPtp id).port 0).ptpState = 1 && ((testPtp id).port 0).best = none, testDx.framesRun && testDx.dxAxes = [0] && testDx.parN P.ETH_DX_PORT 0 = 0,
    testDx.portRuns 0 && testDx.parN P.AX_REMOTE_NODE 0 = 9, testDx.replyInTime 0 && !testDx.inPP 0 && (testDx.axis 0).enabling = none,
    decide ((0xFFFF + 1) % 65536 = testDx.dx.cycle) && !testDx.dx.replied.contains 9] : List Bool).all id = true := by decide +kernel

/-- CAN controller 0 is ACTIVE. -/
def testCan (f : CanSt → CanSt) : State := testIdle.updCtl 0 fun c => f { c with state := .active }

/-- A transmit buffer of command slot 3. -/
def testTx (st : TxState) : TxBuf := { state := st, slot := some 5, ident := 1, data := [1] }

/-- CAN_SEND's arguments: buffer, flags, identifier, length, mask, mark, timeout and data. -/
def testSend (buffer flags : Nat) (data : List Nat) : List Nat := sendBytes { buffer := buffer, flags := flags, ident := 1, length := data.length, ttMask := 0, ttMark := 0, timeout := 0, data := data }

/-- CanTransmission: CAN_SEND to a controller that is OFF, without a free buffer, beyond the buffers, with data it cannot send, and legal; the buffers a CAN_CANCEL
meets; a frame in transmission with and without a late cancel; bus-off; a timeout that is due; a time mark. -/
theorem witness_can_transmission : ([
    takes testIdle 0x8000 0xA02 (testSend 0xFF 0 [1]) fun b => (b.ctl 0).state = .off,
    takes (testCan fun c => { c with tx := (List.range 32).map fun k => (k, testTx .pending) }) 0x8000 0xA02 (testSend 0xFF 0 [1]) fun b => (b.ctl 0).state = .active,
    takes (testCan id) 0x8000 0xA02 (testSend 3 0 [1]) fun b => (b.ctl 0).state = .active, takes (testPar P.CAN_MODE 0 (testCan id)) 0x8000 0xA02 (testSend 8 1 [1]) fun b => b.parN P.CAN_MODE 0 = 0,
    takes (testCan id) 0x8000 0xA02 (testSend 8 0 [1]) fun b => (b.ctl 0).tx = [], takes (testCan id) 0x8000 0xA03 [9] fun b => (b.ctl 0).tx = [],
    takes (testCan fun c => { c with tx := [(9, testTx .pending)] }) 0x8000 0xA03 [9] fun b => (Store.read {} (b.ctl 0).tx 9).state = .pending && (b.ctl 0).backlog = [],
    takes (testCan fun c => { c with tx := [(9, testTx .sending)] }) 0x8000 0xA03 [9] fun b => (Store.read {} (b.ctl 0).tx 9).state = .sending,
    takes (testCan fun c => { c with tx := [(2, testTx .pending)] }) 0x8000 0xA03 [2] fun b => (Store.read {} (b.ctl 0).tx 2).state ≠ .free,
    (Store.read {} ((testCan fun c => { c with tx := [(9, testTx .sending)] }).ctl 0).tx 9).state = .sending,
    (Store.read {} ((testCan fun c => { c with tx := [(9, { testTx .sending with cancels := [6] })] }).ctl 0).tx 9).cancels ≠ [],
    (let e := testPar P.CAN_BUSOFF_MAX 1 (testCan fun c => { c with tx := [(9, testTx .sending)] })
     e.parN P.CAN_BUSOFF_MAX 0 = 1 && ((e.ctl 0).busOffs = []) && Store.wf {} (e.ctl 0).tx),
    (Store.read {} ((testCan fun c => { c with tx := [(9, { testTx .pending with deadline := some 0 })] }).ctl 0).tx 9).deadline = some 0,
    (Store.read {} ((testCan fun c => { c with tx := [(9, { testTx .pending with tt := some (0, 0) })] }).ctl 0).tx 9).tt = some (0, 0),
    (let e := testIdle.updCtl 0 fun c => { c with state := .busOff, busOffs := [0] }
     (e.ctl 0).state = .busOff && (e.ctl 0).busOffs = [0])] : List Bool).all id = true := by decide +kernel

/-- A received frame. -/
def testRx : RxFrame := { word0 := 1, fd := false, brs := false, esi := false, filter := 32, ns := 5, data := [1] }

/-- CanReception: frames for the command identifier, the reference identifier, filter 0 and none; a full FIFO; locks held, timed out and free; CAN_READ of an
empty FIFO, one frame and too many; the first and a later segment. -/
theorem witness_can_reception : ([
    (testPar P.CAN_CMD_ID 5 (testCan id)).parN P.CAN_CMD_ID 0 = 5, (testPar P.CAN_TT_ROLE 2 (testCan id)).parN P.CAN_TT_ROLE 0 = 2,
    ((testPar (P.CAN_RXF_ID_0 + 0) (2 ^ 30 + 5) (testCan id)).parN P.CAN_RXF_ID_0 0).testBit 30, (testCan id).parN P.CAN_CMD_ID 0 = 0 && (testCan id).parN P.CAN_TT_ROLE 0 = 0,
    decide (32 ≤ ((testCan fun c => { c with fifoLevel := 32 }).ctl 0).fifoLevel), (((testCan id).ctl 0).rx 50).lock = none,
    ((testCan fun c => { c with fifo := [(2, { lock := some (1, 0), frame := some testRx, waiting := some testRx })] }).ctl 0).rx 50 =
      { lock := some (1, 0), frame := some testRx, waiting := some testRx },
    decide (0 + 100 * cyclesPerUs ≤ (testAt (2 ^ 40) (testCan id)).tm.now), takes (testCan id) 0x8000 0xA04 [1] fun b => (b.ctl 0).fifoLevel = 0,
    takes (testCan fun c => { c with fifoLevel := 1, fifo := [(0, { frame := some testRx })] }) 0x8000 0xA04 [1] fun b =>
      (b.ctl 0).fifoLevel = 1 && (Store.read {} (b.ctl 0).fifo 0).frame = some testRx && (Store.read {} (b.ctl 0).fifo 0).lock = none,
    takes (testCan id) 0x8000 0xA04 [33] fun _ => true, (testPar P.CAN_CMD_ID 5 (testCan id)).tm.now = (testCan id).tm.now,
    ((testPar P.CAN_CMD_ID 5 (testCan fun c => { c with cmdRx := some ([1], 1, false, 0) })).ctl 0).cmdRx = some ([1], 1, false, 0)]
    : List Bool).all id = true := by decide +kernel

/-- Axis 0 is driven through CAN controller 0, node 9. -/
def testCanAxis (f : AxisSt → AxisSt) : State :=
  testPar P.AX_TYPE 1 (testPar P.AX_REMOTE_LINK 1 (testPar P.AX_REMOTE_NODE 9 (testPar P.CAN_PROFILE 7 (testPar P.CAN_HB_TIME 100 (testPar P.CAN_NODE_ID 3
    ((testDrive.updCtl 0 fun c => { c with state := .active, nmt := 5, beats := [(9, 1)] }).updAxis 0 fun x =>
      f { x with sampled := some testDrive.rg.frameStart, sentFrame := some testDrive.rg.frame }))))))

/-- CanReferenceAndProfiles: a time master and a time slave; a SYNC with its axes; a TPDO of a node with an axis and one without; a lost heartbeat; SDO requests
for a known object, an open one and none; a setpoint of its session. -/
theorem witness_can_profiles : ([
    (testPar P.CAN_TT_ROLE 1 (testCan id)).parN P.CAN_TT_ROLE 0 = 1, (Store.read ({} : TxBuf) ((testCan id).ctl 0).tx 1).state = .free,
    (Store.read ({} : TxBuf) ((testCan fun c => { c with tx := [(1, testTx .sending)] }).ctl 0).tx 1).state = .sending,
    (let e := testPar P.CAN_TT_ROLE 2 (testPar P.TIM_CAN_CTRL 0 (testCan fun c => { c with ttLast := some (3, 100) }))
     e.parN P.CAN_TT_ROLE 0 = 2 && (([4, 131] : List Nat).getD 1 0).testBit 7 && (e.ctl 0).ttLast = some (131 % 64, 100) && e.parN P.TIM_CAN_CTRL 0 = 0 &&
       (ofStamp (([4, 131] ++ stampBytes 50).drop 2)).isSome),
    (let e := testAt (2 ^ 40) (testCan fun c => { c with ttSync := true, ttLast := some (3, 100) })
     (e.ctl 0).ttSync && decide ((e.ctl 0).ttFrom + 2 * e.parN P.CAN_TT_CYCLE 0 * cyclesPerUs ≤ e.tm.now)),
    (let e := testCanAxis id
     e.framesRun && e.axisRuns 0 && e.axisType 0 = 1 && e.parN P.AX_REMOTE_LINK 0 = 1 && (e.axis 0).sampled = some e.rg.frameStart && (e.parN P.CAN_PROFILE 0).testBit 2 &&
       !e.inPP 0 && e.replyInTime 0 && (e.axis 0).enabling = none && e.parN P.AX_REMOTE_NODE 0 = 9),
    (let e := testAt (2 ^ 40) (testCanAxis fun x => { x with mode := .holding })
     Store.read 0 (e.ctl 0).beats 9 = 0 + 1 && e.parN P.CAN_HB_TIME 0 = 100 && decide (2 * 0 + 3 * e.parN P.CAN_HB_TIME 0 * cyclesPerMs ≤ 2 * e.tm.now) &&
       (e.axis 0).mode = .holding && (e.axis 0).home = none),
    ((testCanAxis id).parN P.CAN_PROFILE 0).testBit 1 && ((testCanAxis id).ctl 0).nmt ≠ 4 && ((testCanAxis id).parN P.CAN_PROFILE 0).testBit 0,
    decide (0x40 / 32 = 2 ∧ 0x23 / 32 = 1 ∧ 0x17 + 256 * 0x10 = 0x1017 ∧ 0x18 + 256 * 0x10 = 0x1018 ∧ 0x00 + 256 * 0x14 = 0x1400),
    (let e := testPar P.CAN_417_SESSION 1 (testCanAxis id)
     (e.session (e.parN P.CAN_417_SESSION 0)).isSome && decide (e.open_ < 1024) && e.freeSlot = some 0 && e.jn.queue = [] && e.pw.ready &&
       e.headerCheck (Packet.mk (.can 0) true true true 1 0 1 1 0x502 0x1000 (leI 8 100) [] false) = none)] : List Bool).all id = true := by decide +kernel

/-- Both field links are up, supply VFLD_B is known. -/
def testField (f : FieldSt → FieldSt) : State :=
  let s := testIdle
  { s with fd := f { s.fd with linkA := true, linkB := true, safe := 0, va := { state := .good, known := true }, vb := { state := .good, known := true } } }

/-- FieldInputsAndOutputs: IO_WRITE that splits a pair, writes a test source, finds the link lost, and waits; its application, and its loss with the link; faults,
links that are lost and return, and supplies that agree on each level. -/
theorem witness_field : ([
    (testField id).clocked && (testField id).fd.linkA && (testField id).fd.va.state ≠ .missing,
    takes (testPar P.FIO_PAIR_MASK 1 (testField id)) 0 0xA01 (le 2 1 ++ le 2 1) fun b => (b.parN P.FIO_PAIR_MASK 0).testBit 0 && !(b.parN P.FIO_QUAD_MASK 0).testBit 0,
    takes (testPar P.SAF_PAIR_MODE 1 (testPar P.SAF_PAIR_TSRC_A 0 (testField id))) 0 0xA01 (le 2 1 ++ le 2 1) fun b =>
      b.parN P.SAF_PAIR_MODE 0 ≠ 0 && b.parN P.SAF_PAIR_TSRC_A 0 = 0 && !(b.parN P.FIO_PAIR_MASK 0).testBit 0 && !(b.parN P.FIO_QUAD_MASK 0).testBit 0,
    takes testIdle 0 0xA01 (le 2 1 ++ le 2 1) fun b => !b.fd.linkB && !b.testSource 0 && !(b.parN P.FIO_PAIR_MASK 0).testBit 0,
    takes (testField id) 0 0xA01 (le 2 1 ++ le 2 1) fun b => b.fd.linkB && !b.testSource 0,
    ((testField fun x => { x with writes := [(3, 1, 1, none)] }).fd.writes = [(3, 1, 1, none)]), (testField id).fd.linkB && !testIdle.fd.linkB,
    !(testField id).fd.fault.testBit 3, !(testField id).testSource 3,
    (testField fun x => { x with linkB := false, lostB := some 0 }).fd.lostB = some 0, (testField fun x => { x with linkA := false, lostA := some 0 }).fd.lostA = some 0,
    ([200, 200, 200] : List Nat).all (fun u => decide (198 ≤ u)) && ([100, 100, 100] : List Nat).all (fun u => decide (u < 120)) &&
      ([150, 150, 150] : List Nat).all (fun u => decide (u < 192) && decide (120 ≤ u)),
    hearsB (testField id) (testQuery 0 0xA00 []) .query, testRun.framesRun] : List Bool).all id = true := by decide +kernel

/-- ResetsAndStart: the states in which each source acts; domain resets that are held and due; RESET_REQUEST from the host port and from another link; start
sequences that run a copy and that come to recovery; a supply that dips and returns. -/
theorem witness_resets : ([
    testIdle.pw.state ≠ .off && testIdle.clocked && !testIdle.inReset 1, decide (testIdle.pw.domainTimes.length < testIdle.parN P.PWR_DOMAIN_ESCALATE 0),
    State.reset.pw.held && decide (State.reset.pw.loads < 8), ({ State.reset with pw := { State.reset.pw with resetSource := 3 } } : State).pw.resetSource = 3,
    ({ State.reset with pw := { State.reset.pw with resetSource := 5 } } : State).pw.held,
    (let e := testAt 1000 { testIdle with pw := { testIdle.pw with inReset := [(1, 1, 0)] } }
     e.inReset 1 && e.clocked && decide (0 + 32 ≤ e.tm.now) && e.jn.done = [] && (e.jn.fail0 && e.jn.fail1) = false),
    (let e := testAt 1000 { testIdle with pw := { testIdle.pw with inReset := [(0xC, 1, 0)] } }
     e.inReset 0xC && e.pw.inReset.find? (fun x => decide (x.1 = 0xC)) = some (0xC, 1, 0) && decide (0 + 320 ≤ e.tm.now)),
    takes testIdle 0 0x801 [1, 0] fun _ => true, takes testIdle 0 0x801 [2, 2] fun b => !b.framesRun, takes testRun 0 0x801 [2, 2] fun b => b.framesRun,
    (State.reset.slot 0x100).state = .valid, (State.reset.slot 0x101).state ≠ .valid, !testIdle.pw.held,
    ({ State.reset with pw := { State.reset.pw with loads := 8 } } : State).pw.held, !testIdle.pw.warning, !(!State.reset.pw.held && State.reset.pw.state ≠ .off),
    (let e := testAt (2 ^ 40) { testIdle with pw := { testIdle.pw with warning := true, warnFrom := some 0 } }
     e.pw.warnFrom = some 0 && decide (0 + 5 * cyclesPerMs ≤ e.tm.now))] : List Bool).all id = true := by decide +kernel

/-- An entry into a state whose next block is asked. -/
def testEntry (target : PowerState) (blocks : List Nat) (retry : Option Nat) : State :=
  { testIdle with pw := { testIdle.pw with entry := some { slot := 3, session := 1, seq := 1, target := target, blocks := blocks, stopped := [], asked := 0, since := testIdle.tm.now, retryAt := retry } } }

/-- A module in a power state, with a wake at a step. -/
def testPower (st : PowerState) (wake : Option WakeSt) : State := { testIdle with pw := { testIdle.pw with state := st, wake := wake } }

/-- A wake. -/
def testWake (left : PowerState) (step tries : Nat) (retry : Option Nat) : WakeSt :=
  { source := 5, left := left, step := step, tries := tries, began := 0, stepFrom := 0, retryAt := retry, slot := none }

/-- PowerStatesAndWakes: POWER_STATE beyond the states, to the present one, and to each other; blocks that are asked and that refuse; wakes of each source from
each state; steps, tries and retries. -/
theorem witness_power : ([
    takes testIdle 0 0x800 [4] fun _ => true, takes testIdle 0 0x800 [0] fun b => b.pw.state = .run,
    takes testIdle 0 0x800 [2] fun b => b.pw.state ≠ .standby && b.pw.wake = none && b.pw.entry = none && !b.pw.held,
    takes (testPower .doze none) 0 0x800 [0] fun b => b.pw.state = .doze && b.pw.wake = none,
    takes (testPower .doze (some (testWake .doze 1 0 none))) 0 0x800 [0] fun b => b.pw.wake.isSome,
    (let e := testEntry .standby [9, 6] none
     e.clocked && e.pw.entry.any fun x => x.retryAt = none && decide (e.tm.now ≤ x.since + cyclesPerMs) && !e.capRuns),
    (let e := testEntry .off [2] none
     e.pw.entry.any fun x => x.blocks = [2]),
    (testAt (2 ^ 40) (testEntry .standby [9] none)).pw.entry.any fun x => decide (x.since + cyclesPerMs < 2 ^ 40), (testRun.updStage 0 fun x => { x with mode := .driving }).stages = testRun.stages,
    (testWaits id).capRuns, (testEntry .doze [2] none).pw.entry.any fun x => x.target = .doze && x.blocks = [2],
    (testEntry .standby [0x10] none).pw.entry.any fun x => x.target = .standby && x.blocks = [0x10],
    (testEntry .standby [9] (some 0)).pw.entry.any fun x => x.retryAt = some 0,
    (testPower .doze none).pw.state = .doze && (testPower .standby none).pw.state = .standby && (testPower .off none).pw.state = .off,
    (testPar P.PWR_WAKE_TIME 5 (testPower .standby none)).parN P.PWR_WAKE_TIME 0 ≠ 0xFFFF,
    (testPar P.HSP_WAKE_ON_SEL 1 (testPower .standby none)).parN P.HSP_WAKE_ON_SEL 0 = 1, (testPar P.ETH_WAKE_EN 1 (testPower .standby none)).parN P.ETH_WAKE_EN 0 = 1,
    (((testPar P.CAN_WAKE_MODE 1 (testPower .standby none)).updCtl 0 fun c => { c with state := .sleep }).ctl 0).state = .sleep,
    (testPar P.CAN_WAKE_MODE 1 (testPower .standby none)).parN P.CAN_WAKE_MODE 0 = 1, (testPar P.PWR_WAKE_IN_MASK 1 (testPower .standby none)).parN P.PWR_WAKE_IN_MASK 0 ≠ 0,
    (let e := testPar P.PWR_WAKE_TIME 0 (testPower .standby none)
     e.minuteOfDay = e.parN P.PWR_WAKE_TIME 0),
    (testPower .standby (some (testWake .standby 5 0 none))).mm.lost = [],
    ({ testPower .standby (some (testWake .standby 5 0 none)) with mm := { testIdle.mm with lost := [(0, 2)] } } : State).mm.lost = [(0, 2)],
    (testPower .doze (some (testWake .doze 1 0 none))).pw.wakeFail = none, (testPower .standby (some (testWake .standby 6 0 none))).pw.wake = some (testWake .standby 6 0 none),
    (let e := testAt (2 ^ 40) (testPower .standby (some (testWake .standby 2 2 none)))
     e.pw.wake.any fun x => decide (x.stepFrom + 5000 * cyclesPerUs ≤ e.tm.now) && x.tries = 2),
    (testPower .standby (some (testWake .standby 2 1 (some 0)))).pw.wake.any fun x => x.retryAt = some 0] : List Bool).all id = true := by decide +kernel

/-- The Traverse slot 1 in a state. -/
def testSlot (x : SlotSt) : State := { testReady with rg := { testReady.rg with slots := (1, x) :: testReady.rg.slots } }

/-- ImageCommands: a slot that is held, one that is too small and one that takes an image; data at the place that is due and at another; the ends and activations
that the present state refuses, and one that it takes. -/
theorem witness_images : ([
    takes testIdle 0x9000 0x900 (le 4 256) fun b => (b.slot 0).state = .active, takes testReady 0x9001 0x900 (le 4 (2 ^ 31)) fun b => decide (slotRoom 1 < 2 ^ 31) && (b.slot 1).state ≠ .active,
    takes testReady 0x9001 0x900 (le 4 256) fun b => decide (256 ≤ slotRoom 1) && (b.slot 1).state = .empty,
    takes (testSlot { state := .writing, written := 16, length := 256 }) 0x9001 0x901 (le 4 16 ++ [1, 2]) fun b => (b.slot 1).state = .writing && (b.slot 1).written = 16,
    takes (testSlot { state := .writing, written := 16, length := 256 }) 0x9001 0x901 (le 4 8 ++ [1, 2]) fun b => (b.slot 1).written ≠ 8,
    takes testReady 0x9001 0x902 [] fun b => (b.slot 1).state ≠ .writing,
    takes (testSlot { state := .writing, written := 16, length := 256 }) 0x9001 0x902 [] fun b => (b.slot 1).state = .writing,
    takes testReady 0x9001 0x903 [] fun b => (b.slot 1).state ≠ .valid && !b.framesRun, takes testReady 0x9100 0x903 [] fun b => (b.slot 0x100).state = .valid,
    takes (testSlot { state := .valid, written := 256, length := 256, image := some testImage }) 0x9001 0x903 [] fun b =>
      !b.framesRun && (b.slot 1).state = .valid && (b.slot 1).image = some testImage && (List.range b.stages).all fun j => (b.stage j).mode ≠ .driving,
    hearsB testReady (testQuery 0 0x904 []) .query] : List Bool).all id = true := by decide +kernel

/-- AgeingController: AGEING_REPORT's sections; a slack below the target, within its margin and above it for a day; an element that serves; the band that changes. -/
theorem witness_ageing : ([
    hearsB testIdle (testQuery 0 0x802 [0]) .query, hearsB testIdle (testQuery 0 0x802 ([1] ++ le 2 0 ++ le 2 8)) .query,
    hearsB testIdle (testQuery 0 0x802 [2]) .query, testIdle.clocked && decide (0 < testIdle.spurs) && !testIdle.rg.retired.testBit 0,
    decide (testIdle.parN P.AGE_SLACK_TARGET 0 = 60), decide (({ testAt (2 ^ 50) testIdle with ag := { testIdle.ag with highFrom := some 0 } } : State).tm.now ≥ 0 + 24 * 3600 * cyclesPerS),
    testIdle.elementServes 0 && testIdle.elementServes 13, testIdle.ag.band = 0 && decide (0 ≠ 2), decide (testIdle.parN P.AGE_TREND_DAYS 0 ≥ 1),
    testIdle.rg.retireReq = []] : List Bool).all id = true := by decide +kernel

/-- The debug port in service mode, allowed by session 1. -/
def testDebug (d : DebugSt) : State := { testIdle with pw := { testIdle.pw with mode := .service, dbg := { d with allowed := some (0, 1) } } }

/-- DebugPortAndEccReads: the port while it is allowed, with a challenge, two wrong answers, unlocked for eight hours; a Ridge that stands with its groups in STO. -/
theorem witness_debug_port : ([
    (testDebug {}).pw.dbg.unlocked = none && decide ((testDebug {}).tm.now ≤ 0 + 600 * cyclesPerS) && (testDebug {}).clocked,
    (testDebug { challenge := some (List.replicate 16 0) }).pw.dbg.challenge = some (List.replicate 16 0), decide (2 ≤ (testDebug { wrong := 2 }).pw.dbg.wrong),
    (testAt (2 ^ 50) (testDebug { unlocked := some 0 })).pw.dbg.unlocked = some 0 && decide (0 + 8 * 3600 * cyclesPerS ≤ 2 ^ 50),
    !(testDebug {}).framesRun && (List.range 4).all fun g => ((testDebug {}).group g).mode = .sto && !((testDebug {}).group g).gdEn] : List Bool).all id = true := by decide +kernel

/-- DebugPortAndEccReads: a module that is alive; STANDBY, which keeps region 0; a first loss of a spur; a monitor that runs; a bank with sixteen other addresses. -/
theorem witness_ecc : ([
    testIdle.pw.state ≠ .off && !testIdle.pw.held, (testPower .standby none).pw.state = .standby, testSpur.pw.state ≠ .off && !(testSpur.spur 0).has .dbg,
    testMonRun.monPowered && testMonRun.sf.mode = .running, !testIdle.inReset 1 && testIdle.clocked,
    (let e : State := { testIdle with mm := { testIdle.mm with mramErrs := (List.range 16).map fun k => (0, 0x40000000 + 64 * k, 0) } }
     mramBank 0x40010000 = 0 && decide (16 ≤ ((e.mm.mramErrs.filter fun (x : Nat × Nat × Nat) => decide (e.tm.now < x.2.2 + 24 * 3600 * cyclesPerS ∧ x.2.1 ≠ 0x40010000)).filter
       fun (x : Nat × Nat × Nat) => decide (x.1 = 0)).length) && !e.mm.bankFailed.testBit 0)] : List Bool).all id = true := by decide +kernel

/-- MemoryStaysCanonical and ResetState: the memory after reset, and one that lists bytes. -/
theorem witness_memory : State.reset.memWf = true ∧ State.reset.pending = [] ∧ ({ testReady with mem := [(5, 7#8)] } : State).memWf = true := by decide

/-- WellFormed takes a header whose fields lie in their widths and refuses one whose field does not, for each of its checks (R391, R392). -/
theorem test_wellformed_header : (testHdr 0).wf = true ∧ ([
    { testHdr 0 with version := 256 }, { testHdr 0 with flags := 256 }, { testHdr 0 with session := 65536 }, { testHdr 0 with seq := 4294967296 },
    { testHdr 65536 with seq := 0 }, { testHdr 0 with tag := List.replicate 15 0 }, { testHdr 0 with tag := 256 :: List.replicate 15 0 }] : List Hdr).all
      (fun h => !h.wf) = true := by decide

/-- The check value of R800. -/
theorem test_crc32 : crc32 [0x31, 0x32, 0x33, 0x34, 0x35, 0x36, 0x37, 0x38, 0x39] = 0xCBF43926 := by decide +kernel

/-- The worked example of chapter 11 after R534: both rows of its table. -/
theorem test_extend_stamp : extendStamp 2008522176 1700000000999800000 = 1700000001099800000 ∧
    extendStamp 4294000000 1700000000999800000 = 1699999999090310528 := by decide

/-- The Q31 products of the worked example of chapter 3 (R122). -/
theorem test_products : [fracProduct 0x4000#16 0x6ED9#16, fracProduct 0x2000#16 0x4000#16, fracProduct 0x2000#16 0x6ED9#16, fracProduct 0x4000#16 0x4000#16] =
    [(0x376C8000, false), (0x10000000, false), (0x1BB64000, false), (0x20000000, false)] := by decide

/-- Its rounded results (R127). -/
theorem test_round : round15 0x00476C8000#40 = (0x476D#16, false) ∧ round15 0xFFFBB64000#40 = (0xFBB6#16, false) := by decide

/-- The 48.16 addition of the worked example after R133: ADD with its carry, then ADDC. -/
theorem test_add_addc : (alu .add 0xFFFF8000#32 0x0000C000#32 0 false).result = some 0x00004000#32 ∧
    (alu .add 0xFFFF8000#32 0x0000C000#32 0 false).c = .is true ∧ (alu .addc 0x12#32 0#32 0 true).result = some 0x13#32 := by decide

/-- What `exec` answers for a next state. -/
def testNext (i : Instr) (s : State) : Option State :=
  match exec i s with | .next t => some t | .fault _ => none | .refused _ => none

/-- MULW.SS of the worked example after R133: 0x0001_0000 by 0x8000, D2 and D3 from D0 and D1. -/
theorem test_mulw : (testNext (.mulwSs 0 1 0 1) (testSpur.updSpur 0 fun r => (r.wd 0 0x00010000#32).wd 1 0x8000#32)).map
    (fun t => ((t.spur 0).rd 2, (t.spur 0).rd 3)) = some (0x80000000#32, 0xFFFFFFFF#32) := by decide +kernel

end Sys2Proof.Machine
end

section
/-!
PROOFS. What the flag computations of Machine/Flags.lean mean as facts about exact integers, what one ALU operation and one
wide multiply leave in the spur that executes them, and from these the statements on R131 and R132.
-/
open Sys2Proof Sys2Proof.Machine
namespace Sys2Proof.Machine

/-! ### Signed fields of `w` bits -/

/-- The model's saturation is the nearest value in the field. -/
theorem satI_eq_nearest (w : Nat) (i : Int) : satI w i = nearest w i := by
  have : (0 : Int) < 2 ^ (w - 1) := Int.pow_pos (by decide)
  unfold satI clampI nearest
  split
  · omega
  · split <;> omega

theorem fits_nearest (w : Nat) (i : Int) : Fits w (nearest w i) := by
  have : (0 : Int) < 2 ^ (w - 1) := Int.pow_pos (by decide)
  unfold Fits nearest
  omega

theorem nearest_eq_self_iff_fits (w : Nat) (i : Int) : nearest w i = i ↔ Fits w i := by
  have : (0 : Int) < 2 ^ (w - 1) := Int.pow_pos (by decide)
  unfold Fits nearest
  omega

theorem toInt_ofInt_of_fits {w : Nat} (hw : 0 < w) {i : Int} (h : Fits w i) : (BitVec.ofInt w i).toInt = i :=
  BitVec.toInt_ofInt_eq_self hw h.1 h.2

/-- A result in `w` bits shows its exact value precisely where that value fits: the overflow flag (R131). -/
theorem toInt_ofInt_eq_self_iff_fits {w : Nat} (hw : 0 < w) (i : Int) : (BitVec.ofInt w i).toInt = i ↔ Fits w i :=
  ⟨fun h => h ▸ ⟨BitVec.le_toInt _, BitVec.toInt_lt⟩, toInt_ofInt_of_fits hw⟩

theorem ofInt_add_carry (a b : Word) (n : Nat) : BitVec.ofInt 32 (a.toInt + b.toInt + n) = a + b + BitVec.ofNat 32 n := by
  simp only [BitVec.ofInt_add, BitVec.ofInt_toInt, BitVec.ofInt_natCast]

theorem ofInt_sub_borrow (a b : Word) (n : Nat) : BitVec.ofInt 32 (a.toInt - b.toInt - n) = a - b - BitVec.ofNat 32 n := by
  simp only [Int.sub_eq_add_neg, BitVec.sub_eq_add_neg, BitVec.ofInt_add, BitVec.ofInt_neg, BitVec.ofInt_toInt, BitVec.ofInt_natCast]

/-! ### One ALU operation -/

/-- The output `o` is a result `x`, shown by N and Z, with C and V as the conditions say. -/
def AluOut.Is (o : AluOut) (x : Word) (C V : Prop) : Prop :=
  ∃ c v, o = { result := some x, shown := x, c := .is c, v := .is v } ∧ (c = true ↔ C) ∧ (v = true ↔ V)

theorem aluAdd_is (a b : Word) (n : Nat) :
    (aluAdd a b n).Is (a + b + BitVec.ofNat 32 n) (2 ^ 32 ≤ a.toNat + b.toNat + n) (¬ Fits 32 (a.toInt + b.toInt + n)) := by
  refine ⟨_, _, rfl, decide_eq_true_iff, ?_⟩
  rw [decide_eq_true_iff, ← ofInt_add_carry, ne_eq, toInt_ofInt_eq_self_iff_fits (by decide)]

theorem aluSub_is (a b : Word) (n : Nat) :
    (aluSub a b n).Is (a - b - BitVec.ofNat 32 n) (a.toNat < b.toNat + n) (¬ Fits 32 (a.toInt - b.toInt - n)) := by
  refine ⟨_, _, rfl, decide_eq_true_iff, ?_⟩
  rw [decide_eq_true_iff, ← ofInt_sub_borrow, ne_eq, toInt_ofInt_eq_self_iff_fits (by decide)]

theorem aluSat_is (i : Int) (c : Bool) : (aluSat i c).Is (BitVec.ofInt 32 (nearest 32 i)) (c = true) (¬ Fits 32 i) := by
  refine ⟨c, _, by rw [← satI_eq_nearest]; rfl, Iff.rfl, ?_⟩
  rw [decide_eq_true_iff, satI_eq_nearest, ne_eq, nearest_eq_self_iff_fits]

/-- An ALU operation whose output has a result and stated flags leaves them in D`d` and the flags, whatever free values and late
writes there are. -/
theorem spurAlu_of_is {s : State} {k : Fin 8} (h : s.spurExecutes k) (op : AluOp) (d a : Fin 16) (b : SpurSt → Word) (n : Nat)
    {x : Word} {C V : Prop} (ho : (alu op ((s.spur k).rd a) (b (s.spur k)) n (s.spur k).c).Is x C V) :
    ((spurAlu k op d a b n s).spur k).rd d = x ∧ ((spurAlu k op d a b n s).spur k).FlagsAre x C V := by
  obtain ⟨c, v, ho, hc, hv⟩ := ho
  rw [spurAlu, spurStep_spur h, if_pos rfl, ho]
  refine ⟨?_, ?_, ?_, ?_, ?_⟩
  · exact (SpurSt.after_rd ..).trans ((SpurSt.rd_wd ..).trans (if_pos rfl))
  · simp [BitVec.msb_eq_toInt]
  · simp
  · simpa [flagOf] using hc
  · simpa [flagOf] using hv

/-! ### R131: what each 32-bit integer operation gives -/

section
variable {s : State} {k : Fin 8} (h : s.spurExecutes k) (d a b : Fin 16)
include h

theorem spurDoes_add : SpurDoes (.add k d a b) k s (AluGives .add d ((s.spur k).rd a) ((s.spur k).rd b) 0) :=
  ⟨_, rfl, by simpa [AluGives] using spurAlu_of_is h .add d a (·.rd b) 0 (aluAdd_is _ _ _)⟩

theorem spurDoes_addc : SpurDoes (.addc k d a b) k s (AluGives .addc d ((s.spur k).rd a) ((s.spur k).rd b) 0) :=
  ⟨_, rfl, spurAlu_of_is h .addc d a (·.rd b) 0 (aluAdd_is _ _ _)⟩

theorem spurDoes_sub : SpurDoes (.sub k d a b) k s (AluGives .sub d ((s.spur k).rd a) ((s.spur k).rd b) 0) :=
  ⟨_, rfl, by simpa [AluGives] using spurAlu_of_is h .sub d a (·.rd b) 0 (aluSub_is _ _ _)⟩

theorem spurDoes_subc : SpurDoes (.subc k d a b) k s (AluGives .subc d ((s.spur k).rd a) ((s.spur k).rd b) 0) :=
  ⟨_, rfl, spurAlu_of_is h .subc d a (·.rd b) 0 (aluSub_is _ _ _)⟩

/-- ADDS and SUBS alike: D`d` holds the exact value `i` saturated, and V says whether it had to be. -/
theorem spurAlu_of_sat (op : AluOp) (i : Int) (c : Bool)
    (ho : alu op ((s.spur k).rd a) ((s.spur k).rd b) 0 (s.spur k).c = aluSat i c) :
    let w := (spurAlu k op d a (·.rd b) 0 s).spur k
    (w.rd d).toInt = nearest 32 i ∧ w.FlagsAre (w.rd d) (c = true) (¬ Fits 32 i) := by
  obtain ⟨hd, hf⟩ := spurAlu_of_is h op d a (·.rd b) 0 (ho ▸ aluSat_is i c)
  refine ⟨?_, ?_⟩
  · rw [hd, toInt_ofInt_of_fits (by decide) (fits_nearest 32 i)]
  · rwa [hd]

theorem spurDoes_adds : SpurDoes (.adds k d a b) k s (AluGives .adds d ((s.spur k).rd a) ((s.spur k).rd b) 0) :=
  ⟨_, rfl, by simpa [AluGives] using spurAlu_of_sat h d a b .adds _ _ rfl⟩

theorem spurDoes_subs : SpurDoes (.subs k d a b) k s (AluGives .subs d ((s.spur k).rd a) ((s.spur k).rd b) 0) :=
  ⟨_, rfl, by simpa [AluGives] using spurAlu_of_sat h d a b .subs _ _ rfl⟩

end

/-! ### R132: the wide multiplies -/

/-- The product of a first source of either reading and a signed 16-bit second source fits a register pair. -/
theorem fits_wide_product {i : Int} (lo : -2 ^ 31 ≤ i) (hi : i < 2 ^ 32) (y : BitVec 16) : Fits 64 (i * y.toInt) := by
  have hy : -2 ^ 15 ≤ y.toInt ∧ y.toInt < 2 ^ 15 := ⟨y.le_toInt, BitVec.toInt_lt⟩
  have hp : (i * y.toInt).natAbs ≤ 2 ^ 32 * 2 ^ 15 := by
    rw [Int.natAbs_mul]
    exact Nat.mul_le_mul (by omega) (by omega)
  constructor <;> omega

/-- The two words of a register pair are the 64 bits they were cut from. -/
theorem high_append_low (z : BitVec 64) : z.extractLsb' 32 32 ++ z.setWidth 32 = z := by
  rw [BitVec.setWidth_eq_extractLsb' (by decide)]
  exact BitVec.extractLsb'_append_extractLsb' (w := 32)

/-- A wide multiply whose exact product fits 64 bits leaves it in the register pair 2p, 2p + 1, takes two cycles and keeps every flag. -/
theorem spurWide_gives {s : State} {k : Fin 8} (h : s.spurExecutes k) (p : Fin 8) (f : Word → Int) (a b : Fin 16)
    (hf : Fits 64 (f ((s.spur k).rd a) * ((s.spur k).rdL b).toInt)) :
    let r := s.spur k
    let w := (spurWide k p f a b s).spur k
    ((w.rd ⟨2 * p.val + 1, by omega⟩) ++ (w.rd ⟨2 * p.val, by omega⟩) : BitVec 64).toInt = f (r.rd a) * (r.rdL b).toInt ∧
      w.cycle = r.cycle + 2 ∧
      w.n = r.n ∧ w.z = r.z ∧ w.c = r.c ∧ w.v = r.v ∧ w.ps = r.ps ∧ w.av = r.av ∧ w.rv = r.rv := by
  dsimp only
  rw [spurWide, spurStep_spur h, if_pos rfl]
  refine ⟨?_, SpurSt.after_cycle .., ?_⟩
  · have low_ne_high : (⟨2 * p.val, by omega⟩ : Fin 16) ≠ ⟨2 * p.val + 1, by omega⟩ := fun e => by
      have := Fin.mk.inj e
      omega
    simp only [SpurSt.after_rd, SpurSt.rd_wd, if_neg low_ne_high, if_true]
    rw [high_append_low, toInt_ofInt_of_fits (by decide) hf]
  · simp [SpurSt.wd]

end Sys2Proof.Machine

/-- Settles O5: ADD, ADDC, ADDS, SUB, SUBC and SUBS leave the result and the flags of R131, one lemma for each operation. -/
theorem spurIntegerArithmetic : Obligations.SpurIntegerArithmetic := fun _ _ h d a b =>
  ⟨spurDoes_add h d a b, spurDoes_addc h d a b, spurDoes_adds h d a b, spurDoes_sub h d a b, spurDoes_subc h d a b,
    spurDoes_subs h d a b⟩

/-- Settles O8: the exact product fits the register pair under either reading of the first source. -/
theorem spurWideMultiply : Obligations.SpurWideMultiply := fun k s h p a b =>
  ⟨⟨_, rfl, spurWide_gives h p (·.toInt) a b (fits_wide_product (BitVec.le_toInt _) (Int.lt_trans BitVec.toInt_lt (by decide)) _)⟩,
   ⟨_, rfl, spurWide_gives h p (fun x => (x.toNat : Int)) a b (fits_wide_product (by omega) (by omega) _)⟩⟩

end
